-- ==== Sys2Proof/Word.lean ====
section
/-! DEFINITION. Words, bytes, lane sets and their plainest arithmetic (02 R37, 01 R12). -/

namespace Sys2Proof

/-- A general register's lane value, an instruction word or a literal word (01 R11, 03 R56). -/
abbrev Word := BitVec 32

/-- The smallest addressable unit of every space. -/
abbrev Byte := BitVec 8

/-- A pair value, an address pair or a 64-bit field (02 R37). -/
abbrev DWord := BitVec 64

/-- A set of lanes of one span: bit l stands for lane l (01 R12). -/
abbrev LaneSet := BitVec 64

/-- A general-register number as an instruction word holds it (03 R62). -/
abbrev Reg := BitVec 7

/-- Whether lane l belongs to the set. -/
def hasLane (m : LaneSet) (l : Nat) : Bool := m.getLsbD l

/-- The set of one lane. -/
def oneLane (l : Nat) : LaneSet := (1#64) <<< l

/-- The lanes 0 to w - 1. -/
def lanesBelow (w : Nat) : LaneSet := BitVec.ofNat 64 (2 ^ w - 1)

/-- The lane numbers of a set in ascending order. -/
def lanesOf (m : LaneSet) : List Nat := (List.range 64).filter (fun l => hasLane m l)

/-- The lowest lane of a set, 0 for the empty one. -/
def lowestLane (m : LaneSet) : Nat := ((lanesOf m).head?).getD 0

/-- How many lanes a set has. -/
def laneCount (m : LaneSet) : Nat := (lanesOf m).length

/-- The set of the lanes below 64 that satisfy p. -/
def laneSetOf (p : Nat → Bool) : LaneSet := BitVec.ofBoolListLE ((List.range 64).map p)

/-- The word whose bit i is p i. -/
def wordOfBits (p : Nat → Bool) : Word := BitVec.ofBoolListLE ((List.range 32).map p)

/-- A pair read as lo + 2^32 hi (05 R83). -/
def pairOf (lo hi : Word) : DWord := hi ++ lo

/-- Low half of a 64-bit value. -/
def loWord (v : DWord) : Word := v.extractLsb' 0 32

/-- High half of a 64-bit value. -/
def hiWord (v : DWord) : Word := v.extractLsb' 32 32

end Sys2Proof
end

