-- ==== Sys2Proof/Config.lean ====
section
/-! DEFINITION. What an implementation fixes and the manual leaves open: constants without a body, so that no proof can
see a value. Each is named in the assumption log. -/

namespace Sys2Proof.Config

/-- How far the reference time moves during step number n, in nanoseconds (08 R211; log 3). -/
opaque elapsed : Nat → Nat

/-- The number of the octet slot a register takes when it becomes VECTOR; the n-th such choice (01 R17; log 11). -/
opaque freeSlot : Nat → Nat

/-- Which of the values within one unit in the last place an operation returns, 0 below, 1 the nearer, 2 above (02 R42;
log 12). The argument is the operand's bits. -/
opaque frcpPick : Nat → Nat → Nat
opaque frsqPick : Nat → Nat → Nat

/-- The f32 results of fexp2, flog2, fsin and fcos outside the special values of the table; a value outside the stated error is replaced by
the nearest one (02 R42; log 12). -/
opaque fexp2F32 : Word → Word
opaque flog2F32 : Word → Word
opaque fsinF32 : Word → Word
opaque fcosF32 : Word → Word

/-- Bytes that another device or the host's translation supplies to a collective: the copy's seed, rank, byte (07 R188; log 13). -/
opaque peerByte : Nat → Nat → Nat → Byte

/-- Whether the other devices' members of a peer group's collective disagree with this one's: group, operation (07 R188; log 13). -/
opaque peerMismatch : Nat → Nat → Bool

/-- The bus number that names this device among its peers (20 R372; log 13). -/
opaque busNumber : Nat

/-- The ranks of a collective of n elements take the parts of an all-gather or reduce-scatter in the order of this key, and the part of a rank
begins at this element at the rank's other end: ranks, n, rank (07 R188; log 13). -/
opaque collKey : Nat → Nat → Nat → Nat
opaque collBase : Nat → Nat → Nat → Nat

/-- A collective's combination by an OP whose width is not the element's (07 R179, R188; log 18): OP, ESZ, the two elements. -/
opaque mixedWidth : Nat → Nat → DWord → DWord → DWord

/-- A grid coordinate that a spawned deck's fault record reports (14 R287, 15 R311; log 21). -/
opaque spawnedCoord : Nat → Word

/-- Whether a host write into a context's save area changes a given saved image, whose layout is not visible (14 R293; log 23). -/
opaque hitsImage : Nat → Bool

/-- The level to which a segment's current limit caps it (21 R377; log 24). -/
opaque currentCap : Nat → Nat

/-- Which private bytes of a context lie at a failed address of its private pool, whose layout the manual does not give: deck and block
(10 R244, 21 R382; log 25). -/
opaque privateAt : Nat → Nat × Nat

/-- Page requests that the host's PRI allocation lets the device keep outstanding (20 R371; log 61). -/
opaque priAllocation : Nat

/-- Whether the link comes up x8 after the n-th reset of it (20 R363; log 61). -/
opaque linkX8 : Nat → Bool

/-- Which of a word's values a fetch returns, 0 the present one, n the n-th before it: step, word (16 R337; log 4). -/
opaque staleFetch : Nat → Nat → Nat
/-- For how many of the model's steps after a write a fetch may still return the word's earlier value: step of the write (10 R255; log 4). -/
opaque staleSteps : Nat → Nat

/-- Which clause a serial section's resume address lies in where a header on the way to it cannot be read: step, address (05 R111;
log 16). -/
opaque lostClause : Nat → Nat → Nat

/-- A byte of a trap frame that cannot be read when the span leaves trap mode: step, offset (15 R308, R309; log 80). -/
opaque frameByte : Nat → Nat → Byte

/-- The identity key's ML-DSA-65 signature of a digest (20 R374, R375; log 8). -/
opaque sign : List Byte → List Byte

/-- Whether a signature of a digest verifies against the manufacturer's ML-DSA-65 key (20 R373; log 8). -/
opaque verify : List Byte → List Byte → Bool

/-- The device's serial number, certificate chain and the firmware image in flash when it leaves the factory (20 R362, R375;
log 8). -/
opaque serial : List Byte
opaque certChain : List Byte
opaque factoryFlash : List Byte

/-- Event counters advance by amounts that only timing decides: source, counter's step (21 R390; log 14). -/
opaque counted : Nat → Nat → Nat

/-- A segment's core current and power samples (21 R378, R379; log 14). -/
opaque currentSample : Nat → Nat → Nat

/-- A value of an access that races with a pending refresh-map change under either map: step, block (21 R387; log 15). -/
opaque eitherMap : Nat → Nat → Bool

/-- Where a partial effect is left open (a store performed or not at a forced reset, 14 R295; log 26): step, work id, piece. -/
opaque performed : Nat → Nat → Nat → Bool

end Sys2Proof.Config
end

