-- ==== Sys2Proof/Syntax.lean ====
section
/-! DEFINITION. The instructions of the six opcode maps (03 R61-R72) and the device's own steps (the table's rows
without a word): one constructor for each row of the opcode table. -/

namespace Sys2Proof

/-- The six clause classes (03 R57). -/
inductive Cls where
  | alu | ctrl | mem | cpy | mtx | sys
  deriving DecidableEq, Repr, Inhabited

/-- Source b of a format A instruction: a register, or the literal word that b = 0x7F takes (03 R63). -/
inductive SrcB where
  | reg (r : Reg)
  | lit (w : Word)
  deriving DecidableEq, Repr, Inhabited

/-- A register source with its hold bit (01 R34). -/
structure HeldReg where
  reg : Reg
  hold : Bool
  deriving DecidableEq, Repr, Inhabited

/-- A source of field b with its hold bit (01 R34). -/
structure HeldB where
  src : SrcB
  hold : Bool
  deriving DecidableEq, Repr, Inhabited

/-- Format A with both sources: d, a, b, hold, x (03 R61). -/
structure FormA where
  d : Reg
  a : Reg
  b : SrcB
  h : BitVec 2
  x : Bool
  deriving DecidableEq, Repr, Inhabited

/-- Format A with b = 0: h is the hold bit of source a. -/
structure FormU where
  d : Reg
  a : Reg
  h : Bool
  x : Bool
  deriving DecidableEq, Repr, Inhabited

/-- Format A whose b is a register and never a literal. -/
structure FormR where
  d : Reg
  a : Reg
  b : Reg
  h : BitVec 2
  deriving DecidableEq, Repr, Inhabited

/-- A compare: the d field holds MASK and COND (05 R91). -/
structure FormCmp where
  mask : BitVec 4
  cond : BitVec 3
  a : Reg
  b : SrcB
  h : BitVec 2
  x : Bool
  deriving DecidableEq, Repr, Inhabited

/-- Format I (03 R61). -/
structure FormI where
  d : Reg
  a : Reg
  imm : BitVec 10
  deriving DecidableEq, Repr, Inhabited

/-- An immediate compare (05 R91). -/
structure FormCI where
  mask : BitVec 4
  cond : BitVec 3
  a : Reg
  imm : BitVec 10
  deriving DecidableEq, Repr, Inhabited

/-- A float instruction with two sources; ty is opcode [1:0] (03 R67). -/
structure FormF where
  ty : BitVec 2
  d : Reg
  a : Reg
  b : SrcB
  h : BitVec 2
  deriving DecidableEq, Repr, Inhabited

/-- A float instruction with one source. -/
structure FormFU where
  ty : BitVec 2
  d : Reg
  a : Reg
  h : Bool
  deriving DecidableEq, Repr, Inhabited

/-- A float compare (06 R119). -/
structure FormFC where
  ty : BitVec 2
  mask : BitVec 4
  cond : BitVec 3
  a : Reg
  b : SrcB
  h : BitVec 2
  deriving DecidableEq, Repr, Inhabited

/-- A reduction or scan over lanes (06 R136). -/
structure FormLane where
  d : Reg
  a : Reg
  op : BitVec 3
  ty : BitVec 4
  h : Bool
  x : Bool
  deriving DecidableEq, Repr, Inhabited

/-- cvts with its literal word (06 R126). -/
structure FormCvts where
  d : Reg
  a : Reg
  ftype : BitVec 4
  slot : BitVec 3
  rm : BitVec 2
  enc : Bool
  lit : Word
  deriving DecidableEq, Repr, Inhabited

/-- ld and st: space, policy, size, data, address, offset (07 R147). -/
structure FormM where
  sp : BitVec 2
  p : Bool
  sz : BitVec 3
  d : Reg
  a : Reg
  off : BitVec 10
  deriving DecidableEq, Repr, Inhabited

/-- ldu: size, data, address, offset (07 R149). -/
structure FormLdu where
  sz : BitVec 3
  d : Reg
  a : Reg
  off : BitVec 10
  deriving DecidableEq, Repr, Inhabited

/-- ldx and stx: size, data, base, index, x (07 R150). -/
structure FormX where
  sz : BitVec 3
  d : Reg
  a : Reg
  b : SrcB
  x : Bool
  deriving DecidableEq, Repr, Inhabited

/-- atom, red, atomcas and redx: SPACE is in hold (07 R153-R156). -/
structure FormAt where
  d : Reg
  a : Reg
  b : SrcB
  sp : BitVec 2
  deriving DecidableEq, Repr, Inhabited

/-- acq, rel and acqr (07 R158). -/
structure FormOrd where
  d : Reg
  a : Reg
  scope : BitVec 3
  size : BitVec 3
  sp : BitVec 2
  deriving DecidableEq, Repr, Inhabited

/-- One constructor for each row of the opcode table. Up to `dfree` they are the instructions; from
`issuePick` on they are the device's own steps and the host's actions, whose numbers name what they concern (a span,
deck, girder, launch or piece of outstanding work by the model's own number; a context, queue, pier or segment by the manual's). -/
inductive Instr where
  -- ALU class, integer (R66)
  | add (f : FormA) | sub (f : FormA) | mul (f : FormA) | mulh (f : FormA) | mad (f : FormA) | madw (f : FormA)
  | abs (f : FormU) | min (f : FormA) | max (f : FormA) | and (f : FormA) | or (f : FormA) | xor (f : FormA)
  | not (f : FormU) | andn (f : FormA) | mov (f : FormU) | movl (d : Reg) (x : Bool) (lit : Word)
  | shl (f : FormA) | shr (f : FormA) | sar (f : FormA) | rot (f : FormA) | fshl (f : FormA) | fshr (f : FormA)
  | bfx (f : FormA) | bfi (f : FormA) | popc (f : FormU) | clz (f : FormU) | ctz (f : FormU) | brev (f : FormU)
  | permb (f : FormA) | lea (f : FormA) | cmp (f : FormCmp)
  | add64 (f : FormA) | sub64 (f : FormA) | shl64 (f : FormA) | shr64 (f : FormA) | cmp64 (f : FormCmp)
  | addc (k : BitVec 4) (f : FormA) | subb (k : BitVec 4) (f : FormA) | sel (k : BitVec 4) (f : FormA)
  | addImm (f : FormI) | mulImm (f : FormI) | andImm (f : FormI) | orImm (f : FormI) | xorImm (f : FormI)
  | shlImm (f : FormI) | shrImm (f : FormI) | sarImm (f : FormI) | rotImm (f : FormI)
  | minI32Imm (f : FormI) | minN32Imm (f : FormI) | maxI32Imm (f : FormI) | maxN32Imm (f : FormI)
  | cmpI32Imm (f : FormCI) | cmpN32Imm (f : FormCI)
  -- ALU class, conversion, planes, lanes, intersection (R66)
  | cvt (d a : Reg) (src dst : BitVec 4) (rm : BitVec 2) | cvts (f : FormCvts)
  | planex (f : FormA) | planep (f : FormA) | qnt (f : FormA)
  | shfl (f : FormA) | bcast (f : FormA) | vote (d a : Reg) (mode : BitVec 2)
  | lred (f : FormLane) | lminx (f : FormU) | lmaxx (f : FormU) | lscan (f : FormLane) | laneMatch (f : FormU)
  | isect (f : FormR) | union (f : FormR) | bpfx (f : FormR)
  -- ALU class, the float block (R67)
  | fadd (f : FormF) | fsub (f : FormF) | fmul (f : FormF) | ffma (f : FormF) | fmin (f : FormF) | fmax (f : FormF)
  | fcmp (f : FormFC) | fneg (f : FormFU) | fabs (f : FormFU) | frcp (f : FormFU) | frsq (f : FormFU) | fsqrt (f : FormFU)
  | fexp2 (f : FormFU) | flog2 (f : FormFU) | fsin (f : FormFU) | fcos (f : FormFU)
  | frnd (f : FormFU) (rm : BitVec 2) | fclass (f : FormFU) | fscale (f : FormF) | fdot2 (f : FormF)
  -- CTRL class (R68)
  | shq (d a : Reg) | shassert (a : Reg) (b : Reg) | shforce (d n b : Reg) | shpack (d n : Reg)
  | grow (n : BitVec 9) | growTry (k : Reg) (n : BitVec 9) | shrink (f : FormR)
  | join (k : BitVec 4) | leave (k : BitVec 4) | waitm (k : BitVec 4)
  | mset (k a : Reg) (h : Bool) | mskop (op : BitVec 3) (k : BitVec 4) (a b : Reg)
  | mpopc (d k : Reg) | mfind (d k : Reg) | mskget (d k : Reg) | mskput (k a : Reg) (h : Bool)
  | bra (k : BitVec 4) (off : BitVec 20) | brai (a : Reg) (h : Bool)
  | call (k : BitVec 4) (off : BitVec 20) | calli (a : Reg) (h : Bool) | ret
  | ser (off : BitVec 20) | endser | exit (k : BitVec 4) | nop | yield | pushv (d n : Reg) | popv (d n : Reg)
  -- MEM class (R69)
  | ld (f : FormM) | st (f : FormM) | lduC (f : FormLdu) | lduG (f : FormLdu)
  | ldxG (f : FormX) | ldxD (f : FormX) | stxG (f : FormX) | stxD (f : FormX)
  | atom (op : BitVec 4) (f : FormAt) | red (op : BitVec 4) (f : FormAt)
  | atomcasN32 (f : FormAt) | atomcasN64 (f : FormAt) | redx (f : FormAt)
  | pref (a : Reg) (off : BitVec 10) | fence (scope : BitVec 3) | acq (f : FormOrd) | rel (f : FormOrd) | acqr (f : FormOrd)
  | cctl (a : Reg) (op : BitVec 3) (sp : BitVec 2) | p2g (d a : Reg) (b : SrcB) (x : Bool) | qspace (d a : Reg)
  | bararr (d n : Reg) | barwait (n : Reg) (b : SrcB) | barsync (n : Reg) | barexp (n : Reg) (b : SrcB)
  | barset (n : Reg) (b : SrcB) | stgacq (d n : Reg) | stgrel (n : Reg) (a : HeldReg) | tlwait (n : Reg) (b : HeldB) | tlread (d n : Reg)
  -- CPY class (R70)
  | cpl (a b c : Reg) (t : BitVec 3) | tagwait (t : BitVec 3) | tagcnt (a : Reg) (t : BitVec 3)
  | tcopy (a b : Reg) | tsparse (a b : Reg) | tgather (a b : Reg) | tscatter (a b : Reg) | tfill (a b : Reg)
  | tcoll (a b : Reg) | tstat (a n : Reg)
  -- MTX class (R71)
  | mxarr (p : Reg) (c : BitVec 3) | mxload (a b : Reg) | mxarow (a b : Reg) | mxsign (a b c : Reg) (n : BitVec 3)
  | mxmma (a : Reg) (n : BitVec 3) | mxvalid (a : Reg) (k : BitVec 3) | mxwait (m : BitVec 3) | mxsave (a : Reg) (release restore : Bool)
  -- SYS class (R72)
  | spawn (e p : Reg) | spawnTry (e p : Reg) (k : BitVec 4) | plvl (a : Reg) | trap (code : BitVec 16) | tret | brk (code : BitVec 16)
  | csrr (d : Reg) (num : BitVec 10) | csrw (a : Reg) (num : BitVec 10) | clock (d : Reg) | entw (a b : Reg) | migr (g : BitVec 2)
  | rdenter | rdexit | gpstart (d : Reg) | waitgp (a : Reg) | dfree (k : BitVec 4) (a b : Reg)
  -- Issue, headers and landings
  | issuePick (pier q : Nat) | clauseHeaderEntry (span lane : Nat) | clauseHeaderPass (span lane : Nat) | yieldExpiry (span lane : Nat)
  | loadReturn (id : Nat) | atomicPerform (id : Nat) | atomicReply (id : Nat) | reductionPerform (id : Nat)
  | wcFlush (pier line : Nat) | l2EvictionPromote (line : Nat) | cplLaneComplete (id : Nat)
  | copyPieceLanding (id : Nat) | copyCompletion (id : Nat) | engineCopyFault (id : Nat)
  | barrierPhaseComplete (owner bar : Nat) | barrierReleaseWave (truss : Nat) | waitmOpen (span k : Nat)
  | stageSlotTurn (deck ring : Nat) | growServed (pier : Nat) | fillRowLanding (id : Nat) | broadcastRowLanding (id : Nat)
  | matrixOwnershipChange (pier : Nat) | sliceStart (girder key : Nat) | sliceLanding (girder key : Nat) | entwWake (span lane : Nat)
  -- Traps, retirement, launches
  | trapEntry (span : Nat) | watchdogExpiry (span : Nat) | pageRequestResponse (span : Nat) (ok : Bool)
  | spanRetire (span : Nat) | parkedSpanRetire (span : Nat) | launchStart (queue : Nat) | deckPlace (launch : Nat) (piers : List Nat)
  | deckMemoryCleared (deck : Nat) | spawnOfferAccept (span lane : Nat) | overflowDrain (seg ctx : Nat)
  | spawnPackTimeout (seg launch : Nat) (entry : DWord) | spawnSpanEmit (seg launch : Nat) (entry : DWord)
  | spawnedSpanPlace (seg idx pier : Nat) | launchComplete (queue : Nat) | doorbell (off size val : Nat) | sliceExpiry (slot : Nat)
  | parkleadReached (ctx : Nat) | deckQuiesced (deck : Nat) | parkSaveDone (deck : Nat) | deckResume (girder : Nat) (piers : List Nat)
  | deadlineExpiry (ctx : Nat) | migrationPlace (girder : Nat) (piers : List Nat)
  -- Grace periods
  | gpQuiescenceChange (span : Nat) | gpComplete (ctx : Nat) | gpStall (ctx : Nat) | dfreeRelease (ctx : Nat) | relringRetry (ctx : Nat)
  -- Mailbox commands
  | createContext | destroyContext | createQueue | destroyQueue | destroyQueueDone (queue : Nat) | preempt | invalidate | invalidateDone
  | setPeerGroup | debugAttach | debugDetach | debugStop | debugStep | debugStepSpan | debugContinue | attest | getCert | fwDeliver | resync
  -- Registers, refresh, power, errors, link
  | registerWrite (off size val : Nat) | refsync (val : Nat) | refmapApplied | hbmRefresh (seg bank : Nat)
  | powerLimitTick (average : Nat) (powers : List Nat) | currentLimitSkip (seg amps : Nat) | levelChange (seg : Nat) | undervoltAdjust (seg : Nat)
  | eccCorrected (seg : Nat) (hbm : Option Nat) | eccUe (seg struc pier addr slot : Nat) (reg : Reg) | thermal (seg temp : Nat) | thermalRelease (seg temp : Nat)
  | hostMemAccess (write : Bool) (addr : Nat) (bytes : List Byte) | atsInvalidation (page : Nat) | peerFailure (bdf : Nat) | deviceBoot
  | matrixClearDone (pier : Nat) | storePerformed (id : Nat) | linkReset | ideKm (key : List Byte) | atsTranslationCompletion (page target : Nat) (ok : Bool)
  | uvRestoreDone (seg : Nat)
  deriving DecidableEq, Repr, Inhabited

end Sys2Proof
end

