-- ==== Sys2Proof/WellFormed.lean ====
section
/-! DEFINITION. Which instructions an encoding admits: register alignment, mask numbers, reserved subfields and
values (03 R62, R64-R73 and the limits each reference entry states for check 3). A step of the device is
always well formed: a number in it that names nothing makes it a step with no effect. -/

namespace Sys2Proof

/-- A field that names a pair is even (R62). -/
def evenReg (r : Reg) : Bool := !r.getLsbD 0

/-- A field that names a quad is a multiple of 4 (R62). -/
def quadReg (r : Reg) : Bool := r.extractLsb' 0 2 == 0#2

/-- A mask register by number (R62). -/
def maskReg (r : Reg) : Bool := decide (r.toNat ≤ 11)

/-- A mask number held in four bits (R62, R91). -/
def maskNum (k : BitVec 4) : Bool := decide (k.toNat ≤ 11)

/-- A mask select where none is allowed: 0 for none, 1 to 12 for m0 to m11 (R57, R61). -/
def maskSel (k : BitVec 4) : Bool := decide (k.toNat ≤ 12)

/-- A mask select that must name a mask (R101). -/
def maskSelSome (k : BitVec 4) : Bool := decide (1 ≤ k.toNat) && decide (k.toNat ≤ 12)

/-- A condition code (R91). -/
def condOk (c : BitVec 3) : Bool := decide (c.toNat ≤ 5)

/-- Source b is a register other than v127, or a literal (R63). -/
def SrcB.ok : SrcB → Bool
  | .reg r => r != 0x7F#7
  | .lit _ => true

/-- Source b is a pair, or a literal (R62, R63). -/
def SrcB.okPair : SrcB → Bool
  | .reg r => evenReg r
  | .lit _ => true

/-- Register fields as wide as the type: f64 takes pairs (R117). -/
def tyReg (ty : BitVec 2) (r : Reg) : Bool := ty != 3#2 || evenReg r

/-- A plain format A instruction. -/
def FormA.ok (f : FormA) : Bool := f.b.ok

/-- A format A instruction with d, a and b pairs (R93). -/
def FormA.okPairs (f : FormA) : Bool := evenReg f.d && evenReg f.a && f.b.okPair

/-- A compare on single registers (R91). -/
def FormCmp.ok (f : FormCmp) : Bool := maskNum f.mask && condOk f.cond && f.b.ok

/-- A float instruction with two sources of its type (R117). -/
def FormF.ok (f : FormF) : Bool :=
  tyReg f.ty f.d && tyReg f.ty f.a && (if f.ty == 3#2 then f.b.okPair else f.b.ok)

/-- A float instruction with one source (R120). -/
def FormFU.ok (f : FormFU) : Bool := tyReg f.ty f.d && tyReg f.ty f.a

/-- A unary operation that has no f64 form (R67). -/
def FormFU.okNarrow (f : FormFU) : Bool := f.ty != 3#2

/-- A shift or rotate count in format I (R94). -/
def FormI.okShift (f : FormI) : Bool := f.imm.extractLsb' 5 5 == 0#5

/-- A reduction or scan (R136). -/
def FormLane.ok (f : FormLane) : Bool :=
  decide (f.op.toNat ≤ 5) &&
  (f.ty == 2#4 || f.ty == 6#4 || ((f.ty == 3#4 || f.ty == 7#4) && evenReg f.d && evenReg f.a) ||
    (f.ty == 10#4 && decide (f.op.toNat ≤ 2)))

/-- A conversion type code a `cvt` may name (R125). -/
def cvtType (t : BitVec 4) : Bool := decide (t.toNat ≤ 12)

/-- Whether a type code names a 64-bit type (R64). -/
def wideType (t : BitVec 4) : Bool := t == 3#4 || t == 7#4 || t == 11#4

/-- Whether the address field has the width its space takes: a pair for generic and global (R61, R144). -/
def addrReg (sp : BitVec 2) (a : Reg) : Bool := sp == 2#2 || sp == 3#2 || evenReg a

/-- The data register of an access of size code z (R147). -/
def dataReg (z : BitVec 3) (d : Reg) : Bool :=
  (z != 5#3 || evenReg d) && (z != 6#3 || quadReg d)

/-- Size codes of a store (R64). -/
def storeSize (z : BitVec 3) : Bool := z == 0#3 || z == 2#3 || z == 4#3 || z == 5#3

/-- `ldx` in one of its two spaces (R150). -/
def FormX.okLd (glob : Bool) (f : FormX) : Bool :=
  decide (f.sz.toNat ≤ 5) && dataReg f.sz f.d && (!glob || evenReg f.a) && f.b.ok

/-- `stx` in one of its two spaces (R150). -/
def FormX.okSt (glob : Bool) (f : FormX) : Bool :=
  storeSize f.sz && dataReg f.sz f.d && (!glob || evenReg f.a) && f.b.ok

/-- Whether an atomic code works on 64 bits (R64). -/
def wideAtomic (op : BitVec 4) : Bool := op == 1#4 || decide (11 ≤ op.toNat)

/-- SPACE of an atomic: 0b11 is reserved (R144). -/
def spaceOk (sp : BitVec 2) : Bool := sp != 3#2

/-- An ordering instruction that accesses memory (R158, R159). -/
def FormOrd.ok (f : FormOrd) : Bool :=
  decide (1 ≤ f.scope.toNat) && decide (f.scope.toNat ≤ 6) && (f.size == 4#3 || f.size == 5#3) &&
  spaceOk f.sp && addrReg f.sp f.a && dataReg f.size f.d

/-- A register range of n registers from d, 1 to 6 of them (R97, R114). -/
def rangeOk (d n : Reg) : Bool :=
  decide (1 ≤ n.toNat) && decide (n.toNat ≤ 6) && decide (d.toNat + n.toNat ≤ 128)

/-- The system registers `csrr` reads (R206). -/
def csrListed (num : BitVec 10) : Bool :=
  decide (num.toNat ≤ 6) || (decide (8 ≤ num.toNat) && decide (num.toNat ≤ 10)) ||
  num == 0x010#10 || num == 0x011#10 || num == 0x018#10 || num == 0x019#10 || num == 0x020#10 ||
  (decide (0x030 ≤ num.toNat) && decide (num.toNat ≤ 0x037))

/-- The 64-bit system registers (R206). -/
def csrWide (num : BitVec 10) : Bool :=
  num == 0x011#10 || (decide (0x030 ≤ num.toNat) && decide (num.toNat ≤ 0x037))

/-- A barrier by number (R165). -/
def barNum (n : Reg) : Bool := decide (n.toNat ≤ 19)

/-- Whether check 3 of R73 passes the instruction, as far as its own word shows. -/
def Instr.wf : Instr → Bool
  | .add f | .sub f | .mul f | .mulh f | .mad f | .min f | .max f | .and f | .or f | .xor f | .andn f => f.ok
  | .madw f => evenReg f.d && f.ok
  | .abs f => f.x
  | .not _ | .mov _ | .movl _ _ _ | .popc _ | .clz _ | .ctz _ | .brev _ => true
  | .shl f | .shr f | .sar f | .rot f | .fshl f | .fshr f | .bfx f | .bfi f | .permb f | .lea f => f.ok
  | .cmp f => f.ok
  | .add64 f | .sub64 f => f.okPairs
  | .shl64 f | .shr64 f => evenReg f.d && evenReg f.a && f.ok
  | .cmp64 f => maskNum f.mask && condOk f.cond && evenReg f.a && f.b.okPair
  | .addc k f | .subb k f | .sel k f => maskNum k && f.ok
  | .addImm _ | .mulImm _ | .andImm _ | .orImm _ | .xorImm _ => true
  | .shlImm f | .shrImm f | .sarImm f | .rotImm f => f.okShift
  | .minI32Imm _ | .minN32Imm _ | .maxI32Imm _ | .maxN32Imm _ => true
  | .cmpI32Imm f | .cmpN32Imm f => maskNum f.mask && condOk f.cond
  | .cvt d a src dst _ =>
    cvtType src && cvtType dst && (!wideType src || evenReg a) && (!wideType dst || evenReg d)
  | .cvts f =>
    decide (8 ≤ f.ftype.toNat) && decide (f.ftype.toNat ≤ 11) &&
    (f.ftype != 11#4 || (if f.enc then evenReg f.a else evenReg f.d))
  | .planex f => evenReg f.a && f.ok
  | .planep f => evenReg f.d && f.ok
  | .qnt f => evenReg f.d && !f.x && f.ok
  | .shfl f | .bcast f => f.ok
  | .vote d _ mode => mode != 2#2 || evenReg d
  | .lred f => f.ok && !f.x
  | .lscan f => f.ok
  | .lminx f | .lmaxx f => evenReg f.d && evenReg f.a
  | .laneMatch f => evenReg f.d && (!f.x || evenReg f.a)
  | .isect f | .union f => evenReg f.d && evenReg f.a && evenReg f.b
  | .bpfx f => evenReg f.a && f.b != 0x7F#7
  | .fadd f | .fsub f | .fmul f | .ffma f | .fmin f | .fmax f => f.ok
  | .fcmp f =>
    maskNum f.mask && condOk f.cond && tyReg f.ty f.a && (if f.ty == 3#2 then f.b.okPair else f.b.ok)
  | .fneg f | .fabs f | .frcp f | .frsq f | .fsqrt f => f.ok
  | .fexp2 f | .flog2 f | .fsin f | .fcos f => f.okNarrow
  | .frnd f _ => f.ok
  | .fclass f => tyReg f.ty f.a
  | .fscale f => tyReg f.ty f.d && tyReg f.ty f.a && f.b.ok
  | .fdot2 f => (f.ty == 1#2 || f.ty == 2#2) && f.b.ok
  | .shq _ _ => true
  | .shassert _ b => decide (b.toNat ≤ 3)
  | .shforce d n b => rangeOk d n && decide (b.toNat ≤ 1)
  | .shpack d n => rangeOk d n
  | .grow _ => true
  | .growTry k _ => maskReg k
  | .shrink f => f.b != 0x7F#7
  | .join k | .leave k | .waitm k => maskSelSome k
  | .mset k _ _ => maskReg k
  | .mskop op k a b =>
    maskNum k && maskReg a && maskReg b &&
    (decide (op.toNat ≤ 3) || (decide (op.toNat ≤ 5) && b == 0#7) || (a == 0#7 && b == 0#7))
  | .mpopc _ k | .mfind _ k => maskReg k
  | .mskget d k => evenReg d && maskReg k
  -- R104 names d and a alone and sets every other field to zero, the hold field too (DEDUCED, log 96)
  | .mskput k a h => maskReg k && evenReg a && !h
  | .bra k _ => maskSel k
  | .brai a _ => evenReg a
  | .call k _ => maskSel k
  | .calli a _ => evenReg a
  | .ret => true
  | .ser off => decide (0 < off.toInt)
  | .endser => true
  | .exit k => maskSel k
  | .nop | .yield => true
  | .pushv d n | .popv d n => rangeOk d n
  | .ld f => decide (f.sz.toNat ≤ 6) && dataReg f.sz f.d && addrReg f.sp f.a
  | .st f => (storeSize f.sz || f.sz == 6#3) && dataReg f.sz f.d && addrReg f.sp f.a
  | .lduC f => decide (f.sz.toNat ≤ 5) && dataReg f.sz f.d
  | .lduG f => decide (f.sz.toNat ≤ 5) && dataReg f.sz f.d && evenReg f.a
  | .ldxG f => f.okLd true
  | .ldxD f => f.okLd false
  | .stxG f => f.okSt true
  | .stxD f => f.okSt false
  | .atom op f =>
    spaceOk f.sp && addrReg f.sp f.a && (if wideAtomic op then evenReg f.d && f.b.okPair else f.b.ok)
  | .red op f =>
    op != 10#4 && op != 11#4 && f.d == 0#7 && spaceOk f.sp && addrReg f.sp f.a &&
    (if wideAtomic op then f.b.okPair else f.b.ok)
  | .atomcasN32 f => spaceOk f.sp && addrReg f.sp f.a && f.b.ok
  | .atomcasN64 f => spaceOk f.sp && addrReg f.sp f.a && evenReg f.d && f.b.okPair
  | .redx f => decide (f.sp.toNat ≤ 1) && evenReg f.a && f.b.ok
  | .pref a _ => evenReg a
  | .fence scope => decide (1 ≤ scope.toNat) && decide (scope.toNat ≤ 6)
  | .acq f | .rel f | .acqr f => f.ok
  | .cctl a op sp => decide (op.toNat ≤ 3) && decide (sp.toNat ≤ 1) && evenReg a && (decide (op.toNat ≤ 1) || a == 0#7)
  | .p2g d _ b x => evenReg d && (if x then b.ok else b == .reg 0#7)
  | .qspace _ a => evenReg a
  | .bararr _ n | .barsync n => barNum n
  | .barwait n b | .barexp n b | .barset n b => barNum n && b.ok
  | .stgacq _ n | .stgrel n _ => decide (n.toNat ≤ 7)
  | .tlwait n b => decide (n.toNat ≤ 15) && b.src.okPair
  | .tlread d n => evenReg d && decide (n.toNat ≤ 15)
  | .cpl _ b _ _ => evenReg b
  | .tagwait _ | .tagcnt _ _ => true
  | .tcopy _ b | .tsparse _ b | .tgather _ b | .tscatter _ b | .tfill _ b | .tcoll _ b => evenReg b
  | .tstat a n => evenReg a && decide (n.toNat ≤ 15)
  | .mxarr p c => decide (2 ≤ p.toNat) && decide (p.toNat ≤ 8) && decide (c.toNat ≤ 5)
  | .mxload a _ | .mxarow a _ => evenReg a
  | .mxsign _ b c _ =>
    evenReg b && decide (1 ≤ c.toNat) && decide (c.toNat ≤ 63) && decide (b.toNat + 2 * c.toNat ≤ 128)
  | .mxmma a _ => evenReg a
  | .mxvalid a k => evenReg a && decide (k.toNat ≤ 1)
  | .mxwait m => decide (m.toNat ≤ 2)
  | .mxsave a release restore => evenReg a && !(release && restore)
  | .spawn e p => evenReg e && quadReg p
  | .spawnTry e p k => evenReg e && quadReg p && maskNum k
  | .plvl _ | .trap _ | .tret | .brk _ => true
  | .csrr d num => csrListed num && (!csrWide num || evenReg d)
  | .csrw _ num => num == 0x008#10 || num == 0x009#10
  | .clock d => evenReg d
  | .entw a b => evenReg a && evenReg b
  | .migr g => decide (g.toNat ≤ 2)
  | .rdenter | .rdexit => true
  | .gpstart d => evenReg d
  | .waitgp a => evenReg a
  | .dfree k a _ => maskNum k && evenReg a
  | .issuePick _ _ | .clauseHeaderEntry _ _ | .clauseHeaderPass _ _ | .yieldExpiry _ _ | .loadReturn _ | .atomicPerform _
  | .atomicReply _ | .reductionPerform _ | .wcFlush _ _ | .l2EvictionPromote _ | .cplLaneComplete _ | .copyPieceLanding _
  | .copyCompletion _ | .engineCopyFault _ | .barrierPhaseComplete _ _ | .barrierReleaseWave _ | .waitmOpen _ _
  | .stageSlotTurn _ _ | .growServed _ | .fillRowLanding _ | .broadcastRowLanding _ | .matrixOwnershipChange _ | .sliceStart _ _
  | .sliceLanding _ _ | .entwWake _ _ | .trapEntry _ | .watchdogExpiry _ | .pageRequestResponse _ _ | .spanRetire _
  | .parkedSpanRetire _ | .launchStart _ | .deckPlace _ _ | .deckMemoryCleared _ | .spawnOfferAccept _ _ | .overflowDrain _ _
  | .spawnPackTimeout _ _ _ | .spawnSpanEmit _ _ _ | .spawnedSpanPlace _ _ _ | .launchComplete _ | .doorbell _ _ _
  | .sliceExpiry _ | .parkleadReached _ | .deckQuiesced _ | .parkSaveDone _ | .deckResume _ _ | .deadlineExpiry _
  | .migrationPlace _ _ | .gpQuiescenceChange _ | .gpComplete _ | .gpStall _ | .dfreeRelease _ | .relringRetry _ | .createContext
  | .destroyContext | .createQueue | .destroyQueue | .destroyQueueDone _ | .preempt | .invalidate | .invalidateDone
  | .setPeerGroup | .debugAttach | .debugDetach | .debugStop | .debugStep | .debugStepSpan | .debugContinue | .attest
  | .getCert | .fwDeliver | .resync | .registerWrite _ _ _ | .refsync _ | .refmapApplied | .hbmRefresh _ _
  | .powerLimitTick _ _ | .currentLimitSkip _ _ | .levelChange _ | .undervoltAdjust _ | .eccCorrected _ _
  | .eccUe _ _ _ _ _ _ | .thermal _ _ | .thermalRelease _ _ | .hostMemAccess _ _ _ | .atsInvalidation _ | .peerFailure _
  | .deviceBoot | .matrixClearDone _ | .storePerformed _ | .linkReset | .ideKm _ | .atsTranslationCompletion _ _ _
  | .uvRestoreDone _ => true

/-- The instruction is well formed. -/
abbrev WellFormed (i : Instr) : Prop := i.wf = true

end Sys2Proof
end

