-- ==== Sys2Proof/Decode.lean ====
section
/-! DEFINITION. The decoder of the six opcode maps, total on every word and refusing every word that is not a legal
instruction of its class (03 R61-R73), the encoder written from the same formats, and the grade a code is assigned to. -/

namespace Sys2Proof

/-- Opcode, [31:24] (R61). -/
def fOp (w : Word) : BitVec 8 := w.extractLsb' 24 8
/-- The high bits of the opcode, for the maps that give its low bits a meaning (R66, R67, R69). -/
def fOp4 (w : Word) : BitVec 4 := w.extractLsb' 28 4
def fOp5 (w : Word) : BitVec 5 := w.extractLsb' 27 5
def fOp6 (w : Word) : BitVec 6 := w.extractLsb' 26 6
/-- Float type, opcode [1:0] (R67). -/
def fTy (w : Word) : BitVec 2 := w.extractLsb' 24 2
/-- Field [23:17] (R61). -/
def fD (w : Word) : Reg := w.extractLsb' 17 7
/-- Field [16:10]. -/
def fA (w : Word) : Reg := w.extractLsb' 10 7
/-- Field [9:3]. -/
def fB (w : Word) : Reg := w.extractLsb' 3 7
/-- Field [2:1]. -/
def fH (w : Word) : BitVec 2 := w.extractLsb' 1 2
/-- The hold bit of source a (R34). -/
def fHa (w : Word) : Bool := w.getLsbD 1
/-- Field [0]. -/
def fX (w : Word) : Bool := w.getLsbD 0
/-- Slot or tag, [2:0]. -/
def fT (w : Word) : BitVec 3 := w.extractLsb' 0 3
/-- imm10 and offset10. -/
def fImm (w : Word) : BitVec 10 := w.extractLsb' 0 10
/-- Mask select or MASK, [23:20]. -/
def fK (w : Word) : BitVec 4 := w.extractLsb' 20 4
/-- COND, [19:17] (R91). -/
def fCond (w : Word) : BitVec 3 := w.extractLsb' 17 3

/-- Source b: b = 0x7F takes the literal; without one it stays v127, which no form admits (R63, R59). -/
def srcB (w : Word) (lit : Option Word) : SrcB :=
  if fB w == 0x7F#7 then (match lit with | some l => .lit l | none => .reg 0x7F#7) else .reg (fB w)

/-- What field b of the word holds for a source b. -/
def SrcB.field : SrcB → Reg
  | .reg r => r
  | .lit _ => 0x7F#7

/-- The literal word of a source b. -/
def SrcB.literal : SrcB → Option Word
  | .reg _ => none
  | .lit w => some w

/-- The hold field of an instruction that reads source a only. -/
def holdA (h : Bool) : BitVec 2 := 0#1 ++ BitVec.ofBool h

/-- Format A. -/
def packA (op : BitVec 8) (d a b : Reg) (h : BitVec 2) (x : BitVec 1) : Word := op ++ d ++ a ++ b ++ h ++ x
/-- Formats I and M. -/
def packI (op : BitVec 8) (d a : Reg) (imm : BitVec 10) : Word := op ++ d ++ a ++ imm
/-- Format C. -/
def packC (op : BitVec 8) (k : BitVec 4) (off : BitVec 20) : Word := op ++ k ++ off
/-- Format X. -/
def packX (op : BitVec 8) (a b c : Reg) (t : BitVec 3) : Word := op ++ a ++ b ++ c ++ t
/-- Format S. -/
def packS (op : BitVec 8) (f : BitVec 24) : Word := op ++ f

/-- The float block of the ALU class (R67). -/
def rawFloat (w : Word) (lit : Option Word) : Option Instr :=
  if fOp6 w == 0x20#6 then some (.fadd ⟨fTy w, fD w, fA w, srcB w lit, fH w⟩)
  else if fOp6 w == 0x21#6 then some (.fsub ⟨fTy w, fD w, fA w, srcB w lit, fH w⟩)
  else if fOp6 w == 0x22#6 then some (.fmul ⟨fTy w, fD w, fA w, srcB w lit, fH w⟩)
  else if fOp6 w == 0x23#6 then some (.ffma ⟨fTy w, fD w, fA w, srcB w lit, fH w⟩)
  else if fOp6 w == 0x24#6 then some (.fmin ⟨fTy w, fD w, fA w, srcB w lit, fH w⟩)
  else if fOp6 w == 0x25#6 then some (.fmax ⟨fTy w, fD w, fA w, srcB w lit, fH w⟩)
  else if fOp6 w == 0x26#6 then some (.fcmp ⟨fTy w, fK w, fCond w, fA w, srcB w lit, fH w⟩)
  else if fOp6 w == 0x27#6 then some (.fneg ⟨fTy w, fD w, fA w, fHa w⟩)
  else if fOp6 w == 0x28#6 then some (.fabs ⟨fTy w, fD w, fA w, fHa w⟩)
  else if fOp6 w == 0x29#6 then some (.frcp ⟨fTy w, fD w, fA w, fHa w⟩)
  else if fOp6 w == 0x2A#6 then some (.frsq ⟨fTy w, fD w, fA w, fHa w⟩)
  else if fOp6 w == 0x2B#6 then some (.fsqrt ⟨fTy w, fD w, fA w, fHa w⟩)
  else if fOp6 w == 0x2C#6 then some (.fexp2 ⟨fTy w, fD w, fA w, fHa w⟩)
  else if fOp6 w == 0x2D#6 then some (.flog2 ⟨fTy w, fD w, fA w, fHa w⟩)
  else if fOp6 w == 0x2E#6 then some (.fsin ⟨fTy w, fD w, fA w, fHa w⟩)
  else if fOp6 w == 0x2F#6 then some (.fcos ⟨fTy w, fD w, fA w, fHa w⟩)
  else if fOp6 w == 0x30#6 then some (.frnd ⟨fTy w, fD w, fA w, fHa w⟩ (w.extractLsb' 3 2))
  else if fOp6 w == 0x31#6 then some (.fclass ⟨fTy w, fD w, fA w, fHa w⟩)
  else if fOp6 w == 0x32#6 then some (.fscale ⟨fTy w, fD w, fA w, srcB w lit, fH w⟩)
  else if fOp6 w == 0x33#6 then some (.fdot2 ⟨fTy w, fD w, fA w, srcB w lit, fH w⟩)
  else none

/-- ALU class, the codes from 0x60 and the three blocks that name a mask (R66). -/
def rawAluHigh (w : Word) (lit : Option Word) : Option Instr :=
  if fOp w == 0x60#8 then some (.addImm ⟨fD w, fA w, fImm w⟩)
  else if fOp w == 0x61#8 then some (.mulImm ⟨fD w, fA w, fImm w⟩)
  else if fOp w == 0x62#8 then some (.andImm ⟨fD w, fA w, fImm w⟩)
  else if fOp w == 0x63#8 then some (.orImm ⟨fD w, fA w, fImm w⟩)
  else if fOp w == 0x64#8 then some (.xorImm ⟨fD w, fA w, fImm w⟩)
  else if fOp w == 0x65#8 then some (.shlImm ⟨fD w, fA w, fImm w⟩)
  else if fOp w == 0x66#8 then some (.shrImm ⟨fD w, fA w, fImm w⟩)
  else if fOp w == 0x67#8 then some (.sarImm ⟨fD w, fA w, fImm w⟩)
  else if fOp w == 0x68#8 then some (.rotImm ⟨fD w, fA w, fImm w⟩)
  else if fOp w == 0x69#8 then some (.minI32Imm ⟨fD w, fA w, fImm w⟩)
  else if fOp w == 0x6A#8 then some (.minN32Imm ⟨fD w, fA w, fImm w⟩)
  else if fOp w == 0x6B#8 then some (.maxI32Imm ⟨fD w, fA w, fImm w⟩)
  else if fOp w == 0x6C#8 then some (.maxN32Imm ⟨fD w, fA w, fImm w⟩)
  else if fOp w == 0x6D#8 then some (.cmpI32Imm ⟨fK w, fCond w, fA w, fImm w⟩)
  else if fOp w == 0x6E#8 then some (.cmpN32Imm ⟨fK w, fCond w, fA w, fImm w⟩)
  else if fOp w == 0xD0#8 then some (.cvt (fD w) (fA w) (w.extractLsb' 6 4) (w.extractLsb' 2 4) (w.extractLsb' 0 2))
  else if fOp w == 0xD1#8 then lit.map (fun l => .cvts ⟨fD w, fA w, w.extractLsb' 6 4, w.extractLsb' 3 3, fH w, fX w, l⟩)
  else if fOp w == 0xD2#8 then some (.planex ⟨fD w, fA w, srcB w lit, fH w, fX w⟩)
  else if fOp w == 0xD3#8 then some (.planep ⟨fD w, fA w, srcB w lit, fH w, fX w⟩)
  else if fOp w == 0xD4#8 then some (.qnt ⟨fD w, fA w, srcB w lit, fH w, fX w⟩)
  else if fOp w == 0xE0#8 then some (.shfl ⟨fD w, fA w, srcB w lit, fH w, fX w⟩)
  else if fOp w == 0xE1#8 then some (.bcast ⟨fD w, fA w, srcB w lit, fH w, fX w⟩)
  else if fOp w == 0xE2#8 then some (.vote (fD w) (fA w) (fH w))
  else if fOp w == 0xE3#8 then some (.lred ⟨fD w, fA w, w.extractLsb' 7 3, w.extractLsb' 3 4, fHa w, fX w⟩)
  else if fOp w == 0xE4#8 then some (.lminx ⟨fD w, fA w, fHa w, fX w⟩)
  else if fOp w == 0xE5#8 then some (.lmaxx ⟨fD w, fA w, fHa w, fX w⟩)
  else if fOp w == 0xE6#8 then some (.lscan ⟨fD w, fA w, w.extractLsb' 7 3, w.extractLsb' 3 4, fHa w, fX w⟩)
  else if fOp w == 0xE7#8 then some (.laneMatch ⟨fD w, fA w, fHa w, fX w⟩)
  else if fOp w == 0xF0#8 then some (.isect ⟨fD w, fA w, fB w, fH w⟩)
  else if fOp w == 0xF1#8 then some (.union ⟨fD w, fA w, fB w, fH w⟩)
  else if fOp w == 0xF2#8 then some (.bpfx ⟨fD w, fA w, fB w, fH w⟩)
  else if fOp4 w == 3#4 then some (.addc (w.extractLsb' 24 4) ⟨fD w, fA w, srcB w lit, fH w, fX w⟩)
  else if fOp4 w == 4#4 then some (.subb (w.extractLsb' 24 4) ⟨fD w, fA w, srcB w lit, fH w, fX w⟩)
  else if fOp4 w == 5#4 then some (.sel (w.extractLsb' 24 4) ⟨fD w, fA w, srcB w lit, fH w, fX w⟩)
  else rawFloat w lit

/-- ALU class (R66). -/
def rawAlu (w : Word) (lit : Option Word) : Option Instr :=
  if fOp w == 0x00#8 then some (.add ⟨fD w, fA w, srcB w lit, fH w, fX w⟩)
  else if fOp w == 0x01#8 then some (.sub ⟨fD w, fA w, srcB w lit, fH w, fX w⟩)
  else if fOp w == 0x02#8 then some (.mul ⟨fD w, fA w, srcB w lit, fH w, fX w⟩)
  else if fOp w == 0x03#8 then some (.mulh ⟨fD w, fA w, srcB w lit, fH w, fX w⟩)
  else if fOp w == 0x04#8 then some (.mad ⟨fD w, fA w, srcB w lit, fH w, fX w⟩)
  else if fOp w == 0x05#8 then some (.madw ⟨fD w, fA w, srcB w lit, fH w, fX w⟩)
  else if fOp w == 0x06#8 then some (.abs ⟨fD w, fA w, fHa w, fX w⟩)
  else if fOp w == 0x07#8 then some (.min ⟨fD w, fA w, srcB w lit, fH w, fX w⟩)
  else if fOp w == 0x08#8 then some (.max ⟨fD w, fA w, srcB w lit, fH w, fX w⟩)
  else if fOp w == 0x09#8 then some (.and ⟨fD w, fA w, srcB w lit, fH w, fX w⟩)
  else if fOp w == 0x0A#8 then some (.or ⟨fD w, fA w, srcB w lit, fH w, fX w⟩)
  else if fOp w == 0x0B#8 then some (.xor ⟨fD w, fA w, srcB w lit, fH w, fX w⟩)
  else if fOp w == 0x0C#8 then some (.not ⟨fD w, fA w, fHa w, fX w⟩)
  else if fOp w == 0x0D#8 then some (.andn ⟨fD w, fA w, srcB w lit, fH w, fX w⟩)
  else if fOp w == 0x0E#8 then some (.mov ⟨fD w, fA w, fHa w, fX w⟩)
  else if fOp w == 0x0F#8 then lit.map (.movl (fD w) (fX w))
  else if fOp w == 0x10#8 then some (.shl ⟨fD w, fA w, srcB w lit, fH w, fX w⟩)
  else if fOp w == 0x11#8 then some (.shr ⟨fD w, fA w, srcB w lit, fH w, fX w⟩)
  else if fOp w == 0x12#8 then some (.sar ⟨fD w, fA w, srcB w lit, fH w, fX w⟩)
  else if fOp w == 0x13#8 then some (.rot ⟨fD w, fA w, srcB w lit, fH w, fX w⟩)
  else if fOp w == 0x14#8 then some (.fshl ⟨fD w, fA w, srcB w lit, fH w, fX w⟩)
  else if fOp w == 0x15#8 then some (.fshr ⟨fD w, fA w, srcB w lit, fH w, fX w⟩)
  else if fOp w == 0x16#8 then some (.bfx ⟨fD w, fA w, srcB w lit, fH w, fX w⟩)
  else if fOp w == 0x17#8 then some (.bfi ⟨fD w, fA w, srcB w lit, fH w, fX w⟩)
  else if fOp w == 0x18#8 then some (.popc ⟨fD w, fA w, fHa w, fX w⟩)
  else if fOp w == 0x19#8 then some (.clz ⟨fD w, fA w, fHa w, fX w⟩)
  else if fOp w == 0x1A#8 then some (.ctz ⟨fD w, fA w, fHa w, fX w⟩)
  else if fOp w == 0x1B#8 then some (.brev ⟨fD w, fA w, fHa w, fX w⟩)
  else if fOp w == 0x1C#8 then some (.permb ⟨fD w, fA w, srcB w lit, fH w, fX w⟩)
  else if fOp w == 0x1D#8 then some (.lea ⟨fD w, fA w, srcB w lit, fH w, fX w⟩)
  else if fOp w == 0x1E#8 then some (.cmp ⟨fK w, fCond w, fA w, srcB w lit, fH w, fX w⟩)
  else if fOp w == 0x20#8 then some (.add64 ⟨fD w, fA w, srcB w lit, fH w, fX w⟩)
  else if fOp w == 0x21#8 then some (.sub64 ⟨fD w, fA w, srcB w lit, fH w, fX w⟩)
  else if fOp w == 0x22#8 then some (.shl64 ⟨fD w, fA w, srcB w lit, fH w, fX w⟩)
  else if fOp w == 0x23#8 then some (.shr64 ⟨fD w, fA w, srcB w lit, fH w, fX w⟩)
  else if fOp w == 0x24#8 then some (.cmp64 ⟨fK w, fCond w, fA w, srcB w lit, fH w, fX w⟩)
  else rawAluHigh w lit

/-- CTRL class (R68). -/
def rawCtrl (w : Word) : Option Instr :=
  if fOp w == 0x00#8 then some (.shq (fD w) (fA w))
  else if fOp w == 0x01#8 then some (.shassert (fA w) (fB w))
  else if fOp w == 0x02#8 then some (.shforce (fD w) (fA w) (fB w))
  else if fOp w == 0x03#8 then some (.shpack (fD w) (fA w))
  else if fOp w == 0x04#8 then some (.grow (w.extractLsb' 0 9))
  else if fOp w == 0x05#8 then some (.growTry (fD w) (w.extractLsb' 0 9))
  else if fOp w == 0x06#8 then some (.shrink ⟨fD w, fA w, fB w, fH w⟩)
  else if fOp w == 0x10#8 then some (.join (fK w))
  else if fOp w == 0x11#8 then some (.leave (fK w))
  else if fOp w == 0x12#8 then some (.waitm (fK w))
  else if fOp w == 0x13#8 then some (.mset (fD w) (fA w) (fHa w))
  else if fOp w == 0x14#8 then some (.mskop (w.extractLsb' 21 3) (w.extractLsb' 17 4) (fA w) (fB w))
  else if fOp w == 0x15#8 then some (.mpopc (fD w) (fA w))
  else if fOp w == 0x16#8 then some (.mfind (fD w) (fA w))
  else if fOp w == 0x17#8 then some (.mskget (fD w) (fA w))
  else if fOp w == 0x18#8 then some (.mskput (fD w) (fA w) false)
  else if fOp w == 0x20#8 then some (.bra (fK w) (w.extractLsb' 0 20))
  else if fOp w == 0x21#8 then some (.brai (fA w) (fHa w))
  else if fOp w == 0x22#8 then some (.call (fK w) (w.extractLsb' 0 20))
  else if fOp w == 0x23#8 then some (.calli (fA w) (fHa w))
  else if fOp w == 0x24#8 then some .ret
  else if fOp w == 0x25#8 then some (.ser (w.extractLsb' 0 20))
  else if fOp w == 0x26#8 then some .endser
  else if fOp w == 0x27#8 then some (.exit (fK w))
  else if fOp w == 0x28#8 then some .nop
  else if fOp w == 0x29#8 then some .yield
  else if fOp w == 0x2A#8 then some (.pushv (fD w) (fA w))
  else if fOp w == 0x2B#8 then some (.popv (fD w) (fA w))
  else none

/-- MEM class (R69). -/
def rawMem (w : Word) (lit : Option Word) : Option Instr :=
  if w.extractLsb' 30 2 == 0#2 then some (.ld ⟨w.extractLsb' 28 2, w.getLsbD 27, w.extractLsb' 24 3, fD w, fA w, fImm w⟩)
  else if w.extractLsb' 30 2 == 1#2 then some (.st ⟨w.extractLsb' 28 2, w.getLsbD 27, w.extractLsb' 24 3, fD w, fA w, fImm w⟩)
  else if fOp5 w == 16#5 then some (.lduC ⟨w.extractLsb' 24 3, fD w, fA w, fImm w⟩)
  else if fOp5 w == 17#5 then some (.lduG ⟨w.extractLsb' 24 3, fD w, fA w, fImm w⟩)
  else if fOp5 w == 18#5 then some (.ldxG ⟨w.extractLsb' 24 3, fD w, fA w, srcB w lit, fX w⟩)
  else if fOp5 w == 19#5 then some (.ldxD ⟨w.extractLsb' 24 3, fD w, fA w, srcB w lit, fX w⟩)
  else if fOp5 w == 20#5 then some (.stxG ⟨w.extractLsb' 24 3, fD w, fA w, srcB w lit, fX w⟩)
  else if fOp5 w == 21#5 then some (.stxD ⟨w.extractLsb' 24 3, fD w, fA w, srcB w lit, fX w⟩)
  else if fOp4 w == 11#4 then some (.atom (w.extractLsb' 24 4) ⟨fD w, fA w, srcB w lit, fH w⟩)
  else if fOp4 w == 12#4 then some (.red (w.extractLsb' 24 4) ⟨fD w, fA w, srcB w lit, fH w⟩)
  else if fOp w == 0xD0#8 then some (.atomcasN32 ⟨fD w, fA w, srcB w lit, fH w⟩)
  else if fOp w == 0xD1#8 then some (.atomcasN64 ⟨fD w, fA w, srcB w lit, fH w⟩)
  else if fOp w == 0xD2#8 then some (.redx ⟨fD w, fA w, srcB w lit, fH w⟩)
  else if fOp w == 0xD3#8 then some (.pref (fA w) (fImm w))
  else if fOp w == 0xD8#8 then some (.fence (w.extractLsb' 7 3))
  else if fOp w == 0xD9#8 then some (.acq ⟨fD w, fA w, w.extractLsb' 7 3, w.extractLsb' 4 3, fH w⟩)
  else if fOp w == 0xDA#8 then some (.rel ⟨fD w, fA w, w.extractLsb' 7 3, w.extractLsb' 4 3, fH w⟩)
  else if fOp w == 0xDB#8 then some (.acqr ⟨fD w, fA w, w.extractLsb' 7 3, w.extractLsb' 4 3, fH w⟩)
  else if fOp w == 0xDC#8 then some (.cctl (fA w) (w.extractLsb' 3 3) (fH w))
  else if fOp w == 0xDD#8 then some (.p2g (fD w) (fA w) (srcB w lit) (fX w))
  else if fOp w == 0xDE#8 then some (.qspace (fD w) (fA w))
  else if fOp w == 0xE0#8 then some (.bararr (fD w) (fA w))
  else if fOp w == 0xE1#8 then some (.barwait (fA w) (srcB w lit))
  else if fOp w == 0xE2#8 then some (.barsync (fA w))
  else if fOp w == 0xE3#8 then some (.barexp (fA w) (srcB w lit))
  else if fOp w == 0xE4#8 then some (.barset (fA w) (srcB w lit))
  else if fOp w == 0xE8#8 then some (.stgacq (fD w) (fA w))
  else if fOp w == 0xE9#8 then some (.stgrel (fD w) ⟨fA w, fHa w⟩)
  else if fOp w == 0xEA#8 then some (.tlwait (fA w) ⟨srcB w lit, w.getLsbD 2⟩)
  else if fOp w == 0xEB#8 then some (.tlread (fD w) (fA w))
  else none

/-- CPY class (R70). -/
def rawCpy (w : Word) : Option Instr :=
  if fOp w == 0x00#8 then some (.cpl (fD w) (fA w) (fB w) (fT w))
  else if fOp w == 0x01#8 then some (.tagwait (fT w))
  else if fOp w == 0x02#8 then some (.tagcnt (fD w) (fT w))
  else if fOp w == 0x10#8 then some (.tcopy (fD w) (fA w))
  else if fOp w == 0x11#8 then some (.tsparse (fD w) (fA w))
  else if fOp w == 0x12#8 then some (.tgather (fD w) (fA w))
  else if fOp w == 0x13#8 then some (.tscatter (fD w) (fA w))
  else if fOp w == 0x14#8 then some (.tfill (fD w) (fA w))
  else if fOp w == 0x15#8 then some (.tcoll (fD w) (fA w))
  else if fOp w == 0x16#8 then some (.tstat (fD w) (fA w))
  else none

/-- MTX class (R71). -/
def rawMtx (w : Word) : Option Instr :=
  if fOp w == 0x00#8 then some (.mxarr (fD w) (fT w))
  else if fOp w == 0x01#8 then some (.mxload (fD w) (fA w))
  else if fOp w == 0x02#8 then some (.mxarow (fD w) (fA w))
  else if fOp w == 0x03#8 then some (.mxsign (fD w) (fA w) (fB w) (fT w))
  else if fOp w == 0x04#8 then some (.mxmma (fD w) (fT w))
  else if fOp w == 0x05#8 then some (.mxvalid (fD w) (fT w))
  else if fOp w == 0x06#8 then some (.mxwait (fT w))
  else if fOp w == 0x07#8 then some (.mxsave (fD w) (w.getLsbD 1) (fX w))
  else none

/-- SYS class (R72). -/
def rawSys (w : Word) : Option Instr :=
  if fOp w == 0x00#8 then some (.spawn (fD w) (fA w))
  else if fOp w == 0x01#8 then some (.spawnTry (fD w) (fA w) (w.extractLsb' 6 4))
  else if fOp w == 0x02#8 then some (.plvl (fA w))
  else if fOp w == 0x08#8 then some (.trap (w.extractLsb' 0 16))
  else if fOp w == 0x09#8 then some .tret
  else if fOp w == 0x0A#8 then some (.brk (w.extractLsb' 0 16))
  else if fOp w == 0x10#8 then some (.csrr (fD w) (fImm w))
  else if fOp w == 0x11#8 then some (.csrw (fA w) (fImm w))
  else if fOp w == 0x12#8 then some (.clock (fD w))
  else if fOp w == 0x18#8 then some (.entw (fA w) (fB w))
  else if fOp w == 0x19#8 then some (.migr (w.extractLsb' 0 2))
  else if fOp w == 0x20#8 then some .rdenter
  else if fOp w == 0x21#8 then some .rdexit
  else if fOp w == 0x22#8 then some (.gpstart (fD w))
  else if fOp w == 0x23#8 then some (.waitgp (fA w))
  else if fOp w == 0x24#8 then some (.dfree (fK w) (fA w) (fB w))
  else none

/-- The fields of a word read by its class's map, before any check of them. -/
def rawDecode (c : Cls) (w : Word) (lit : Option Word) : Option Instr :=
  match c with
  | .alu => rawAlu w lit
  | .ctrl => rawCtrl w
  | .mem => rawMem w lit
  | .cpy => rawCpy w
  | .mtx => rawMtx w
  | .sys => rawSys w

/-- The word of an instruction (R61-R72); a step of the device has none. -/
def Instr.encodeWord : Instr → Word
  | .add f => packA 0x00#8 f.d f.a f.b.field f.h (.ofBool f.x)
  | .sub f => packA 0x01#8 f.d f.a f.b.field f.h (.ofBool f.x)
  | .mul f => packA 0x02#8 f.d f.a f.b.field f.h (.ofBool f.x)
  | .mulh f => packA 0x03#8 f.d f.a f.b.field f.h (.ofBool f.x)
  | .mad f => packA 0x04#8 f.d f.a f.b.field f.h (.ofBool f.x)
  | .madw f => packA 0x05#8 f.d f.a f.b.field f.h (.ofBool f.x)
  | .abs f => packA 0x06#8 f.d f.a 0#7 (holdA f.h) (.ofBool f.x)
  | .min f => packA 0x07#8 f.d f.a f.b.field f.h (.ofBool f.x)
  | .max f => packA 0x08#8 f.d f.a f.b.field f.h (.ofBool f.x)
  | .and f => packA 0x09#8 f.d f.a f.b.field f.h (.ofBool f.x)
  | .or f => packA 0x0A#8 f.d f.a f.b.field f.h (.ofBool f.x)
  | .xor f => packA 0x0B#8 f.d f.a f.b.field f.h (.ofBool f.x)
  | .not f => packA 0x0C#8 f.d f.a 0#7 (holdA f.h) (.ofBool f.x)
  | .andn f => packA 0x0D#8 f.d f.a f.b.field f.h (.ofBool f.x)
  | .mov f => packA 0x0E#8 f.d f.a 0#7 (holdA f.h) (.ofBool f.x)
  | .movl d x _ => packA 0x0F#8 d 0#7 0x7F#7 0#2 (.ofBool x)
  | .shl f => packA 0x10#8 f.d f.a f.b.field f.h (.ofBool f.x)
  | .shr f => packA 0x11#8 f.d f.a f.b.field f.h (.ofBool f.x)
  | .sar f => packA 0x12#8 f.d f.a f.b.field f.h (.ofBool f.x)
  | .rot f => packA 0x13#8 f.d f.a f.b.field f.h (.ofBool f.x)
  | .fshl f => packA 0x14#8 f.d f.a f.b.field f.h (.ofBool f.x)
  | .fshr f => packA 0x15#8 f.d f.a f.b.field f.h (.ofBool f.x)
  | .bfx f => packA 0x16#8 f.d f.a f.b.field f.h (.ofBool f.x)
  | .bfi f => packA 0x17#8 f.d f.a f.b.field f.h (.ofBool f.x)
  | .popc f => packA 0x18#8 f.d f.a 0#7 (holdA f.h) (.ofBool f.x)
  | .clz f => packA 0x19#8 f.d f.a 0#7 (holdA f.h) (.ofBool f.x)
  | .ctz f => packA 0x1A#8 f.d f.a 0#7 (holdA f.h) (.ofBool f.x)
  | .brev f => packA 0x1B#8 f.d f.a 0#7 (holdA f.h) (.ofBool f.x)
  | .permb f => packA 0x1C#8 f.d f.a f.b.field f.h (.ofBool f.x)
  | .lea f => packA 0x1D#8 f.d f.a f.b.field f.h (.ofBool f.x)
  | .cmp f => packA 0x1E#8 (f.mask ++ f.cond) f.a f.b.field f.h (.ofBool f.x)
  | .add64 f => packA 0x20#8 f.d f.a f.b.field f.h (.ofBool f.x)
  | .sub64 f => packA 0x21#8 f.d f.a f.b.field f.h (.ofBool f.x)
  | .shl64 f => packA 0x22#8 f.d f.a f.b.field f.h (.ofBool f.x)
  | .shr64 f => packA 0x23#8 f.d f.a f.b.field f.h (.ofBool f.x)
  | .cmp64 f => packA 0x24#8 (f.mask ++ f.cond) f.a f.b.field f.h (.ofBool f.x)
  | .addImm f => packI 0x60#8 f.d f.a f.imm
  | .mulImm f => packI 0x61#8 f.d f.a f.imm
  | .andImm f => packI 0x62#8 f.d f.a f.imm
  | .orImm f => packI 0x63#8 f.d f.a f.imm
  | .xorImm f => packI 0x64#8 f.d f.a f.imm
  | .shlImm f => packI 0x65#8 f.d f.a f.imm
  | .shrImm f => packI 0x66#8 f.d f.a f.imm
  | .sarImm f => packI 0x67#8 f.d f.a f.imm
  | .rotImm f => packI 0x68#8 f.d f.a f.imm
  | .minI32Imm f => packI 0x69#8 f.d f.a f.imm
  | .minN32Imm f => packI 0x6A#8 f.d f.a f.imm
  | .maxI32Imm f => packI 0x6B#8 f.d f.a f.imm
  | .maxN32Imm f => packI 0x6C#8 f.d f.a f.imm
  | .cmpI32Imm f => packI 0x6D#8 (f.mask ++ f.cond) f.a f.imm
  | .cmpN32Imm f => packI 0x6E#8 (f.mask ++ f.cond) f.a f.imm
  | .cvt d a src dst rm => packI 0xD0#8 d a (src ++ dst ++ rm)
  | .cvts f => packI 0xD1#8 f.d f.a (f.ftype ++ f.slot ++ f.rm ++ BitVec.ofBool f.enc)
  | .planex f => packA 0xD2#8 f.d f.a f.b.field f.h (.ofBool f.x)
  | .planep f => packA 0xD3#8 f.d f.a f.b.field f.h (.ofBool f.x)
  | .qnt f => packA 0xD4#8 f.d f.a f.b.field f.h (.ofBool f.x)
  | .shfl f => packA 0xE0#8 f.d f.a f.b.field f.h (.ofBool f.x)
  | .bcast f => packA 0xE1#8 f.d f.a f.b.field f.h (.ofBool f.x)
  | .vote d a mode => packA 0xE2#8 d a 0#7 mode 0#1
  | .lred f => packA 0xE3#8 f.d f.a (f.op ++ f.ty) (holdA f.h) (.ofBool f.x)
  | .lminx f => packA 0xE4#8 f.d f.a 0#7 (holdA f.h) (.ofBool f.x)
  | .lmaxx f => packA 0xE5#8 f.d f.a 0#7 (holdA f.h) (.ofBool f.x)
  | .lscan f => packA 0xE6#8 f.d f.a (f.op ++ f.ty) (holdA f.h) (.ofBool f.x)
  | .laneMatch f => packA 0xE7#8 f.d f.a 0#7 (holdA f.h) (.ofBool f.x)
  | .isect f => packA 0xF0#8 f.d f.a f.b f.h 0#1
  | .union f => packA 0xF1#8 f.d f.a f.b f.h 0#1
  | .bpfx f => packA 0xF2#8 f.d f.a f.b f.h 0#1
  | .shq d a => packA 0x00#8 d a 0#7 0#2 0#1
  | .shassert a b => packA 0x01#8 0#7 a b 0#2 0#1
  | .shforce d n b => packA 0x02#8 d n b 0#2 0#1
  | .shpack d a => packA 0x03#8 d a 0#7 0#2 0#1
  | .grow n => packI 0x04#8 0#7 0#7 (0#1 ++ n)
  | .growTry k n => packI 0x05#8 k 0#7 (0#1 ++ n)
  | .shrink f => packA 0x06#8 f.d f.a f.b f.h 0#1
  | .join k => packC 0x10#8 k 0#20
  | .leave k => packC 0x11#8 k 0#20
  | .waitm k => packC 0x12#8 k 0#20
  | .mset k a h => packA 0x13#8 k a 0#7 (holdA h) 0#1
  | .mskop op k a b => packA 0x14#8 (op ++ k) a b 0#2 0#1
  | .mpopc d a => packA 0x15#8 d a 0#7 0#2 0#1
  | .mfind d a => packA 0x16#8 d a 0#7 0#2 0#1
  | .mskget d a => packA 0x17#8 d a 0#7 0#2 0#1
  | .mskput k a _ => packA 0x18#8 k a 0#7 0#2 0#1
  | .bra k off => packC 0x20#8 k off
  | .brai a h => packA 0x21#8 0#7 a 0#7 (holdA h) 0#1
  | .call k off => packC 0x22#8 k off
  | .calli a h => packA 0x23#8 0#7 a 0#7 (holdA h) 0#1
  | .ret => packS 0x24#8 0#24
  | .ser off => packC 0x25#8 0#4 off
  | .endser => packS 0x26#8 0#24
  | .exit k => packC 0x27#8 k 0#20
  | .nop => packS 0x28#8 0#24
  | .yield => packS 0x29#8 0#24
  | .pushv d a => packA 0x2A#8 d a 0#7 0#2 0#1
  | .popv d a => packA 0x2B#8 d a 0#7 0#2 0#1
  | .atomcasN32 f => packA 0xD0#8 f.d f.a f.b.field f.sp 0#1
  | .atomcasN64 f => packA 0xD1#8 f.d f.a f.b.field f.sp 0#1
  | .redx f => packA 0xD2#8 f.d f.a f.b.field f.sp 0#1
  | .pref a off => packI 0xD3#8 0#7 a off
  | .fence scope => packA 0xD8#8 0#7 0#7 (scope ++ 0#4) 0#2 0#1
  | .acq f => packA 0xD9#8 f.d f.a (f.scope ++ f.size ++ 0#1) f.sp 0#1
  | .rel f => packA 0xDA#8 f.d f.a (f.scope ++ f.size ++ 0#1) f.sp 0#1
  | .acqr f => packA 0xDB#8 f.d f.a (f.scope ++ f.size ++ 0#1) f.sp 0#1
  | .cctl a op sp => packA 0xDC#8 0#7 a (0#4 ++ op) sp 0#1
  | .p2g d a b x => packA 0xDD#8 d a b.field 0#2 (.ofBool x)
  | .qspace d a => packA 0xDE#8 d a 0#7 0#2 0#1
  | .bararr d a => packA 0xE0#8 d a 0#7 0#2 0#1
  | .barwait n b => packA 0xE1#8 0#7 n b.field 0#2 0#1
  | .barsync n => packA 0xE2#8 0#7 n 0#7 0#2 0#1
  | .barexp n b => packA 0xE3#8 0#7 n b.field 0#2 0#1
  | .barset n b => packA 0xE4#8 0#7 n b.field 0#2 0#1
  | .stgacq d a => packA 0xE8#8 d a 0#7 0#2 0#1
  | .stgrel d ⟨a, h⟩ => packA 0xE9#8 d a 0#7 (holdA h) 0#1
  | .tlwait n ⟨b, h⟩ => packA 0xEA#8 0#7 n b.field (BitVec.ofBool h ++ 0#1) 0#1
  | .tlread d a => packA 0xEB#8 d a 0#7 0#2 0#1
  | .cpl a b c t => packX 0x00#8 a b c t
  | .tagwait t => packX 0x01#8 0#7 0#7 0#7 t
  | .tagcnt a t => packX 0x02#8 a 0#7 0#7 t
  | .tcopy d a => packA 0x10#8 d a 0#7 0#2 0#1
  | .tsparse d a => packA 0x11#8 d a 0#7 0#2 0#1
  | .tgather d a => packA 0x12#8 d a 0#7 0#2 0#1
  | .tscatter d a => packA 0x13#8 d a 0#7 0#2 0#1
  | .tfill d a => packA 0x14#8 d a 0#7 0#2 0#1
  | .tcoll d a => packA 0x15#8 d a 0#7 0#2 0#1
  | .tstat d a => packA 0x16#8 d a 0#7 0#2 0#1
  | .mxarr a t => packX 0x00#8 a 0#7 0#7 t
  | .mxload d a => packA 0x01#8 d a 0#7 0#2 0#1
  | .mxarow d a => packA 0x02#8 d a 0#7 0#2 0#1
  | .mxsign a b c t => packX 0x03#8 a b c t
  | .mxmma a t => packX 0x04#8 a 0#7 0#7 t
  | .mxvalid a t => packX 0x05#8 a 0#7 0#7 t
  | .mxwait t => packX 0x06#8 0#7 0#7 0#7 t
  | .mxsave a release restore => packX 0x07#8 a 0#7 0#7 (0#1 ++ BitVec.ofBool release ++ BitVec.ofBool restore)
  | .spawn d a => packA 0x00#8 d a 0#7 0#2 0#1
  | .spawnTry e p k => packS 0x01#8 (e ++ p ++ k ++ 0#6)
  | .plvl n => packA 0x02#8 0#7 n 0#7 0#2 0#1
  | .trap code => packS 0x08#8 (0#8 ++ code)
  | .tret => packS 0x09#8 0#24
  | .brk code => packS 0x0A#8 (0#8 ++ code)
  | .csrr d num => packI 0x10#8 d 0#7 num
  | .csrw a num => packI 0x11#8 0#7 a num
  | .clock d => packA 0x12#8 d 0#7 0#7 0#2 0#1
  | .entw a b => packA 0x18#8 0#7 a b 0#2 0#1
  | .migr g => packS 0x19#8 (0#22 ++ g)
  | .rdenter => packS 0x20#8 0#24
  | .rdexit => packS 0x21#8 0#24
  | .gpstart d => packA 0x22#8 d 0#7 0#7 0#2 0#1
  | .waitgp n => packA 0x23#8 0#7 n 0#7 0#2 0#1
  | .dfree k a b => packS 0x24#8 (k ++ 0#3 ++ a ++ b ++ 0#3)
  | .addc k f => packA (3#4 ++ k) f.d f.a f.b.field f.h (.ofBool f.x)
  | .subb k f => packA (4#4 ++ k) f.d f.a f.b.field f.h (.ofBool f.x)
  | .sel k f => packA (5#4 ++ k) f.d f.a f.b.field f.h (.ofBool f.x)
  | .fadd f => packA (0x20#6 ++ f.ty) f.d f.a f.b.field f.h 0#1
  | .fsub f => packA (0x21#6 ++ f.ty) f.d f.a f.b.field f.h 0#1
  | .fmul f => packA (0x22#6 ++ f.ty) f.d f.a f.b.field f.h 0#1
  | .ffma f => packA (0x23#6 ++ f.ty) f.d f.a f.b.field f.h 0#1
  | .fmin f => packA (0x24#6 ++ f.ty) f.d f.a f.b.field f.h 0#1
  | .fmax f => packA (0x25#6 ++ f.ty) f.d f.a f.b.field f.h 0#1
  | .fcmp f => packA (0x26#6 ++ f.ty) (f.mask ++ f.cond) f.a f.b.field f.h 0#1
  | .fneg f => packA (0x27#6 ++ f.ty) f.d f.a 0#7 (holdA f.h) 0#1
  | .fabs f => packA (0x28#6 ++ f.ty) f.d f.a 0#7 (holdA f.h) 0#1
  | .frcp f => packA (0x29#6 ++ f.ty) f.d f.a 0#7 (holdA f.h) 0#1
  | .frsq f => packA (0x2A#6 ++ f.ty) f.d f.a 0#7 (holdA f.h) 0#1
  | .fsqrt f => packA (0x2B#6 ++ f.ty) f.d f.a 0#7 (holdA f.h) 0#1
  | .fexp2 f => packA (0x2C#6 ++ f.ty) f.d f.a 0#7 (holdA f.h) 0#1
  | .flog2 f => packA (0x2D#6 ++ f.ty) f.d f.a 0#7 (holdA f.h) 0#1
  | .fsin f => packA (0x2E#6 ++ f.ty) f.d f.a 0#7 (holdA f.h) 0#1
  | .fcos f => packA (0x2F#6 ++ f.ty) f.d f.a 0#7 (holdA f.h) 0#1
  | .frnd f rm => packA (0x30#6 ++ f.ty) f.d f.a (0#5 ++ rm) (holdA f.h) 0#1
  | .fclass f => packA (0x31#6 ++ f.ty) f.d f.a 0#7 (holdA f.h) 0#1
  | .fscale f => packA (0x32#6 ++ f.ty) f.d f.a f.b.field f.h 0#1
  | .fdot2 f => packA (0x33#6 ++ f.ty) f.d f.a f.b.field f.h 0#1
  | .ld f => 0#2 ++ f.sp ++ BitVec.ofBool f.p ++ f.sz ++ f.d ++ f.a ++ f.off
  | .st f => 1#2 ++ f.sp ++ BitVec.ofBool f.p ++ f.sz ++ f.d ++ f.a ++ f.off
  | .lduC f => packI (16#5 ++ f.sz) f.d f.a f.off
  | .lduG f => packI (17#5 ++ f.sz) f.d f.a f.off
  | .ldxG f => packA (18#5 ++ f.sz) f.d f.a f.b.field 0#2 (.ofBool f.x)
  | .ldxD f => packA (19#5 ++ f.sz) f.d f.a f.b.field 0#2 (.ofBool f.x)
  | .stxG f => packA (20#5 ++ f.sz) f.d f.a f.b.field 0#2 (.ofBool f.x)
  | .stxD f => packA (21#5 ++ f.sz) f.d f.a f.b.field 0#2 (.ofBool f.x)
  | .atom op f => packA (11#4 ++ op) f.d f.a f.b.field f.sp 0#1
  | .red op f => packA (12#4 ++ op) f.d f.a f.b.field f.sp 0#1
  | .issuePick _ _ | .clauseHeaderEntry _ _ | .clauseHeaderPass _ _ | .yieldExpiry _ _ | .loadReturn _ | .atomicPerform _
  | .atomicReply _ | .reductionPerform _ | .wcFlush _ _ | .l2EvictionPromote _ | .cplLaneComplete _ | .copyPieceLanding _
  | .copyCompletion _ | .engineCopyFault _ | .barrierPhaseComplete _ _ | .barrierReleaseWave _ | .waitmOpen _ _
  | .stageSlotTurn _ _ | .growServed _ | .fillRowLanding _ | .broadcastRowLanding _ | .matrixOwnershipChange _ | .sliceStart _ _
  | .sliceLanding _ _ | .entwWake _ _ | .trapEntry _ | .watchdogExpiry _ | .pageRequestResponse _ _ | .spanRetire _
  | .parkedSpanRetire _ | .launchStart _ | .deckPlace _ _ | .deckMemoryCleared _ | .spawnOfferAccept _ _ | .overflowDrain _ _
  | .spawnPackTimeout _ _ _ | .spawnSpanEmit _ _ _ | .spawnedSpanPlace _ _ _ | .launchComplete _ | .doorbell _ _ _
  | .sliceExpiry _ | .parkleadReached _ | .deckQuiesced _ | .parkSaveDone _ | .deckResume _ _ | .deadlineExpiry _
  | .migrationPlace _ _ | .gpQuiescenceChange _ | .gpComplete _ | .gpStall _ | .dfreeRelease _ | .relringRetry _ | .createContext
  | .destroyContext | .createQueue | .destroyQueue | .destroyQueueDone _ | .preempt | .invalidate | .invalidateDone
  | .setPeerGroup | .debugAttach | .debugDetach | .debugStop | .debugStep | .debugStepSpan | .debugContinue | .attest
  | .getCert | .fwDeliver | .resync | .registerWrite _ _ _ | .refsync _ | .refmapApplied | .hbmRefresh _ _
  | .powerLimitTick _ _ | .currentLimitSkip _ _ | .levelChange _ | .undervoltAdjust _ | .eccCorrected _ _
  | .eccUe _ _ _ _ _ _ | .thermal _ _ | .thermalRelease _ _ | .hostMemAccess _ _ _ | .atsInvalidation _ | .peerFailure _
  | .deviceBoot | .matrixClearDone _ | .storePerformed _ | .linkReset | .ideKm _ | .atsTranslationCompletion _ _ _
  | .uvRestoreDone _ => 0#32

/-- The literal word an instruction takes, if any (R63). -/
def Instr.literal : Instr → Option Word
  | .movl _ _ l => some l
  | .cvts f => some f.lit
  | .add f | .sub f | .mul f | .mulh f | .mad f | .madw f | .min f | .max f
  | .and f | .or f | .xor f | .andn f | .shl f | .shr f | .sar f | .rot f
  | .fshl f | .fshr f | .bfx f | .bfi f | .permb f | .lea f | .cmp f | .add64 f
  | .sub64 f | .shl64 f | .shr64 f | .cmp64 f | .planex f | .planep f | .qnt f | .shfl f
  | .bcast f | .atomcasN32 f | .atomcasN64 f | .redx f | .fadd f | .fsub f | .fmul f | .ffma f
  | .fmin f | .fmax f | .fscale f | .fdot2 f | .fcmp f | .ldxG f | .ldxD f | .stxG f
  | .stxD f
    => f.b.literal
  | .addc _ f | .subb _ f | .sel _ f => f.b.literal
  | .atom _ f | .red _ f => f.b.literal
  | .p2g _ _ b _ | .barwait _ b | .barexp _ b | .barset _ b | .tlwait _ ⟨b, _⟩ => b.literal
  | _ => none

/-- The words of an instruction: one, or two with a literal. -/
def encode (i : Instr) : List Word := i.encodeWord :: i.literal.toList

/-- How many words an instruction takes in its clause. -/
def Instr.words (i : Instr) : Nat := 1 + i.literal.toList.length

/-- Check 3 of R73 on one word of a clause of class c, `lit` being the word after it inside the clause: the
instruction, or none where the word is not legal. Every bit the form leaves unused must be zero (R62). -/
def decode (c : Cls) (w : Word) (lit : Option Word) : Option Instr :=
  match rawDecode c w lit with
  | some i => if i.wf && i.encodeWord == w then some i else none
  | none => none

/-- The decoder on the words of one clause from the instruction's own word on: the instruction and the words after it. -/
def decodeWords (c : Cls) : List Word → Option (Instr × List Word)
  | [] => none
  | w :: ws =>
    match decode c w ws.head? with
    | some i => some (i, ws.drop i.literal.toList.length)
    | none => none

/-- The class whose map holds the instruction; none for a step of the device. -/
def Instr.cls : Instr → Option Cls
  | .add _ | .sub _ | .mul _ | .mulh _ | .mad _ | .madw _ | .abs _ | .min _ | .max _ | .and _ | .or _ | .xor _ | .not _
  | .andn _ | .mov _ | .movl _ _ _ | .shl _ | .shr _ | .sar _ | .rot _ | .fshl _ | .fshr _ | .bfx _ | .bfi _ | .popc _
  | .clz _ | .ctz _ | .brev _ | .permb _ | .lea _ | .cmp _ | .add64 _ | .sub64 _ | .shl64 _ | .shr64 _ | .cmp64 _
  | .addImm _ | .mulImm _ | .andImm _ | .orImm _ | .xorImm _ | .shlImm _ | .shrImm _ | .sarImm _ | .rotImm _
  | .minI32Imm _ | .minN32Imm _ | .maxI32Imm _ | .maxN32Imm _ | .cmpI32Imm _ | .cmpN32Imm _ | .cvt _ _ _ _ _ | .cvts _
  | .planex _ | .planep _ | .qnt _ | .shfl _ | .bcast _ | .vote _ _ _ | .lred _ | .lminx _ | .lmaxx _ | .lscan _
  | .laneMatch _ | .isect _ | .union _ | .bpfx _ | .addc _ _ | .subb _ _ | .sel _ _ | .fadd _ | .fsub _ | .fmul _
  | .ffma _ | .fmin _ | .fmax _ | .fcmp _ | .fneg _ | .fabs _ | .frcp _ | .frsq _ | .fsqrt _ | .fexp2 _ | .flog2 _
  | .fsin _ | .fcos _ | .frnd _ _ | .fclass _ | .fscale _ | .fdot2 _ => some .alu
  | .shq _ _ | .shassert _ _ | .shforce _ _ _ | .shpack _ _ | .grow _ | .growTry _ _ | .shrink _ | .join _ | .leave _
  | .waitm _ | .mset _ _ _ | .mskop _ _ _ _ | .mpopc _ _ | .mfind _ _ | .mskget _ _ | .mskput _ _ _ | .bra _ _
  | .brai _ _ | .call _ _ | .calli _ _ | .ret | .ser _ | .endser | .exit _ | .nop | .yield | .pushv _ _ | .popv _ _ => some .ctrl
  | .atomcasN32 _ | .atomcasN64 _ | .redx _ | .pref _ _ | .fence _ | .acq _ | .rel _ | .acqr _ | .cctl _ _ _
  | .p2g _ _ _ _ | .qspace _ _ | .bararr _ _ | .barwait _ _ | .barsync _ | .barexp _ _ | .barset _ _ | .stgacq _ _
  | .stgrel _ _ | .tlwait _ _ | .tlread _ _ | .ld _ | .st _ | .lduC _ | .lduG _ | .ldxG _ | .ldxD _ | .stxG _ | .stxD _
  | .atom _ _ | .red _ _ => some .mem
  | .cpl _ _ _ _ | .tagwait _ | .tagcnt _ _ | .tcopy _ _ | .tsparse _ _ | .tgather _ _ | .tscatter _ _ | .tfill _ _
  | .tcoll _ _ | .tstat _ _ => some .cpy
  | .mxarr _ _ | .mxload _ _ | .mxarow _ _ | .mxsign _ _ _ _ | .mxmma _ _ | .mxvalid _ _ | .mxwait _ | .mxsave _ _ _ => some .mtx
  | .spawn _ _ | .spawnTry _ _ _ | .plvl _ | .trap _ | .tret | .brk _ | .csrr _ _ | .csrw _ _ | .clock _ | .entw _ _
  | .migr _ | .rdenter | .rdexit | .gpstart _ | .waitgp _ | .dfree _ _ _ => some .sys
  | .issuePick _ _ | .clauseHeaderEntry _ _ | .clauseHeaderPass _ _ | .yieldExpiry _ _ | .loadReturn _ | .atomicPerform _
  | .atomicReply _ | .reductionPerform _ | .wcFlush _ _ | .l2EvictionPromote _ | .cplLaneComplete _ | .copyPieceLanding _
  | .copyCompletion _ | .engineCopyFault _ | .barrierPhaseComplete _ _ | .barrierReleaseWave _ | .waitmOpen _ _
  | .stageSlotTurn _ _ | .growServed _ | .fillRowLanding _ | .broadcastRowLanding _ | .matrixOwnershipChange _ | .sliceStart _ _
  | .sliceLanding _ _ | .entwWake _ _ | .trapEntry _ | .watchdogExpiry _ | .pageRequestResponse _ _ | .spanRetire _
  | .parkedSpanRetire _ | .launchStart _ | .deckPlace _ _ | .deckMemoryCleared _ | .spawnOfferAccept _ _ | .overflowDrain _ _
  | .spawnPackTimeout _ _ _ | .spawnSpanEmit _ _ _ | .spawnedSpanPlace _ _ _ | .launchComplete _ | .doorbell _ _ _
  | .sliceExpiry _ | .parkleadReached _ | .deckQuiesced _ | .parkSaveDone _ | .deckResume _ _ | .deadlineExpiry _
  | .migrationPlace _ _ | .gpQuiescenceChange _ | .gpComplete _ | .gpStall _ | .dfreeRelease _ | .relringRetry _ | .createContext
  | .destroyContext | .createQueue | .destroyQueue | .destroyQueueDone _ | .preempt | .invalidate | .invalidateDone
  | .setPeerGroup | .debugAttach | .debugDetach | .debugStop | .debugStep | .debugStepSpan | .debugContinue | .attest
  | .getCert | .fwDeliver | .resync | .registerWrite _ _ _ | .refsync _ | .refmapApplied | .hbmRefresh _ _
  | .powerLimitTick _ _ | .currentLimitSkip _ _ | .levelChange _ | .undervoltAdjust _ | .eccCorrected _ _
  | .eccUe _ _ _ _ _ _ | .thermal _ _ | .thermalRelease _ _ | .hostMemAccess _ _ _ | .atsInvalidation _ | .peerFailure _
  | .deviceBoot | .matrixClearDone _ | .storePerformed _ | .linkReset | .ideKm _ | .atsTranslationCompletion _ _ _
  | .uvRestoreDone _ => none

/-- How many bits of the word an encoding fixes, by its row of the table. -/
def Instr.fixedBits : Instr → Nat
  | .ld _ | .st _ => 2
  | .addc _ _ | .subb _ _ | .sel _ _ => 4
  | .lduC _ | .lduG _ | .atom _ _ => 5
  | .fadd _ | .fsub _ | .fmul _ | .ffma _ | .fmin _ | .fmax _ | .fcmp _ | .fscale _ | .fdot2 _ | .ldxG _ | .ldxD _
  | .stxG _ | .stxD _ => 7
  | .add _ | .sub _ | .mul _ | .mulh _ | .mad _ | .madw _ | .min _ | .max _ | .and _ | .or _ | .xor _ | .andn _ | .shl _
  | .shr _ | .sar _ | .rot _ | .fshl _ | .fshr _ | .bfx _ | .bfi _ | .permb _ | .lea _ | .cmp _ | .add64 _ | .sub64 _
  | .shl64 _ | .shr64 _ | .cmp64 _ | .addImm _ | .mulImm _ | .andImm _ | .orImm _ | .xorImm _ | .minI32Imm _
  | .minN32Imm _ | .maxI32Imm _ | .maxN32Imm _ | .cmpI32Imm _ | .cmpN32Imm _ | .cvt _ _ _ _ _ | .cvts _ | .planex _
  | .planep _ | .shfl _ | .bcast _ | .bra _ _ | .call _ _ | .cpl _ _ _ _ | .mxsign _ _ _ _ => 8
  | .qnt _ | .lscan _ | .isect _ | .union _ | .bpfx _ | .shrink _ | .atomcasN32 _ | .atomcasN64 _ | .redx _ => 9
  | .lred _ | .acq _ | .rel _ | .acqr _ | .p2g _ _ _ _ => 10
  | .shforce _ _ _ | .mskop _ _ _ _ => 11
  | .ser _ | .red _ _ => 12
  | .shlImm _ | .shrImm _ | .sarImm _ | .rotImm _ | .frnd _ _ => 13
  | .spawnTry _ _ _ | .dfree _ _ _ => 14
  | .fneg _ | .fabs _ | .frcp _ | .frsq _ | .fsqrt _ | .fexp2 _ | .flog2 _ | .fsin _ | .fcos _ | .fclass _ | .pref _ _
  | .csrr _ _ | .csrw _ _ => 15
  | .not _ | .mov _ | .popc _ | .clz _ | .ctz _ | .brev _ | .vote _ _ _ | .lminx _ | .lmaxx _ | .laneMatch _
  | .growTry _ _ | .trap _ | .brk _ => 16
  | .abs _ | .mset _ _ _ | .mskput _ _ _ => 17
  | .shq _ _ | .shassert _ _ | .shpack _ _ | .mpopc _ _ | .mfind _ _ | .mskget _ _ | .pushv _ _ | .popv _ _
  | .qspace _ _ | .bararr _ _ | .barwait _ _ | .barexp _ _ | .barset _ _ | .stgacq _ _ | .stgrel _ _ | .tlwait _ _
  | .tlread _ _ | .tcopy _ _ | .tsparse _ _ | .tgather _ _ | .tscatter _ _ | .tfill _ _ | .tcoll _ _ | .tstat _ _
  | .mxload _ _ | .mxarow _ _ | .spawn _ _ | .entw _ _ => 18
  | .cctl _ _ _ => 20
  | .tagcnt _ _ | .mxarr _ _ | .mxmma _ _ | .mxvalid _ _ => 22
  | .grow _ | .mxsave _ _ _ => 23
  | .movl _ _ _ | .brai _ _ | .calli _ _ => 24
  | .barsync _ | .plvl _ | .clock _ | .gpstart _ | .waitgp _ => 25
  | .join _ | .leave _ | .waitm _ | .exit _ => 28
  | .fence _ | .tagwait _ | .mxwait _ => 29
  | .migr _ => 30
  | .ret | .endser | .nop | .yield | .tret | .rdenter | .rdexit => 32
  | .issuePick _ _ | .clauseHeaderEntry _ _ | .clauseHeaderPass _ _ | .yieldExpiry _ _ | .loadReturn _ | .atomicPerform _
  | .atomicReply _ | .reductionPerform _ | .wcFlush _ _ | .l2EvictionPromote _ | .cplLaneComplete _ | .copyPieceLanding _
  | .copyCompletion _ | .engineCopyFault _ | .barrierPhaseComplete _ _ | .barrierReleaseWave _ | .waitmOpen _ _
  | .stageSlotTurn _ _ | .growServed _ | .fillRowLanding _ | .broadcastRowLanding _ | .matrixOwnershipChange _ | .sliceStart _ _
  | .sliceLanding _ _ | .entwWake _ _ | .trapEntry _ | .watchdogExpiry _ | .pageRequestResponse _ _ | .spanRetire _
  | .parkedSpanRetire _ | .launchStart _ | .deckPlace _ _ | .deckMemoryCleared _ | .spawnOfferAccept _ _ | .overflowDrain _ _
  | .spawnPackTimeout _ _ _ | .spawnSpanEmit _ _ _ | .spawnedSpanPlace _ _ _ | .launchComplete _ | .doorbell _ _ _
  | .sliceExpiry _ | .parkleadReached _ | .deckQuiesced _ | .parkSaveDone _ | .deckResume _ _ | .deadlineExpiry _
  | .migrationPlace _ _ | .gpQuiescenceChange _ | .gpComplete _ | .gpStall _ | .dfreeRelease _ | .relringRetry _ | .createContext
  | .destroyContext | .createQueue | .destroyQueue | .destroyQueueDone _ | .preempt | .invalidate | .invalidateDone
  | .setPeerGroup | .debugAttach | .debugDetach | .debugStop | .debugStep | .debugStepSpan | .debugContinue | .attest
  | .getCert | .fwDeliver | .resync | .registerWrite _ _ _ | .refsync _ | .refmapApplied | .hbmRefresh _ _
  | .powerLimitTick _ _ | .currentLimitSkip _ _ | .levelChange _ | .undervoltAdjust _ | .eccCorrected _ _
  | .eccUe _ _ _ _ _ _ | .thermal _ _ | .thermalRelease _ _ | .hostMemAccess _ _ _ | .atsInvalidation _ | .peerFailure _
  | .deviceBoot | .matrixClearDone _ | .storePerformed _ | .linkReset | .ideKm _ | .atsTranslationCompletion _ _ _
  | .uvRestoreDone _ => 0

/-- A grade of compute segment (00 R3). -/
inductive Grade where
  | m | v
  deriving DecidableEq, Repr, Inhabited

/-- The grade a code or a type field is assigned to; none where both grades run it (R65-R72). -/
def Instr.grade : Instr → Option Grade
  | .isect _ | .union _ | .bpfx _ => some .v
  | .cvt _ _ src dst _ => if src == 11#4 || dst == 11#4 then some .v else none
  | .cvts f => if f.ftype == 11#4 then some .v else none
  | .fadd f | .fsub f | .fmul f | .ffma f | .fmin f | .fmax f | .fscale f | .fdot2 f => if f.ty == 3#2 then some .v else none
  | .fcmp f => if f.ty == 3#2 then some .v else none
  | .fneg f | .fabs f | .frcp f | .frsq f | .fsqrt f | .fexp2 f | .flog2 f | .fsin f | .fcos f | .fclass f | .frnd f _ =>
    if f.ty == 3#2 then some .v else none
  | .mxarr _ _ | .mxload _ _ | .mxarow _ _ | .mxsign _ _ _ _ | .mxmma _ _ | .mxvalid _ _ | .mxwait _ | .mxsave _ _ _ => some .m
  | _ => none

/-- A clause header's fields (R57). -/
structure Header where
  count : Nat
  cls : Cls
  msel : Nat
  minv : Bool
  tagwait : BitVec 8
  fence : Nat
  deriving DecidableEq, Repr, Inhabited

/-- CLASS of a header (R57). -/
def clsOfCode (c : BitVec 3) : Option Cls :=
  if c == 0#3 then some .alu else if c == 1#3 then some .ctrl else if c == 2#3 then some .mem
  else if c == 3#3 then some .cpy else if c == 4#3 then some .mtx else if c == 5#3 then some .sys else none

/-- The code of a class. -/
def Cls.code : Cls → BitVec 3
  | .alu => 0#3
  | .ctrl => 1#3
  | .mem => 2#3
  | .cpy => 3#3
  | .mtx => 4#3
  | .sys => 5#3

/-- A word read as a clause header, none where R57 raises ILLEGAL_HEADER. -/
def decodeHeader (w : Word) : Option Header :=
  let count := (w.extractLsb' 28 4).toNat
  let msel := (w.extractLsb' 21 4).toNat
  let fence := (w.extractLsb' 9 3).toNat
  match clsOfCode (w.extractLsb' 25 3) with
  | none => none
  | some c =>
    if count == 0 || decide (12 < msel) || (w.getLsbD 20 && msel == 0) || fence == 7 || w.extractLsb' 0 9 != 0#9 then none
    else some ⟨count, c, msel, w.getLsbD 20, w.extractLsb' 12 8, fence⟩

/-- The word of a header. -/
def Header.encode (h : Header) : Word :=
  BitVec.ofNat 4 h.count ++ h.cls.code ++ BitVec.ofNat 4 h.msel ++ BitVec.ofBool h.minv ++ h.tagwait ++ BitVec.ofNat 3 h.fence ++ 0#9

/-- The words of the table word w, first word in the low bits; bits above nbits are zero. -/
def tableWords (nbits w : Nat) : List Word :=
  let v := w % 2 ^ nbits
  [BitVec.ofNat 32 v, BitVec.ofNat 32 (v / 2 ^ 32)]

/-- The words the model lays out in memory, little-endian, at the lowest address first (02 R37, 03 R56). -/
def bytesOfWord (w : Word) : List Byte :=
  [w.extractLsb' 0 8, w.extractLsb' 8 8, w.extractLsb' 16 8, w.extractLsb' 24 8]

/-- Four bytes read as a little-endian word. -/
def wordOfBytes (a b c d : Byte) : Word := d ++ c ++ b ++ a

/-- The better of two readings: the one whose row fixes more bits, the first on a tie. -/
def moreSpecific (p q : Option (Cls × Instr)) : Option (Cls × Instr) :=
  match p, q with
  | none, r => r
  | r, none => r
  | some x, some y => if x.2.fixedBits < y.2.fixedBits then some y else some x

/-- A table word names no class, and the six maps overlap: the class whose legal reading fixes the most bits is taken
(log 10). -/
def tableReading (nbits w : Nat) : Option (Cls × Instr) :=
  let ws := tableWords nbits w
  let one (c : Cls) : Option (Cls × Instr) := (decodeWords c ws).map (fun r => (c, r.1))
  moreSpecific (moreSpecific (moreSpecific (one .alu) (one .ctrl)) (moreSpecific (one .mem) (one .cpy)))
    (moreSpecific (one .mtx) (one .sys))

/-- The instruction the decoder reads from a table word. -/
def decodeTableWord (nbits w : Nat) : Option Instr := (tableReading nbits w).map (·.2)

end Sys2Proof
end

