-- ==== Sys2Proof/Machine/State.lean ====
section
/-! DEFINITION. The state of the device as plain data, its faults and refusals, and the state after reset. -/

namespace Sys2Proof.Machine

/-- How a step can stop. -/
inductive Fault where
  /-- A page table sent an access to a device-physical address at or beyond 2^39, which does not exist (10 R243). Raised by
  the access functions of `Ops`. Safe: the device's outcome is not stated and the model stops. -/
  | noSuchMemory
  deriving DecidableEq, Repr

/-- Why the model gives an instruction no meaning. -/
inductive Refusal where
  /-- An instruction that the dispatcher has not reached; raised by `Dispatch` only. Safe: the model stops. -/
  | notModelled (mnemonic : String)
  deriving DecidableEq, Repr

/-- Byte memory: address and byte, addresses strictly rising, no byte equal to what an unlisted address reads as. -/
structure Memory where
  cells : List Host.Cell
  deriving DecidableEq, Repr, Inhabited

/-- A general register of a span (01 R13, R16, R17). -/
inductive VReg where
  | uniform (b : Word)
  | affine (b : Word) (e : BitVec 3)
  | vector (slot : Nat) (vals : List Word)
  deriving DecidableEq, Repr, Inhabited

/-- Where inside a clause a lane stands: the clause's class and the address of the next header (03 R59). -/
structure Clause where
  cls : Cls
  next : Nat
  deriving DecidableEq, Repr, Inhabited

/-- The waits of 09 R226. A `retry` wait issues its instruction again when its condition holds; the other waits end
with the lane past the instruction, and past its literal word where `lit` is set. -/
inductive Wait where
  /-- At a clause header that has been decoded, until step 2 of 03 R58 holds. -/
  | header (h : Word)
  /-- `waitm` on mask k (05 R102). -/
  | setOpen (k : Nat)
  /-- In a serial section, waiting for the close or the pass (05 R111). -/
  | serial
  /-- `ser` while a section is open: retry (05 R111). -/
  | serBusy
  /-- `bararr` or `barsync` by a lane that has arrived in this phase: retry when phase `gen` completes (07 R166). -/
  | barAgain (bar : Nat) (gen : Word)
  /-- `barwait`, `barsync`: waits until phase `gen` has completed (07 R168). -/
  | barPhase (bar : Nat) (gen : Word) (lit : Bool)
  /-- A `barPhase` whose phase has completed and whose release wave has not come (21 R381). -/
  | barWave (bar : Nat) (lit : Bool)
  /-- `barset` (07 R170). -/
  | barSet (bar : Nat) (gen : Word) (lit : Bool)
  /-- `stgacq` on a slot (09 R235); `id` is the outstanding register write. -/
  | ring (id : Nat)
  | timeline (k : Nat) (target : Nat) (lit : Bool)
  | tag (t : Nat)
  /-- `cpl` with a full count: retry (07 R176). -/
  | tagRoom (t : Nat) (n : Nat)
  /-- `grow`: retry when served; `req` tells apart the requests of two PC groups (01 R27, 05 R99). -/
  | grow (n req : Nat)
  /-- Matrix ownership, a running keystone or outstanding matrix work: retry (08 R192, R194, R198, R205). -/
  | matrix (kind : Nat) (arg : Nat)
  /-- `mxwait`: work of the deck with an id below `before`; kind 0 all, 1 fills, 2 operations (08 R204). -/
  | mxwait (kind before : Nat)
  /-- `spawn`: this lane's item and whether it has been accepted (08 R207). -/
  | spawn (entry : Nat) (payload : List Word) (issue : Nat) (accepted : Bool)
  | entw (va : Nat) (expected : DWord)
  | gp (g : Nat)
  deriving DecidableEq, Repr, Inhabited

/-- 09 R223. -/
inductive LaneState where
  | exited
  | standing
  | waiting (w : Wait)
  deriving DecidableEq, Repr, Inhabited

/-- A lane's position: program counter, clause position (none at a header), clause predicate and state (03 R56, R58, R59). -/
structure Pos where
  pc : Nat
  clause : Option Clause
  p : Bool
  st : LaneState
  deriving DecidableEq, Repr, Inhabited

/-- A lane (09 R219, 10 R256). `held` is its own position while it runs the trap handler (15 R306). -/
structure Lane where
  pos : Pos
  held : Option Pos
  sp : Word
  splim : Word
  rsn : BitVec 4
  /-- Loads with a lower id are those before the lane's last `rdexit`, or before it ended inside a section (08 R214, 17 R348). -/
  exitAt : Nat
  /-- Scope code of the lane's last fence, 0 for none: what its later stores release at (10 R256). -/
  rel : Nat
  plvl : Option (BitVec 3)
  starve : Nat
  yieldTill : Option Nat
  deriving DecidableEq, Repr, Inhabited

/-- An instruction picked for issue, or an entry of a replay queue (15 R307): columns are captured source values. -/
structure Issue where
  span : Nat
  aset : LaneSet
  gset : LaneSet
  pc : Nat
  cls : Cls
  next : Nat
  word : Word
  lit : Option Word
  /-- Issued ahead of an older instruction of its span, with its words already fetched (15 R300). -/
  fetched : Bool
  cols : Option (List (Nat × List Word))
  /-- VALID of the replay entry: a dropped one keeps its place until its turn comes (15 R308). -/
  valid : Bool
  /-- Entry of a binding stub's `ret`, which raises no cause again (16 R339). -/
  bound : Bool
  /-- Entry that a debugger let go on after a stop on UNSUPPORTED_ON_GRADE: it migrates now (15 R325). -/
  graded : Bool
  /-- It raised a cause as it completed, its lanes already past it: when it comes again they stay where they are (15 R301). -/
  late : Bool
  deriving DecidableEq, Repr, Inhabited

/-- A trap before delivery: cause code, ADDR, failing lanes, and what the record says of the access (15 R311). -/
structure TrapInfo where
  cause : Nat
  addr : DWord
  lanes : LaneSet
  access : Nat
  mtype : Nat
  pages : List Nat
  /-- The trapping word is complete and is no replay entry (15 R300). -/
  complete : Bool
  /-- It is an instruction whose group stands at the next word when the trap is taken (08 R209). -/
  past : Bool
  /-- Raised at an issue boundary, with the PC the record names. -/
  boundary : Option Nat
  /-- Issued instructions that raised a cause as they completed, by the order of their issue: they head the replay queue (15 R301). -/
  entry : List (Nat × Issue)
  /-- The device has tried to serve the missing page (15 R314). -/
  served : Bool
  /-- When the cause was raised, where that was before its delivery (15 R311). -/
  time : Option Nat
  deriving DecidableEq, Repr, Inhabited

/-- Trap mode (15 R304-R310, 01 R36): `entry` holds v124-v127 as they were, `queue` what the frame does not give back. -/
structure TrapMode where
  frame : Nat
  cause : Nat
  faddr : DWord
  lanes : LaneSet
  entry : List VReg
  queue : List Issue
  /-- What a debugger had let issue when the trap came: the step ends after the return (15 R326). -/
  outer : Option (List LaneSet)
  deriving DecidableEq, Repr, Inhabited

/-- Why a span issues nothing (15 R301, R314, R325). -/
inductive Stop where
  | running
  /-- Page requests still to be answered, of which the first `sent` are outstanding (15 R314, 20 R371). -/
  | pages (info : TrapInfo) (sent : Nat) (waiting : List Nat)
  /-- Stopped for the debugger, with its frame (15 R325); none where the trap handler's frame stands (log 20). -/
  | debug (frame : Option Nat)
  deriving DecidableEq, Repr, Inhabited

/-- An open serial section (05 R111); `handler` where the trap handler opened it. `clause` is the clause in which its lanes go on, once it is
`known`; before that it is the one of its `ser`, from which that clause is found. -/
structure Serial where
  handler : Bool
  set : LaneSet
  run : Nat
  done : LaneSet
  resume : Nat
  clause : Option Clause
  known : Bool
  group : LaneSet
  deriving DecidableEq, Repr, Inhabited

/-- A span (01 R11, 09 R219-R222). -/
structure Span where
  uid : Nat
  deck : Nat
  idx : Nat
  width : Nat
  role : BitVec 2
  rslot : Nat
  islot : Nat
  regs : List VReg
  masks : List LaneSet
  tags : List Nat
  lanes : List Lane
  grant : Nat
  used : Nat
  heldSlots : Nat
  ceil : Nat
  serial : Option Serial
  trap : Option TrapMode
  replay : List Issue
  reinj : List Issue
  /-- Replayed instructions whose lanes wait to issue again, with their captured sources (15 R308). -/
  kept : List Issue
  stop : Stop
  pending : Option TrapInfo
  /-- Instructions a debugger lets issue before the next stop: none while it runs free; the groups of a STEP_SPAN. -/
  steps : Option (List LaneSet)
  poison : List (Nat × LaneSet)
  idle : Nat
  promoted : Option Nat
  lastLane : Option Nat
  lastIssue : Nat
  /-- Outstanding work with a lower number is of instructions that the span issued before its last one (15 R300; log 67). -/
  front : Nat
  /-- The grace-period engine's view (17 R345, R346). -/
  quiet : Bool
  spawned : Bool
  /-- Lanes that have exited once: their mask bits stay zero for the rest of the span's life, also while a handler runs on them (01 R12). -/
  ended : LaneSet
  /-- Host pages that an instruction put back waits for: its address, its PC group and the page (20 R371). -/
  asks : List (Nat × LaneSet × Nat)
  deriving DecidableEq, Repr, Inhabited

/-- A named barrier (07 R165). `marks` are the lanes that have arrived, by span. -/
structure Bar where
  gen : Word
  bal : Int
  members : BitVec 32
  marks : List (Nat × LaneSet)
  any : Bool
  broken : Bool
  sets : List (BitVec 32)
  deriving DecidableEq, Repr, Inhabited

/-- A stage ring's cursors, phase bits and held bits (09 R235). -/
structure Ring where
  prod : Nat
  cons : Nat
  phase : BitVec 32
  held : BitVec 32
  deriving DecidableEq, Repr, Inhabited

/-- The matrix unit's contents, on a pier or in a saved image (08 R191, R205). Keys of `weights` and `rows` are byte
offsets of the two arrays of 08 R205's image. -/
structure Matrix where
  weights : Memory
  valid : List DWord
  arr : Option Nat
  planes : Nat
  rows : Memory
  pa : List Nat
  poisonW : List Nat
  poisonR : List Nat
  deriving DecidableEq, Repr, Inhabited

/-- Where a deck is in its life (01 R31, 14 R291, 15 R317). -/
inductive DeckStatus where
  | clearing
  | running
  /-- Stopped at issue boundaries and quiescing, to park or to migrate. -/
  | parking
  | migrating (target : Grade)
  /-- Quiesced, its image being written to the save area; with the grade it migrates to. -/
  | saving (target : Option Grade)
  /-- Saved: parked, or between piers. -/
  | parked
  | moving (target : Grade)
  | retired
  deriving DecidableEq, Repr, Inhabited

/-- A deck (09 R219, R221). Private memory has key lane-in-deck * 2^20 + offset. -/
structure Deck where
  uid : Nat
  girder : Nat
  member : Nat
  pier : Nat
  slot : Nat
  memBase : Nat
  memSize : Nat
  mem : Memory
  priv : Memory
  poison : List Nat
  /-- Poisoned bytes of private memory, by key. -/
  poisonP : List Nat
  bars : List Bar
  rings : List Ring
  status : DeckStatus
  image : Option Matrix
  imageBytes : Nat
  /-- A park was abandoned for want of room: the deck drains on (14 R293). -/
  noPark : Bool
  /-- A host write has changed the saved image: its digest no longer matches (14 R293). -/
  tampered : Bool
  spans : Nat
  deriving DecidableEq, Repr, Inhabited

/-- A signature on a keystone (08 R199). -/
structure Signer where
  deck : Nat
  span : Nat
  lane : Nat
  base : Nat
  np : Nat
  deriving DecidableEq, Repr, Inhabited

/-- An armed descriptor (08 R200); `before` bounds the fills its slice waits for (08 R201). -/
structure Arm where
  deck : Nat
  desc : DWord
  before : Nat
  started : Bool
  landed : Bool
  poisoned : Bool
  /-- Accumulators that the slice read poisoned: span, lane, even register (21 R382). -/
  dirty : List (Nat × Nat × Nat)
  results : List (Nat × Nat × Nat × DWord)
  deriving DecidableEq, Repr, Inhabited

/-- A keystone register with what it counts (08 R198). -/
structure Key where
  st : Nat
  arms : Nat
  decl : Nat
  gen : Nat
  signers : List Signer
  armed : List Arm
  numbers : List (Nat × Nat)
  deriving DecidableEq, Repr, Inhabited

/-- A girder (09 R219, R220). -/
structure Girder where
  uid : Nat
  launch : Nat
  x : Nat
  y : Nat
  z : Nat
  size : Nat
  truss : Nat
  keys : List Key
  bars : List Bar
  deriving DecidableEq, Repr, Inhabited

/-- A launch and the fields of its record (14 R278). -/
structure Launch where
  uid : Nat
  queue : Nat
  ctx : Nat
  rdidx : Nat
  entry : Nat
  args : DWord
  gx : Nat
  gy : Nat
  gz : Nat
  shapew : Word
  roles : DWord
  ceil : Nat
  deckmem : Nat
  priv : Nat
  constBase : Nat
  constSize : Nat
  tlbind : DWord
  compl : Nat
  rings : List DWord
  slots : List (BitVec 256)
  nextGirder : Nat
  aborted : Bool
  discarded : Bool
  deriving DecidableEq, Repr, Inhabited

/-- A timeline (07 R173): the highest number given, the value, and numbers completed beyond it. -/
structure Timeline where
  issued : Nat
  value : Nat
  early : List Nat
  deriving DecidableEq, Repr, Inhabited

/-- The grace-period engine of a context (17 R347). -/
structure Grace where
  started : Nat
  completed : Nat
  pend : Bool
  holders : List Nat
  since : Nat
  stalled : Bool
  deriving DecidableEq, Repr, Inhabited

/-- A peer group: ranks with bus number and context (20 R372). -/
structure PeerGroup where
  group : Nat
  ranks : List (Nat × Nat)
  deriving DecidableEq, Repr, Inhabited

/-- The fields of a context descriptor (14 R272, 15 R299, 17 R343, 20 R369, 16 R339). -/
structure CtxDesc where
  plvlcap : Nat
  deadline : Nat
  parklead : Nat
  saveBase : Nat
  saveSize : Nat
  privBase : Nat
  privSize : Nat
  ovfBase : Nat
  ovfCount : Nat
  handler : Nat
  frameBase : Nat
  wdog : Nat
  tflags : Word
  relBase : Nat
  relCount : Nat
  gpLimit : Nat
  ptroot : Nat
  bindstub : Nat
  deriving DecidableEq, Repr, Inhabited

/-- What an entry of an overflow ring came from: spawn, lane, deck, launch and the segment that issued it; spawn 0 once dropped
(14 R287-R289, R395). -/
structure RingItem where
  issue : Nat
  lane : Nat
  deck : Nat
  launch : Nat
  seg : Nat
  deriving DecidableEq, Repr, Inhabited

/-- A context (14 R271). `desc` is its descriptor's device-physical address; its fields are read when the first queue is mapped. -/
structure Context where
  num : Nat
  desc : Nat
  loaded : Bool
  d : CtxDesc
  tl : List Timeline
  ovfHead : Nat
  ovfTail : Nat
  /-- What the entries of the overflow ring came from, oldest first. -/
  ovfIssue : List RingItem
  timer : Option Nat
  /-- The piers that each pre-emption of the context's own still vacates (14 R290). -/
  vacate : List (List Nat)
  debug : Option Word
  resets : Nat
  gp : Grace
  deferred : List (DWord × Word × Nat)
  relFault : Bool
  peers : List PeerGroup
  deriving DecidableEq, Repr, Inhabited

/-- A user queue: its descriptor lies in memory (14 R273). -/
structure Queue where
  num : Nat
  ctx : Nat
  desc : Nat
  launch : Option Nat
  destroying : Bool
  deriving DecidableEq, Repr, Inhabited

/-- A hardware queue slot (14 R275, R276). -/
structure HwSlot where
  queue : Option Nat
  slice : Nat
  active : Nat
  /-- The piers that each pre-emption of the slot still vacates (14 R290). -/
  preempt : List (List Nat)
  /-- The piers that were pre-empted for what the slot's queue has waiting (14 R276). -/
  chosen : List Nat
  /-- Pre-empted for another queue: unmapped once its launch has no deck resident (14 R275). -/
  leaving : Bool
  deriving DecidableEq, Repr, Inhabited

/-- An operand-latch entry (01 R34): span, register, clause (its next header) and issues left. -/
structure Latch where
  span : Nat
  reg : Nat
  next : Nat
  left : Nat
  deriving DecidableEq, Repr, Inhabited

/-- A pier (00 R1-R3, 01 R23, R27, R34, 08 R191, 09 R228, 21 R390). `mtx` is an M pier's matrix unit; `growQ` holds span and request;
`macs` are multiply-accumulates not yet counted. -/
structure Pier where
  pool : Nat
  growQ : List (Nat × Nat)
  last : List (Option (Nat × Nat))
  latch : List (List Latch)
  mtx : Option Matrix
  owner : Option Nat
  clearing : Bool
  macs : Nat
  cnt : List DWord
  sel : List Word
  deriving DecidableEq, Repr, Inhabited

/-- A spawned item (14 R286). `issue` and `lane` name the spawn and the lane it came from, `deck` its deck (14 R288, R395). -/
structure Item where
  ctx : Nat
  launch : Nat
  entry : Nat
  payload : List Word
  issue : Nat
  lane : Nat
  deck : Nat
  deriving DecidableEq, Repr, Inhabited

/-- A compute segment (14 R271, 21 R377-R385). -/
structure Seg where
  spawnQ : List Item
  /-- The context whose overflow ring was served last (14 R286). -/
  served : Nat
  emitted : List (List Item)
  level : Nat
  chosen : Nat
  powerCap : Nat
  currentCap : Nat
  thermalCap : Nat
  volt : Nat
  uvoff : Nat
  power : Nat
  current : Nat
  restoring : Bool
  /-- Times of corrected errors, and whether each was the HBM's (21 R382, R383). -/
  corrected : List (Nat × Bool)
  uncorrected : Nat
  cnt : List DWord
  sel : List Word
  deriving DecidableEq, Repr, Inhabited

/-- Where a byte lies once an address has been resolved. -/
inductive Loc where
  | dev (pa : Nat)
  | host (ha : Nat)
  | deck (uid off : Nat)
  | priv (uid lane off : Nat)
  deriving DecidableEq, Repr, Inhabited

/-- One lane's access of an outstanding instruction. -/
structure Acc where
  lane : Nat
  loc : Loc
  size : Nat
  mtype : Nat
  /-- Data to store, operand of an atomic (low word first), comparand. -/
  data : List Byte
  cmp : DWord
  /-- The address that was accessed, and the scope a store releases at (15 R311, 10 R256). -/
  va : DWord
  rel : Nat
  deriving DecidableEq, Repr, Inhabited

/-- Outstanding engine copy (07 R178-R189): `desc` the descriptor's 128 bytes as a number, `op` 0 tcopy, 1 tsparse, 2 tgather,
3 tscatter, 4 tfill, 5 tcoll, `next` the next piece. `wins` are the girder's deck windows as they stood at issue. -/
structure CopyOp where
  ctx : Nat
  launch : Nat
  deck : Nat
  op : Nat
  desc : BitVec 1024
  pc : Nat
  tl : Nat
  num : Nat
  /-- Pieces of the copy, and the next one to land. -/
  total : Nat
  next : Nat
  suspended : Bool
  /-- Chooses the free values of this copy: what the other devices' members of its collective supply (07 R188; log 13). -/
  seed : Nat
  /-- A collective's last member has joined; the members disagree (07 R188). -/
  joined : Bool
  bad : Bool
  /-- Its peer group changed or a peer failed: the fault has still to be raised (20 R372). -/
  cut : Bool
  /-- Its span was aborted while it was suspended: its peers still read its source, and it lands and completes nothing (log 29). -/
  dead : Bool
  wins : List (Nat × Nat)
  /-- Indices and metadata nibbles that the copy has read, by row or group (07 R184-R186). -/
  memo : List (Nat × Nat)
  deriving DecidableEq, Repr, Inhabited

/-- Outstanding fill (08 R195-R197): `total` rows, `planes` the arrangement's plane count, `kblocks` its K / 64. -/
structure FillOp where
  ctx : Nat
  launch : Nat
  deck : Nat
  pc : Nat
  word : Word
  va : Nat
  total : Nat
  next : Nat
  suspended : Bool
  planes : Nat
  kblocks : Nat
  wins : List (Nat × Nat)
  deriving DecidableEq, Repr, Inhabited

/-- What an outstanding piece of work is. -/
inductive WorkKind where
  | load (sz : BitVec 3)
  | store
  | atomic (op : BitVec 4) (cas : Bool) (wide : Bool)
  | reply (vals : List (Nat × DWord)) (wide : Bool)
  | red (op : BitVec 4)
  /-- `redx` with its binary point. -/
  | redx (f : Nat)
  /-- One lane's `cpl`: tag, destination offset, valid count, the bytes read with whether they are poisoned; `accs` are its source bytes
  still to be read (07 R175, 10 R257). -/
  | cpl (tag dst v : Nat) (data : Option (List Byte × Bool))
  /-- A `cvts` whose scale read is outstanding: its word, slot and the lanes' operands (06 R128). -/
  | scale (f : FormCvts) (slot : BitVec 256) (vals : List (Nat × Word × DWord))
  | copy (c : CopyOp)
  /-- `mxload` and `mxarow` (08 R195, R196). -/
  | load8 (f : FillOp)
  | rows (f : FillOp)
  /-- A landed `stgacq` turn (09 R235): ring, slot, whether producer, offset. -/
  | ring (n slot : Nat) (prod : Bool) (off : Word)
  /-- The completion number of a copy that completed while its deck was saved: the token is written when the deck arrives (14 R292; log 81). -/
  | token (num : Nat)
  deriving DecidableEq, Repr, Inhabited

/-- Outstanding work of an issued instruction: its destinations are pending (01 R33). -/
structure Work where
  id : Nat
  span : Nat
  lanes : LaneSet
  dsts : List Nat
  resv : Nat
  accs : List Acc
  kind : WorkKind
  /-- The instruction, which a POISON at its data read replays (15 R301). -/
  iss : Option Issue
  deriving DecidableEq, Repr, Inhabited

/-- The mailbox (20 R365). -/
structure Mailbox where
  opcode : Nat
  busy : Bool
  code : Nat
  args : List Byte
  result : List Byte
  /-- A command in two steps has begun: DESTROY_QUEUE, INVALIDATE (20 R366). -/
  begun : Bool
  deriving DecidableEq, Repr, Inhabited

/-- Event ring control (20 R368). -/
structure EventRing where
  base : DWord
  count : Word
  wr : Word
  rd : Word
  lost : Word
  recent : List (List Byte)
  deriving DecidableEq, Repr, Inhabited

/-- The management registers that are not a segment's or a pier's (21 R378). -/
structure Mgmt where
  plimit : Nat
  pkgpwr : Nat
  quantum : Nat
  floor : List Nat
  uven : BitVec 8
  uvthr : Nat
  tslope : List (BitVec 16)
  refmap : DWord
  refsync : Bool
  /-- The blocks that the bitmap read at REFSYNC declares, until they are applied (21 R387). -/
  nextOff : List Nat
  pierSel : Nat
  cnt : List DWord
  sel : List Word
  deriving DecidableEq, Repr, Inhabited

/-- Firmware and link state (20 R362, R363, R373). -/
structure Trust where
  flash : List Byte
  running : List Byte
  booted : Bool
  recovery : Bool
  boots : Nat
  debugged : Bool
  linkWidth : Nat
  ide : List Byte
  ats : Bool
  pri : Bool
  deriving DecidableEq, Repr, Inhabited

/-- A word's earlier value, replaced by a write: where the word lies, the value, when, by the numbers given to launches, and the model's
step from which no fetch returns it any more (10 R255, 16 R337). -/
structure Patch where
  key : Nat
  old : Word
  when_ : Nat
  until_ : Nat
  deriving DecidableEq, Repr, Inhabited

/-- A completion word that a forced reset owes while the host is asked for its page (14 R281, 20 R371). -/
structure Owed where
  ctx : Nat
  queue : Nat
  rdidx : Nat
  compl : Nat
  status : Nat
  deriving DecidableEq, Repr, Inhabited

/-- A release wave waiting on a truss (21 R381): spans with the barrier they leave. -/
structure Wave where
  spans : List (Nat × Nat)
  deriving DecidableEq, Repr, Inhabited

/-- The machine. -/
structure State where
  /-- Host inputs and timing choices to come, and the issues picked and not yet performed (log 1). -/
  agenda : List Instr
  issuing : List Issue
  cur : Option Issue
  /-- The model's counters for free values, names and work (log 1, 3). -/
  steps : Nat
  free : Nat
  fresh : Nat
  time : Nat
  mem : Memory
  hostMem : Memory
  poison : List Nat
  /-- Release owners of 128-byte lines, and the context that wrote a line in L2: lines of host memory from 2^32 on (10 R256, 21 R385). -/
  owners : List (Nat × Nat)
  writers : List (Nat × Nat)
  /-- Earlier values of words that lanes, engines and the host have written, newest first: a fetch may still return one (16 R337). -/
  code : List Patch
  spans : List Span
  decks : List Deck
  girders : List Girder
  launches : List Launch
  ctxs : List Context
  queues : List Queue
  hw : List HwSlot
  piers : List Pier
  segs : List Seg
  waves : List (List Wave)
  /-- For each truss, where among its eight piers its broadcast bus goes on with its round (09 R237). -/
  bus : List Nat
  works : List Work
  owed : List Owed
  mail : Mailbox
  events : EventRing
  msix : List Nat
  mgmt : Mgmt
  trust : Trust
  refreshOff : List Nat
  ats : List (Nat × Option Nat)
  atsAsked : List Nat
  /-- Outstanding page requests that no span waits for any more, by the span that sent them (20 R371). -/
  prgLoose : List Nat
  deriving DecidableEq, Repr, Inhabited

/-- A memory with nothing listed. -/
def Memory.empty : Memory := ⟨[]⟩

/-- The matrix unit after a clear (08 R192). -/
def Matrix.clear : Matrix :=
  { weights := .empty, valid := List.replicate 32 0#64, arr := none, planes := 0, rows := .empty,
    pa := List.replicate 96 0, poisonW := [], poisonR := [] }

/-- A pier after reset: 24,576 free octet slots, nothing resident; the M piers have a matrix unit (00 R1). -/
def Pier.reset : Pier :=
  { pool := 24576, growQ := [], last := List.replicate 4 none, latch := List.replicate 4 [], mtx := none,
    owner := none, clearing := false, macs := 0, cnt := List.replicate 8 0#64, sel := List.replicate 8 0#32 }

/-- A segment after reset: level 4 at 620 mV (21 R378). -/
def Seg.reset : Seg :=
  { spawnQ := [], served := 0, emitted := [], level := 4, chosen := 4, powerCap := 7, currentCap := 7,
    thermalCap := 7, volt := 620, uvoff := 0, power := 0, current := 0, restoring := false, corrected := [],
    uncorrected := 0, cnt := List.replicate 16 0#64, sel := List.replicate 16 0#32 }

/-- Management registers after reset (21 R378, R381). -/
def Mgmt.reset : Mgmt :=
  { plimit := 2000, pkgpwr := 0, quantum := 100, floor := List.replicate 8 4, uven := 0#8, uvthr := 16,
    tslope := List.replicate 36 0x0410#16, refmap := 0#64, refsync := false, nextOff := [], pierSel := 0,
    cnt := List.replicate 32 0#64, sel := List.replicate 32 0#32 }

/-- The machine right after reset: nothing created, nothing resident; the boot of 20 R373 is still to come. -/
def State.reset : State :=
  { agenda := [], issuing := [], cur := none, steps := 0, free := 0, fresh := 1, time := 0, mem := .empty,
    hostMem := .empty, poison := [], owners := [], writers := [], code := [], spans := [], decks := [], girders := [], launches := [], ctxs := [],
    queues := [], hw := List.replicate 64 ⟨none, 0, 0, [], [], false⟩, piers := List.replicate 160 { Pier.reset with mtx := some .clear } ++ List.replicate 128 .reset,
    segs := List.replicate 8 .reset, waves := List.replicate 36 [], bus := List.replicate 36 0, works := [], owed := [],
    mail := { opcode := 0, busy := false, code := 0, args := List.replicate 128 0#8, result := List.replicate 128 0#8, begun := false },
    events := { base := 0#64, count := 0#32, wr := 0#32, rd := 0#32, lost := 0#32, recent := [] },
    msix := [0, 0], mgmt := .reset,
    trust := { flash := Config.factoryFlash, running := [], booted := false, recovery := false, boots := 0,
               debugged := false, linkWidth := 16, ide := [], ats := false, pri := false },
    refreshOff := [], ats := [], atsAsked := [], prgLoose := [] }

end Sys2Proof.Machine
end

