-- ==== Sys2Proof/Machine/Bytes.lean ====
section
/-! DEFINITION. Byte strings, byte memory and the lookup and replacement of the state's named parts. -/

namespace Sys2Proof.Machine

/-- A byte of memory; an unlisted one reads as zero (log 2). -/
def readCells : List Host.Cell → Nat → Byte
  | [], _ => 0#8
  | (k, v) :: t, a => if k = a then v else readCells t a

/-- Write one byte and keep the canonical form. -/
def writeCells : List Host.Cell → Nat → Byte → List Host.Cell
  | [], a, b => if b = 0#8 then [] else [(a, b)]
  | (k, v) :: t, a, b =>
    if k < a then (k, v) :: writeCells t a b
    else if k = a then (if b = 0#8 then t else (a, b) :: t)
    else (if b = 0#8 then (k, v) :: t else (a, b) :: (k, v) :: t)

/-- Addresses strictly rising from lo, and no byte equal to what an unlisted address reads as. -/
def cellsWf : Nat → List Host.Cell → Bool
  | _, [] => true
  | lo, (k, v) :: t => decide (lo ≤ k) && v != 0#8 && cellsWf (k + 1) t

def Memory.read (m : Memory) (a : Nat) : Byte := readCells m.cells a
def Memory.write (m : Memory) (a : Nat) (b : Byte) : Memory := ⟨writeCells m.cells a b⟩
/-- The canonical form. -/
def Memory.wf (m : Memory) : Bool := cellsWf 0 m.cells
/-- Zeros from lo up to hi. -/
def Memory.clear (m : Memory) (lo hi : Nat) : Memory := ⟨m.cells.filter (fun c => decide (c.1 < lo) || decide (hi ≤ c.1))⟩
/-- Bytes from address a upward. -/
def Memory.writeBytes (m : Memory) : Nat → List Byte → Memory
  | _, [] => m
  | a, b :: bs => (m.write a b).writeBytes (a + 1) bs
/-- n bytes from address a upward. -/
def Memory.readBytes (m : Memory) (a n : Nat) : List Byte := (List.range n).map (fun i => m.read (a + i))

/-- A byte string as a number, little-endian (02 R37). -/
def bytesNat : List Byte → Nat
  | [] => 0
  | b :: bs => b.toNat + 256 * bytesNat bs
/-- The n low bytes of a number, little-endian. -/
def natBytes : Nat → Nat → List Byte
  | 0, _ => []
  | n + 1, v => BitVec.ofNat 8 v :: natBytes n (v / 256)

/-- Bits hi down to lo of a number. -/
def bitsOf (v lo len : Nat) : Nat := v / 2 ^ lo % 2 ^ len
/-- A number's bit. -/
def bitOf (v i : Nat) : Bool := v.testBit i

/-- A number's two's-complement value in n bits. -/
def signedOf (n v : Nat) : Int := if v % 2 ^ n < 2 ^ (n - 1) then ((v % 2 ^ n : Nat) : Int) else ((v % 2 ^ n : Nat) : Int) - 2 ^ n

/-- The members that satisfy p, with a replacement. -/
def replaceWhere (p : α → Bool) (v : α) (l : List α) : List α := l.map (fun x => if p x then v else x)

/-- Change the element at place i. -/
def modAt (l : List α) (i : Nat) (f : α → α) : List α := l.modify i f

namespace State

def span? (s : State) (u : Nat) : Option Span := s.spans.find? (fun x => x.uid == u)
def deck? (s : State) (u : Nat) : Option Deck := s.decks.find? (fun x => x.uid == u)
def girder? (s : State) (u : Nat) : Option Girder := s.girders.find? (fun x => x.uid == u)
def launch? (s : State) (u : Nat) : Option Launch := s.launches.find? (fun x => x.uid == u)
def ctx? (s : State) (n : Nat) : Option Context := s.ctxs.find? (fun x => x.num == n)
def queue? (s : State) (n : Nat) : Option Queue := s.queues.find? (fun x => x.num == n)
def pier (s : State) (p : Nat) : Pier := (s.piers[p]?).getD .reset
def seg (s : State) (k : Nat) : Seg := (s.segs[k]?).getD .reset
def work? (s : State) (i : Nat) : Option Work := s.works.find? (fun x => x.id == i)

def modSpan (s : State) (u : Nat) (f : Span → Span) : State :=
  { s with spans := s.spans.map (fun x => if x.uid == u then f x else x) }
def modDeck (s : State) (u : Nat) (f : Deck → Deck) : State :=
  { s with decks := s.decks.map (fun x => if x.uid == u then f x else x) }
def modGirder (s : State) (u : Nat) (f : Girder → Girder) : State :=
  { s with girders := s.girders.map (fun x => if x.uid == u then f x else x) }
def modLaunch (s : State) (u : Nat) (f : Launch → Launch) : State :=
  { s with launches := s.launches.map (fun x => if x.uid == u then f x else x) }
def modCtx (s : State) (n : Nat) (f : Context → Context) : State :=
  { s with ctxs := s.ctxs.map (fun x => if x.num == n then f x else x) }
def modQueue (s : State) (n : Nat) (f : Queue → Queue) : State :=
  { s with queues := s.queues.map (fun x => if x.num == n then f x else x) }
def modPier (s : State) (p : Nat) (f : Pier → Pier) : State := { s with piers := s.piers.modify p f }
def modSeg (s : State) (k : Nat) (f : Seg → Seg) : State := { s with segs := s.segs.modify k f }
def dropWork (s : State) (i : Nat) : State := { s with works := s.works.filter (fun w => w.id != i) }
def modWork (s : State) (i : Nat) (f : Work → Work) : State :=
  { s with works := s.works.map (fun w => if w.id == i then f w else w) }
/-- A new outstanding piece of work, youngest last. -/
def addWork (s : State) (f : Nat → Work) : State := { s with works := s.works ++ [f s.fresh], fresh := s.fresh + 1 }
/-- Change the deck barrier or girder barrier n a deck's spans name (07 R165). -/
def modBar (s : State) (deck girder n : Nat) (f : Bar → Bar) : State :=
  if n < 16 then s.modDeck deck (fun d => { d with bars := d.bars.modify n f })
  else s.modGirder girder (fun g => { g with bars := g.bars.modify (n - 16) f })
/-- The spans of a deck. -/
def spansOf (s : State) (deck : Nat) : List Span := s.spans.filter (fun x => x.deck == deck)
/-- The member decks of a girder. -/
def decksOf (s : State) (girder : Nat) : List Deck := s.decks.filter (fun x => x.girder == girder)

end State

/-- A pier's matrix unit, as cleared where the pier has none. -/
def Pier.unit (p : Pier) : Matrix := p.mtx.getD .clear

/-- Segment, grade and truss of a pier (00 R2). -/
def segOf (pier : Nat) : Nat := if pier < 160 then pier / 40 else 4 + (pier - 160) / 32
def gradeOf (pier : Nat) : Grade := if pier < 160 then .m else .v
def trussOf (pier : Nat) : Nat := pier / 8
/-- The piers of a truss. -/
def piersOfTruss (t : Nat) : List Nat := (List.range 8).map (fun i => 8 * t + i)
/-- The deck memory a pier has (09 R242). -/
def deckMemOf (pier : Nat) : Nat := if pier < 160 then 256 * 1024 else 384 * 1024

end Sys2Proof.Machine
end

