-- ==== Sys2Proof/Machine/Float.lean ====
section
/-! DEFINITION. Numbers to the last bit: exact values, one rounding, and the formats of 02 R39-R52. -/

namespace Sys2Proof.Machine

/-- An exact value with the IEEE specials; `fin` is (-1)^neg * m * 2^e. -/
inductive FVal where
  | nan (neg : Bool)
  | inf (neg : Bool)
  | fin (neg : Bool) (m : Nat) (e : Int)
  deriving DecidableEq, Repr, Inhabited

/-- A binary format: exponent bits and fraction bits (02 R39, R43, R44). -/
structure Fmt where
  eb : Nat
  fb : Nat
  deriving DecidableEq, Repr, Inhabited

def Fmt.f16 : Fmt := ⟨5, 10⟩
def Fmt.bf16 : Fmt := ⟨8, 7⟩
def Fmt.f32 : Fmt := ⟨8, 23⟩
def Fmt.f64 : Fmt := ⟨11, 52⟩
def Fmt.bias (f : Fmt) : Nat := 2 ^ (f.eb - 1) - 1
def Fmt.width (f : Fmt) : Nat := f.eb + f.fb + 1
/-- The pattern of +infinity. -/
def Fmt.infBits (f : Fmt) : Nat := (2 ^ f.eb - 1) * 2 ^ f.fb
/-- The canonical quiet NaN (02 R40). -/
def Fmt.nanBits (f : Fmt) : Nat := f.infBits + 2 ^ (f.fb - 1)
def Fmt.signed (f : Fmt) (neg : Bool) (mag : Nat) : Nat := if neg then mag + 2 ^ (f.width - 1) else mag

/-- The value of a pattern (02 R39). -/
def Fmt.unpack (f : Fmt) (b : Nat) : FVal :=
  let neg := b.testBit (f.width - 1)
  let ex := bitsOf b f.fb f.eb
  let fr := bitsOf b 0 f.fb
  if ex = 2 ^ f.eb - 1 then (if fr = 0 then .inf neg else .nan neg)
  else if ex = 0 then .fin neg fr (1 - (f.bias : Int) - f.fb)
  else .fin neg (fr + 2 ^ f.fb) ((ex : Int) - f.bias - f.fb)

/-- Rounding modes (02 R52): 0 nearest even, 1 to zero, 2 down, 3 up. Whether to add one to the magnitude i with remainder r of d. -/
def roundUp (rm : Nat) (neg : Bool) (i r d : Nat) : Bool :=
  if rm = 0 then decide (d < 2 * r) || (decide (2 * r = d) && i.testBit 0)
  else if rm = 1 then false
  else if rm = 2 then neg && r != 0
  else !neg && r != 0

/-- n/d * 2^k as a quotient of naturals. -/
def scaleRat (n d : Nat) (k : Int) : Nat × Nat := if 0 ≤ k then (n * 2 ^ k.toNat, d) else (n, d * 2 ^ (-k).toNat)

/-- floor(log2(n/d)) for positive n and d. -/
def ratLog2 (n d : Nat) : Int :=
  let k := (n.log2 : Int) - d.log2
  let q := scaleRat n d (-k)
  if q.1 < q.2 then k - 1 else k

/-- Magnitude pattern of n/d * 2^e rounded once; overflow gives 2^eb-1 in the exponent field or more. -/
def Fmt.roundMag (f : Fmt) (rm : Nat) (neg : Bool) (n d : Nat) (e : Int) : Nat :=
  if n = 0 then 0 else
  let emin : Int := 1 - (f.bias : Int)
  let ex := max (ratLog2 n d + e) emin
  let q := scaleRat n d (e - (ex - f.fb))
  let i := q.1 / q.2
  let i := if roundUp rm neg i (q.1 % q.2) q.2 then i + 1 else i
  (ex + f.bias - 1).toNat * 2 ^ f.fb + i

/-- (-1)^neg * n/d * 2^e rounded into a format: IEEE overflow by the mode (02 R52). -/
def Fmt.round (f : Fmt) (rm : Nat) (neg : Bool) (n d : Nat) (e : Int) : Nat :=
  let m := f.roundMag rm neg n d e
  if m < f.infBits then f.signed neg m
  else if rm = 0 || (rm = 2 && neg) || (rm = 3 && !neg) then f.signed neg f.infBits
  else f.signed neg (f.infBits - 1)

/-- A value in a format, rounded once. -/
def Fmt.pack (f : Fmt) (rm : Nat) : FVal → Nat
  | .nan _ => f.nanBits
  | .inf neg => f.signed neg f.infBits
  | .fin neg m e => f.round rm neg m 1 e

namespace FVal

def isNan : FVal → Bool
  | nan _ => true
  | _ => false
def neg : FVal → FVal
  | nan s => nan !s
  | inf s => inf !s
  | fin s m e => fin (!s) m e
def abs : FVal → FVal
  | nan _ => nan false
  | inf _ => inf false
  | fin _ m e => fin false m e

/-- Signed integer of a finite value at exponent e0 ≤ e. -/
def atExp (s : Bool) (m : Nat) (e e0 : Int) : Int :=
  let v : Int := (m * 2 ^ (e - e0).toNat : Nat)
  if s then -v else v

/-- Exact sum; an exact zero of opposite signs is +0 (02 R41). -/
def add : FVal → FVal → FVal
  | nan _, _ => nan false
  | _, nan _ => nan false
  | inf a, inf b => if a = b then inf a else nan false
  | inf a, _ => inf a
  | _, inf b => inf b
  | fin s m e, fin t n k =>
    let e0 := min e k
    let v := atExp s m e e0 + atExp t n k e0
    if v = 0 then fin (s && t) 0 0 else fin (decide (v < 0)) v.natAbs e0

/-- Exact product (02 R41). -/
def mul : FVal → FVal → FVal
  | nan _, _ => nan false
  | _, nan _ => nan false
  | inf a, inf b => inf (a != b)
  | inf a, fin t n _ => if n = 0 then nan false else inf (a != t)
  | fin s m _, inf b => if m = 0 then nan false else inf (s != b)
  | fin s m e, fin t n k => fin (s != t) (m * n) (e + k)

/-- Multiply by 2^k. -/
def scale (k : Int) : FVal → FVal
  | fin s m e => fin s m (e + k)
  | v => v

/-- a < b and a = b for values that are not NaN. -/
def lt : FVal → FVal → Bool
  | nan _, _ => false
  | _, nan _ => false
  | inf a, inf b => a && !b
  | inf a, fin _ _ _ => a
  | fin _ _ _, inf b => !b
  | fin s m e, fin t n k =>
    let e0 := min e k
    decide (atExp s m e e0 < atExp t n k e0)
def eq : FVal → FVal → Bool
  | nan _, _ => false
  | _, nan _ => false
  | inf a, inf b => a == b
  | inf _, fin _ _ _ => false
  | fin _ _ _, inf _ => false
  | fin s m e, fin t n k =>
    let e0 := min e k
    decide (atExp s m e e0 = atExp t n k e0)
def signBit : FVal → Bool
  | nan s => s
  | inf s => s
  | fin s _ _ => s
def isZero : FVal → Bool
  | fin _ m _ => m == 0
  | _ => false

/-- fmin and fmax: one NaN gives the other operand, -0 lies below +0 (02 R41). -/
def minimum (a b : FVal) : FVal :=
  if a.isNan then b else if b.isNan then a
  else if a.lt b then a else if b.lt a then b else if a.signBit then a else b
def maximum (a b : FVal) : FVal :=
  if a.isNan then b else if b.isNan then a
  else if a.lt b then b else if b.lt a then a else if a.signBit then b else a

/-- Condition codes on floats (02 R41, 05 R91). -/
def cond (c : BitVec 3) (a b : FVal) : Bool :=
  if a.isNan || b.isNan then c == 1#3
  else if c == 0#3 then a.eq b else if c == 1#3 then !a.eq b
  else if c == 2#3 then a.lt b else if c == 3#3 then !b.lt a
  else if c == 4#3 then b.lt a else !a.lt b

/-- Rounded to an integer by mode. -/
def toIntRat (rm : Nat) (neg : Bool) (n d : Nat) (e : Int) : Int :=
  let q := scaleRat n d e
  let i := q.1 / q.2
  let i := if roundUp rm neg i (q.1 % q.2) q.2 then i + 1 else i
  if neg then -(i : Int) else i

end FVal

/-- Clamp to a range. -/
def clampInt (lo hi v : Int) : Int := if v < lo then lo else if hi < v then hi else v

/-- A float to an integer of a range: saturates, NaN gives 0 (02 R52). -/
def floatToInt (rm : Nat) (lo hi : Int) : FVal → Int
  | .nan _ => 0
  | .inf neg => if neg then lo else hi
  | .fin neg m e =>
    -- beyond 2^80 the value is out of every range, below 2^-80 only its sign and inexactness count
    let e' := if 80 < e then 80 else if e < -1200 then -1200 else e
    clampInt lo hi (FVal.toIntRat rm neg m 1 e')

/-- A square root's digits: the largest r with r*r ≤ x, by bits k-1 down to 0. -/
def isqrtBits : Nat → Nat → Nat → Nat
  | 0, _, r => r
  | k + 1, x, r => if (r + 2 ^ k) * (r + 2 ^ k) ≤ x then isqrtBits k x (r + 2 ^ k) else isqrtBits k x r
def isqrt (x : Nat) : Nat := isqrtBits (x.log2 / 2 + 1) x 0

/-- A finite positive value written with an even exponent. -/
def evenExp (m : Nat) (e : Int) : Nat × Int := if e % 2 = 0 then (m, e) else (2 * m, e - 1)

/-- The square root of a positive value, with a half unit far below the rounding place where it is not exact. -/
def sqrtVal (m : Nat) (e : Int) : FVal :=
  let x := evenExp m e
  let y := x.1 * 2 ^ 256
  let r := isqrt y
  if r * r = y then .fin false r (x.2 / 2 - 128) else .fin false (2 * r + 1) (x.2 / 2 - 129)
/-- One over the square root, likewise. -/
def rsqrtVal (m : Nat) (e : Int) : FVal :=
  let x := evenExp m e
  let y := 2 ^ 512 / x.1
  let r := isqrt y
  if r * r * x.1 = 2 ^ 512 then .fin false r (-(x.2 / 2) - 256) else .fin false (2 * r + 1) (-(x.2 / 2) - 257)

/-- A result within one unit in the last place of n/d * 2^e, chosen by the device's fixed function. Next to a power of two the choice does not
reach every value within the unit. DESIGN CHOICE (02 R42; log 12). -/
def Fmt.within (f : Fmt) (pick : Nat) (neg : Bool) (n d : Nat) (e : Int) : Nat :=
  let near := f.roundMag 0 neg n d e
  if f.infBits ≤ near then f.signed neg f.infBits else
  let lo := f.roundMag 1 neg n d e
  let hi := f.roundMag (if neg then 2 else 3) neg n d e
  if lo = hi then f.signed neg (if pick % 3 = 0 && lo != 0 then lo - 1 else if pick % 3 = 2 && lo + 1 < f.infBits then lo + 1 else lo)
  else f.signed neg (if pick % 2 = 0 then lo else min hi f.infBits)

/-- The unary operations of 02 R42 and 06 R120. -/
inductive Unary where
  | rcp | rsq | sqrt | exp2 | log2 | sin | cos
  deriving DecidableEq, Repr, Inhabited

/-- The value when a finite x is an integer. -/
def asInteger (neg : Bool) (m : Nat) (e : Int) : Option Int :=
  if m = 0 then some 0
  else if 0 ≤ e then (if 200 < e then none else some (FVal.atExp neg m e 0))
  else if (-e).toNat ≤ m.log2 && m % 2 ^ (-e).toNat = 0 then
    some (if neg then -((m / 2 ^ (-e).toNat : Nat) : Int) else (m / 2 ^ (-e).toNat : Nat))
  else none

/-- Exponent n when a positive value is exactly 2^n. -/
def powerOfTwo (m : Nat) (e : Int) : Option Int := if m = 2 ^ m.log2 then some ((m.log2 : Int) + e) else none

/-! ## The errors of the approximations (02 R42): fixed-point reals with 320 fraction bits, exact to far below any stated error -/

def fxOne : Int := 2 ^ 320
/-- ln 2. -/
def fxLn2 : Int := 0xB17217F7D1CF79ABC9E3B39803F2F6AF40F343267298B62D8A0D175B8BAAFA2BE7B876206DEBAC98
/-- 2 pi with 480 fraction bits. -/
def fxTwoPi : Int := 0x6487ED5110B4611A62633145C06E0E68948127044533E63A0105DF531D89CD9128A5043CC71A026EF7CA8CD9E69D218D98158536F92F8A1BA7F09AB6B

/-- (-1)^neg m 2^e with b fraction bits. -/
def fxFin (b : Nat) (neg : Bool) (m : Nat) (e : Int) : Int :=
  let x : Int := if 0 ≤ e + b then m * 2 ^ (e + b).toNat else m / 2 ^ (-(e + b)).toNat
  if neg then -x else x

/-- The sum of the terms t, t f(0), t f(0) f(1), ... -/
def fxSeries (n : Nat) (t : Int) (f : Nat → Int → Int) : Int :=
  ((List.range n).foldl (fun (a : Int × Int) k => (a.1 + a.2, f k a.2)) (0, t)).1

/-- 2^x for |x| below 2^8. -/
def fxExp2 (x : Int) : Int :=
  let y := x % fxOne * fxLn2 / fxOne
  let r := fxSeries 90 fxOne (fun k t => t * y / fxOne / (k + 1))
  let n := x / fxOne
  if 0 ≤ n then r * 2 ^ n.toNat else r / 2 ^ (-n).toNat
/-- log2 of a positive m 2^e. -/
def fxLog2 (m : Nat) (e : Int) : Int :=
  let z : Int := m * fxOne / 2 ^ m.log2
  let t := (z - fxOne) * fxOne / (z + fxOne)
  let ln := 2 * fxSeries 120 t (fun k x => x * t / fxOne * t / fxOne * (2 * k + 1) / (2 * k + 3))
  (m.log2 + e) * fxOne + ln * fxOne / fxLn2
/-- sin and cos of (-1)^neg m 2^e. -/
def fxAngle (neg : Bool) (m : Nat) (e : Int) : Int := fxFin 480 neg m e % fxTwoPi / 2 ^ 160
def fxSin (r : Int) : Int := fxSeries 70 r (fun k t => -(t * r / fxOne * r / fxOne) / ((2 * k + 2) * (2 * k + 3)))
def fxCos (r : Int) : Int := fxSeries 70 fxOne (fun k t => -(t * r / fxOne * r / fxOne) / ((2 * k + 1) * (2 * k + 2)))

/-- v rounded to f32. -/
def fxRound (v : Int) : Nat := Fmt.f32.pack 0 (.fin (decide (v < 0)) v.natAbs (-320))
/-- Whether an f32 pattern lies within err of v. -/
def fxWithin (w : Word) (v err : Int) : Bool :=
  match Fmt.f32.unpack w.toNat with
  | .fin neg m e => decide ((fxFin 320 neg m e - v).natAbs ≤ err.natAbs)
  | _ => false
/-- A unit in the last place of v in f32. -/
def fxUlp (v : Int) : Int := 2 ^ (max ((v.natAbs.log2 : Int) - 23) 171).toNat
/-- An opaque f32 result kept within err of v. -/
def fxNear (w : Word) (v err : Int) : Nat := if fxWithin w v err then w.toNat else fxRound v
/-- An opaque result of fexp2 kept within two units of v, never negative, and below 1 for a negative operand. -/
def exp2Near (w : Word) (neg : Bool) (v : Int) : Nat :=
  let one := Fmt.f32.pack 0 (.fin false 1 0)
  let top := if neg then one - 1 else Fmt.f32.infBits
  if decide (w.toNat ≤ top) && (fxWithin w v (2 * fxUlp v) || (w.toNat == Fmt.f32.infBits && decide (2 ^ 448 ≤ v + 2 * fxUlp v))) then w.toNat
  else min (fxRound v) top

/-- The result pattern in format f of x, whose pattern is b: f32 and f64 (02 R42). -/
def Fmt.unaryOwn (f : Fmt) (op : Unary) (b : Nat) : Nat :=
  let one := f.pack 0 (.fin false 1 0)
  match op, f.unpack b with
  | _, .nan _ => f.nanBits
  | .rcp, .inf neg => f.signed neg 0
  | .rcp, .fin neg m e =>
    if m = 0 then f.signed neg f.infBits
    else if b = one then one else f.within (Config.frcpPick f.fb b) neg 1 m (-e)
  | .rsq, .inf neg => if neg then f.nanBits else 0
  | .rsq, .fin neg m e =>
    if m = 0 then f.signed neg f.infBits
    else if neg then f.nanBits
    else if b = one then one
    else match rsqrtVal m e with
      | .fin _ n k => f.within (Config.frsqPick f.fb b) false n 1 k
      | v => f.pack 0 v
  | .sqrt, .inf neg => if neg then f.nanBits else f.infBits
  | .sqrt, .fin neg m e =>
    if m = 0 then b else if neg then f.nanBits else f.pack 0 (sqrtVal m e)
  | .exp2, .inf neg => if neg then 0 else f.infBits
  | .exp2, .fin neg m e =>
    if m = 0 then one
    else match asInteger neg m e with
      | some n =>
        if 128 ≤ n then f.infBits
        else if -149 ≤ n then f.pack 0 (.fin false 1 n)
        else exp2Near (Config.fexp2F32 (BitVec.ofNat 32 b)) true (if -256 ≤ n then fxExp2 (n * fxOne) else 0)
      | none =>
        let x := fxFin 320 neg m e
        if 128 * fxOne ≤ x then f.infBits
        else exp2Near (Config.fexp2F32 (BitVec.ofNat 32 b)) neg (if -256 * fxOne ≤ x then fxExp2 x else 0)
  | .log2, .inf neg => if neg then f.nanBits else f.infBits
  | .log2, .fin neg m e =>
    if m = 0 then f.signed true f.infBits
    else if neg then f.nanBits
    else match powerOfTwo m e with
      | some n => f.pack 0 (.fin (decide (n < 0)) n.natAbs 0)
      | none =>
        let v := fxLog2 m e
        fxNear (Config.flog2F32 (BitVec.ofNat 32 b)) v (if v.natAbs ≤ fxOne.natAbs then 2 ^ 298 else 2 * fxUlp v)
  | .sin, .inf _ => f.nanBits
  | .sin, .fin neg m e => if m = 0 then b else fxNear (Config.fsinF32 (BitVec.ofNat 32 b)) (fxSin (fxAngle neg m e)) (2 ^ 299)
  | .cos, .inf _ => f.nanBits
  | .cos, .fin neg m e => if m = 0 then one else fxNear (Config.fcosF32 (BitVec.ofNat 32 b)) (fxCos (fxAngle neg m e)) (2 ^ 299)

/-- A narrow form computes the f32 result and rounds it once (02 R42); fsqrt is correctly rounded in every format. -/
def Fmt.unary (f : Fmt) (op : Unary) (b : Nat) : Nat :=
  if f.fb < 23 then f.pack 0 (Fmt.f32.unpack (Fmt.f32.unaryOwn op (Fmt.f32.pack 0 (f.unpack b)))) else f.unaryOwn op b

/-! ## Eight-bit and four-bit floats (02 R43-R46) -/

def Fmt.e4m3 : Fmt := ⟨4, 3⟩
def Fmt.e2m1 : Fmt := ⟨2, 1⟩

def e4m3Val (b : Nat) : FVal :=
  let neg := b.testBit 7
  if b % 128 = 127 then .nan neg
  else if bitsOf b 3 4 = 0 then .fin neg (b % 8) (-9)
  else .fin neg (8 + b % 8) ((bitsOf b 3 4 : Int) - 10)

/-- The extra value is an f16 pattern (02 R44, R50). -/
def e2m1Val (extra b : Nat) : FVal :=
  if b % 16 = 8 then Fmt.f16.unpack extra
  else if bitsOf b 1 2 = 0 then .fin (b.testBit 3) (b % 2) (-1)
  else .fin (b.testBit 3) (2 + b % 2) ((bitsOf b 1 2 : Int) - 2)

/-- The exact quotient (-1)^neg n/d 2^e as an operand of an encoding. -/
structure RVal where
  neg : Bool
  n : Nat
  d : Nat
  e : Int
  deriving DecidableEq, Repr, Inhabited

/-- An exact real with the specials: what conversions round. -/
inductive XVal where
  | nan (neg : Bool)
  | inf (neg : Bool)
  | rat (r : RVal)
  deriving DecidableEq, Repr, Inhabited

def FVal.toX : FVal → XVal
  | .nan s => .nan s
  | .inf s => .inf s
  | .fin s m e => .rat ⟨s, m, 1, e⟩

/-- Whether n/d 2^e exceeds the natural k. -/
def RVal.magOver (r : RVal) (k : Nat) : Bool := let q := scaleRat r.n r.d r.e; decide (k * q.2 < q.1)

def RVal.eqF (r : RVal) : FVal → Bool
  | .fin t n k =>
    let q := scaleRat r.n r.d r.e
    let p := scaleRat n 1 k
    decide (q.1 * p.2 = p.1 * q.2) && (q.1 == 0 || r.neg == t)
  | _ => false

def encodeE4m3 (rm : Nat) : XVal → Nat
  | .nan s => Fmt.e4m3.signed s 127
  | .inf s => Fmt.e4m3.signed s 126
  | .rat r => Fmt.e4m3.signed r.neg (if r.magOver 448 then 126 else Fmt.e4m3.roundMag rm r.neg r.n r.d r.e)

def encodeE2m1 (extra rm : Nat) : XVal → Nat
  | .nan _ => 0
  | .inf s => Fmt.e2m1.signed s 7
  | .rat r =>
    if r.eqF (Fmt.f16.unpack extra) then 8
    else
      let m := if r.magOver 6 then 7 else Fmt.e2m1.roundMag rm r.neg r.n r.d r.e
      if m = 0 then 0 else Fmt.e2m1.signed r.neg m

def XVal.toFmt (f : Fmt) (rm : Nat) : XVal → Nat
  | .nan _ => f.nanBits
  | .inf s => f.signed s f.infBits
  | .rat r => f.round rm r.neg r.n r.d r.e

def XVal.toInt (rm : Nat) (lo hi : Int) : XVal → Int
  | .nan _ => 0
  | .inf s => if s then lo else hi
  | .rat r => if r.magOver (2 ^ 70) then (if r.neg then lo else hi) else clampInt lo hi (FVal.toIntRat rm r.neg r.n r.d r.e)

/-! ## Formats of a float type code: 0 f32, 1 f16, 2 bf16, 3 f64 (03 R67) -/

def fmtOf (ty : BitVec 2) : Fmt := if ty == 0#2 then .f32 else if ty == 1#2 then .f16 else if ty == 2#2 then .bf16 else .f64

/-- The class word of 06 R122. -/
def Fmt.classOf (f : Fmt) (b : Nat) : Nat :=
  let neg := b.testBit (f.width - 1)
  let ex := bitsOf b f.fb f.eb
  let fr := bitsOf b 0 f.fb
  if ex = 2 ^ f.eb - 1 then
    (if fr = 0 then (if neg then 1 else 128) else if fr.testBit (f.fb - 1) then 256 else 512)
  else if ex = 0 then
    (if fr = 0 then (if neg then 8 else 16) else (if neg then 4 else 32))
  else (if neg then 2 else 64)

/-- frnd: to an integral value of the same format, keeping the sign of a zero (06 R121). -/
def Fmt.roundIntegral (f : Fmt) (rm b : Nat) : Nat :=
  match f.unpack b with
  | .nan _ => f.nanBits
  | .inf _ => b
  | .fin neg m e => if m = 0 || 0 ≤ e then b else f.round 0 neg (FVal.toIntRat rm neg m 1 e).natAbs 1 0

/-- A contribution to FX64 (02 R49). -/
def toFx64 (f : Nat) (w : Word) : DWord :=
  match Fmt.f32.unpack w.toNat with
  | .fin neg m e => BitVec.ofInt 64 (floatToInt 0 (-(2 ^ 63)) (2 ^ 63 - 1) (.fin neg m (e + f)))
  | v => BitVec.ofInt 64 (floatToInt 0 (-(2 ^ 63)) (2 ^ 63 - 1) v)

/-- f32 addition, rounded once (02 R40, R41). -/
def addF32 (a b : Word) : Word :=
  BitVec.ofNat 32 (Fmt.f32.pack 0 ((Fmt.f32.unpack a.toNat).add (Fmt.f32.unpack b.toNat)))
def minF32 (a b : Word) : Word :=
  BitVec.ofNat 32 (Fmt.f32.pack 0 ((Fmt.f32.unpack a.toNat).minimum (Fmt.f32.unpack b.toNat)))
def maxF32 (a b : Word) : Word :=
  BitVec.ofNat 32 (Fmt.f32.pack 0 ((Fmt.f32.unpack a.toNat).maximum (Fmt.f32.unpack b.toNat)))

end Sys2Proof.Machine
end

