-- ==== Sys2Proof/Machine/Operands.lean ====
section
/-! DEFINITION. The operand forms: which general registers an instruction reads (the columns of a replay entry, 15 R307), which it
writes, and which it names for the scoreboard (01 R33). -/

namespace Sys2Proof.Machine

def one (r : Reg) : List Nat := [r.toNat]
def two (r : Reg) : List Nat := [r.toNat, r.toNat + 1]
def four (r : Reg) : List Nat := [r.toNat, r.toNat + 1, r.toNat + 2, r.toNat + 3]
/-- n registers from d. -/
def regRange (d n : Nat) : List Nat := (List.range n).map (d + ·)
/-- One register, or a pair where wide. -/
def oneOrTwo (wide : Bool) (r : Reg) : List Nat := if wide then two r else one r
def srcOne : SrcB → List Nat
  | .reg r => one r
  | .lit _ => []
def srcTwo : SrcB → List Nat
  | .reg r => two r
  | .lit _ => []
def srcWide (wide : Bool) (b : SrcB) : List Nat := if wide then srcTwo b else srcOne b
/-- Address registers of a space (03 R61). -/
def addrRegs (sp : BitVec 2) (a : Reg) : List Nat := oneOrTwo (sp == 0#2 || sp == 1#2) a
/-- Data registers of a size code (07 R147). -/
def dataRegs (sz : BitVec 3) (d : Reg) : List Nat := if sz == 5#3 then two d else if sz == 6#3 then four d else one d

/-! A format slot's fields (02 R50). -/
def slotFmt (v : BitVec 256) : Nat := (v.extractLsb' 80 4).toNat
def slotPlanes (v : BitVec 256) : Nat := (v.extractLsb' 84 4).toNat
def slotMode (v : BitVec 256) : Nat := (v.extractLsb' 88 2).toNat
def slotShift (v : BitVec 256) : Int := (v.extractLsb' 90 6).toInt
def slotAddr (v : BitVec 256) : Nat := (v.extractLsb' 128 57).toNat
def slotExtra (v : BitVec 256) : Nat := (v.extractLsb' 64 16).toNat
def slotZero (v : BitVec 256) : Int := (v.extractLsb' 32 32).toInt
def slotScale (v : BitVec 256) : Word := v.extractLsb' 0 32

def cvtsI (f : FormCvts) : Reg := f.lit.extractLsb' 0 7
def cvtsJ (f : FormCvts) : Reg := f.lit.extractLsb' 7 7
def cvtsNb (f : FormCvts) : Nat := (f.lit.extractLsb' 14 16).toNat

/-- The registers a cvts reads (06 R393). Of an illegal decode with a = v127 the second register of the pair is numbered 128, which names none:
it reads as 0. DESIGN CHOICE (log 92). -/
def cvtsRegs (slots : List (BitVec 256)) (f : FormCvts) : List Nat :=
  let v := slots.getD f.slot.toNat 0#256
  oneOrTwo (if f.enc then f.ftype == 11#4 else slotFmt v == 9) f.a ++
  (if slotMode v == 0 then [] else if slotMode v == 1 then one (cvtsI f) else one (cvtsI f) ++ one (cvtsJ f))

/-- General registers whose values the instruction reads. -/
def srcRegs (slots : List (BitVec 256)) : Instr → List Nat
  | .add f | .sub f | .mul f | .mulh f | .min f | .max f | .and f | .or f | .xor f | .andn f => one f.a ++ srcOne f.b
  | .shl f | .shr f | .sar f | .rot f | .bfx f | .lea f => one f.a ++ srcOne f.b
  | .mad f | .fshl f | .fshr f | .bfi f | .permb f => one f.a ++ srcOne f.b ++ one f.d
  | .madw f => one f.a ++ srcOne f.b ++ two f.d
  | .abs f | .not f | .mov f | .popc f | .clz f | .ctz f | .brev f => one f.a
  | .cmp f => one f.a ++ srcOne f.b
  | .add64 f | .sub64 f => two f.a ++ srcTwo f.b
  | .shl64 f | .shr64 f => two f.a ++ srcOne f.b
  | .cmp64 f => two f.a ++ srcTwo f.b
  | .addc _ f | .subb _ f | .sel _ f => one f.a ++ srcOne f.b
  | .addImm f | .mulImm f | .andImm f | .orImm f | .xorImm f | .shlImm f | .shrImm f | .sarImm f | .rotImm f
  | .minI32Imm f | .minN32Imm f | .maxI32Imm f | .maxN32Imm f => one f.a
  | .cmpI32Imm f | .cmpN32Imm f => one f.a
  | .cvt _ a src _ _ => oneOrTwo (wideType src) a
  | .cvts f => cvtsRegs slots f
  | .planex f => two f.a ++ srcOne f.b ++ (if f.x then [] else one f.d)
  | .planep f | .qnt f | .shfl f | .bcast f => one f.a ++ srcOne f.b
  | .vote _ a _ => one a
  | .lred f | .lscan f => oneOrTwo (f.ty == 3#4 || f.ty == 7#4) f.a
  | .lminx f | .lmaxx f => two f.a
  | .laneMatch f => oneOrTwo f.x f.a
  | .isect f | .union f => two f.a ++ two f.b ++ two f.d
  | .bpfx f => two f.a ++ one f.b
  | .fadd f | .fsub f | .fmul f | .fmin f | .fmax f => oneOrTwo (f.ty == 3#2) f.a ++ srcWide (f.ty == 3#2) f.b
  | .ffma f => oneOrTwo (f.ty == 3#2) f.a ++ srcWide (f.ty == 3#2) f.b ++ oneOrTwo (f.ty == 3#2) f.d
  | .fcmp f => oneOrTwo (f.ty == 3#2) f.a ++ srcWide (f.ty == 3#2) f.b
  | .fneg f | .fabs f | .frcp f | .frsq f | .fsqrt f | .fexp2 f | .flog2 f | .fsin f | .fcos f | .fclass f | .frnd f _ =>
    oneOrTwo (f.ty == 3#2) f.a
  | .fscale f => oneOrTwo (f.ty == 3#2) f.a ++ srcOne f.b
  | .fdot2 f => one f.a ++ srcOne f.b ++ one f.d
  | .shrink f => one f.a ++ one f.b
  | .mset _ a _ => one a
  | .mskput _ a _ | .brai a _ | .calli a _ => two a
  | .pushv d n => regRange d.toNat n.toNat
  | .ld f => addrRegs f.sp f.a
  | .st f => addrRegs f.sp f.a ++ dataRegs f.sz f.d
  | .lduC f => one f.a
  | .lduG f => two f.a
  | .ldxG f => two f.a ++ srcOne f.b
  | .ldxD f => one f.a ++ srcOne f.b
  | .stxG f => two f.a ++ srcOne f.b ++ dataRegs f.sz f.d
  | .stxD f => one f.a ++ srcOne f.b ++ dataRegs f.sz f.d
  | .atom op f | .red op f => addrRegs f.sp f.a ++ srcWide (wideAtomic op) f.b
  | .atomcasN32 f => addrRegs f.sp f.a ++ srcOne f.b ++ one f.d
  | .atomcasN64 f => addrRegs f.sp f.a ++ srcTwo f.b ++ two f.d
  | .redx f => two f.a ++ srcOne f.b
  | .pref a _ => two a
  | .acq f | .acqr f => addrRegs f.sp f.a
  | .rel f => addrRegs f.sp f.a ++ dataRegs f.size f.d
  | .cctl a op _ => if op.toNat ≤ 1 then two a else []
  | .p2g _ a b x => one a ++ (if x then srcOne b else [])
  | .qspace _ a => two a
  | .barwait _ b | .barexp _ b | .barset _ b => srcOne b
  | .stgrel _ a => one a.reg
  | .tlwait _ b => srcTwo b.src
  | .cpl a b c _ => one a ++ two b ++ one c
  | .tcopy _ b | .tsparse _ b | .tgather _ b | .tscatter _ b | .tfill _ b | .tcoll _ b => two b
  | .mxload a b | .mxarow a b => two a ++ one b
  | .mxsign a _ _ _ => one a
  | .mxmma a _ | .mxsave a _ _ => two a
  | .spawn e p | .spawnTry e p _ => two e ++ four p
  | .plvl a | .csrw a _ => one a
  | .entw a b => two a ++ two b
  | .waitgp a => two a
  | .dfree _ a b => two a ++ one b
  | _ => []

/-- Source registers that the instruction reads in the lowest lane of its executing set only. -/
def lowRegs : Instr → List Nat
  | .planep f | .qnt f | .bcast f => srcOne f.b
  | .shrink f => one f.a ++ one f.b
  | .mskput _ a _ | .mxmma a _ | .mxsave a _ _ | .waitgp a => two a
  | .lduC f => one f.a
  | .lduG f => two f.a
  | .barexp _ b | .barset _ b => srcOne b
  | .stgrel _ a => one a.reg
  | .tcopy _ b | .tsparse _ b | .tgather _ b | .tscatter _ b | .tfill _ b | .tcoll _ b => two b
  | .mxload a b | .mxarow a b => two a ++ one b
  | .mxsign a _ _ _ => one a
  | .entw a b => two a ++ two b
  | _ => []

/-- Source registers that every lane of the executing set reads in its own lane. -/
def laneRegs (slots : List (BitVec 256)) (i : Instr) : List Nat :=
  match i with
  | .planep f | .qnt f => one f.a
  | .bcast _ => []
  | .shfl f => srcOne f.b
  | i => if lowRegs i == [] then srcRegs slots i else []

/-- The source lane of shfl (06 R133). -/
def shflLane (mode : BitVec 2) (w l c : Nat) : Nat :=
  if mode == 0#2 then c % w
  else if mode == 1#2 then (if c ≤ l then l - c else l)
  else if mode == 2#2 then (if l + c < w then l + c else l)
  else l ^^^ (c % w)

/-- General registers the instruction writes. -/
def dstRegs : Instr → List Nat
  | .add f | .sub f | .mul f | .mulh f | .mad f | .min f | .max f | .and f | .or f | .xor f | .andn f => one f.d
  | .shl f | .shr f | .sar f | .rot f | .fshl f | .fshr f | .bfx f | .bfi f | .permb f | .lea f => one f.d
  | .madw f => two f.d
  | .abs f | .not f | .mov f | .popc f | .clz f | .ctz f | .brev f => one f.d
  | .movl d _ _ => one d
  | .add64 f | .sub64 f | .shl64 f | .shr64 f => two f.d
  | .addc _ f | .subb _ f | .sel _ f => one f.d
  | .addImm f | .mulImm f | .andImm f | .orImm f | .xorImm f | .shlImm f | .shrImm f | .sarImm f | .rotImm f
  | .minI32Imm f | .minN32Imm f | .maxI32Imm f | .maxN32Imm f => one f.d
  | .cvt d _ _ dst _ => oneOrTwo (wideType dst) d
  | .cvts f => oneOrTwo (!f.enc && f.ftype == 11#4) f.d
  | .planex f | .shfl f | .bcast f => one f.d
  | .planep f | .qnt f => two f.d
  | .vote d _ m => oneOrTwo (m == 2#2) d
  | .lred f | .lscan f => oneOrTwo (f.ty == 3#4 || f.ty == 7#4) f.d
  | .lminx f | .lmaxx f | .laneMatch f => two f.d
  | .isect f | .union f => two f.d
  | .bpfx f => one f.d
  | .fadd f | .fsub f | .fmul f | .ffma f | .fmin f | .fmax f | .fscale f => oneOrTwo (f.ty == 3#2) f.d
  | .fdot2 f => one f.d
  | .fneg f | .fabs f | .frcp f | .frsq f | .fsqrt f | .fexp2 f | .flog2 f | .fsin f | .fcos f | .frnd f _ =>
    oneOrTwo (f.ty == 3#2) f.d
  | .fclass f => one f.d
  | .shq d _ | .mpopc d _ | .mfind d _ => one d
  | .shforce d n _ | .shpack d n | .popv d n => regRange d.toNat n.toNat
  | .shrink f => one f.d
  | .mskget d _ => two d
  | .ld f => dataRegs f.sz f.d
  | .lduC f | .lduG f => dataRegs f.sz f.d
  | .ldxG f | .ldxD f => dataRegs f.sz f.d
  | .atom op f => oneOrTwo (wideAtomic op) f.d
  | .atomcasN32 f => one f.d
  | .atomcasN64 f => two f.d
  | .acq f | .acqr f => dataRegs f.size f.d
  | .p2g d _ _ _ => two d
  | .qspace d _ | .bararr d _ | .stgacq d _ => one d
  | .tlread d _ => two d
  | .tagcnt a _ => one a
  | .tcopy a _ | .tsparse a _ | .tgather a _ | .tscatter a _ | .tfill a _ | .tcoll a _ => one a
  | .tstat a _ => two a
  | .mxsign _ b c _ => regRange b.toNat (2 * c.toNat)
  | .mxvalid a _ => two a
  | .csrr d num => oneOrTwo (csrWide num) d
  | .clock d | .gpstart d => two d
  | _ => []

/-- Destinations that another unit writes after the issue, or that acquire their slots at the issue all the same: every compact one counts
(01 R24, 07 R144). -/
def lateDsts (slots : List (BitVec 256)) (i : Instr) : List Nat :=
  match i with
  | .popv d n => regRange d.toNat n.toNat
  | .cvts f => if slotMode (slots.getD f.slot.toNat 0#256) == 0 then [] else dstRegs i
  | i => if i.cls == some .mem || i.cls == some .cpy then dstRegs i else []

/-- Whether an instruction that completes leaves its whole group at the next word: no branch, call, section, exit, return or yield, and none
that its group or its lanes may have to wait at (09 R226). -/
def fallsThrough : Instr → Bool
  | .bra _ _ | .brai _ _ | .call _ _ | .calli _ _ | .ret | .ser _ | .endser | .exit _ | .tret | .trap _ | .brk _ | .migr _ | .yield
  | .waitm _ | .bararr _ _ | .barwait _ _ | .barsync _ | .barset _ _ | .stgacq _ _ | .tlwait _ _ | .tagwait _ | .cpl _ _ _ _ | .grow _
  | .tsparse _ _ | .mxarr _ _ | .mxload _ _ | .mxarow _ _ | .mxsign _ _ _ _ | .mxmma _ _ | .mxwait _ | .mxsave _ _ _
  | .spawn _ _ | .entw _ _ | .waitgp _ => false
  | _ => true

/-- Whether an instruction reads or writes %sp (05 R108, R109, R114, 08 R206). -/
def usesStack : Instr → Bool
  | .call _ _ | .calli _ _ | .ret | .pushv _ _ | .popv _ _ => true
  | .csrr _ num | .csrw _ num => num == 0x008#10
  | _ => false

/-- Registers whose pending writes hold the instruction back (01 R33); the shape instructions name theirs without reading
values (05 R95-R98). -/
def namedRegs (slots : List (BitVec 256)) (i : Instr) : List Nat :=
  srcRegs slots i ++ dstRegs i ++
  match i with
  | .shq _ a | .shassert a _ => one a
  | _ => []

/-! Numbers of masks, keystones and tags on the scoreboard, beside the 128 general registers (01 R33). -/
def maskRes (k : Nat) : Nat := 128 + k
def keyRes (n : Nat) : Nat := 140 + n
def tagRes (t : Nat) : Nat := 148 + t
/-- The mask of a mask select, none for the select of every lane (03 R57, R61). -/
def selectRes (k : BitVec 4) : List Nat := if k == 0#4 then [] else [maskRes (k.toNat - 1)]

/-- Masks, keystones and tags that an instruction writes (01 R33). -/
def resWrites : Instr → List Nat
  | .cmp f | .cmp64 f => [maskRes f.mask.toNat]
  | .cmpI32Imm f | .cmpN32Imm f => [maskRes f.mask.toNat]
  | .fcmp f => [maskRes f.mask.toNat]
  | .addc k _ | .subb k _ => [maskRes k.toNat]
  | .join k | .leave k => selectRes k
  | .mset k _ _ | .mskput k _ _ | .growTry k _ => [maskRes k.toNat]
  | .mskop _ k _ _ | .spawnTry _ _ k | .dfree k _ _ => [maskRes k.toNat]
  | .cpl _ _ _ t => [tagRes t.toNat]
  | .mxsign _ _ _ n | .mxmma _ n => [keyRes n.toNat]
  | _ => []

/-- Masks, keystones and tags that an instruction reads (01 R33). -/
def resReads : Instr → List Nat
  | .addc k _ | .subb k _ | .sel k _ => [maskRes k.toNat]
  | .waitm k | .bra k _ | .call k _ | .exit k => selectRes k
  | .mskop _ _ a b => [maskRes a.toNat, maskRes b.toNat]
  | .mpopc _ k | .mfind _ k | .mskget _ k => [maskRes k.toNat]
  | .tagwait t | .tagcnt _ t => [tagRes t.toNat]
  | .csrr _ num => if decide (0x30 ≤ num.toNat) && decide (num.toNat < 0x38) then [keyRes (num.toNat - 0x30)] else []
  | _ => []

/-- The registers a hold field keeps: those of source a and of source b. Every register of a pair is kept in an entry of its own, a's before
b's and the even one first (01 R34; log 66). -/
def heldBy (h : BitVec 2) (a b : List Nat) : List Nat := (if h.getLsbD 0 then a else []) ++ (if h.getLsbD 1 then b else [])

/-- Which registers a set hold field names (01 R34): those of field a and of field b that the instruction reads. -/
def heldRegs : Instr → List Nat
  | .add f | .sub f | .mul f | .mulh f | .mad f | .madw f | .min f | .max f | .and f | .or f | .xor f | .andn f
  | .shl f | .shr f | .sar f | .rot f | .fshl f | .fshr f | .bfx f | .bfi f | .permb f | .lea f
  | .addc _ f | .subb _ f | .sel _ f | .planep f | .qnt f | .bcast f => heldBy f.h (one f.a) (srcOne f.b)
  | .add64 f | .sub64 f => heldBy f.h (two f.a) (srcTwo f.b)
  | .shl64 f | .shr64 f | .planex f => heldBy f.h (two f.a) (srcOne f.b)
  | .abs f | .not f | .mov f | .popc f | .clz f | .ctz f | .brev f => if f.h then one f.a else []
  | .lminx f | .lmaxx f => if f.h then two f.a else []
  | .laneMatch f => if f.h then oneOrTwo f.x f.a else []
  | .cmp f => heldBy f.h (one f.a) (srcOne f.b)
  | .cmp64 f => heldBy f.h (two f.a) (srcTwo f.b)
  | .isect f | .union f => heldBy f.h (two f.a) (two f.b)
  | .bpfx f => heldBy f.h (two f.a) (one f.b)
  | .shrink f => heldBy f.h (one f.a) (one f.b)
  | .fadd f | .fsub f | .fmul f | .ffma f | .fmin f | .fmax f | .fcmp f =>
    heldBy f.h (oneOrTwo (f.ty == 3#2) f.a) (srcWide (f.ty == 3#2) f.b)
  | .fscale f => heldBy f.h (oneOrTwo (f.ty == 3#2) f.a) (srcOne f.b)
  | .fdot2 f => heldBy f.h (one f.a) (srcOne f.b)
  | .fneg f | .fabs f | .frcp f | .frsq f | .fsqrt f | .fexp2 f | .flog2 f | .fsin f | .fcos f | .fclass f | .frnd f _ =>
    if f.h then oneOrTwo (f.ty == 3#2) f.a else []
  | .lred f | .lscan f => if f.h then oneOrTwo (f.ty == 3#4 || f.ty == 7#4) f.a else []
  | .mset _ a h | .stgrel _ ⟨a, h⟩ => if h then one a else []
  | .brai a h | .calli a h => if h then two a else []
  | .tlwait _ ⟨b, h⟩ => if h then srcTwo b else []
  | _ => []

end Sys2Proof.Machine
end

