-- ==== Sys2Proof/Machine/Convert.lean ====
section
/-! DEFINITION. Conversions between the types of 03 R64 and the slots' formats as functions of values (02 R37, R46-R52, 06 R125-R128). -/

namespace Sys2Proof.Machine

/-- A value of a type code of 03 R64 read from its bits: an integer, or a float value. Of a register read as a narrow type the low bits alone
count. DESIGN CHOICE (02 R37; log 72). -/
def readType (t : BitVec 4) (lo : Word) (wide : DWord) : Int ⊕ FVal :=
  if t == 0#4 then .inl (lo.extractLsb' 0 8).toInt else if t == 1#4 then .inl (lo.extractLsb' 0 16).toInt
  else if t == 2#4 then .inl lo.toInt else if t == 3#4 then .inl wide.toInt
  else if t == 4#4 then .inl (lo.extractLsb' 0 8).toNat else if t == 5#4 then .inl (lo.extractLsb' 0 16).toNat
  else if t == 6#4 then .inl lo.toNat else if t == 7#4 then .inl wide.toNat
  else if t == 8#4 then .inr (Fmt.f16.unpack (bitsOf lo.toNat 0 16)) else if t == 9#4 then .inr (Fmt.bf16.unpack (bitsOf lo.toNat 0 16))
  else if t == 10#4 then .inr (Fmt.f32.unpack lo.toNat) else if t == 11#4 then .inr (Fmt.f64.unpack wide.toNat)
  else .inr (e4m3Val (bitsOf lo.toNat 0 8))

/-- Range of an integer type code. -/
def typeRange (t : BitVec 4) : Int × Int :=
  if t == 0#4 then (-128, 127) else if t == 1#4 then (-32768, 32767) else if t == 2#4 then (-(2 ^ 31), 2 ^ 31 - 1)
  else if t == 3#4 then (-(2 ^ 63), 2 ^ 63 - 1) else if t == 4#4 then (0, 255) else if t == 5#4 then (0, 65535)
  else if t == 6#4 then (0, 2 ^ 32 - 1) else (0, 2 ^ 64 - 1)

def floatFmt (t : BitVec 4) : Fmt := if t == 8#4 then .f16 else if t == 9#4 then .bf16 else if t == 10#4 then .f32 else .f64

/-- An exact real in a type's register form: 64 bits, extended. An integer that its integer type cannot hold saturates, whatever the widths.
DESIGN CHOICE where 02 R52 has no row (log 71) (02 R37, R46, R52, 06 R125). -/
def writeType (t : BitVec 4) (rm : Nat) (v : XVal) : DWord :=
  if t.toNat < 8 then
    let r := typeRange t
    BitVec.ofInt 64 (v.toInt rm r.1 r.2)
  else if t == 12#4 then BitVec.ofNat 64 (encodeE4m3 rm v)
  else BitVec.ofNat 64 (v.toFmt (floatFmt t) rm)

def toX : Int ⊕ FVal → XVal
  | .inl z => .rat ⟨decide (z < 0), z.natAbs, 1, 0⟩
  | .inr v => v.toX

/-- The product of two exact reals with the specials (02 R41, R51). -/
def FVal.times (a b : FVal) : FVal := a.mul b

/-- The value q of a slot format held in the low bits of register a (06 R127; log 72): q - z as an exact value. -/
def slotValue (v : BitVec 256) (lo : Word) (wide : DWord) : FVal :=
  let int (z : Int) : FVal := let q := z - slotZero v; .fin (decide (q < 0)) q.natAbs 0
  let zero : FVal := let z := -slotZero v; .fin (decide (z < 0)) z.natAbs 0
  match slotFmt v with
  | 0 => int (lo.extractLsb' 0 8).toInt
  | 1 => int (lo.extractLsb' 0 8).toNat
  | 2 => int (lo.extractLsb' 0 16).toInt
  | 3 => Fmt.f16.unpack (bitsOf lo.toNat 0 16)
  | 4 => Fmt.bf16.unpack (bitsOf lo.toNat 0 16)
  | 5 => Fmt.f32.unpack lo.toNat
  | 6 => e4m3Val (bitsOf lo.toNat 0 8)
  | 7 => if slotZero v = 0 then e2m1Val (slotExtra v) (bitsOf lo.toNat 0 4) else (e2m1Val (slotExtra v) (bitsOf lo.toNat 0 4)).add zero
  | 8 => .fin (decide (lo.toInt < 0)) lo.toInt.natAbs 0
  | _ => int wide.toInt

/-- Decode: (q - z) * s * v * 2^k, rounded once; a zero has its factors' signs together. DESIGN CHOICE in that sign (02 R51; log 73). -/
def cvtsDecode (v : BitVec 256) (sv : FVal) (ftype : BitVec 4) (rm : Nat) (lo : Word) (wide : DWord) : DWord :=
  let k : Int := slotShift v + (if slotFmt v = 8 then 8 - (slotPlanes v : Int) else 0)
  let p := (((slotValue v lo wide).times (Fmt.f32.unpack (slotScale v).toNat)).times sv).scale k
  BitVec.ofNat 64 ((floatFmt ftype).pack rm p)

/-- x / (s * v * 2^k) + z as an exact real; the sign of a zero and of a NaN that arises here is a DESIGN CHOICE (06 R127; log 73). -/
def cvtsQuotient (v : BitVec 256) (sv x : FVal) : XVal :=
  let z := slotZero v
  match x, ((Fmt.f32.unpack (slotScale v).toNat).times sv).scale (slotShift v) with
  | .nan _, _ => .nan false
  | _, .nan _ => .nan false
  | .inf _, .inf _ => .nan false
  | .inf a, .fin b _ _ => .inf (a != b)
  | .fin a _ _, .inf b =>
    if z = 0 then .rat ⟨a != b, 0, 1, 0⟩ else .rat ⟨decide (z < 0), z.natAbs, 1, 0⟩
  | .fin a m e, .fin b n k =>
    if n = 0 then (if m = 0 then .nan false else .inf (a != b))
    else if z = 0 then .rat ⟨a != b, m, n, e - k⟩
    else
      let q := scaleRat m n (e - k)
      let num : Int := (if a != b then -(q.1 : Int) else q.1) + z * q.2
      .rat ⟨decide (num < 0), num.natAbs, q.2, 0⟩

/-- Encode into the slot's format; a NaN operand keeps its sign. DESIGN CHOICE in that sign (02 R46, 06 R127; log 73). -/
def cvtsEncode (v : BitVec 256) (sv : FVal) (rm : Nat) (x : FVal) : Word :=
  let u := match x with
    | .nan s => XVal.nan s
    | _ => cvtsQuotient v sv x
  let int (lo hi : Int) : Word := BitVec.ofInt 32 (u.toInt rm lo hi)
  match slotFmt v with
  | 0 => int (-128) 127
  | 1 => int 0 255
  | 2 => int (-32768) 32767
  | 3 => BitVec.ofNat 32 (u.toFmt .f16 rm)
  | 4 => BitVec.ofNat 32 (u.toFmt .bf16 rm)
  | 5 => BitVec.ofNat 32 (u.toFmt .f32 rm)
  | 6 => BitVec.ofNat 32 (encodeE4m3 rm u)
  | 7 => BitVec.ofNat 32 (encodeE2m1 (slotExtra v) rm u)
  | _ => int (-128) 127

/-- What a `cvts` writes for a lane, from its operand's low word and pair and the scale vector's element: 64 bits, of which an encode or a
decode to a 32-bit type writes the low word (06 R127). -/
def cvtsResult (f : FormCvts) (v : BitVec 256) (sv : FVal) (lo : Word) (wide : DWord) : DWord :=
  if f.enc then
    (cvtsEncode v sv f.rm.toNat (match readType f.ftype lo wide with
      | .inr y => y
      | .inl _ => .nan false)).zeroExtend 64
  else cvtsDecode v sv f.ftype f.rm.toNat lo wide

end Sys2Proof.Machine
end

