-- ==== Sys2Proof/Machine/Ops.lean ====
section
/-! DEFINITION. The named operations over registers, masks, lanes, memory, waits and barriers, and taking a trap and returning from
one (01 R18-R36, 07 R144-R170, 09 R223-R227, 10 R242-R246, 15 R300-R314, 20 R368-R371). -/

namespace Sys2Proof.Machine

/-! ## Registers -/

/-- Value of lane l (01 R13). -/
def VReg.get (r : VReg) (l : Nat) : Word :=
  match r with
  | .uniform b => b
  | .affine b e => b + BitVec.ofNat 32 (l * 2 ^ e.toNat)
  | .vector _ vals => vals.getD l 0#32

/-- Shape code (01 R13). -/
def VReg.code : VReg → Nat
  | .uniform _ => 0
  | .affine _ _ => 1
  | .vector _ _ => 2

def VReg.isVector (r : VReg) : Bool := r.code == 2

/-- The map entry (01 R16). -/
def VReg.mapEntry : VReg → Word
  | .uniform _ => 0#32
  | .affine _ _ => 0x40000000#32
  | .vector slot _ => 0x80000000#32 ||| BitVec.ofNat 32 (slot % 2 ^ 15)

/-- Whether the values run from v0 with stride 2^e. -/
def stridesBy (v0 : Word) (e : Nat) (vals : List Word) : Bool :=
  (vals.zipIdx).all (fun x => x.1 == v0 + BitVec.ofNat 32 (x.2 * 2 ^ e))

/-- The writeback checker: the compact shape that holds all values, none for VECTOR (01 R18). -/
def checker (vals : List Word) : Option VReg :=
  let v0 := vals.headD 0#32
  if vals.all (fun v => v == v0) then some (.uniform v0)
  else match (List.range 8).find? (fun e => stridesBy v0 e vals) with
    | some e => some (.affine v0 (BitVec.ofNat 3 e))
    | none => none

namespace Span

def vreg (sp : Span) (r : Nat) : VReg := (sp.regs[r]?).getD (.uniform 0#32)
def reg (sp : Span) (r l : Nat) : Word := (sp.vreg r).get l
def setReg (sp : Span) (r : Nat) (v : VReg) : Span := { sp with regs := sp.regs.set r v }
/-- All W values of a register. -/
def vals (sp : Span) (r : Nat) : List Word := (List.range sp.width).map (sp.reg r)
/-- Octet slots of a VECTOR register (01 R13). -/
def octets (sp : Span) : Nat := sp.width / 8
/-- Spare slots (01 R23). -/
def spare (sp : Span) : Nat := sp.grant - sp.used - sp.heldSlots
def mask (sp : Span) (k : Nat) : LaneSet := sp.masks.getD k 0#64
def lane (sp : Span) (l : Nat) : Lane :=
  (sp.lanes[l]?).getD ⟨⟨0, none, false, .exited⟩, none, 0#32, 0#32, 0#4, 0, 0, none, 0, none⟩
/-- Lanes that have not exited; a lane that a handler runs on counts, though it had exited before (07 R182). -/
def live (sp : Span) : LaneSet := laneSetOf (fun l => decide (l < sp.width) && (sp.lane l).pos.st != .exited)
def modLane (sp : Span) (l : Nat) (f : Lane → Lane) : Span := { sp with lanes := sp.lanes.modify l f }
/-- Change the lanes of a set. -/
def modLanes (sp : Span) (m : LaneSet) (f : Nat → Lane → Lane) : Span :=
  { sp with lanes := sp.lanes.zipIdx.map (fun x => if hasLane m x.2 then f x.2 x.1 else x.1) }
/-- Lanes whose mask bits can be set: those that have never exited (01 R12). -/
def maskable (sp : Span) : LaneSet := sp.live &&& ~~~sp.ended
/-- Write a mask register: bits from W up and of exited lanes stay zero (01 R12). -/
def setMask (sp : Span) (k : Nat) (m : LaneSet) : Span := { sp with masks := sp.masks.set k (m &&& sp.maskable) }
def tag (sp : Span) (t : Nat) : Nat := sp.tags.getD t 0

end Span

/-- A lane's own position: what it keeps while it runs the trap handler (15 R306). -/
def Lane.own (l : Lane) : Pos := l.held.getD l.pos
/-- Change a lane's own position. -/
def Lane.setOwn (l : Lane) (p : Pos) : Lane :=
  match l.held with
  | some _ => { l with held := some p }
  | none => { l with pos := p }

/-- The position n words on (03 R56, R59). -/
def Pos.step (p : Pos) (n : Nat) : Pos :=
  let pc := p.pc + 4 * n
  { p with pc := pc, st := .standing, clause := p.clause.bind (fun c => if c.next = pc then none else some c) }

/-- Merge under a partial mask (01 R20). -/
def merge (sp : Span) (d : Nat) (new : Nat → Word) (a : LaneSet) : List Word :=
  (List.range sp.width).map (fun l => if hasLane a l then new l else sp.reg d l)

/-- Whether a write widens its destination (01 R23). -/
def widens (sp : Span) (d : Nat) (new : Nat → Word) (a : LaneSet) : Bool :=
  !(sp.vreg d).isVector && (checker (merge sp d new a)).isNone

/-- The latch entries that a span holds for the registers p admits end (01 R35). -/
def dropLatch (s : State) (sp : Span) (p : Nat → Bool) : State :=
  s.modPier ((s.deck? sp.deck).elim 0 (·.pier)) (fun x =>
    { x with latch := x.latch.map (fun q => q.filter (fun e => !(e.span == sp.uid && p e.reg))) })

/-- A write of register d lands (01 R20, R35, 21 R382). With `resv` the octet slots were taken at issue and unneeded ones
become spare (01 R24). -/
def landReg (s : State) (u d : Nat) (new : Nat → Word) (a : LaneSet) (resv : Bool) : State :=
  match s.span? u with
  | none => s
  | some sp =>
    if a == 0#64 then s else
    let m := merge sp d new a
    let r : VReg × Nat × Nat := match sp.vreg d with
      | .vector slot _ => (.vector slot m, sp.used, 0)
      | _ => match checker m with
        | some v => (v, if resv then sp.used - sp.octets else sp.used, 0)
        | none => (.vector (Config.freeSlot s.free % 24576) m, if resv then sp.used else sp.used + sp.octets, 1)
    let s := { s with free := s.free + r.2.2 }
    let s := dropLatch s sp (· == d)
    let rest := (sp.poison.map (fun q => if q.1 == d then (q.1, q.2 &&& ~~~a) else q)).filter (fun q => q.2 != 0#64)
    s.modSpan u (fun x => { x.setReg d r.1 with used := r.2.1, poison := rest })

/-- A plain trap. -/
def TrapInfo.at (cause : Nat) (addr : DWord) (lanes : LaneSet) : TrapInfo :=
  { cause := cause, addr := addr, lanes := lanes, access := 0, mtype := 0, pages := [], complete := false, past := false, boundary := none,
    entry := [], served := false, time := none }

/-- How an instruction stops short of its effect: a trap (with what it leaves), the same with octet slots that it holds acquired,
UNSUPPORTED_ON_GRADE by its own check with such slots, a wait to issue again, in the state it has not issued in and with the host page it
waits for, or the model's fault. -/
inductive Halt where
  | trap (s : State) (t : TrapInfo)
  | holding (own : Nat) (s : State) (t : TrapInfo)
  | grade (own : Nat) (s : State) (target : Grade)
  | retry (s : State) (page : Option Nat)
  | fault (f : Fault)

/-- What a completed instruction leaves to do: its lanes advance, or they have been moved already. -/
inductive Eff where
  | done (s : State)
  | moved (s : State)

abbrev Run := Except Halt

/-- A trap raised once n octet slots are acquired: the instruction holds them while its span stops (01 R24, 15 R300). -/
def owning (n : Nat) (x : Run α) : Run α :=
  match x with
  | .error (.trap s t) => .error (.holding n s t)
  | x => x

/-! ## Counters (21 R390) -/

/-- One counter's step: counts when enabled on the source, wraps modulo 2^48 with OVF. -/
def countOne (src n : Nat) (cnt : DWord) (sel : Word) : DWord × Word :=
  if sel.getLsbD 8 && (sel.extractLsb' 0 8).toNat == src then
    let v := cnt.toNat % 2 ^ 48 + n
    (BitVec.ofNat 64 (v % 2 ^ 48), if 2 ^ 48 ≤ v then sel ||| 0x200#32 else sel)
  else (cnt, sel)
def countList (src n : Nat) (cnt : List DWord) (sel : List Word) : List DWord × List Word :=
  ((cnt.zip sel).map (fun x => countOne src n x.1 x.2)).unzip
/-- A device source, or any source summed over the device. -/
def countDev (s : State) (src n : Nat) : State :=
  let r := countList src n s.mgmt.cnt s.mgmt.sel
  { s with mgmt := { s.mgmt with cnt := r.1, sel := r.2 } }
/-- A segment source, or a pier source summed over the segment. -/
def countSeg (s : State) (k src n : Nat) : State :=
  countDev (s.modSeg k (fun g => let r := countList src n g.cnt g.sel; { g with cnt := r.1, sel := r.2 })) src n
/-- A pier source. -/
def countPier (s : State) (p src n : Nat) : State :=
  countSeg (s.modPier p (fun x => let r := countList src n x.cnt x.sel; { x with cnt := r.1, sel := r.2 })) (segOf p) src n

/-- Make the grant cover `need` more slots, all or nothing (01 R23, R25); `low` is the lowest widening register. All of them count as
acquired, those that were spare too (21 R390). -/
def cover (s : State) (u need low : Nat) (a : LaneSet) : Run State :=
  match s.span? u with
  | none => .ok s
  | some sp =>
    if need = 0 then .ok s else
    let pier := (s.deck? sp.deck).elim 0 (·.pier)
    if need ≤ sp.spare then .ok (countPier s pier 0x06 need) else
    let extra := need - sp.spare
    let info (reason : Nat) := TrapInfo.at 0x000A (BitVec.ofNat 64 (need % 2 ^ 16 + low * 2 ^ 16 + reason * 2 ^ 24)) a
    if sp.ceil < sp.grant + extra then .error (.trap s (info 0))
    else if (s.pier pier).pool < extra then .error (.trap s (info 1))
    else .ok (((countPier s pier 0x06 need).modPier pier (fun p => { p with pool := p.pool - extra })).modSpan u (fun x => { x with grant := x.grant + extra }))

/-! ## The context of an executing instruction -/

/-- Everything an instruction's meaning reads. `before` is the state in which it has not issued: an instruction that is put back leaves that
one, so it has aged and counted nothing. -/
structure Ctx where
  s : State
  before : State
  sp : Span
  deck : Deck
  girder : Girder
  launch : Launch
  cx : Context
  iss : Issue

/-- Executing set (03 R59). -/
def Ctx.A (c : Ctx) : LaneSet := c.iss.aset
/-- The issuing PC group. -/
def Ctx.G (c : Ctx) : LaneSet := c.iss.gset
def Ctx.W (c : Ctx) : Nat := c.sp.width
def Ctx.u (c : Ctx) : Nat := c.iss.span
/-- The lanes of A, ascending. -/
def Ctx.lanes (c : Ctx) : List Nat := lanesOf c.A
def Ctx.low (c : Ctx) : Nat := lowestLane c.A

/-- The launch's private size, its grid and shape fields (14 R278, R279). -/
def Launch.width (l : Launch) : Nat := 8 * 2 ^ (l.shapew.extractLsb' 0 2).toNat
def Launch.spans (l : Launch) : Nat := (l.shapew.extractLsb' 2 5).toNat + 1
def Launch.girderSize (l : Launch) : Nat := (l.shapew.extractLsb' 7 3).toNat + 1
def Launch.grade (l : Launch) : Nat := (l.shapew.extractLsb' 10 2).toNat
def Launch.preload (l : Launch) : Nat := (l.shapew.extractLsb' 12 7).toNat
def Launch.parkable (l : Launch) : Bool := l.shapew.getLsbD 19
def Launch.determ (l : Launch) : Bool := l.shapew.getLsbD 20
/-- Timeline k's binding: bound, engine kind (14 R278, R282). -/
def Launch.tlBound (l : Launch) (k : Nat) : Bool := l.tlbind.getLsbD (3 * k + 2)
def Launch.tlKind (l : Launch) (k : Nat) : Nat := (l.tlbind.extractLsb' (3 * k) 2).toNat

def ctxOf (s : State) (iss : Issue) : Option Ctx := do
  let sp ← s.span? iss.span
  let deck ← s.deck? sp.deck
  let girder ← s.girder? deck.girder
  let launch ← s.launch? girder.launch
  let cx ← s.ctx? launch.ctx
  return ⟨s, s, sp, deck, girder, launch, cx, iss⟩

/-- A source register's value of a lane: the captured column of a replay entry, or the register (15 R308). -/
def Ctx.regVal (c : Ctx) (r l : Nat) : Word :=
  match c.iss.cols.bind (fun cs => cs.find? (fun x => x.1 == r)) with
  | some x => x.2.getD l 0#32
  | none => c.sp.reg r l
def Ctx.src (c : Ctx) (r : Reg) (l : Nat) : Word := c.regVal r.toNat l
/-- Source b: a register or the literal (03 R63). -/
def Ctx.srcB (c : Ctx) (b : SrcB) (l : Nat) : Word :=
  match b with
  | .reg r => c.src r l
  | .lit w => w
/-- A pair (05 R83). -/
def Ctx.pair (c : Ctx) (r : Reg) (l : Nat) : DWord := pairOf (c.regVal r.toNat l) (c.regVal (r.toNat + 1) l)
/-- A 64-bit source b: a literal is sign-extended when x is set (05 R83). -/
def Ctx.pairB (c : Ctx) (b : SrcB) (x : Bool) (l : Nat) : DWord :=
  match b with
  | .reg r => c.pair r l
  | .lit w => if x then w.signExtend 64 else w.zeroExtend 64

/-- Write registers at once, all or nothing: widening destinations acquire their slots first (01 R20, R21, R23). -/
def Ctx.write (c : Ctx) (s : State) (ds : List (Nat × (Nat → Word))) : Run State := do
  match s.span? c.u with
  | none => .ok s
  | some sp =>
    let wide := (ds.filter (fun d => widens sp d.1 d.2 c.A)).map (·.1)
    let s ← cover s c.u (wide.length * sp.octets) (wide.min?.getD 0) c.A
    .ok (ds.foldl (fun s d => landReg s c.u d.1 d.2 c.A false) s)

/-- A pair's two halves as a destination list. -/
def pairDst (d : Reg) (f : Nat → DWord) : List (Nat × (Nat → Word)) :=
  [(d.toNat, fun l => loWord (f l)), (d.toNat + 1, fun l => hiWord (f l))]

/-- Acquire at issue for destinations written later: every compact one counts (01 R24). Answers the slots reserved. -/
def Ctx.reserve (c : Ctx) (s : State) (ds : List Nat) : Run (State × Nat) := do
  match s.span? c.u with
  | none => .ok (s, 0)
  | some sp =>
    let comp := ds.filter (fun d => !(sp.vreg d).isVector)
    let need := comp.length * sp.octets
    let s ← cover s c.u need (comp.min?.getD 0) c.A
    .ok (s.modSpan c.u (fun x => { x with used := x.used + need }), need)

/-- Give back slots reserved at issue, as spare (01 R24). -/
def unreserve (s : State) (u n : Nat) : State := s.modSpan u (fun x => { x with used := x.used - n })

/-! ## Memory -/

/-- Whether a byte lies in a block declared free of refresh; while a change is pending, the accesses of a step to a changed block find it so
or not, all of them alike (21 R387; log 15). -/
def declaredOff (s : State) (pa : Nat) : Bool :=
  let old := s.refreshOff.contains (pa / 65536)
  if s.mgmt.refsync && old != s.mgmt.nextOff.contains (pa / 65536) then Config.eitherMap s.steps (pa / 65536) else old
/-- A byte of device memory; a block declared free of refresh reads as zero (21 R387). -/
def devByte (s : State) (pa : Nat) : Byte := if declaredOff s pa then 0#8 else s.mem.read pa

def readLoc (s : State) : Loc → Byte
  | .dev pa => devByte s pa
  | .host ha => s.hostMem.read ha
  | .deck u o => (s.deck? u).elim 0#8 (fun d => d.mem.read o)
  | .priv u l o => (s.deck? u).elim 0#8 (fun d => d.priv.read (l * 2 ^ 20 + o))

/-- Write a byte; poison of a byte written ends (21 R382). -/
def writeLoc (s : State) (l : Loc) (b : Byte) : State :=
  match l with
  | .dev pa =>
    if declaredOff s pa then s
    else { s with mem := s.mem.write pa b, poison := s.poison.filter (fun x => x != pa) }
  | .host ha => { s with hostMem := s.hostMem.write ha b }
  | .deck u o => s.modDeck u (fun d => { d with mem := d.mem.write o b, poison := d.poison.filter (fun x => x != o) })
  | .priv u l o => s.modDeck u (fun d =>
      { d with priv := d.priv.write (l * 2 ^ 20 + o) b, poisonP := d.poisonP.filter (fun x => x != l * 2 ^ 20 + o) })

/-- The location i bytes on. -/
def Loc.plus (l : Loc) (i : Nat) : Loc :=
  match l with
  | .dev pa => .dev (pa + i)
  | .host ha => .host (ha + i)
  | .deck u o => .deck u (o + i)
  | .priv u l o => .priv u l (o + i)

def readLocs (s : State) (l : Loc) (n : Nat) : List Byte := (List.range n).map (fun i => readLoc s (l.plus i))
def writeLocs (s : State) (l : Loc) : List Byte → State
  | [] => s
  | b :: bs => writeLocs (writeLoc s l b) (l.plus 1) bs

/-- Whether a byte carries the mark of poison; host memory is no SRAM of the device. -/
def poisonMark (s : State) : Loc → Bool
  | .dev pa => s.poison.contains pa
  | .deck u o => (s.deck? u).elim false (fun d => d.poison.contains o)
  | .priv u l o => (s.deck? u).elim false (fun d => d.poisonP.contains (l * 2 ^ 20 + o))
  | .host _ => false
/-- Whether a byte is poisoned (21 R382): a block declared free of refresh reports no error (21 R387). -/
def poisonedAt (s : State) (l : Loc) : Bool :=
  poisonMark s l && match l with
    | .dev pa => !declaredOff s pa
    | _ => true
def poisoned (s : State) (l : Loc) (n : Nat) : Bool := (List.range n).any (fun i => poisonedAt s (l.plus i))
/-- Mark n bytes poisoned (07 R175, 21 R382). -/
def poisonLocs (s : State) (l : Loc) (n : Nat) : State :=
  match l with
  | .dev pa => { s with poison := ((List.range n).map (pa + ·)) ++ s.poison.filter (fun x => x < pa || pa + n ≤ x) }
  | .deck u o => s.modDeck u (fun d => { d with poison := ((List.range n).map (o + ·)) ++ d.poison.filter (fun x => x < o || o + n ≤ x) })
  | .priv u l o => s.modDeck u (fun d =>
      let k := l * 2 ^ 20 + o
      { d with poisonP := ((List.range n).map (k + ·)) ++ d.poisonP.filter (fun x => x < k || k + n ≤ x) })
  | .host _ => s

/-- Ask the host for the translation of a page, once (20 R371). -/
def askPage (s : State) (p : Nat) : State :=
  if s.atsAsked.contains p then s else countDev { s with atsAsked := s.atsAsked ++ [p] } 0x45 1

/-- An outcome of a translation (20 R370, R371). -/
inductive Tr where
  | ok (l : Loc) (mtype : Nat)
  | absent
  | prot (mtype : Nat)
  /-- The host page is still being asked for. -/
  | ask (page : Nat)
  | noMem
  deriving DecidableEq, Repr

/-- Access kinds of a walk. -/
inductive Kind where
  | read | write | fetch
  deriving DecidableEq, Repr, Inhabited

/-- A page-table entry. -/
def readPte (s : State) (l : Loc) : Nat := bytesNat (readLocs s l 8)

/-- Where a page of host memory lies after ATS: its translated page, that there is none, or that the host has not answered (20 R371). -/
def hostPage (s : State) (page : Nat) : Option (Option Nat) := (s.ats.find? (fun x => x.1 == page)).map (·.2)

/-- A leaf's outcome: permission, then device memory or the host address that ATS answers (20 R370, R371). -/
def leaf (s : State) (k : Kind) (pte off : Nat) : Tr :=
  let mt := bitsOf pte 5 2
  let a := bitsOf pte 12 40 * 4096 + off
  if (k = .write && !bitOf pte 2) || (k = .fetch && !bitOf pte 3) then .prot (0x80 + mt)
  else if bitOf pte 8 then
    match hostPage s (a / 4096) with
    | some (some t) => .ok (.host (t * 4096 + a % 4096)) mt
    | some none => .absent
    | none => .ask (a / 4096)
  else if 2 ^ 39 ≤ a then .noMem else .ok (.dev a) mt

/-- Where a table's entry lies; a table of host memory is reached through ATS (20 R370, R371). -/
def tableEntry (s : State) (host : Bool) (a : Nat) : Tr :=
  if host then
    match hostPage s (a / 4096) with
    | some (some t) => .ok (.host (t * 4096 + a % 4096)) 0
    | some none => .absent
    | none => .ask (a / 4096)
  else if 2 ^ 39 ≤ a then .noMem else .ok (.dev a) 0

/-- The five-level walk from one level down, through a table of device or host memory (20 R369, R370). -/
def walk (s : State) (k : Kind) : Nat → Bool → Nat → Nat → Tr
  | level, host, table, va =>
    match tableEntry s host (table + 8 * bitsOf va (12 + 9 * level) 9) with
    | .ok at_ _ =>
    let pte := readPte s at_
    let size := 2 ^ (12 + 9 * level)
    if !bitOf pte 0 then .absent
    else if bitsOf pte 52 12 != 0 || bitsOf pte 9 3 != 0 || bitOf pte 1 then .prot (0x80 + bitsOf pte 5 2)
    else if bitOf pte 4 then
      if 3 ≤ level || bitsOf pte 12 40 * 4096 % size != 0 then .prot (0x80 + bitsOf pte 5 2)
      else leaf s k pte (va % size)
    else match level with
      | 0 => .prot (0x80 + bitsOf pte 5 2)
      | n + 1 => walk s k n (bitOf pte 8) (bitsOf pte 12 40 * 4096) va
    | r => r

/-- Translate a global address of a context; a lane may not reach the save area (14 R293). -/
def translate (s : State) (cx : Context) (byLane : Bool) (k : Kind) (va : Nat) : Tr :=
  let t := if 2 ^ 57 ≤ va then Tr.absent else walk s k 4 false cx.d.ptroot va
  if byLane && cx.d.saveBase ≤ va && va < cx.d.saveBase + cx.d.saveSize then
    (match t with
     | .ok _ mt => .prot (0x80 + mt)
     | .prot mt => .prot mt
     | _ => .prot 0)
  else t

/-- Windows of the generic space (07 R146, 10 R243). -/
def deckWindow (va : Nat) : Bool := decide (0x01FFE00000000000 ≤ va) && decide (va < 0x01FFF00000000000)
def privWindow (va : Nat) : Bool := decide (0x01FFF00000000000 ≤ va) && decide (va < 0x0200000000000000)

/-- Spaces of an access. -/
inductive Space where
  | generic | global | deck | priv | const
  deriving DecidableEq, Repr, Inhabited

/-- Space code ss (03 R69). -/
def spaceOf (sp : BitVec 2) : Space :=
  if sp == 0#2 then .generic else if sp == 1#2 then .global else if sp == 2#2 then .deck else .priv

/-- A target before translation. -/
inductive Target where
  | here (l : Loc)
  | global (va : Nat)
  deriving DecidableEq, Repr

/-- Whether lane-in-deck l is a live lane of the deck (07 R146). -/
def liveInDeck (s : State) (deck width l : Nat) : Bool :=
  (s.spansOf deck).any (fun x => x.idx == l / width && hasLane x.live (l % width))

/-- Resolve a lane's address in a space: check 3 of 07 R145, none where it raises ILLEGAL_ADDRESS (07 R146, R149). -/
def resolve (c : Ctx) (s : State) (sp : Space) (lane : Nat) (a : DWord) (size : Nat) : Option Target :=
  let v := a.toNat
  let glob : Option Target := if 2 ^ 57 ≤ v || deckWindow v || privWindow v then none else some (.global v)
  match sp with
  | .global => glob
  | .deck => if v + size ≤ c.deck.memSize then some (.here (.deck c.deck.uid v)) else none
  | .priv => if v + size ≤ c.launch.priv then some (.here (.priv c.deck.uid (c.sp.idx * c.W + lane) v)) else none
  | .const => if v + size ≤ c.launch.constSize then some (.global (c.launch.constBase + v)) else none
  | .generic =>
    if 2 ^ 57 ≤ v then none
    else if privWindow v then
      let l := bitsOf v 20 11
      if bitsOf v 35 9 == c.deck.pier && bitsOf v 31 4 == c.deck.slot && liveInDeck s c.deck.uid c.W l &&
         decide (bitsOf v 0 20 + size ≤ c.launch.priv) then some (.here (.priv c.deck.uid l (bitsOf v 0 20))) else none
    else if deckWindow v then
      if bitsOf v 19 12 != 0 then none else
      match (s.decksOf c.girder.uid).find? (fun d => d.pier == bitsOf v 35 9 && d.slot == bitsOf v 31 4) with
      | some d => if bitsOf v 0 19 + size ≤ d.memSize then some (.here (.deck d.uid (bitsOf v 0 19))) else none
      | none => none
    else some (.global v)

/-- One access to check. -/
structure Req where
  lane : Nat
  addr : DWord
  size : Nat
  sp : Space
  wr : Bool
  deriving DecidableEq, Repr, Inhabited

/-- The trap of accesses that fail one check: the lowest lane's address decides ADDR, and at most 64 pages count (15 R311, R312, R314; log 91). -/
def accessTrap (cause access mtype : Nat) (bad : List Req) : TrapInfo :=
  let low := (bad.map (·.lane)).min?.getD 0
  { cause := cause, addr := ((bad.find? (fun r => r.lane == low)).elim 0#64 (·.addr)),
    lanes := bad.foldl (fun m r => m ||| oneLane r.lane) 0#64, access := access, mtype := mtype,
    pages := (bad.map (fun r => r.addr.toNat / 4096 * 4096)).eraseDups.take 64, complete := false, past := false, boundary := none,
    entry := [], served := false, time := none }

/-- An access that passed its checks. -/
structure Hit where
  req : Req
  loc : Loc
  mtype : Nat
  deriving DecidableEq, Repr, Inhabited

/-- The translation of a resolved target. -/
def translateTarget (c : Ctx) (s : State) (wr : Bool) : Target → Tr
  | .here l => .ok l 0
  | .global va => translate s c.cx true (if wr then .write else .read) va

def Tr.isProt (maxType : Nat) : Tr → Bool
  | .prot _ => true
  | .ok _ mt => decide (maxType < mt)
  | _ => false
def Tr.mtype : Tr → Nat
  | .prot m => m
  | .ok _ m => 0x80 + m
  | _ => 0

/-- MTYPE of an access that reached its location: a translation was found for a global one only (15 R311). -/
def Loc.foundType (l : Loc) (mt : Nat) : Nat :=
  match l with
  | .dev _ | .host _ => 0x80 + mt
  | _ => 0

/-- Poisoned bytes of a lane's access, without those that its own outstanding stores replace before they are read (07 R144, R145). -/
def stillPoisoned (s : State) (u lane : Nat) (l : Loc) (n : Nat) : Bool :=
  (List.range n).any (fun i => poisonedAt s (l.plus i) && !s.works.any (fun w => w.span == u && w.kind == .store &&
    w.accs.any (fun a => a.lane == lane && (List.range a.size).any (fun j => a.loc.plus j == l.plus i))))

/-- Checks 2 to 5 of 07 R145 over all accesses. `maxType` is the highest memory type the instruction may reach (10 R246). -/
def checkAllWith (aligned : Req → Bool) (c : Ctx) (s : State) (access maxType : Nat) (reads : Bool) (reqs : List Req) : Run (List Hit) :=
  let bad2 := reqs.filter (fun r => !aligned r)
  if bad2 != [] then .error (.trap s (accessTrap 0x0008 access 0 bad2)) else
  let ts := reqs.map (fun r => (r, resolve c s r.sp r.lane r.addr r.size))
  let bad3 := ts.filter (fun x => x.2.isNone)
  if bad3 != [] then .error (.trap s (accessTrap 0x0005 access 0 (bad3.map (·.1)))) else
  let us := ts.map (fun x => (x.1, x.2.elim Tr.absent (translateTarget c s x.1.wr)))
  if us.any (fun x => x.2 == Tr.noMem) then .error (.fault .noSuchMemory) else
  match us.findSome? (fun x => match x.2 with | Tr.ask p => some p | _ => none) with
  | some p => .error (.retry c.before (some p))
  | none =>
  let badP := us.filter (fun x => x.2.isProt maxType)
  if badP != [] then .error (.trap s (accessTrap 0x0006 access ((badP.head?).elim 0 (·.2.mtype)) (badP.map (·.1)))) else
  let badA := us.filter (fun x => x.2 == Tr.absent)
  if badA != [] then .error (.trap s (accessTrap 0x0007 access 0 (badA.map (·.1)))) else
  let hits := us.filterMap (fun x => match x.2 with | Tr.ok l m => some (Hit.mk x.1 l m) | _ => none)
  let bad5 := hits.filter (fun h => reads && stillPoisoned s c.u h.req.lane h.loc h.req.size)
  if bad5 != [] then .error (.trap s (accessTrap 0x000C access ((bad5.head?).elim 0 (fun h => h.loc.foundType h.mtype)) (bad5.map (·.req))))
  else .ok hits

/-- The checks with each access aligned to its own size (07 R144). -/
def checkAll (c : Ctx) (s : State) (access maxType : Nat) (reads : Bool) (reqs : List Req) : Run (List Hit) :=
  checkAllWith (fun r => r.addr.toNat % r.size == 0) c s access maxType reads reqs

/-- Device-side access through a context's tables (frames, descriptors, rings): n bytes that do not cross a page. -/
def ctxRead (s : State) (cx : Context) (va n : Nat) : Option (List Byte) :=
  match translate s cx false .read va with
  | .ok l _ => some (readLocs s l n)
  | _ => none
def ctxWrite (s : State) (cx : Context) (va : Nat) (bs : List Byte) : Option State :=
  match translate s cx false .write va with
  | .ok l 0 => some (writeLocs s l bs)
  | _ => none

/-! ## Events of the device (20 R368) -/

/-- The words of an event, 128 bytes. -/
def eventBytes (type ctx lost time : Nat) (payload : List Byte) : List Byte :=
  natBytes 2 type ++ natBytes 2 ctx ++ natBytes 4 lost ++ natBytes 8 time ++ payload ++ List.replicate (112 - payload.length) 0#8

/-- Raise an event: written to the ring, or dropped and counted. -/
def postEvent (s : State) (type ctx : Nat) (payload : List Byte) : State :=
  let e := s.events
  if e.base == 0#64 || e.count == 0#32 || e.wr - e.rd == e.count then
    countDev { s with events := { e with lost := e.lost + 1#32 } } 0x43 1
  else
    let bs := eventBytes type ctx e.lost.toNat s.time payload
    let addr := e.base.toNat + 128 * (e.wr.toNat % e.count.toNat)
    { s with hostMem := s.hostMem.writeBytes addr bs,
             events := { e with wr := e.wr + 1#32, lost := 0#32, recent := ((e.recent ++ [bs]).drop ((e.recent.length + 1) - 8)) },
             msix := s.msix.modify 0 (· + 1) }

/-! ## Waits, membership sets and barriers -/

/-- Words of the instruction a lane waits at (03 R63). -/
def Wait.words : Wait → Nat
  | .barPhase _ _ lit | .barWave _ lit | .barSet _ _ lit | .timeline _ _ lit => if lit then 2 else 1
  | _ => 1

/-- The wait of a position, if it is one that p admits. -/
def Pos.waits (p : Nat → Wait → Bool) (q : Pos) : Bool :=
  match q.st with
  | .waiting w => p q.pc w
  | _ => false
/-- A position leaves a wait that p admits and goes on with the next word (09 R226). -/
def Pos.leaveIf (p : Nat → Wait → Bool) (q : Pos) : Pos :=
  match q.st with
  | .waiting w => if p q.pc w then q.step w.words else q
  | _ => q
/-- Change a lane's positions: where it stands, and its own while it runs the trap handler (15 R303). -/
def Lane.mapPos (f : Pos → Pos) (l : Lane) : Lane := { l with pos := f l.pos, held := l.held.map f }
def Lane.waits (p : Nat → Wait → Bool) (l : Lane) : Bool := l.pos.waits p || l.held.any (Pos.waits p)
/-- Every lane of a span leaves the waits that p admits. -/
def Span.leaveIf (p : Nat → Wait → Bool) (sp : Span) : Span := { sp with lanes := sp.lanes.map (Lane.mapPos (Pos.leaveIf p)) }

/-- Whether lane j stands in the wait of mask k at address p. -/
def inSet (sp : Span) (p k j : Nat) : Bool := (sp.lane j).waits (fun pc w => pc == p && w == .setOpen k)

/-- `open(p, K)` of 05 R102. -/
def setIsOpen (sp : Span) (p k : Nat) : Bool := (lanesOf (sp.mask k)).all (inSet sp p k)

/-- Every waitm condition is evaluated again; the lanes of open sets go on (05 R101, R102). -/
def settleSets (sp : Span) : Span :=
  sp.leaveIf (fun pc w => match w with
    | .setOpen k => setIsOpen sp pc k
    | _ => false)

/-- Mask register k takes a value; waits on it are evaluated in the same cycle (05 R101). -/
def putMask (s : State) (u k : Nat) (m : LaneSet) : State := s.modSpan u (fun x => settleSets (x.setMask k m))

def Bar.initial (members : BitVec 32) : Bar := ⟨0#32, 0, members, [], false, false, []⟩

/-- The barrier a span names (07 R165). -/
def barOf (s : State) (deck girder n : Nat) : Bar :=
  ((if n < 16 then (s.deck? deck).bind (fun d => d.bars[n]?) else (s.girder? girder).bind (fun g => g.bars[n - 16]?)).getD
    (Bar.initial 0#32))

/-- The lanes of a span that have arrived in the current phase. -/
def Bar.mark (b : Bar) (u : Nat) : LaneSet := ((b.marks.find? (fun x => x.1 == u)).map (·.2)).getD 0#64
def Bar.addMark (b : Bar) (u : Nat) (m : LaneSet) : Bar :=
  { b with marks := (u, b.mark u ||| m) :: b.marks.filter (fun x => x.1 != u), any := b.any || m != 0#64 }

/-- A span has arrived: each of its live lanes has (07 R166). -/
def spanArrived (b : Bar) (sp : Span) : Bool := sp.live &&& ~~~(b.mark sp.uid) == 0#64

/-- Whether every member of the barrier has arrived; retired spans and decks count as arrived (07 R166, 09 R239, R240). -/
def allArrived (s : State) (deck girder n : Nat) (b : Bar) : Bool :=
  if n < 16 then (s.spansOf deck).all (fun x => !b.members.getLsbD x.idx || spanArrived b x)
  else (s.decksOf girder).all (fun d => !b.members.getLsbD d.member || (s.spansOf d.uid).all (spanArrived b))

/-- The phase has completed: (GEN - v - 1) as an i32 is at least 0 (07 R168). -/
def phaseDone (gen v : Word) : Bool := decide (0 ≤ (gen - v - 1#32).toInt)

/-- The spans a barrier gathers. -/
def barSpans (s : State) (deck girder n : Nat) : List Span :=
  if n < 16 then s.spansOf deck else (s.decksOf girder).flatMap (fun d => s.spansOf d.uid)

/-- Waves of at most w spans, each with the barriers that it leaves. -/
def chunk (w : Nat) : Nat → List (List (Nat × Nat)) → List Wave
  | 0, _ => []
  | _ + 1, [] => []
  | n + 1, l => ⟨(l.take w).flatten⟩ :: chunk w n (l.drop w)

/-- Order of release: ascending pier, then resident-span slot (21 R381). -/
def insertSpan (s : State) (x : Span) : List Span → List Span
  | [] => [x]
  | y :: t =>
    let px := (s.deck? x.deck).elim 0 (·.pier)
    let py := (s.deck? y.deck).elim 0 (·.pier)
    if px < py || (px == py && decide (x.rslot < y.rslot)) then x :: y :: t else y :: insertSpan s x t

/-- Members a barset's value gives: bits that name nothing are ignored, zero restores all (07 R170). -/
def memberValue (s : State) (deck girder n : Nat) (v : BitVec 32) : BitVec 32 :=
  let full : Nat := if n < 16 then (s.deck? deck).elim 0 (·.spans) else (s.girder? girder).elim 0 (·.size)
  let m := v &&& BitVec.ofNat 32 (2 ^ full - 1)
  if m == 0#32 then BitVec.ofNat 32 (2 ^ full - 1) else m

/-- Whether a wait is for a phase of barrier n that has completed. -/
def phaseOver (n : Nat) (gen : Word) : Nat → Wait → Bool
  | _, .barPhase k v _ => k == n && phaseDone gen v
  | _, _ => false
/-- A lane whose phase has completed waits for its release wave (21 R381). -/
def joinWave (n : Nat) (gen : Word) (q : Pos) : Pos :=
  match q.st with
  | .waiting w => if phaseOver n gen q.pc w then { q with st := .waiting (.barWave n (w.words == 2)) } else q
  | _ => q

/-- Whether a wait is for the release wave of barrier n. -/
def leavesWave (n : Nat) (_ : Nat) : Wait → Bool
  | .barWave k _ => k == n
  | _ => false

/-- Test barrier n of a deck and complete its phase when 07 R167 holds: GEN rises, marks clear, waiting barsets apply, and the lanes
waiting on the phase wait for their release wave. With it come the spans that leave, each with the barrier. -/
def barComplete (s : State) (deck girder n : Nat) : State × List (Nat × Nat) :=
  let b := barOf s deck girder n
  if !(b.any && !b.broken && b.bal == 0 && allArrived s deck girder n b) then (s, []) else
  let gen := b.gen + 1#32
  let s := s.modBar deck girder n (fun b =>
    { b with gen := gen, marks := [], any := false, sets := [],
             members := ((b.sets.getLast?).map (memberValue s deck girder n)).getD b.members })
  let spans := barSpans s deck girder n
  let out := (spans.filter (fun x => x.lanes.any (Lane.waits (phaseOver n gen)))).map (fun x => (x.uid, n))
  (spans.foldl (fun s x => s.modSpan x.uid (fun y =>
    Span.leaveIf (fun _ w => match w with
      | .barSet k _ _ => k == n
      | _ => false) { y with lanes := y.lanes.map (Lane.mapPos (joinWave n gen)) })) s, out)

/-- Let go the spans that leave phases completed together on a deck's truss: in waves, or at once where GAP is zero; a span counts once,
whatever number of phases it leaves (21 R381). -/
def releaseWaves (s : State) (deck : Nat) (out : List (Nat × Nat)) : State :=
  if out == [] then s else
  let truss := trussOf ((s.deck? deck).elim 0 (·.pier))
  let reg := (s.mgmt.tslope.getD truss 0x0410#16).toNat
  if reg / 256 = 0 then out.foldl (fun s x => s.modSpan x.1 (Span.leaveIf (leavesWave x.2))) s else
  let spans := ((out.map (·.1)).dedup.filterMap s.span?).foldl (fun acc x => insertSpan s x acc) []
  let groups := spans.map (fun x => out.filter (fun y => y.1 == x.uid))
  { s with waves := s.waves.modify truss (· ++ chunk (max (reg % 256) 1) groups.length groups) }

/-- Test some barriers of a deck and its girder in one cycle. -/
def barCheckList (s : State) (deck girder : Nat) (ns : List Nat) : State :=
  let r := ns.foldl (fun (x : State × List (Nat × Nat)) n =>
    let y := barComplete x.1 deck girder n
    (y.1, x.2 ++ y.2)) (s, [])
  releaseWaves r.1 deck r.2
/-- Test one barrier. -/
def barCheck (s : State) (deck girder n : Nat) : State := barCheckList s deck girder [n]
/-- Test every barrier of a deck and its girder. -/
def barCheckAll (s : State) (deck girder : Nat) : State := barCheckList s deck girder (List.range 20)

/-- Whether outstanding work of a deck is a fill. -/
def Work.isFill (w : Work) : Bool :=
  match w.kind with
  | .load8 _ | .rows _ => true
  | .copy c => c.desc.getLsbD 141
  | _ => false

/-- Whether deck d has an operation on one of its girder's keystones that it armed before the bound and that has not completed (08 R204). -/
def opOutstanding (s : State) (d before : Nat) : Bool :=
  match (s.deck? d).bind (fun x => s.girder? x.girder) with
  | none => false
  | some g => g.keys.any (fun k => k.armed.any (fun a => a.deck == d && decide (a.before < before)))

def fillOutstanding (s : State) (d before : Nat) : Bool :=
  s.works.any (fun w => w.isFill && decide (w.id < before) && (s.span? w.span).elim 0 (·.deck) == d)

/-- Whether a wait's own condition holds (09 R226), for the waits that end by a condition on the state alone. -/
def waitOver (s : State) (sp : Span) (cx : Context) : Wait → Bool
  | .tag t => sp.tag t == 0
  | .timeline k n _ => decide (n ≤ (cx.tl[k]?).elim 0 (·.value))
  | .mxwait kind before =>
    !((kind != 2 && fillOutstanding s sp.deck before) || (kind != 1 && opOutstanding s sp.deck before))
  | .gp g => decide (g ≤ cx.gp.completed)
  | _ => false

/-- Lanes whose waits have ended go on to the next word (09 R226, 15 R303). -/
def settleSpan (s : State) (u : Nat) : State :=
  match s.span? u with
  | none => s
  | some sp =>
    match ((s.deck? sp.deck).bind (fun d => s.girder? d.girder)).bind (fun g => (s.launch? g.launch).bind (fun l => s.ctx? l.ctx)) with
    | none => s
    | some cx =>
      if sp.lanes.any (Lane.waits (fun _ w => waitOver s sp cx w)) then
        s.modSpan u (Span.leaveIf (fun _ w => waitOver s sp cx w))
      else s

def settleAll (s : State) : State := s.spans.foldl (fun s x => settleSpan s x.uid) s

/-! ## Lanes of the issuing group -/

/-- Address of the word after the instruction, past a literal (15 R307). -/
def Issue.nextPc (i : Issue) : Nat := i.pc + 4 * (1 + i.lit.toList.length)

/-- The clause at the next word, none where that is a header. -/
def Issue.nextClause (i : Issue) : Option Clause := if i.nextPc = i.next then none else some ⟨i.cls, i.next⟩
/-- Position after the instruction: the next word, or the next header at the clause's end; a lane that is past it already stays (15 R301). -/
def Issue.after (i : Issue) (p : Pos) : Pos :=
  if i.late then p else { p with pc := i.nextPc, st := .standing, clause := i.nextClause }

/-- Lanes of the set go on with the next word. -/
def goOn (s : State) (iss : Issue) (m : LaneSet) : State :=
  s.modSpan iss.span (fun x => x.modLanes (m &&& x.live) (fun _ l => { l with pos := iss.after l.pos }))

/-- Lanes of the set wait at the instruction. -/
def hold (s : State) (iss : Issue) (m : LaneSet) (w : Nat → Wait) : State :=
  s.modSpan iss.span (fun x => x.modLanes (m &&& x.live) (fun i l =>
    { l with pos := { l.pos with pc := iss.pc, clause := some ⟨iss.cls, iss.next⟩, st := .waiting (w i) } }))

/-- The whole group waits to issue the instruction again; a replayed one keeps its captured sources (09 R226, 15 R308). -/
def holdAgain (s : State) (iss : Issue) (w : Wait) : State :=
  let s := hold s iss iss.gset (fun _ => w)
  if iss.cols.isSome && !iss.fetched then s.modSpan iss.span (fun x => { x with kept := x.kept ++ [iss] }) else s

/-- An instruction that could not issue yet stays where it stands: a re-injected one at the head of its queue, and a debugger's step is
still to be made. What was to issue ahead behind it, of its lanes, has not issued either. -/
def putBack (s : State) (iss : Issue) : State :=
  { s with issuing := s.issuing.filter (fun i => !(i.fetched && i.span == iss.span && i.gset &&& iss.gset != 0#64)) }.modSpan iss.span
    (fun x =>
      if iss.cols.isSome && !iss.fetched then { x with reinj := iss :: x.reinj }
      else { x with steps := x.steps.map (iss.gset :: ·) })

/-- An instruction that was put back waits for the host page it asks for (20 R371). -/
def askFor (s : State) (iss : Issue) (page : Nat) : State :=
  (askPage s page).modSpan iss.span (fun x => { x with asks := (iss.pc, iss.gset, page) :: x.asks })

/-- Lanes of the set go to a header (03 R56). -/
def jump (s : State) (iss : Issue) (m : LaneSet) (target : Nat → Nat) : State :=
  s.modSpan iss.span (fun x => x.modLanes (m &&& x.live) (fun i l =>
    { l with pos := { l.pos with pc := target i, clause := none, st := .standing } }))

/-- Change the position a serial section of a lane is about: its own, or the handler's for a section the handler opened. -/
def Lane.inSection (handler : Bool) (f : Pos → Pos) (l : Lane) : Lane :=
  if handler then { l with pos := f l.pos } else l.setOwn (f l.own)

/-- The run lane of a serial section passes on, or the section closes (05 R111). -/
def endPass (s : State) (u : Nat) : State :=
  match s.span? u with
  | none => s
  | some sp =>
    match sp.serial with
    | none => s
    | some z =>
      let done := z.done ||| oneLane z.run
      let left := z.set &&& ~~~done &&& sp.live
      if left != 0#64 then
        let run := lowestLane left
        s.modSpan u (fun x => { x with serial := some { z with done := done, run := run } }.modLane run
          (Lane.inSection z.handler (fun q => { q with st := .standing })))
      else
        s.modSpan u (fun x => { x with serial := none }.modLanes (z.group &&& x.live) (fun i =>
          Lane.inSection z.handler (fun q =>
            { pc := z.resume, clause := z.clause, st := .standing, p := if hasLane z.set i then q.p else false })))

/-! ## Outstanding work (07 R144, R152-R156, 10 R248-R249) -/

/-- Two accesses share a lane and a byte. -/
def Acc.meets (a b : Acc) : Bool :=
  a.lane == b.lane &&
  match a.loc, b.loc with
  | .dev p, .dev q | .host p, .host q => decide (p < q + b.size) && decide (q < p + a.size)
  | .deck u p, .deck v q => u == v && decide (p < q + b.size) && decide (q < p + a.size)
  | .priv u k p, .priv v m q => u == v && k == m && decide (p < q + b.size) && decide (q < p + a.size)
  | _, _ => false

/-- Whether the work is an access a span's own instruction still has to perform. -/
def Work.isAccess (w : Work) : Bool :=
  match w.kind with
  | .load _ | .store | .atomic _ _ _ | .reply _ _ | .red _ | .redx _ | .scale _ _ _ => true
  | _ => false
def Work.isReply (w : Work) : Bool := match w.kind with | .reply _ _ => true | _ => false
def Work.isCpl (w : Work) : Bool := match w.kind with | .cpl _ _ _ _ => true | _ => false
/-- Whether the work writes the bytes of its accesses. -/
def Work.writes (w : Work) : Bool :=
  match w.kind with
  | .store | .atomic _ _ _ | .red _ | .redx _ => true
  | _ => false

/-- The deck a piece of work belongs to. -/
def workDeck (s : State) (w : Work) : Nat := (s.span? w.span).elim 0 (·.deck)

/-- The 32 bytes that a lane's `cpl` writes (07 R175). -/
def cplTarget (s : State) (w : Work) : List Acc :=
  match w.kind with
  | .cpl _ dst _ _ => [⟨lowestLane w.lanes, .deck (workDeck s w) dst, 32, 0, [], 0#64, 0#64, 0⟩]
  | _ => []

def meetAny (l m : List Acc) : Bool := l.any (fun a => m.any a.meets)

/-- Whether older work v, a `cpl`, must be written before w writes: a lane's writes of one byte stand in program order (07 R144). -/
def landsBefore (s : State) (v w : Work) : Bool := meetAny (cplTarget s v) (cplTarget s w ++ if w.writes then w.accs else [])

/-- Whether older work v of the span must come before w. Accesses of one lane to one byte take effect in program order (07 R144); a `cpl`
reads after every earlier access of its lane and is only read before a later one (10 R257). -/
def comesBefore (s : State) (v w : Work) : Bool :=
  if v.isReply then false
  else if v.isCpl then meetAny v.accs w.accs || (w.isCpl && v.accs != [] && v.lanes &&& w.lanes != 0#64) || landsBefore s v w
  else if w.isCpl then v.isAccess && w.accs != [] && v.lanes &&& w.lanes != 0#64 || meetAny v.accs (cplTarget s w)
  else meetAny v.accs w.accs

/-- The pieces of work, oldest first, that p admits or that must come before one of them, each with whether it is performed: of a `cpl`
that only has to be read the write may come later. -/
def needed (s : State) (p : Work → Bool) : List Work → List (Work × Bool)
  | [] => []
  | v :: t =>
    let rest := needed s p t
    if p v || rest.any (fun x => x.1.span == v.span && comesBefore s v x.1)
    then (v, !v.isCpl || rest.any (fun x => x.1.span == v.span && x.2 && landsBefore s v x.1)) :: rest
    else rest

/-- What must come before a piece of work. -/
def olderNeeds (s : State) (w : Work) : List (Work × Bool) :=
  (needed s (fun x => x.id == w.id) ((s.works.filter (fun v => v.span == w.span && decide (v.id < w.id))) ++ [w])).dropLast

/-- Nothing but reads of the lanes' own copies is still to come before the work (07 R144, 10 R257). -/
def workReady (s : State) (w : Work) : Bool := (olderNeeds s w).all (fun x => !x.2)

/-- Register i of a load's data: size codes of 03 R64. -/
def loadWord (sz : BitVec 3) (bs : List Byte) (i : Nat) : Word :=
  let b := (bytesNat ((bs.drop (4 * i)).take 4))
  if sz == 1#3 then (BitVec.ofNat 8 b).signExtend 32
  else if sz == 3#3 then (BitVec.ofNat 16 b).signExtend 32
  else BitVec.ofNat 32 b

/-- Bytes of a size code (03 R64). -/
def sizeBytes (sz : BitVec 3) : Nat :=
  if sz == 0#3 || sz == 1#3 then 1 else if sz == 2#3 || sz == 3#3 then 2 else if sz == 4#3 then 4
  else if sz == 5#3 then 8 else 16

/-- Write registers of outstanding work: each destination that was compact at issue has its slots reserved (01 R24). A copy token or an
accumulator of v124-v127 that lands while the span runs its trap handler is merged into the handler's register, without slots where the
register was VECTOR at issue, and `tret` replaces it: R36 does not say. DESIGN CHOICE (log 87). -/
def landRegs (s : State) (w : Work) (f : Nat → Nat → Word) : State :=
  (w.dsts.zipIdx).foldl (fun s x => landReg s w.span x.1 (f x.2) w.lanes
    (w.resv != 0 && !((s.span? w.span).elim true (fun sp => (sp.vreg x.1).isVector)))) s

/-- The value an atomic leaves (03 R64, 07 R153). -/
def atomicValue (op : BitVec 4) (old b : DWord) : DWord :=
  let lo (w : Word) : DWord := w.zeroExtend 64
  let o := loWord old
  let v := loWord b
  if op == 0#4 then lo (o + v) else if op == 1#4 then old + b else if op == 2#4 then lo (addF32 o v)
  else if op == 3#4 then lo (if o.sle v then o else v) else if op == 4#4 then lo (if o.ule v then o else v)
  else if op == 5#4 then lo (if o.sle v then v else o) else if op == 6#4 then lo (if o.ule v then v else o)
  else if op == 7#4 then lo (o &&& v) else if op == 8#4 then lo (o ||| v) else if op == 9#4 then lo (o ^^^ v)
  else if op == 10#4 then lo v else if op == 11#4 then b
  else if op == 12#4 then (if old.sle b then old else b) else if op == 13#4 then (if old.sle b then b else old)
  else if op == 14#4 then (if old.ule b then old else b) else (if old.ule b then b else old)

/-- A little-endian value at a location. -/
def valueAt (s : State) (l : Loc) (n : Nat) : DWord := BitVec.ofNat 64 (bytesNat (readLocs s l n))

/-- Write without ending poison: reductions leave poisoned bytes poisoned (07 R145, 21 R382). -/
def writeKeeping (s : State) (l : Loc) (bs : List Byte) : State :=
  let p := poisoned s l bs.length
  let t := writeLocs s l bs
  if p then { t with poison := s.poison, decks := t.decks.map (fun d => match s.deck? d.uid with
    | some e => { d with poison := e.poison, poisonP := e.poisonP }
    | none => d) } else t

/-- Perform an atomic's lanes one after another, ascending (07 R152): memory and old values. -/
def atomicLanes (op : BitVec 4) (cas : Bool) : List Acc → State → List (Nat × DWord) → State × List (Nat × DWord)
  | [], s, out => (s, out)
  | a :: t, s, out =>
    let old := valueAt s a.loc a.size
    let b := BitVec.ofNat 64 (bytesNat a.data)
    let new := if cas then (if old == a.cmp then b else old) else atomicValue op old b
    let s := if cas && old != a.cmp then s else writeLocs s a.loc (natBytes a.size new.toNat)
    atomicLanes op cas t s (out ++ [(a.lane, old)])

/-- The deck combiner merges equal addresses in ascending lane order (07 R155, R156). -/
def combine (f : DWord → DWord → DWord) : List Acc → List (Loc × Nat × DWord) → List (Loc × Nat × DWord)
  | [], out => out
  | a :: t, out =>
    let b := BitVec.ofNat 64 (bytesNat a.data)
    combine f t (if out.any (fun x => x.1 == a.loc) then out.map (fun x => if x.1 == a.loc then (x.1, x.2.1, f x.2.2 b) else x)
      else out ++ [(a.loc, a.size, b)])

def applyRed (f : DWord → DWord → DWord) (s : State) (accs : List Acc) : State :=
  (combine f accs []).foldl (fun s x => writeKeeping s x.1 (natBytes x.2.1 (f (valueAt s x.1 x.2.1) x.2.2).toNat)) s

/-! ## Lines of L2 (10 R256, 21 R385) -/

/-- The number of the 128-byte line that holds a byte; lines of host memory from 2^32 on. -/
def lineOf : Loc → Option Nat
  | .dev pa => some (pa / 128)
  | .host ha => some (2 ^ 32 + ha / 128)
  | _ => none

/-- The value of a key of a list of pairs is set or taken away. -/
def putKey (k : Nat) (v : Option Nat) (l : List (Nat × Nat)) : List (Nat × Nat) :=
  (v.elim [] (fun x => [(k, x)])) ++ l.filter (fun x => x.1 != k)

/-- The number of the word that holds a byte of memory; words of host memory from 2^40 on. -/
def wordKey : Loc → Option Nat
  | .dev pa => some (pa / 4)
  | .host ha => some (2 ^ 40 + ha / 4)
  | _ => none

/-- Earlier values that a fetch may still return (10 R255). -/
def freshPatches (s : State) : List Patch := s.code.filter (fun p => decide (s.steps < p.until_))

/-- Keep the values of the words that n bytes about to be written lie in: a fetch may still return them for a time (10 R255, 16 R337). -/
def notePatch (s : State) (l : Loc) (n : Nat) : State :=
  let words (a : Nat) (at_ : Nat → Loc) (base : Nat) : State :=
    { s with code := (List.range ((a % 4 + n + 3) / 4)).map (fun i =>
        ⟨base + a / 4 + i, BitVec.ofNat 32 (bytesNat (readLocs s (at_ (4 * (a / 4 + i))) 4)), s.fresh, s.steps + Config.staleSteps s.steps⟩) ++
        freshPatches s }
  match l with
  | .dev pa => words pa .dev 0
  | .host ha => words ha .host (2 ^ 40)
  | _ => s
def notePatches (s : State) (accs : List Acc) : State := accs.foldl (fun s a => notePatch s a.loc a.size) s

/-- The context of a span. -/
def ctxNum (s : State) (u : Nat) : Option Nat := do
  let sp ← s.span? u
  let d ← s.deck? sp.deck
  let g ← s.girder? d.girder
  let l ← s.launch? g.launch
  return l.ctx
/-- The pier of a span. -/
def pierOf (s : State) (u : Nat) : Nat := ((s.span? u).bind (fun x => s.deck? x.deck)).elim 0 (·.pier)

/-- The context that wrote a line is the one that wrote it last. -/
def noteWrite (s : State) (ctx : Option Nat) (l : Loc) : State :=
  match lineOf l with
  | some k => { s with writers := putKey k ctx s.writers }
  | none => s

/-- The release-owner field of a line after a release of a scope by a pier (10 R256). -/
def setOwner (s : State) (l : Loc) (pier scope : Nat) : State :=
  match lineOf l with
  | some k =>
    if scope == 2 then { s with owners := putKey k (some pier) s.owners }
    else if 3 ≤ scope then { s with owners := putKey k none s.owners } else s
  | none => s

/-- What writes of a span leave of their lines in the L2's directory. -/
def noteLines (s : State) (u : Nat) (accs : List Acc) : State :=
  accs.foldl (fun s a => setOwner (noteWrite s (ctxNum s u) a.loc) a.loc (pierOf s u) a.rel) s

/-! ## Performing -/

/-- Whether an instruction reads one location for all its lanes (07 R149). -/
def Issue.uniformLoad (e : Issue) : Bool :=
  match rawDecode e.cls e.word e.lit with
  | some (.lduC _) | some (.lduG _) => true
  | _ => false

/-- Accesses that meet poisoned bytes at their data read: check 5 of 07 R145. -/
def badReads (s : State) (w : Work) : List Acc :=
  let bad := w.accs.filter (fun a => poisoned s a.loc a.size)
  match w.kind with
  | .load _ => if w.iss.any Issue.uniformLoad then bad.take 1 else bad
  | .atomic _ _ _ | .scale _ _ _ => bad
  | _ => []

/-- Bytes a pushv or popv moves the stack (05 R114). -/
def stackSize (n : Nat) : Nat := 16 * ((n + 3) / 4)
/-- The bytes by which a `popv` has moved %sp (05 R114). -/
def Issue.popped (e : Issue) : Option Nat :=
  match rawDecode e.cls e.word e.lit with
  | some (.popv _ n) => some (stackSize n.toNat)
  | _ => none
/-- Whether work is the load of a `popv`. -/
def Work.isPop (w : Work) : Bool := w.iss.any (fun e => e.popped.isSome)

/-- ACCESS of an outstanding read (15 R311). -/
def Work.access (w : Work) : Nat :=
  match w.kind with
  | .atomic _ _ _ => 3
  | .scale _ _ _ => 8
  | _ => if w.isPop then 9 else 1

/-- An entry takes its place among those that have failed, by the order of issue (15 R301). -/
def insertEntry (x : Nat × Issue) : List (Nat × Issue) → List (Nat × Issue)
  | [] => [x]
  | y :: t => if y.1 < x.1 then y :: insertEntry x t else x :: y :: t

/-- A completing instruction raises POISON at its data read: it has had no effect and heads the span's replay queue, behind older ones
that failed too (15 R301). Slots acquired at its issue become spare (01 R24), and a `popv` gives %sp back (05 R114). Its lanes, which have left
it, stay where they stand. DEDUCED (log 67). -/
def raiseAtRead (s : State) (w : Work) (bad : List Acc) : State :=
  let t := { accessTrap 0x000C w.access ((bad.head?).elim 0 (fun a => a.loc.foundType a.mtype))
    (bad.map (fun a => Req.mk a.lane a.va a.size .generic false)) with time := some s.time }
  let e := w.iss.toList.map (fun i => (w.id, { i with late := true }))
  let back : Word := BitVec.ofNat 32 ((w.iss.bind Issue.popped).getD 0)
  ((unreserve s w.span w.resv).dropWork w.id).modSpan w.span (fun x =>
    { x.modLanes w.lanes (fun _ l => { l with sp := l.sp - back }) with pending := match x.pending with
        | none => some { t with entry := e }
        | some p =>
          if p.boundary.isNone && p.entry.all (fun y => decide (w.id < y.1)) then some { t with entry := e ++ p.entry }
          else some { p with entry := e.foldr insertEntry p.entry } })

/-- The bytes a lane's `cpl` copies, and whether any of them is poisoned (07 R175). -/
def cplData (s : State) (w : Work) : List Byte × Bool :=
  match w.kind with
  | .cpl _ _ _ (some x) => x
  | _ => (w.accs.flatMap (fun a => readLocs s a.loc a.size), w.accs.any (fun a => poisoned s a.loc a.size))

/-- The source read of a `cpl` is performed (10 R257). -/
def readCpl (s : State) (w : Work) : State :=
  match w.kind with
  | .cpl tag dst v none => s.modWork w.id (fun x => { x with kind := .cpl tag dst v (some (cplData s w)), accs := [] })
  | _ => s

/-- Perform one piece of work other than a `cpl`; an atomic becomes its reply. -/
def performAccess (s : State) (w : Work) : State :=
  if badReads s w != [] then raiseAtRead s w (badReads s w) else
  match w.kind with
  | .load sz =>
    let data := w.accs.map (fun a => (a.lane, readLocs s a.loc a.size))
    (landRegs s w (fun i l => loadWord sz (((data.find? (fun x => x.1 == l)).map (·.2)).getD []) i)).dropWork w.id
  | .store => (noteLines (w.accs.foldl (fun s a => writeLocs s a.loc a.data) (notePatches s w.accs)) w.span w.accs).dropWork w.id
  | .atomic op cas wide =>
    let r := atomicLanes op cas w.accs (notePatches s w.accs) []
    (noteLines r.1 w.span (w.accs.filter (fun a => !cas || r.2.any (fun x => x.1 == a.lane && x.2 == a.cmp)))).modWork w.id
      (fun x => { x with kind := .reply r.2 wide, accs := [] })
  | .reply vals _ =>
    (landRegs s w (fun i l => let v := ((vals.find? (fun x => x.1 == l)).map (·.2)).getD 0#64
      if i == 0 then loWord v else hiWord v)).dropWork w.id
  | .red op => (noteLines (applyRed (atomicValue op) (notePatches s w.accs) w.accs) w.span w.accs).dropWork w.id
  | .redx _ => (noteLines (applyRed (fun a b => a + b) (notePatches s w.accs) w.accs) w.span w.accs).dropWork w.id
  | .scale f slot vals =>
    let scale (l : Nat) : FVal := Fmt.f32.unpack ((w.accs.find? (fun a => a.lane == l)).elim 0 (fun a => bytesNat (readLocs s a.loc 4)))
    let out (l : Nat) : DWord := ((vals.find? (fun x => x.1 == l)).elim 0#64 (fun x => cvtsResult f slot (scale l) x.2.1 x.2.2))
    (landRegs s w (fun i l => if i == 0 then loWord (out l) else hiWord (out l))).dropWork w.id
  | _ => s

/-- Perform a work that is needed now, by `f`, as it stands; one that only has to be read is read. An atomic's reply lands as well. -/
def performNeedBy (f : State → Work → State) (s : State) (x : Work × Bool) : State :=
  match s.work? x.1.id with
  | none => s
  | some w =>
    if !x.2 then readCpl s w else
    let s := f s w
    match s.work? w.id with
    | some r => f s r
    | none => s

/-- Whether outstanding work reads data and raises POISON where that is poisoned (07 R145). -/
def Work.reads (w : Work) : Bool :=
  match w.kind with
  | .load _ | .atomic _ _ _ | .scale _ _ _ => true
  | _ => false
/-- Whether bytes of its accesses carry the mark of poison. -/
def Work.marked (s : State) (w : Work) : Bool := w.accs.any (fun a => (List.range a.size).any (fun i => poisonMark s (a.loc.plus i)))
/-- Whether its span has issued another instruction since. -/
def Work.overtaken (s : State) (w : Work) : Bool := (s.span? w.span).elim false (fun x => decide (w.id < x.front))

/-- Bytes become poisoned by `f`. A read of them that instructions of its span have overtaken is performed before: none that follow a read which
raises POISON have had an effect (15 R300). DEDUCED (log 67). -/
def poisoning (s : State) (f : State → State) : State :=
  let t := f s
  f ((s.works.filter (fun w => w.reads && w.overtaken s && w.marked t && !w.marked s)).foldl (fun s w =>
    performNeedBy performAccess ((olderNeeds s w).foldl (performNeedBy performAccess) s) (w, true)) s)

/-- A lane's 32 bytes are written; poisoned source bytes poison all of them; the tag counts one less (07 R175, R176). -/
def cplLand (s : State) (w : Work) (tag dst v : Nat) : State :=
  let d := Loc.deck (workDeck s w) dst
  let src := cplData s w
  let put (s : State) : State := writeLocs s d (src.1.take v ++ List.replicate (32 - v) 0#8)
  let s := if src.2 then poisoning s (fun s => poisonLocs (put s) d 32) else put s
  (s.dropWork w.id).modSpan w.span (fun x => { x with tags := x.tags.modify tag (· - 1) })

/-- Perform one piece of work. Engine copies, fills and ring turns have rules of their own. -/
def performWork (s : State) (w : Work) : State :=
  match w.kind with
  | .cpl tag dst v _ => cplLand s w tag dst v
  | _ => performAccess s w

/-- Perform a work that is needed now. -/
def performNeed (s : State) (x : Work × Bool) : State := performNeedBy performWork s x
def performNeeds (s : State) (l : List (Work × Bool)) : State := l.foldl performNeed s

/-- Perform a piece of work after the reads that come before it. -/
def performReady (s : State) (w : Work) : State := performWork (performNeeds s (olderNeeds s w)) w

/-- Perform a span's outstanding accesses and `cpl` reads that touch the lanes, and what must come before them, oldest first, replies
included (15 R300, 10 R250). -/
def drain (s : State) (u : Nat) (m : LaneSet) : State :=
  performNeeds s (needed s (fun w => w.span == u && (w.isAccess || w.isCpl) && w.lanes &&& m != 0#64) s.works)

/-- Whether a deck's slice of a running operation has landed (08 R201). -/
def Key.hasLanded (k : Key) (deck : Nat) : Bool := k.armed.any (fun a => a.deck == deck && a.landed)

/-- Whether a register of a span has a write pending (01 R33). -/
def regPending (s : State) (u r : Nat) : Bool :=
  s.works.any (fun w => w.span == u && w.dsts.contains r) ||
  s.girders.any (fun g => g.keys.any (fun k => k.signers.any (fun x =>
    x.span == u && !k.hasLanded x.deck && decide (x.base ≤ r) && decide (r < x.base + 2 * x.np))))

/-! ## Ending lanes (05 R112) -/

/-- The lanes of a set end: mask bits cleared for good, %rsn 0, every waitm evaluated again, barriers tested (05 R112, 07 R166). A lane that ends
inside a read-side section leaves it as by its last `rdexit`: the loads it made before have first to return (17 R348; DEDUCED, log 105). -/
def endLanes (s : State) (u : Nat) (m : LaneSet) : State :=
  match s.span? u with
  | none => s
  | some sp =>
    let s := s.modSpan u (fun x =>
      let x := { x.modLanes m (fun _ l => { l with pos := { l.pos with st := .exited }, held := none, rsn := 0#4,
                                                   exitAt := if l.rsn == 0#4 then l.exitAt else s.fresh, plvl := none }) with
        ended := x.ended ||| m }
      settleSets { x with masks := x.masks.map (fun k => k &&& x.maskable) })
    barCheckAll s sp.deck ((s.deck? sp.deck).elim 0 (·.girder))

/-! ## Fault records and frames (15 R304-R313) -/

/-- The 64 bytes of a fault record (15 R311). -/
def recordBytes (s : State) (sp : Span) (d : Deck) (g : Girder) (t : TrapInfo) (pc depth : Nat) (dbg : Bool) : List Byte :=
  natBytes 2 t.cause ++ natBytes 1 t.access ++ natBytes 1 t.mtype ++ natBytes 1 (lowestLane t.lanes) ++ natBytes 1 depth ++
  natBytes 2 (if t.access = 0 then 0 else t.pages.length) ++ natBytes 8 t.lanes.toNat ++ natBytes 8 pc ++ natBytes 8 t.addr.toNat ++
  natBytes 1 sp.idx ++ natBytes 1 d.slot ++ natBytes 1 d.member ++ natBytes 1 0 ++ natBytes 2 d.pier ++
  natBytes 1 (segOf d.pier + if gradeOf d.pier = .v then 128 else 0) ++
  natBytes 1 ((if t.boundary.isSome then 1 else 0) + if dbg then 2 else 0) ++
  natBytes 4 g.x ++ natBytes 4 g.y ++ natBytes 4 g.z ++ natBytes 4 0 ++ natBytes 8 (t.time.getD s.time)

/-- Bytes of one register's values, 256 of them, lanes from W up zero. -/
def columnBytes (vals : List Word) : List Byte :=
  (List.range 64).flatMap (fun l => natBytes 4 (vals.getD l 0#32).toNat)

/-- A replay entry of the frame (15 R307). -/
def entryBytes (e : Issue) : List Byte :=
  let cs := e.cols.getD []
  natBytes 8 e.pc ++ natBytes 8 e.nextPc ++ natBytes 4 e.word.toNat ++ natBytes 4 (e.lit.getD 0#32).toNat ++ natBytes 8 e.aset.toNat ++
  natBytes 8 e.gset.toNat ++ natBytes 4 ((if e.valid then 3 else 2) + 256 * cs.length) ++ natBytes 4 0 ++
  (List.range 16).map (fun i => BitVec.ofNat 8 ((cs.map (·.1)).getD i 0)) ++ cs.flatMap (fun c => columnBytes c.2)

/-- The pieces of a frame by offset (15 R305); everything else of its 16 KiB is zero. -/
def framePieces (sp : Span) (rec : List Byte) (depth : Nat) (lanes : LaneSet) (q : List Issue) : List (Nat × List Byte) :=
  [(0x0000, rec), (0x0040, natBytes 4 1 ++ natBytes 1 sp.width ++ natBytes 1 depth), (0x0048, natBytes 8 lanes.toNat),
   (0x0050, sp.tags.flatMap (natBytes 1)), (0x0058, natBytes 4 (sp.grant % 65536 + sp.spare * 65536) ++ natBytes 4 sp.ceil),
   (0x0100, sp.masks.flatMap (fun m => natBytes 8 m.toNat)), (0x0200, sp.regs.flatMap (fun r => natBytes 4 r.mapEntry.toNat)),
   (0x0400, [124, 125, 126, 127].flatMap (fun r => columnBytes (sp.vals r)))] ++
  q.zipIdx.map (fun x => (0x0800 + 0x640 * x.2, entryBytes x.1))

/-- Zero a 4 KiB page; the poison of its bytes ends (21 R382). -/
def zeroPage (s : State) : Loc → State
  | .dev pa => { s with mem := s.mem.clear pa (pa + 4096), poison := s.poison.filter (fun x => x < pa || pa + 4096 ≤ x) }
  | .host ha => { s with hostMem := s.hostMem.clear ha (ha + 4096) }
  | _ => s

/-- A context wrote every line of a page. -/
def notePage (s : State) (ctx : Nat) (l : Loc) : State := (List.range 32).foldl (fun s i => noteWrite s (some ctx) (l.plus (128 * i))) s

/-- Zero one page of the frame area, or nothing (15 R304: relaxed stores of the pier). -/
def clearPage (s : State) (cx : Context) (va : Nat) : Option State :=
  match translate s cx false .write va with
  | .ok l _ => some (notePage (zeroPage s l) cx.num l)
  | _ => none

/-- The page of the host that an access of one kind to a whole frame has to ask for first, if there is one (20 R371). -/
def frameAsksFor (k : Kind) (s : State) (cx : Context) (frame : Nat) : Option Nat :=
  [0, 4096, 8192, 12288].findSome? (fun o => match translate s cx false k (frame + o) with
    | .ask p => some p
    | _ => none)
/-- The page that a frame's stores wait for. -/
def frameAsks (s : State) (cx : Context) (frame : Nat) : Option Nat := frameAsksFor .write s cx frame
/-- The page that a frame's reads wait for. -/
def frameReadAsks (s : State) (cx : Context) (frame : Nat) : Option Nat := frameAsksFor .read s cx frame

/-- Write bytes at a virtual address page by page, given that its pages translate. -/
def putBytes (s : State) (cx : Context) (va : Nat) : List Byte → State
  | [] => s
  | b :: bs =>
    let s := if b == 0#8 then s else match translate s cx false .write va with
      | .ok l _ => writeLoc s l b
      | _ => s
    putBytes s cx (va + 1) bs

/-- Write a whole frame; none when one of its pages cannot be written. -/
def writeFrame (s : State) (cx : Context) (frame : Nat) (pieces : List (Nat × List Byte)) : Option State := do
  let s ← clearPage s cx frame
  let s ← clearPage s cx (frame + 4096)
  let s ← clearPage s cx (frame + 8192)
  let s ← clearPage s cx (frame + 12288)
  return pieces.foldl (fun s p => putBytes s cx (frame + p.1) p.2) s

/-- A field of a frame, as `tret` reads it back. -/
def frameNat (s : State) (cx : Context) (frame off n : Nat) : Nat :=
  bytesNat ((List.range n).map (fun i => match translate s cx false .read (frame + off + i) with
    | .ok l _ => readLoc s l
    | _ => Config.frameByte s.steps (off + i)))

/-- Where a span's frame lies (15 R304). -/
def frameAt (cx : Context) (pier rslot : Nat) : Nat := cx.d.frameBase + 16384 * (64 * pier + rslot)
def frameAddr (cx : Context) (d : Deck) (sp : Span) : Nat := frameAt cx d.pier sp.rslot

/-- An instruction of a PC group that has captured nothing. -/
def Issue.plain (span : Nat) (aset gset : LaneSet) (pc : Nat) (cls : Cls) (next : Nat) : Issue :=
  { span := span, aset := aset, gset := gset, pc := pc, cls := cls, next := next, word := 0#32, lit := none, fetched := false, cols := none,
    valid := true, bound := false, graded := false, late := false }

/-- Capture an instruction's source values, if they are not captured already (15 R300, R307). -/
def capture (slots : List (BitVec 256)) (sp : Span) (e : Issue) : Issue :=
  match e.cols with
  | some _ => e
  | none =>
    let regs := ((decode e.cls e.word e.lit).elim [] (srcRegs slots)).insertionSort (fun a b => a ≤ b)
    { e with cols := some (regs.dedup.map (fun r => (r, sp.vals r))) }

/-- A blocking grow that waits is abandoned and becomes a replay entry (05 R99, 09 R227). -/
def growEntries (sp : Span) : List Issue :=
  let at_ (l : Nat) : Option (Nat × Nat × Nat × Clause) := match (sp.lane l).pos.st, (sp.lane l).pos.clause with
    | .waiting (.grow n req), some c => some ((sp.lane l).pos.pc, n, req, c)
    | _, _ => none
  (((List.range sp.width).filterMap at_).dedup).map (fun x =>
    let g := laneSetOf (fun l => at_ l == some x)
    { Issue.plain sp.uid (laneSetOf (fun l => hasLane g l && (sp.lane l).pos.p)) g x.1 x.2.2.2.cls x.2.2.2.next with
      word := Instr.encodeWord (.grow (BitVec.ofNat 9 x.2.1)) })

/-- Instructions of a span that were issued ahead of the one now performed: held, they become replay entries (15 R300, R301). -/
def aheadEntries (s : State) (slots : List (BitVec 256)) (sp : Span) : List Issue :=
  (s.issuing.filter (fun i => i.span == sp.uid && i.fetched)).map (fun i => { capture slots sp i with fetched := false })

/-- The octet slots that a replay entry issued ahead acquired at its issue, beside those of the instructions issued before it (01 R24, 15 R300);
one that found no room acquired none. -/
def acquireAhead (slots : List (BitVec 256)) (s : State) (e : Issue) : State :=
  match s.span? e.span, decode e.cls e.word e.lit with
  | some sp, some i =>
    if e.aset == 0#64 then s else
    let need := ((lateDsts slots i).filter (fun d => !(sp.vreg d).isVector)).length * sp.octets
    match cover s e.span need 0 e.aset with
    | .ok t => t.modSpan e.span (fun x => { x with used := x.used + need })
    | .error _ => s
  | _, _ => s

/-- Octet slots of a span in use. -/
def slotsUsed (s : State) (u : Nat) : Nat := (s.span? u).elim 0 (·.used)
/-- The slots that the replay entries issued ahead acquired, and the `own` ones that the trapping instruction has acquired, become spare
(01 R24, 15 R300). -/
def acquireAll (slots : List (BitVec 256)) (s : State) (u own : Nat) (es : List Issue) : State :=
  (es.foldl (acquireAhead slots) s).modSpan u (fun x => { x with used := slotsUsed s u - own })

/-- The lanes of abandoned grows stand at them again. -/
def releaseGrows (sp : Span) (grows : List Issue) : Span :=
  sp.modLanes (grows.foldl (fun (m : LaneSet) (g : Issue) => m ||| g.gset) 0#64) (fun _ l => { l with pos := { l.pos with st := .standing } })

/-- Outstanding work that a fault has suspended (07 R182). -/
def Work.suspended (w : Work) : Bool :=
  match w.kind with
  | .copy c => c.suspended
  | .load8 f => f.suspended
  | .rows f => f.suspended
  | _ => false

/-- What is left of a suspended copy or fill whose span is gone: nothing, but the source of a girder's collective that has been joined, which
the other members go on reading (07 R188, 15 R310; log 29). -/
def Work.orphan (w : Work) : Option Work :=
  match w.kind with
  | .copy c =>
    if c.op == 5 && (c.desc.extractLsb' 164 4) == 0#4 && c.joined && !c.bad then
      some { w with kind := .copy { c with dead := true, suspended := false } } else none
  | _ => none
/-- Whether work is such a remainder. -/
def Work.isOrphan (w : Work) : Bool :=
  match w.kind with
  | .copy c => c.dead
  | _ => false

/-- One of a context's. -/
def Work.orphanOf (w : Work) (ctx : Nat) : Bool :=
  match w.kind with
  | .copy c => c.dead && c.ctx == ctx
  | _ => false

/-- Page requests of a span that are outstanding with the host. -/
def Span.sent (x : Span) : Nat :=
  match x.stop with
  | .pages _ sent _ => sent
  | _ => 0
/-- Page requests that are outstanding with the host, those that no span waits for any more among them (20 R371). -/
def sentPages (s : State) : Nat := (s.spans.map Span.sent).sum + s.prgLoose.length
/-- A span waits no more for its page requests: n of them are still outstanding (20 R371). -/
def loosePages (s : State) (u n : Nat) : State := { s with prgLoose := s.prgLoose ++ List.replicate n u }

/-- Launch a span's abort (15 R310): its lanes end, the record goes to the host, the launch is marked; page requests that it waits for stay
outstanding (20 R371). Its suspended copies and fills, which only a `tret` could resume, end with it. DEDUCED (log 29). -/
def abortSpan (s : State) (c : Ctx) (t : TrapInfo) (pc depth : Nat) : State :=
  let s := loosePages s c.sp.uid ((s.span? c.sp.uid).elim 0 Span.sent)
  let rec_ := recordBytes s c.sp c.deck c.girder t pc depth false
  let s := postEvent s 0x0002 c.cx.num rec_
  let s := s.modLaunch c.launch.uid (fun l => { l with aborted := true })
  let s := { s with works := s.works.filterMap (fun (w : Work) => if w.span == c.sp.uid && w.suspended then w.orphan else some w) }
  let s := s.modSpan c.sp.uid (fun x =>
    { x with
      replay := [], reinj := [], kept := [], trap := none, stop := .running, pending := none, heldSlots := 0, serial := none, steps := none })
  endLanes s c.sp.uid c.sp.live

/-- v124-v127 as they stand at entry, and the slots they hold as VECTOR (01 R36). -/
def heldOf (sp : Span) : Nat := ([124, 125, 126, 127].filter (fun r => (sp.vreg r).isVector)).length * sp.octets

/-- Entry values of the handler, set without acquiring a slot (15 R306, 01 R36). -/
def enterRegs (sp : Span) (frame cause : Nat) : Span :=
  let h := heldOf sp
  let y := ((sp.setReg 124 (.uniform (BitVec.ofNat 32 frame))).setReg 125 (.uniform (BitVec.ofNat 32 (frame / 2 ^ 32)))).setReg 126
    (.uniform (BitVec.ofNat 32 cause))
  { y.setReg 127 (.affine 0#32 0#3) with
    used := sp.used - h, heldSlots := h, poison := y.poison.filter (fun q => decide (q.1 < 124)) }

/-- Whether an attached debugger catches a cause; a stop of its own has none (15 R325). -/
def Context.catches (cx : Context) (cause : Nat) : Bool :=
  match cx.debug with
  | some m => cause == 0 || (decide (cause < 32) && m.getLsbD cause) || cause == 0x000E
  | none => cause == 0

/-- The trap is counted (21 R390). -/
def countTrap (s : State) (pier cause : Nat) : State :=
  let s := countPier s pier 0x0A 1
  if cause == 0x000A then countPier s pier 0x07 1 else s

/-- A stopped span's frame is written; then it is given to the debugger, or its handler starts in trap mode (15 R304-R306, R325). -/
def enterTrap (s : State) (c : Ctx) (t : TrapInfo) (pc : Nat) (lanes : LaneSet) (q : List Issue) (caught : Bool) : State :=
  let sp := (s.span? c.u).getD c.sp
  let frame := frameAddr c.cx c.deck sp
  let pieces := framePieces sp (recordBytes s sp c.deck c.girder t pc q.length caught) q.length lanes q
  match writeFrame s c.cx frame pieces with
  | none => abortSpan s c t pc q.length
  | some s =>
    if caught then s.modSpan c.u (fun x => { x with stop := .debug (some frame), steps := none }) else
    s.modSpan c.u (fun x =>
      let mode : TrapMode := ⟨frame, t.cause, t.addr, lanes, [124, 125, 126, 127].map x.vreg, q, x.steps⟩
      { enterRegs x frame t.cause with trap := some mode, replay := [], steps := none, lastIssue := s.time }.modLanes lanes (fun _ l =>
        { l with held := some l.pos, pos := { pc := c.cx.d.handler, clause := none, p := true, st := .standing } }))

/-- A stopped span sends as many of its page requests as the host's allocation still has room for (15 R314, 20 R371). -/
def sendPages (s : State) (u : Nat) : State :=
  match (s.span? u).elim Stop.running (·.stop) with
  | .pages t sent waiting =>
    let n := min (waiting.length - sent) (Config.priAllocation - sentPages s)
    if n = 0 then s else countDev (s.modSpan u (fun x => { x with stop := .pages t (sent + n) waiting })) 0x46 n
  | _ => s
/-- Every stopped span, in the order of the spans, sends what it may. -/
def sendAllPages (s : State) : State := s.spans.foldl (fun s x => sendPages s x.uid) s

/-- A clause header's tag counts all read zero (03 R58 step 2). -/
def tagsClear (sp : Span) (m : BitVec 8) : Bool := (List.range 8).all (fun t => !m.getLsbD t || sp.tag t == 0)

/-- A position that waits at a header with clear tags, and its header. -/
def headerReady (sp : Span) (q : Pos) : Option Header :=
  match q.st with
  | .waiting (.header w) => (decodeHeader w).filter (fun h => tagsClear sp h.tagwait)
  | _ => none

/-- Lane i's position leaves a header: P is captured and the first word is next (03 R58 steps 3 and 5). -/
def passHeader (sp : Span) (i : Nat) (q : Pos) : Pos :=
  match headerReady sp q with
  | none => q
  | some h =>
    let pc := q.pc + 4
    { pc := pc, clause := some ⟨h.cls, pc + 4 * h.count⟩, st := .standing,
      p := h.msel == 0 || (hasLane (sp.mask (h.msel - 1)) i ^^ h.minv) }

/-- The scope of a header's fence, 0 for none, at a position that leaves it. -/
def headerFence (sp : Span) (q : Pos) : Nat := (headerReady sp q).elim 0 (·.fence)

/-- A lane has made a fence of a scope: a release at pier scope or wider holds for the stores that follow (10 R256). -/
def Lane.fenced (l : Lane) (scope : Nat) : Lane := if 2 ≤ scope then { l with rel := scope } else l

/-- Lanes of a set whose header wait is over go on: P, the clause's fence over each of them, the first word (03 R58). A stopped lane's wait
ends too (15 R303). -/
def passHeaders (s : State) (u : Nat) (m : LaneSet) : State :=
  match s.span? u with
  | none => s
  | some sp =>
    let scope (l : Lane) : Nat := max (headerFence sp l.pos) (l.held.elim 0 (headerFence sp))
    let s := drain s u (laneSetOf (fun l => hasLane m l && scope (sp.lane l) != 0))
    s.modSpan u (fun x => x.modLanes m (fun i l =>
      (l.fenced (scope l)).mapPos (passHeader sp i)))

/-- A span's issued instructions complete; its lanes' waits that are over end (15 R300, R303). -/
def completeOlder (s : State) (u : Nat) : State :=
  let s := drain s u (BitVec.allOnes 64)
  settleSpan (passHeaders s u (BitVec.allOnes 64)) u

/-- Whether a cause waits for the span's next issue boundary. -/
def State.pendingOf (s : State) (u : Nat) : Bool := (s.span? u).any (fun x => x.pending.isSome)

/-- A span that runs its trap handler is stopped for the debugger: the handler's frame stands, and what a debugger had let issue before the
trap is forgotten (15 R325; log 20). -/
def Span.debugStopped (x : Span) : Span :=
  { x with stop := .debug none, steps := none, trap := x.trap.map (fun t => { t with outer := none }) }

/-- The replay queue of a trap: the trapping instruction unless it is complete or has been an entry already, what was still to be
re-injected, waiting grows and what was issued ahead (15 R300, R301). -/
def Ctx.trapQueue (c : Ctx) (s : State) (t : TrapInfo) : List Issue :=
  let own := if t.complete || t.boundary.isSome || t.entry != [] || t.served then t.entry.map (·.2) else
    [{ capture c.launch.slots c.sp c.iss with
        fetched := false, graded := c.iss.graded || t.cause == 0x0004, bound := c.iss.bound || t.cause == 0x0011 || t.cause == 0x0012 }]
  own ++ c.sp.reinj ++ c.sp.replay ++ (growEntries c.sp).map (capture c.launch.slots c.sp) ++ aheadEntries s c.launch.slots c.sp

/-- The span stops for its trap: its queue is formed, its grows are abandoned and its latch entries end; `own` are the slots that the trapping
instruction has acquired (15 R300, R301, 01 R35). -/
def Ctx.stopSpan (c : Ctx) (s : State) (t : TrapInfo) (own : Nat) : State :=
  let q := c.trapQueue s t
  let s := acquireAll c.launch.slots s c.u own (aheadEntries s c.launch.slots c.sp)
  let s := { s with cur := none, issuing := s.issuing.filter (fun i => i.span != c.iss.span) }
  let s := if t.past then goOn s c.iss c.iss.gset else s
  let s := s.modSpan c.u (fun x =>
    releaseGrows { x with reinj := [], replay := q, pending := none, stop := .running } (growEntries c.sp))
  dropLatch (s.modPier c.deck.pier (fun p => { p with growQ := p.growQ.filter (fun x => x.1 != c.u) })) c.sp (fun _ => true)

/-- TAKING A TRAP (15 R300-R310) once the older instructions are complete: the span stops, the trapping instruction and what follows it
form the replay queue; then the device serves a missing page (unless it has tried), a debugger is given the stop, the span is aborted, or
its frame is written and the handler entered. A frame on a page that the host is still being asked for leaves the cause pending, and the
instruction not issued, as in the state `b`; the instruction holds `own` octet slots acquired in `s`. -/
def deliverTrapFrom (own : Nat) (b s : State) (iss : Issue) (t : TrapInfo) : Host.Outcome State Fault Refusal :=
  match ctxOf s iss with
  | none => .next { s with cur := none, issuing := s.issuing.filter (fun i => i.span != iss.span) }
  | some c =>
    let q := c.trapQueue s t
    let pc := t.boundary.getD iss.pc
    let caught := c.cx.catches t.cause
    let serve := !t.served && t.cause == 0x0007 && c.cx.d.tflags.getLsbD 0
    match (if serve || c.sp.trap.isSome || (c.cx.d.handler == 0 && !caught) then none else frameAsks s c.cx (frameAddr c.cx c.deck c.sp)) with
    | some page =>
      let stay := (t.complete && !t.past) || t.boundary.isSome || t.entry != [] || t.served
      .next (if stay then askPage { s with cur := none } page else askFor (putBack { b with cur := none } iss) iss page)
    | none =>
    let s := c.stopSpan s t own
    if serve then
      .next (sendPages (s.modSpan c.u (fun x => { x with stop := .pages { t with time := some (t.time.getD s.time) } 0 t.pages })) c.u)
    else
      let s := if t.cause == 0 then s else countTrap s c.deck.pier t.cause
      if c.sp.trap.isSome && t.cause == 0x0004 then
        .next (s.modSpan c.u Span.debugStopped)
      else if c.sp.trap.isSome || (c.cx.d.handler == 0 && !caught) then .next (abortSpan s c t pc q.length)
      else
        let live := if c.sp.live == 0#64 then 1#64 else c.sp.live
        .next (enterTrap s c t pc (if t.boundary.isSome then live else iss.gset) q caught)

/-- The same where the instruction has left nothing yet. -/
def deliverTrap (s : State) (iss : Issue) (t : TrapInfo) : Host.Outcome State Fault Refusal := deliverTrapFrom 0 s s iss t

/-- An instruction that had not issued in the state `b` raises a cause: the older instructions of its span complete first, and one of them
that raises a cause of its own traps in its place, before the instruction has issued (15 R300, R301). `own` is what the instruction holds
acquired. -/
def takeTrapHolding (own : Nat) (b s : State) (iss : Issue) (t : TrapInfo) : Host.Outcome State Fault Refusal :=
  let b := completeOlder b iss.span
  let s := completeOlder s iss.span
  if s.pendingOf iss.span then .next (putBack { b with cur := none } iss) else deliverTrapFrom own b s iss t
/-- The same where it holds nothing acquired. -/
def takeTrapFrom (b s : State) (iss : Issue) (t : TrapInfo) : Host.Outcome State Fault Refusal := takeTrapHolding 0 b s iss t
/-- The same where the instruction has left nothing yet. -/
def takeTrap (s : State) (iss : Issue) (t : TrapInfo) : Host.Outcome State Fault Refusal := takeTrapFrom s s iss t

/-- Entry i of the frame's queue as the handler left it (15 R308): VALID, AMASK and the columns are read back. -/
def readEntry (s : State) (cx : Context) (frame i : Nat) (e : Issue) : Issue :=
  let at_ := 0x0800 + 0x640 * i
  { e with valid := e.valid && bitOf (frameNat s cx frame (at_ + 0x28) 4) 0,
           aset := e.aset &&& BitVec.ofNat 64 (frameNat s cx frame (at_ + 0x18) 8),
           cols := e.cols.map (fun cs => cs.zipIdx.map (fun c => (c.1.1, (List.range c.1.2.length).map (fun l =>
             BitVec.ofNat 32 (frameNat s cx frame (at_ + 0x40 + 256 * c.2 + 4 * l) 4))))) }

/-- Lanes of a dropped entry go where the instruction would have left them (15 R308). -/
def dropEntry (sp : Span) (e : Issue) : Span :=
  sp.modLanes (e.gset &&& sp.live) (fun _ l => { l with pos := e.after l.pos })

/-- Dropped entries at the head of a queue that is being re-injected take their turn (15 R308). -/
def dropHeads : List Issue → Span → Span
  | [], sp => { sp with reinj := [] }
  | e :: t, sp => if e.valid then { sp with reinj := e :: t } else dropHeads t (dropEntry sp e)

/-- The replay queue of a frame as it is read back (15 R308, R309). -/
def readQueue (s : State) (cx : Context) (frame : Nat) (queue : List Issue) : List Issue :=
  queue.zipIdx.map (fun x => readEntry s cx frame x.2 x.1)

/-- The masks, SAVED and the queue of a frame are given back: `tret` and a debugger's CONTINUE (15 R308, R325). -/
def restoreFrame (s : State) (cx : Context) (u frame : Nat) (queue : List Issue) (entry : List VReg) (moved : Bool) : State :=
  let masks := (List.range 12).map (fun k => BitVec.ofNat 64 (frameNat s cx frame (0x100 + 8 * k) 8))
  let saved (i l : Nat) : Word := BitVec.ofNat 32 (frameNat s cx frame (0x400 + 256 * i + 4 * l) 4)
  let es := readQueue s cx frame queue
  let s := match s.span? u with
    | some sp => dropLatch s sp (fun r => decide (124 ≤ r))
    | none => s
  s.modSpan u (fun x =>
    let x := { x with masks := masks.map (fun m => m &&& x.maskable) }
    -- slots the handler's own VECTOR values of v124-v127 took become spare
    let x := if moved then { x with used := x.used - heldOf x + x.heldSlots, heldSlots := 0 } else x
    let x := entry.zipIdx.foldl (fun x r =>
      let vals := (List.range x.width).map (saved r.2)
      x.setReg (124 + r.2) (match r.1 with
        | .vector slot _ => .vector slot vals
        | old => (checker vals).getD old)) x
    settleSets { x with reinj := es, poison := x.poison.filter (fun q => decide (q.1 < 124)) })

/-- A span's suspended copies and fills go on at the faulting piece, where trap mode ends by tret or by exit and where page requests are answered
(07 R182, 15 R309, R314; log 90). -/
def resumeCopies (s : State) (u : Nat) : State :=
  { s with works := s.works.map (fun w => if w.span != u then w else match w.kind with
      | .copy c => { w with kind := .copy { c with suspended := false } }
      | .load8 f => { w with kind := .load8 { f with suspended := false } }
      | .rows f => { w with kind := .rows { f with suspended := false } }
      | _ => w) }

/-- The open serial section, unless the handler opened it: that one ends with trap mode. -/
def Span.ownSerial (sp : Span) : Option Serial := sp.serial.filter (fun z => !z.handler)

/-- The context of a span, as a record. -/
def spanContext (s : State) (sp : Span) : Option Context :=
  ((s.deck? sp.deck).bind (fun d => s.girder? d.girder)).bind (fun g => (s.launch? g.launch).bind (fun l => s.ctx? l.ctx))

/-- RETURN FROM A TRAP (08 R210, 15 R308): registers, masks, lanes and the replay queue come back and trap mode ends. A lane that had exited
before the handler ran on it (07 R182) has exited again, which may complete phases of barriers (07 R166, R167). -/
def returnFromTrap (s : State) (u : Nat) : State :=
  match s.span? u with
  | none => s
  | some sp =>
    match sp.trap, spanContext s sp with
    | some t, some cx =>
      let s := s.modSpan u (fun x => Span.modLanes
        { x with trap := none, lastIssue := s.time, serial := x.ownSerial, steps := x.steps.or t.outer } t.lanes (fun _ l =>
        { l with pos := l.held.getD l.pos, held := none }))
      let s := resumeCopies (restoreFrame s cx u t.frame t.queue t.entry true) u
      if t.lanes &&& sp.ended == 0#64 then s else barCheckAll s sp.deck ((s.deck? sp.deck).elim 0 (·.girder))
    | _, _ => s

/-- The host page of the frame that the end of trap mode by `exit` has still to ask for, where the handler's lanes have all exited (15 R309,
20 R371). -/
def exitAsks (s : State) (cx : Context) (u : Nat) : Option Nat := do
  let sp ← s.span? u
  let t ← sp.trap
  if sp.live &&& t.lanes == 0#64 then frameReadAsks s cx t.frame else none

/-- Trap mode ends because every handler lane has exited (15 R309). -/
def endTrapByExit (s : State) (u : Nat) : State :=
  match s.span? u with
  | none => s
  | some sp =>
    match sp.trap, spanContext s sp with
    | some t, some cx =>
      if sp.live &&& t.lanes != 0#64 then s else
      let s := drain s u (BitVec.allOnes 64)
      let es := readQueue s cx t.frame t.queue
      (resumeCopies s u).modSpan u (fun x =>
        { x with trap := none, heldSlots := 0, lastIssue := s.time, serial := x.ownSerial, steps := x.steps.or t.outer,
                 reinj := es.filter (fun e => e.gset &&& x.live != 0#64) })
    | _, _ => s

end Sys2Proof.Machine
end

