-- ==== Sys2Proof/Machine/Flags.lean ====
section
/-! DEFINITION. Conditions and the one-bit results that land in mask registers (05 R85, R91, 06 R119). -/

namespace Sys2Proof.Machine

/-- A condition on 32-bit values, signed or natural (05 R91). -/
def condWord (c : BitVec 3) (signed : Bool) (a b : Word) : Bool :=
  let lt := if signed then a.slt b else a.ult b
  let eq := a == b
  if c == 0#3 then eq else if c == 1#3 then !eq else if c == 2#3 then lt else if c == 3#3 then lt || eq
  else if c == 4#3 then !(lt || eq) else !lt

/-- A condition on 64-bit values (05 R91, R93). -/
def condDWord (c : BitVec 3) (signed : Bool) (a b : DWord) : Bool :=
  let lt := if signed then a.slt b else a.ult b
  let eq := a == b
  if c == 0#3 then eq else if c == 1#3 then !eq else if c == 2#3 then lt else if c == 3#3 then lt || eq
  else if c == 4#3 then !(lt || eq) else !lt

/-- The carry of a + b + k (05 R85). -/
def carryOut (a b : Word) (k : Bool) : Bool := decide (2 ^ 32 ≤ a.toNat + b.toNat + k.toNat)
/-- The borrow of a - b - k (05 R85). -/
def borrowOut (a b : Word) (k : Bool) : Bool := decide (a.toNat < b.toNat + k.toNat)

/-- A mask register with the bits of the lanes of A replaced (05 R91). -/
def maskBits (old : LaneSet) (a : LaneSet) (f : Nat → Bool) : LaneSet :=
  laneSetOf (fun l => if hasLane a l then f l else hasLane old l)

/-- Write the bits of the lanes of A of mask k (05 R85, R91, R103). -/
def Ctx.setBits (c : Ctx) (s : State) (k : Nat) (f : Nat → Bool) : State :=
  putMask s c.u k (maskBits ((s.span? c.u).elim 0#64 (·.mask k)) c.A f)

end Sys2Proof.Machine
end

