-- ==== Sys2Proof/Machine/Place.lean ====
section
/-! DEFINITION. Placing decks and their spans, parking and migration (01 R30, R31, 09 R220-R222, 14 R284-R294, 15 R316-R323). -/

namespace Sys2Proof.Machine

/-- A field of a queue's descriptor in device memory (14 R273). -/
def queueField (s : State) (q off n : Nat) : Nat :=
  (s.queue? q).elim 0 (fun x => bytesNat ((List.range n).map (fun i => devByte s (x.desc + off + i))))
def setQueueField (s : State) (q off n v : Nat) : State :=
  match s.queue? q with
  | some x => writeLocs s (.dev (x.desc + off)) (natBytes n v)
  | none => s
/-- COREMASK, bit p for pier p. -/
def coreMask (s : State) (q : Nat) : Nat := queueField s q 0x20 36

/-- What a deck needs of a pier (14 R284). -/
structure Need where
  spans : Nat
  width : Nat
  deckmem : Nat
  priv : Nat
  grade : Nat
  deriving DecidableEq, Repr, Inhabited

def Launch.need (l : Launch) : Need := ⟨l.spans, l.width, l.deckmem, l.priv, l.grade⟩
/-- A spawned span's deck (14 R287). -/
def Launch.childNeed (l : Launch) : Need := ⟨1, 32, 0, l.priv, 0⟩

/-- Whether a deck holds resources of its pier. -/
def Deck.resident (d : Deck) : Bool :=
  match d.status with
  | .parked | .moving _ => false
  | _ => true

def decksAt (s : State) (p : Nat) : List Deck := s.decks.filter (fun d => d.pier == p && d.resident)
def spansAt (s : State) (p : Nat) : List Span := (decksAt s p).flatMap (fun d => s.spansOf d.uid)

/-- Lowest number below n that is in no use. -/
def lowestFree (n : Nat) (used : List Nat) : Option Nat := (List.range n).find? (fun i => !used.contains i)

/-- Lowest free run of deck memory in units of 1 KiB (14 R284). -/
def freeRun (s : State) (p size : Nat) : Option Nat :=
  ((List.range (deckMemOf p / 1024 + 1)).map (· * 1024)).find? (fun b =>
    decide (b + size ≤ deckMemOf p) &&
    (decksAt s p).all (fun d => decide (d.memBase + d.memSize ≤ b) || decide (b + size ≤ d.memBase) || d.memSize == 0))

/-- Private bytes a deck takes of the context's pool (14 R284). -/
def privBytes (priv : Nat) : Nat := (2048 * priv + 65535) / 65536 * 65536
def privUsed (s : State) (ctx : Nat) : Nat :=
  (s.decks.map (fun d => match (s.girder? d.girder).bind (fun g => s.launch? g.launch) with
    | some l => if l.ctx == ctx then privBytes l.priv else 0
    | none => 0)).sum

/-- The grade bits allow the pier (14 R284). -/
def gradeAllows (n : Need) (p : Nat) : Bool :=
  n.grade == 0 && (decide (n.deckmem ≤ 262144) || gradeOf p == .v) ||
  n.grade == 1 && gradeOf p == .m || n.grade == 2 && gradeOf p == .v

/-- A pier meets 14 R284 for a deck; with `alone`, as if every other deck were gone. `grade` overrides the launch's for a migration. -/
def pierFits (s : State) (n : Need) (mask : Nat) (free : Nat) (alone : Bool) (grade : Option Grade) (p : Nat) : Bool :=
  mask.testBit p && decide (p < 288) &&
  (match grade with
   | some g => gradeOf p == g
   | none => gradeAllows n p) &&
  decide (n.deckmem ≤ deckMemOf p) && decide (n.spans ≤ 64) &&
  (alone || (
    (lowestFree 16 ((decksAt s p).map (·.slot))).isSome &&
    decide ((spansAt s p).length + n.spans ≤ 64) &&
    (freeRun s p n.deckmem).isSome &&
    decide (n.spans * (n.width / 8) ≤ (s.pier p).pool) &&
    decide (privBytes n.priv ≤ free)))

/-- The first set of g piers of one truss that satisfy p (14 R285, 09 R220). -/
def pierSet (g : Nat) (p : Nat → Bool) : Option (List Nat) :=
  if g = 1 then ((List.range 288).find? p).map (fun x => [x])
  else (((List.range 36).map (fun t => (piersOfTruss t).filter p)).find? (fun l => decide (g ≤ l.length))).map (·.take g)

/-- Free private bytes of a context. -/
def privFree (s : State) (cx : Context) : Nat := cx.d.privSize - privUsed s cx.num

/-! ## Spans and decks come to be -/

/-- Registers after the preload of 01 R30. -/
def preloadRegs (l : Launch) (g : Girder) (d : Deck) (idx w : Nat) : List VReg :=
  let put (st : List VReg × Nat) (bit : Nat) (v : VReg) : List VReg × Nat :=
    if l.preload.testBit bit then (st.1.set st.2 v, st.2 + 1) else st
  let st := (List.replicate 128 (.uniform 0#32), 0)
  let st := put st 0 (.affine (BitVec.ofNat 32 (idx * w)) 0#3)
  let st := put st 1 (.uniform (BitVec.ofNat 32 g.x))
  let st := put st 2 (.uniform (BitVec.ofNat 32 g.y))
  let st := put st 3 (.uniform (BitVec.ofNat 32 g.z))
  let st := put st 4 (.uniform (BitVec.ofNat 32 d.member))
  let st := if l.preload.testBit 5 then
      let r := (st.2 + 1) / 2 * 2
      ((st.1.set r (.uniform (loWord l.args))).set (r + 1) (.uniform (hiWord l.args)), r + 2)
    else st
  (put st 6 (.affine 0#32 0#3)).1

/-- A lane at a span's creation (09 R221). -/
def newLane (entry : Nat) (priv : Nat) (alive : Bool) : Lane :=
  { pos := { pc := entry, clause := none, p := true, st := if alive then .standing else .exited }, held := none,
    sp := BitVec.ofNat 32 priv, splim := 0#32, rsn := 0#4, exitAt := 0, rel := 0, plvl := none, starve := 0, yieldTill := none }

def newSpan (uid deck idx w : Nat) (role : BitVec 2) (rslot islot : Nat) (regs : List VReg) (lanes : List Lane)
    (ceil now : Nat) (spawned : Bool) : Span :=
  { uid := uid, deck := deck, idx := idx, width := w, role := role, rslot := rslot, islot := islot, regs := regs,
    masks := List.replicate 12 0#64, tags := List.replicate 8 0, lanes := lanes, grant := 0, used := 0, heldSlots := 0,
    ceil := ceil, serial := none, trap := none, replay := [], reinj := [], kept := [], stop := .running, pending := none, steps := none,
    poison := [], idle := 0, promoted := none, lastLane := none, lastIssue := now, front := 0, quiet := true, spawned := spawned,
    ended := laneSetOf (fun l => (lanes[l]?).any (fun x => x.pos.st == .exited)), asks := [] }

/-- The issue slot with the fewest resident lanes (09 R222). -/
def leastSlot (s : State) (p : Nat) : Nat :=
  let load (q : Nat) := (((spansAt s p).filter (fun x => x.islot == q)).map (·.width)).sum
  ((List.range 4).foldl (fun b q => if load q < load b then q else b) 0)

def newDeck (uid girder member pier slot base size spans : Nat) : Deck :=
  { uid := uid, girder := girder, member := member, pier := pier, slot := slot, memBase := base, memSize := size,
    mem := .empty, priv := .empty, poison := [], poisonP := [], bars := List.replicate 16 (Bar.initial (BitVec.ofNat 32 (2 ^ spans - 1))),
    rings := List.replicate 8 ⟨0, 0, 0#32, 0#32⟩, status := .clearing, image := none, imageBytes := 0, noPark := false, tampered := false, spans := spans }

/-- Place one deck on a pier and create its spans (09 R221, R222). -/
def placeDeck (s : State) (g : Girder) (member pier : Nat) (n : Need) (ceil : Nat) (role : Nat → BitVec 2)
    (regs : Deck → Nat → List VReg) (lane : Nat → Nat → Lane) (spawned : Bool) : State :=
  match lowestFree 16 ((decksAt s pier).map (·.slot)), freeRun s pier n.deckmem with
  | some slot, some base =>
    let uid := s.fresh
    let d := newDeck uid g.uid member pier slot base n.deckmem n.spans
    let first := leastSlot s pier
    let s := { s with decks := s.decks ++ [d], fresh := s.fresh + 1 }
    (List.range n.spans).foldl (fun s i =>
      let rslot := (lowestFree 64 ((spansAt s pier).map (·.rslot))).getD 0
      let sp := newSpan s.fresh uid i n.width (role i) rslot ((first + i * n.width / 64) % 4) (regs d i)
        ((List.range n.width).map (lane i)) ceil s.time spawned
      { s with spans := s.spans ++ [sp], fresh := s.fresh + 1 }) s
  | _, _ => s

def newGirder (uid launch x y z size truss : Nat) : Girder :=
  { uid := uid, launch := launch, x := x, y := y, z := z, size := size, truss := truss,
    keys := List.replicate 8 ⟨0, 0, 0, 0, [], [], []⟩, bars := List.replicate 4 (Bar.initial (BitVec.ofNat 32 (2 ^ size - 1))) }

/-- Place the next girder of a launch on piers, ascending (09 R220, 14 R283). -/
def placeGirder (s : State) (l : Launch) (piers : List Nat) : State :=
  let i := l.nextGirder
  let g := newGirder s.fresh l.uid (i % (l.gx + 1)) (i / (l.gx + 1) % (l.gy + 1)) (i / ((l.gx + 1) * (l.gy + 1))) l.girderSize
    (trussOf (piers.headD 0))
  let s := { s with girders := s.girders ++ [g], fresh := s.fresh + 1 }
  let s := piers.zipIdx.foldl (fun s p => placeDeck s g p.2 p.1 l.need l.ceil
    (fun k => l.roles.extractLsb' (2 * k) 2) (fun d k => preloadRegs l g d k l.width) (fun _ _ => newLane l.entry l.priv true) false) s
  s.modLaunch l.uid (fun x => { x with nextGirder := i + 1 })

/-! ## Stopping a deck: parking and migration -/

/-- Bytes of a deck's image (14 R293). -/
def imageBytes (s : State) (d : Deck) : Nat :=
  1024 + d.memSize + ((s.spansOf d.uid).map (fun x => 4096 + 32 * x.used + 16 * x.width)).sum +
  (if d.image.isSome || (s.pier d.pier).owner == some d.uid && d.resident then 233472 else 0)

/-- Save-area bytes in use by a context's saved decks. -/
def savedBytes (s : State) (ctx : Nat) : Nat :=
  (s.decks.map (fun d => match (s.girder? d.girder).bind (fun g => s.launch? g.launch) with
    | some l => if l.ctx == ctx then d.imageBytes else 0
    | none => 0)).sum

/-- Stop a span at its issue boundary (15 R301): an issue that was picked has not passed its checks. It stays where it stands, and so does
what was to follow it in its group, a re-injected one in its queue; others issued ahead and an abandoned grow become replay entries. -/
def holdSpan (slots : List (BitVec 256)) (s : State) (u : Nat) : State :=
  match s.span? u with
  | none => s
  | some x =>
    let grows := growEntries x
    let s := (s.issuing.filter (fun i => i.span == u && !i.fetched)).foldl putBack s
    let s := s.modSpan u (fun y => releaseGrows { y with replay := y.replay ++ (grows.map (capture slots y) ++ aheadEntries s slots y) } grows)
    let s := { s with issuing := s.issuing.filter (fun i => i.span != u) }
    s.modPier ((s.deck? x.deck).elim 0 (·.pier)) (fun p => { p with growQ := p.growQ.filter (fun q => q.1 != u) })

/-- The format slots of a span's or deck's launch. -/
def slotsOf (s : State) (deck : Nat) : List (BitVec 256) :=
  (((s.deck? deck).bind (fun d => s.girder? d.girder)).bind (fun g => s.launch? g.launch)).elim [] (·.slots)

/-- Stop a deck's spans at their issue boundaries (15 R301). -/
def stopDeck (s : State) (deck : Nat) (st : DeckStatus) : State :=
  ((s.spansOf deck).foldl (fun s x => holdSpan (slotsOf s deck) s x.uid) s).modDeck deck (fun d => { d with status := st })

/-- Whether an access of outstanding work writes a deck's memory: a store, an atomic or a reduction of any member of its girder. -/
def Work.storesTo (w : Work) (deck : Nat) : Bool :=
  w.writes && w.accs.any (fun a => match a.loc with
    | .deck u _ => u == deck
    | _ => false)

/-- Whether outstanding work still writes into a deck's memory or matrix unit, or credits its barriers (14 R292). Suspended work goes on
only after its span's handler has run (07 R182). -/
def writesDeck (s : State) (deck : Nat) (w : Work) : Bool :=
  match w.kind with
  | .cpl _ _ _ _ => workDeck s w == deck
  | .copy c =>
    let dst := (c.desc.extractLsb' 64 64).toNat
    let into := deckWindow dst && (c.wins.find? (fun x => x.1 == bitsOf dst 35 9 * 16 + bitsOf dst 31 4)).elim false (fun x => x.2 == deck)
    !c.suspended && !c.dead && (into || (c.deck == deck && (c.desc.getLsbD 141 || decide ((c.desc.extractLsb' 155 5).toNat < 20))))
  | .load8 f => !f.suspended && f.deck == deck
  | .rows f => !f.suspended && (f.deck == deck || (f.word.extractLsb' 18 8).getLsbD ((s.deck? deck).elim 0 (·.member)) &&
      (s.deck? f.deck).elim false (fun d => (s.deck? deck).elim false (fun e => e.girder == d.girder)))
  | _ => w.storesTo deck

/-- Whether a deck's image is being written or is in the save area: nothing lands in it (14 R292). -/
def imageShut (s : State) (deck : Nat) : Bool :=
  (s.deck? deck).elim false (fun d => match d.status with
    | .saving _ | .parked | .moving _ => true
    | _ => false)

/-- Whether a slot's turn has come for a side and nobody holds it (09 R235). -/
def Ring.turn (r : Ring) (k : Nat) (prod : Bool) : Bool := (r.phase.getLsbD k == !prod) && !r.held.getLsbD k

/-- The oldest waiting stgacq of a ring whose turn has come; none of a deck in whose image nothing lands (09 R235, 14 R292). -/
def ringReady (s : State) (deck ring : Nat) : Option (Work × Nat × Word) :=
  if imageShut s deck then none else
  s.works.findSome? (fun w => match w.kind with
    | .ring n slot prod off =>
      if n == ring && workDeck s w == deck &&
         (s.deck? deck).elim false (fun d => (d.rings[ring]?).elim false (fun r => r.turn slot prod)) then some (w, slot, off) else none
    | _ => none)

/-- Whether a deck has quiesced (14 R292): an operation that the deck armed counts while its keystone still gathers, and so does a waiting
stgacq whose turn has come. -/
def quiesced (s : State) (deck : Nat) : Bool :=
  (List.range 8).all (fun k => (ringReady s deck k).isNone) && s.works.all (fun w => !(w.isAccess && workDeck s w == deck) && !writesDeck s deck w) &&
  ((s.deck? deck).bind (fun d => s.girder? d.girder)).elim true (fun g =>
    g.keys.all (fun k => k.hasLanded deck ||
      (k.armed.all (fun a => a.deck != deck) && (k.st != 2 || k.signers.all (fun x => x.deck != deck)))))

/-- The unit's contents as the image of 08 R205 gives them back: a macro of a bank is valid or not as a whole. -/
def Matrix.carried (m : Matrix) : Matrix := { m with valid := m.valid.map (fun v => if v == BitVec.allOnes 64 then v else 0#64) }

/-- The deck leaves its pier: slots return to the pool, the matrix unit's contents go with it and ownership ends (14 R291, 15 R318). -/
def vacateDeck (s : State) (deck : Nat) (st : DeckStatus) : State :=
  match s.deck? deck with
  | none => s
  | some d =>
    let p := s.pier d.pier
    let bytes := imageBytes s d
    let img := if p.owner == some deck then p.mtx.map Matrix.carried else d.image
    let give := ((s.spansOf deck).map (·.grant)).sum
    let s := s.modPier d.pier (fun p =>
      { p with pool := p.pool + give, owner := if p.owner == some deck then none else p.owner,
               latch := p.latch.map (fun z => z.filter (fun e => (s.span? e.span).elim false (fun x => x.deck != deck))) })
    let s := (s.spansOf deck).foldl (fun s x => s.modSpan x.uid (fun y => { y with grant := y.used + y.heldSlots })) s
    s.modDeck deck (fun d => { d with status := st, image := img, imageBytes := bytes })

/-- n free numbers below 64, lowest first. -/
def freeNumbers : Nat → List Nat → List Nat
  | 0, _ => []
  | n + 1, used =>
    let r := (lowestFree 64 used).getD 0
    r :: freeNumbers n (r :: used)

/-- A register takes new octet slots: the k-th choice of a number (01 R17, 15 R318). -/
def VReg.renumber (k : Nat) : VReg → VReg
  | .vector _ vals => .vector (Config.freeSlot k % 24576) vals
  | r => r
def renumberAll (k : Nat) (l : List VReg) : List VReg := l.zipIdx.map (fun x => x.1.renumber (k + x.2))

/-- A frame that moves with its span: span, new address and the bytes of the old frame (15 R304). -/
structure FrameMove where
  span : Nat
  to_ : Nat
  bytes : List Byte
  deriving DecidableEq, Repr, Inhabited

def frameMoves (s : State) (cx : Context) (pier : Nat) (spans : List (Span × Nat)) : List FrameMove :=
  spans.filterMap (fun x => x.1.trap.map (fun t =>
    { span := x.1.uid, to_ := frameAt cx pier x.2, bytes := (List.range 16384).map (fun i => BitVec.ofNat 8 (frameNat s cx t.frame i 1)) }))

/-- Every lane of a register takes one value; a VECTOR register stays one (01 R20). -/
def Span.putAll (sp : Span) (r : Nat) (v : Word) : Span :=
  sp.setReg r (match sp.vreg r with
    | .vector slot _ => .vector slot (List.replicate sp.width v)
    | _ => .uniform v)

/-- A moved frame is written, and the handler's registers name it; a fault on its stores aborts the span (15 R304, R310). -/
def moveFrame (s : State) (cx : Context) (m : FrameMove) : State :=
  match writeFrame s cx m.to_ [(0, m.bytes)] with
  | some s =>
    let s := match s.span? m.span with
      | some sp => dropLatch s sp (fun r => r == 124 || r == 125)
      | none => s
    s.modSpan m.span (fun y => { (y.putAll 124 (BitVec.ofNat 32 m.to_)).putAll 125 (BitVec.ofNat 32 (m.to_ / 2 ^ 32)) with
      trap := y.trap.map (fun t => { t with frame := m.to_ }) })
  | none =>
    match (s.span? m.span).bind (·.trap), ctxOf s (Issue.plain m.span 0#64 0#64 0 .alu 0) with
    | some t, some c => abortSpan s c (TrapInfo.at t.cause t.faddr t.lanes) (bytesNat ((m.bytes.drop 16).take 8)) t.queue.length
    | _, _ => s

/-- A span of an arriving deck: its place, its registers' new slots, its replay queue to issue again (14 R294, 15 R317, R318). Its picker starts
anew: it has no lane that issued last, which R229 does not say. DESIGN CHOICE (log 94). -/
def arriveSpan (k now rslot islot : Nat) (y : Span) : Span :=
  let run := y.stop == .running
  { y with rslot := rslot, islot := islot, regs := renumberAll k y.regs,
           trap := y.trap.map (fun t => { t with entry := renumberAll (k + 128) t.entry }),
           reinj := y.reinj ++ (if run then y.replay else []), replay := if run then [] else y.replay,
           lastIssue := now, idle := 0, lastLane := none, asks := [] }

/-- A deck's spans with the resident-span slots that they take on a pier. -/
def placedSpans (s : State) (deck pier : Nat) : List (Span × Nat) :=
  (s.spansOf deck).zip (freeNumbers (s.spansOf deck).length ((spansAt s pier).map (·.rslot)))

/-- The host page that a frame of an arriving deck still has to ask for, where it lies or where it goes (20 R371). -/
def arriveAsks (s : State) (cx : Context) (deck pier : Nat) : Option Nat :=
  (placedSpans s deck pier).findSome? (fun x => x.1.trap.bind (fun t =>
    (frameReadAsks s cx t.frame).or (frameAsks s cx (frameAt cx pier x.2))))

/-- The frames that move with the decks of a girder, each deck with its new pier (15 R304). -/
def girderMoves (s : State) (cx : Context) (pairs : List (Deck × Nat)) : List FrameMove :=
  pairs.flatMap (fun x => frameMoves s cx x.2 (placedSpans s x.1.uid x.2))

/-- A saved deck takes its place on a pier (14 R294, 15 R317-R321): slots and memory run. An image that V cannot hold stays in the save
area. -/
def arriveDeck (s : State) (deck pier : Nat) : State :=
  match s.deck? deck, lowestFree 16 ((decksAt s pier).map (·.slot)), freeRun s pier ((s.deck? deck).elim 0 (·.memSize)) with
  | some d, some slot, some base =>
    let spans := s.spansOf deck
    let placed := placedSpans s deck pier
    let first := leastSlot s pier
    let take := (spans.map (·.grant)).sum
    let restore := d.image.isSome && gradeOf pier == .m
    let s := s.modPier pier (fun p =>
      { p with pool := p.pool - take, mtx := if restore then d.image else p.mtx, owner := if restore then some deck else p.owner })
    let s := placed.foldl (fun s x =>
      { s.modSpan x.1.uid (arriveSpan s.free s.time x.2 ((first + x.1.idx * x.1.width / 64) % 4)) with free := s.free + 132 }) s
    s.modDeck deck (fun d =>
      { d with pier := pier, slot := slot, memBase := base, tampered := false, noPark := false, image := if restore then none else d.image,
               imageBytes := if d.image.isSome && !restore then 233472 else 0, status := if spans == [] then .retired else .running })
  | _, _, _ => s

/-- What a deck needs where it goes next; a spawned deck is placed on either grade (14 R284, R287). -/
def deckNeed (s : State) (l : Launch) (d : Deck) : Need :=
  let spans := s.spansOf d.uid
  { spans := d.spans, width := ((spans.head?).map (·.width)).getD l.width, deckmem := d.memSize, priv := l.priv,
    grade := if spans.any (·.spawned) then 0 else l.grade }

/-- Whether a pier can take a saved or migrating deck (14 R294, 15 R316): R284, slots for U + H, and for a carried matrix image on M a
unit that no deck owns. -/
def capablePier (s : State) (cx : Context) (l : Launch) (mask : Nat) (grade : Option Grade) (alone : Bool) (d : Deck) (p : Nat) : Bool :=
  let slots := ((s.spansOf d.uid).map (fun x => x.used + x.heldSlots)).sum
  pierFits s (deckNeed s l d) mask (privFree s cx + privBytes l.priv) alone grade p &&
  (alone || (decide (slots ≤ (s.pier p).pool) &&
    (gradeOf p == .v || (s.pier p).owner.isNone || (d.image.isNone && !(d.resident && (s.pier d.pier).owner == some d.uid)))))

/-- Piers for decks one by one out of an ascending list, in member order (09 R220): the lowest choice that lets all of them be placed. -/
def assignPiers (fits : Deck → Nat → Bool) : List Deck → List Nat → Option (List Nat)
  | [], _ => some []
  | _ :: _, [] => none
  | d :: ds, p :: ps => (if fits d p then (assignPiers fits ds ps).map (p :: ·) else none).or (assignPiers fits (d :: ds) ps)

/-- The lowest pier for a deck, or the piers of the lowest truss that take a girder's decks together (09 R220, 14 R285, 15 R316). -/
def pierSetFor (fits : Deck → Nat → Bool) (decks : List Deck) : Option (List Nat) :=
  if decks.length ≤ 1 then assignPiers fits decks (List.range 288)
  else (List.range 36).findSome? (fun t => assignPiers fits decks (piersOfTruss t))

/-- Bytes all decks' images take, against what the save area has left beside the other decks', or all of it (15 R316, R323). -/
def saveFits (s : State) (cx : Context) (decks : List Deck) (alone : Bool) : Bool :=
  let own := (decks.map (·.imageBytes)).sum
  decide ((decks.map (imageBytes s)).sum + (if alone then 0 else savedBytes s cx.num - own) ≤ cx.d.saveSize)

/-- A capable pier set for a girder's decks (15 R316); with `alone`, as if every other deck were gone (15 R323). -/
def capableSet (s : State) (cx : Context) (l : Launch) (g : Girder) (target : Grade) (alone : Bool) : Option (List Nat) :=
  let decks := s.decksOf g.uid
  if saveFits s cx decks alone then pierSetFor (capablePier s cx l (coreMask s l.queue) (some target) alone) decks else none

/-- ADDR of NO_CAPABLE_PIER (15 R323). -/
def noPierAddr (s : State) (cx : Context) (l : Launch) (g : Girder) (target : Grade) : DWord :=
  let mask := coreMask s l.queue
  let have_ := (List.range 288).filter (fun p => mask.testBit p && gradeOf p == target)
  let truss := (List.range 36).any (fun t => decide (g.size ≤ (have_.filter (fun p => trussOf p == t)).length))
  BitVec.ofNat 64 ((if target = .m then 1 else 2) + (if 262144 < l.deckmem then 256 else 0) +
    (if have_ != [] && !truss then 512 else 0) + (if saveFits s cx (s.decksOf g.uid) true then 0 else 1024))

/-- Start the migration of a girder's decks (15 R316, R317). -/
def startMigration (s : State) (g : Girder) (target : Grade) : State :=
  (s.decksOf g.uid).foldl (fun s d => match d.status with
    | .running | .clearing | .parking | .retired => stopDeck s d.uid (.migrating target)
    | _ => s) s

/-- UNSUPPORTED_ON_GRADE (15 R316, R321, R323, R325): the deck migrates with the word at the head of its queue, a debugger
that catches the cause has the stop, or the span traps NO_CAPABLE_PIER. `own` is what the instruction holds acquired. -/
def wrongGrade (c : Ctx) (own : Nat) (s : State) (target : Grade) : Host.Outcome State Fault Refusal :=
  if c.cx.catches 0x0004 && !c.iss.graded then takeTrapHolding own c.before s c.iss (TrapInfo.at 0x0004 0#64 c.G)
  else if (capableSet s c.cx c.launch c.girder target true).isNone then
    takeTrapHolding own c.before s c.iss (TrapInfo.at 0x000D (noPierAddr s c.cx c.launch c.girder target) c.G)
  else
    let s := { completeOlder (unreserve s c.u own) c.u with cur := none }
    match s.span? c.u with
    | none => .next s
    | some sp =>
      if sp.pending.isSome then .next (putBack { completeOlder c.before c.u with cur := none } c.iss) else
      let q := { capture c.launch.slots sp c.iss with fetched := false } :: sp.reinj
      .next (startMigration (s.modSpan c.u (fun x => { x with replay := q ++ x.replay, reinj := [] })) c.girder target)

end Sys2Proof.Machine
end

