-- ==== Sys2Proof/Machine/Issue.lean ====
section
/-! DEFINITION. How an issued instruction runs: what its issue does to the latch and the counters, the grade check, the empty executing set,
poisoned sources, then its own meaning, and what its outcome does to the PC group (01 R19, R29, R34, 03 R59, R73, 21 R382, R390). -/

namespace Sys2Proof.Machine

/-! ## The issue itself -/

def allUniform (sp : Span) (rs : List Nat) : Bool := rs.all (fun r => (sp.vreg r).code == 0)
def allCompact (sp : Span) (rs : List Nat) : Bool := rs.all (fun r => !(sp.vreg r).isVector)
/-- Registers of source b. -/
def SrcB.regs (b : SrcB) : List Nat := srcOne b

/-- Whether an instruction takes the compact path (01 R19). Its float instructions are those of the float block (03 R67): whether conversions and
the lane operations on f32 are among R19's, it does not say. DESIGN CHOICE (log 92). -/
def compactPath (slots : List (BitVec 256)) (sp : Span) (i : Instr) : Bool :=
  let src := srcRegs slots i
  allCompact sp src && allCompact sp (dstRegs i) && match i with
  | .mov _ | .movl _ _ _ | .add _ | .sub _ | .lea _ | .add64 _ | .sub64 _ | .addImm _ | .cmp _ | .cmp64 _ | .cmpI32Imm _ | .cmpN32Imm _
  | .lduC _ | .lduG _ | .mulImm _ | .shlImm _ => true
  | .mul f | .mad f => allUniform sp (one f.a) || allUniform sp (SrcB.regs f.b)
  | .shl f | .shl64 f => allUniform sp (SrcB.regs f.b)
  | .and _ | .or _ | .xor _ | .andn _ | .not _ | .andImm _ | .orImm _ | .xorImm _
  | .min _ | .max _ | .abs _ | .mulh _ | .madw _ | .shr _ | .sar _ | .rot _ | .fshl _ | .fshr _ | .bfx _ | .bfi _ | .popc _ | .clz _ | .ctz _
  | .brev _ | .permb _ | .sel _ _ | .shrImm _ | .sarImm _ | .rotImm _ | .minI32Imm _ | .minN32Imm _ | .maxI32Imm _ | .maxN32Imm _ => allUniform sp src
  | .fadd _ | .fsub _ | .fmul _ | .ffma _ | .fmin _ | .fmax _ | .fcmp _ | .fneg _ | .fabs _ | .frcp _ | .frsq _ | .fsqrt _ | .fexp2 _ | .flog2 _
  | .fsin _ | .fcos _ | .frnd _ _ | .fclass _ | .fscale _ | .fdot2 _ => allUniform sp src
  | _ => false

/-- The issue slot's latch after an instruction of a clause: kept sources age, end with the clause, and new holds evict the oldest
(01 R34). A hold of a register that has a live entry renews that entry as the newest; the manual does not say whether it does or adds a second
one. An entry ends with the clause when the clause's last word issues; where a taken branch leaves the clause earlier, R34 does not say
whether the clause ends for its entries too, and they stay until two more of its instructions have issued. DESIGN CHOICE (log 66). -/
def latchAfter (u next : Nat) (last : Bool) (holds : List Nat) (q : List Latch) : List Latch :=
  let aged := q.filterMap (fun e =>
    if e.span == u && e.next == next then (if e.left ≤ 1 then none else some { e with left := e.left - 1 }) else some e)
  if last then aged.filter (fun e => !(e.span == u && e.next == next)) else
  holds.foldl (fun q r =>
    let q := q.filter (fun e => !(e.span == u && e.reg == r)) ++ [{ span := u, reg := r, next := next, left := 2 }]
    q.drop (q.length - 3)) aged

/-- What an instruction's issue does to the machine: the latch and the counters of its pier, and the time of its span's last issue (01 R34,
15 R315, 21 R390). The hold bits of a replay entry that issues again hold nothing: its sources are its columns, and R34 does not say what
they do there. DESIGN CHOICE (log 66). -/
def Ctx.started (c : Ctx) (i : Instr) : State :=
  let p := c.deck.pier
  let holds := if c.iss.cols.isSome && !c.iss.fetched then [] else (heldRegs i).filter (fun r => (c.sp.vreg r).isVector)
  let s := c.s.modPier p (fun x => { x with latch := x.latch.modify c.sp.islot (latchAfter c.u c.iss.next (c.iss.nextPc == c.iss.next) holds) })
  let s := countPier (countPier s p 0x02 1) p 0x03 (laneCount c.iss.aset)
  let s := if compactPath c.launch.slots c.sp i then countPier s p 0x04 1 else s
  s.modSpan c.u (fun x => { x with lastIssue := s.time, front := s.fresh })

/-- The context of an instruction that issues: `before` is the state in which it has not. -/
def Ctx.start (c : Ctx) (i : Instr) : Ctx := { c with s := c.started i, before := c.s, sp := { c.sp with lastIssue := c.s.time, front := c.s.fresh } }

/-- The context in which a picked instruction runs. -/
def startCtx (i : Instr) (s : State) : Option Ctx := s.cur.bind (fun iss => (ctxOf { s with cur := none } iss).map (fun c => c.start i))

/-! ## Checks and outcome -/

/-- Whether a register of a span is poisoned in a lane (21 R382). -/
def Span.poisonedReg (sp : Span) (r l : Nat) : Bool := sp.poison.any (fun q => q.1 == r && hasLane q.2 l)

/-- Whether lane l of A reads a poisoned value: in its own lane, in the lowest lane for the operands read there, or in the lane that an
exchange names (06 R133, 21 R382). -/
def readsPoison (c : Ctx) (i : Instr) (l : Nat) : Bool :=
  (laneRegs c.launch.slots i).any (fun r => c.sp.poisonedReg r l) ||
  (l == c.low && (lowRegs i).any (fun r => c.sp.poisonedReg r l)) ||
  match i with
  | .shfl f => c.sp.poisonedReg f.a.toNat (shflLane f.h c.W l (c.srcB f.b l).toNat)
  | .bcast f => c.sp.poisonedReg f.a.toNat ((c.srcB f.b c.low).toNat % c.W)
  | _ => false

/-- Lanes of A that read a poisoned register, or none; `pref` never traps (07 R151, 21 R382). -/
def poisonLanes (c : Ctx) (i : Instr) : LaneSet :=
  if c.sp.poison == [] then 0#64 else
  match i with
  | .pref _ _ => 0#64
  | i => laneSetOf (fun l => hasLane c.A l && readsPoison c i l)

/-- The executing instruction as the entry of a replay queue that it would become: its sources as they are read now (15 R300). -/
def Ctx.entry (c : Ctx) : Issue := { capture c.launch.slots c.sp c.iss with fetched := false }

/-- The outcome of a meaning; a fault on fetching a word names that word (15 R312). -/
def settleRun (c : Ctx) : Run Eff → Host.Outcome State Fault Refusal
  | .ok (.done s) => .next (goOn s c.iss c.iss.gset)
  | .ok (.moved s) => .next s
  | .error (.trap s t) => takeTrapFrom c.before s (if t.access == 10 then { c.iss with pc := t.addr.toNat } else c.iss) t
  | .error (.holding own s t) => takeTrapHolding own c.before s c.iss t
  | .error (.grade own s g) => wrongGrade c own s g
  | .error (.retry s page) => .next (page.elim (putBack s c.iss) (askFor (putBack s c.iss) c.iss))
  | .error (.fault f) => .fault f

/-- Run one instruction for the group picked in `cur`. `always` marks the instructions that act for the span whatever their executing
set (01 R29). With nothing picked, nothing happens. A poisoned source comes before the instruction's own part of check 5: R73 and R382 give no
order between them. DESIGN CHOICE (log 82). -/
def instr (i : Instr) (always : Bool) (s : State) (body : Ctx → Run Eff) : Host.Outcome State Fault Refusal :=
  match startCtx i s with
  | none => .next { s with cur := none }
  | some c =>
    if i.grade.elim false (fun g => g != gradeOf c.deck.pier) then wrongGrade c 0 c.s (i.grade.getD .m)
    else if c.A == 0#64 && !always then .next (goOn c.s c.iss c.G)
    else if poisonLanes c i != 0#64 then takeTrapFrom c.before c.s c.iss (TrapInfo.at 0x000C 0#64 (poisonLanes c i))
    else settleRun c (body c)

/-- An instruction whose whole effect is to write registers of the lanes of A. -/
def regInstr (i : Instr) (s : State) (ds : Ctx → List (Nat × (Nat → Word))) : Host.Outcome State Fault Refusal :=
  instr i false s (fun c => (c.write c.s (ds c)).map .done)

/-- d := op a b (05 R83). -/
def alu2 (i : Instr) (f : FormA) (s : State) (op : Word → Word → Word) : Host.Outcome State Fault Refusal :=
  regInstr i s (fun c => [(f.d.toNat, fun l => op (c.src f.a l) (c.srcB f.b l))])
/-- d := op a b d, for the instructions that read d (05 R83). -/
def alu3 (i : Instr) (f : FormA) (s : State) (op : Word → Word → Word → Word) : Host.Outcome State Fault Refusal :=
  regInstr i s (fun c => [(f.d.toNat, fun l => op (c.src f.a l) (c.srcB f.b l) (c.src f.d l))])
/-- d := op a. -/
def alu1 (i : Instr) (f : FormU) (s : State) (op : Word → Word) : Host.Outcome State Fault Refusal :=
  regInstr i s (fun c => [(f.d.toNat, fun l => op (c.src f.a l))])
/-- d := op a imm, the immediate sign-extended (05 R94). -/
def aluI (i : Instr) (f : FormI) (s : State) (op : Word → Word → Word) : Host.Outcome State Fault Refusal :=
  regInstr i s (fun c => [(f.d.toNat, fun l => op (c.src f.a l) (f.imm.signExtend 32))])

/-- An instruction whose whole effect is one mask bit for each lane of A. -/
def maskInstr (i : Instr) (s : State) (k : Nat) (f : Ctx → Nat → Bool) : Host.Outcome State Fault Refusal :=
  instr i false s (fun c => .ok (.done (c.setBits c.s k (f c))))

end Sys2Proof.Machine
end

