-- ==== Sys2Proof/Machine/Alu.lean ====
section
/-! DEFINITION. Integer arithmetic, moves, compares, selects, 64-bit and immediate forms (05 R84-R94). -/

namespace Sys2Proof.Machine

abbrev Out := Host.Outcome State Fault Refusal

/-- The high word of the exact product (05 R84). -/
def mulHigh (signed : Bool) (a b : Word) : Word :=
  if signed then hiWord (a.signExtend 64 * b.signExtend 64) else hiWord (a.zeroExtend 64 * b.zeroExtend 64)
/-- The smaller and the larger value of a type. -/
def minWord (signed : Bool) (a b : Word) : Word := if (if signed then a.sle b else a.ule b) then a else b
def maxWord (signed : Bool) (a b : Word) : Word := if (if signed then a.sle b else a.ule b) then b else a
/-- Shifts by a natural count (05 R86). -/
def shlWord (a n : Word) : Word := if n.toNat < 32 then a <<< n.toNat else 0#32
def shrWord (a n : Word) : Word := if n.toNat < 32 then a >>> n.toNat else 0#32
def sarWord (a n : Word) : Word := a.sshiftRight (min n.toNat 32)
def rotWord (a n : Word) : Word := a.rotateLeft (n.toNat % 32)

def execAdd (f : FormA) (s : State) : Out := alu2 (.add f) f s (· + ·)
def execSub (f : FormA) (s : State) : Out := alu2 (.sub f) f s (· - ·)
def execMul (f : FormA) (s : State) : Out := alu2 (.mul f) f s (· * ·)
def execMulh (f : FormA) (s : State) : Out := alu2 (.mulh f) f s (mulHigh f.x)
def execMad (f : FormA) (s : State) : Out := alu3 (.mad f) f s (fun a b d => a * b + d)
/-- pair d := ext(a) * ext(b) + d (05 R84). -/
def execMadw (f : FormA) (s : State) : Out :=
  regInstr (.madw f) s (fun c => pairDst f.d (fun l =>
    let ext (w : Word) : DWord := if f.x then w.signExtend 64 else w.zeroExtend 64
    ext (c.src f.a l) * ext (c.srcB f.b l) + c.pair f.d l))
def execAbs (f : FormU) (s : State) : Out := alu1 (.abs f) f s BitVec.abs
def execMin (f : FormA) (s : State) : Out := alu2 (.min f) f s (minWord f.x)
def execMax (f : FormA) (s : State) : Out := alu2 (.max f) f s (maxWord f.x)
def execMov (f : FormU) (s : State) : Out := alu1 (.mov f) f s id
def execMovl (d : Reg) (x : Bool) (lit : Word) (s : State) : Out := regInstr (.movl d x lit) s (fun _ => [(d.toNat, fun _ => lit)])
def execLea (f : FormA) (s : State) : Out := alu2 (.lea f) f s (fun a b => a + 4#32 * b)

/-- d and the carry bits of mK land together (05 R85). -/
def execAddc (k : BitVec 4) (f : FormA) (s : State) : Out :=
  instr (.addc k f) false s (fun c => do
    let bit (l : Nat) : Bool := hasLane (c.sp.mask k.toNat) l
    let s ← c.write c.s [(f.d.toNat, fun l => c.src f.a l + c.srcB f.b l + (if bit l then 1#32 else 0#32))]
    .ok (.done (c.setBits s k.toNat (fun l => carryOut (c.src f.a l) (c.srcB f.b l) (bit l)))))
def execSubb (k : BitVec 4) (f : FormA) (s : State) : Out :=
  instr (.subb k f) false s (fun c => do
    let bit (l : Nat) : Bool := hasLane (c.sp.mask k.toNat) l
    let s ← c.write c.s [(f.d.toNat, fun l => c.src f.a l - c.srcB f.b l - (if bit l then 1#32 else 0#32))]
    .ok (.done (c.setBits s k.toNat (fun l => borrowOut (c.src f.a l) (c.srcB f.b l) (bit l)))))
def execSel (k : BitVec 4) (f : FormA) (s : State) : Out :=
  regInstr (.sel k f) s (fun c => [(f.d.toNat, fun l => if hasLane (c.sp.mask k.toNat) l then c.src f.a l else c.srcB f.b l)])

def execCmp (f : FormCmp) (s : State) : Out :=
  maskInstr (.cmp f) s f.mask.toNat (fun c l => condWord f.cond f.x (c.src f.a l) (c.srcB f.b l))
def execCmp64 (f : FormCmp) (s : State) : Out :=
  maskInstr (.cmp64 f) s f.mask.toNat (fun c l => condDWord f.cond f.x (c.pair f.a l) (c.pairB f.b f.x l))
def execCmpI32Imm (f : FormCI) (s : State) : Out :=
  maskInstr (.cmpI32Imm f) s f.mask.toNat (fun c l => condWord f.cond true (c.src f.a l) (f.imm.signExtend 32))
def execCmpN32Imm (f : FormCI) (s : State) : Out :=
  maskInstr (.cmpN32Imm f) s f.mask.toNat (fun c l => condWord f.cond false (c.src f.a l) (f.imm.signExtend 32))

def execAdd64 (f : FormA) (s : State) : Out :=
  regInstr (.add64 f) s (fun c => pairDst f.d (fun l => c.pair f.a l + c.pairB f.b f.x l))
def execSub64 (f : FormA) (s : State) : Out :=
  regInstr (.sub64 f) s (fun c => pairDst f.d (fun l => c.pair f.a l - c.pairB f.b f.x l))
def shl64Of (a : DWord) (n : Word) : DWord := if n.toNat < 64 then a <<< n.toNat else 0#64
def shr64Of (a : DWord) (n : Word) : DWord := if n.toNat < 64 then a >>> n.toNat else 0#64
def execShl64 (f : FormA) (s : State) : Out :=
  regInstr (.shl64 f) s (fun c => pairDst f.d (fun l => shl64Of (c.pair f.a l) (c.srcB f.b l)))
def execShr64 (f : FormA) (s : State) : Out :=
  regInstr (.shr64 f) s (fun c => pairDst f.d (fun l => shr64Of (c.pair f.a l) (c.srcB f.b l)))

def execAddImm (f : FormI) (s : State) : Out := aluI (.addImm f) f s (· + ·)
def execMulImm (f : FormI) (s : State) : Out := aluI (.mulImm f) f s (· * ·)
def execAndImm (f : FormI) (s : State) : Out := aluI (.andImm f) f s (· &&& ·)
def execOrImm (f : FormI) (s : State) : Out := aluI (.orImm f) f s (· ||| ·)
def execXorImm (f : FormI) (s : State) : Out := aluI (.xorImm f) f s (· ^^^ ·)
def execShlImm (f : FormI) (s : State) : Out := aluI (.shlImm f) f s shlWord
def execShrImm (f : FormI) (s : State) : Out := aluI (.shrImm f) f s shrWord
def execSarImm (f : FormI) (s : State) : Out := aluI (.sarImm f) f s sarWord
def execRotImm (f : FormI) (s : State) : Out := aluI (.rotImm f) f s rotWord
def execMinI32Imm (f : FormI) (s : State) : Out := aluI (.minI32Imm f) f s (minWord true)
def execMinN32Imm (f : FormI) (s : State) : Out := aluI (.minN32Imm f) f s (minWord false)
def execMaxI32Imm (f : FormI) (s : State) : Out := aluI (.maxI32Imm f) f s (maxWord true)
def execMaxN32Imm (f : FormI) (s : State) : Out := aluI (.maxN32Imm f) f s (maxWord false)

/-! ## Bitwise operations, shifts, funnels, fields, counts and byte permutation (05 R86-R90) -/

def execAnd (f : FormA) (s : State) : Out := alu2 (.and f) f s (· &&& ·)
def execOr (f : FormA) (s : State) : Out := alu2 (.or f) f s (· ||| ·)
def execXor (f : FormA) (s : State) : Out := alu2 (.xor f) f s (· ^^^ ·)
def execNot (f : FormU) (s : State) : Out := alu1 (.not f) f s (~~~ ·)
def execAndn (f : FormA) (s : State) : Out := alu2 (.andn f) f s (fun a b => a &&& ~~~b)
def execShl (f : FormA) (s : State) : Out := alu2 (.shl f) f s shlWord
def execShr (f : FormA) (s : State) : Out := alu2 (.shr f) f s shrWord
def execSar (f : FormA) (s : State) : Out := alu2 (.sar f) f s sarWord
def execRot (f : FormA) (s : State) : Out := alu2 (.rot f) f s rotWord
/-- Funnel shifts (05 R87). -/
def fshlOf (a b d : Word) : Word := hiWord (pairOf d a <<< (b.toNat % 32))
def fshrOf (a b d : Word) : Word := loWord (pairOf a d >>> (b.toNat % 32))
def execFshl (f : FormA) (s : State) : Out := alu3 (.fshl f) f s fshlOf
def execFshr (f : FormA) (s : State) : Out := alu3 (.fshr f) f s fshrOf

/-- Field position and length of bfx and bfi (05 R88). -/
def fieldPos (b : Word) : Nat := (b.extractLsb' 0 5).toNat
def fieldLen (b : Word) : Nat := min (b.extractLsb' 8 6).toNat (32 - fieldPos b)
def bfxOf (signed : Bool) (a b : Word) : Word :=
  let len := fieldLen b
  let field := (a >>> fieldPos b).toNat % 2 ^ len
  if len = 0 then 0#32 else if signed then BitVec.ofInt 32 (signedOf len field) else BitVec.ofNat 32 field
def bfiOf (a b d : Word) : Word :=
  let f := BitVec.ofNat 32 (2 ^ fieldLen b - 1)
  (d &&& ~~~(f <<< fieldPos b)) ||| ((a &&& f) <<< fieldPos b)
def execBfx (f : FormA) (s : State) : Out := alu2 (.bfx f) f s (bfxOf f.x)
def execBfi (f : FormA) (s : State) : Out := alu3 (.bfi f) f s bfiOf

/-- Counts (05 R89). -/
def popWord (a : Word) : Word := BitVec.ofNat 32 ((List.range 32).filter (fun i => a.getLsbD i)).length
def clzWord (a : Word) : Word := BitVec.ofNat 32 (((List.range 32).find? (fun i => a.getLsbD (31 - i))).getD 32)
def ctzWord (a : Word) : Word := BitVec.ofNat 32 (((List.range 32).find? (fun i => a.getLsbD i)).getD 32)
def execPopc (f : FormU) (s : State) : Out := alu1 (.popc f) f s popWord
def execClz (f : FormU) (s : State) : Out := alu1 (.clz f) f s clzWord
def execCtz (f : FormU) (s : State) : Out := alu1 (.ctz f) f s ctzWord
def execBrev (f : FormU) (s : State) : Out := alu1 (.brev f) f s BitVec.reverse

/-- Result byte k of permb (05 R90). -/
def permByte (a b d : Word) (k : Nat) : Byte :=
  let sel := b.extractLsb' (4 * k) 4
  let y := (pairOf a d).extractLsb' (8 * (sel.extractLsb' 0 3).toNat) 8
  if sel.getLsbD 3 then (if y.getLsbD 7 then 0xFF#8 else 0#8) else y
def permbOf (a b d : Word) : Word := wordOfBytes (permByte a b d 0) (permByte a b d 1) (permByte a b d 2) (permByte a b d 3)
def execPermb (f : FormA) (s : State) : Out := alu3 (.permb f) f s permbOf

end Sys2Proof.Machine
end

