-- ==== Sys2Proof/Machine/FloatOps.lean ====
section
/-! DEFINITION. The float block of the ALU class (06 R117-R124). -/

namespace Sys2Proof.Machine

/-- The two 16-bit elements of a word by a function on patterns (02 R39). -/
def packed (f : Nat → Nat) (a : Word) : Word :=
  BitVec.ofNat 16 (f (bitsOf a.toNat 16 16)) ++ BitVec.ofNat 16 (f (bitsOf a.toNat 0 16))
def packed2 (f : Nat → Nat → Nat) (a b : Word) : Word :=
  BitVec.ofNat 16 (f (bitsOf a.toNat 16 16) (bitsOf b.toNat 16 16)) ++ BitVec.ofNat 16 (f (bitsOf a.toNat 0 16) (bitsOf b.toNat 0 16))
def packed3 (f : Nat → Nat → Nat → Nat) (a b d : Word) : Word :=
  BitVec.ofNat 16 (f (bitsOf a.toNat 16 16) (bitsOf b.toNat 16 16) (bitsOf d.toNat 16 16)) ++
  BitVec.ofNat 16 (f (bitsOf a.toNat 0 16) (bitsOf b.toNat 0 16) (bitsOf d.toNat 0 16))

/-- A 64-bit float source b: a literal is an f32 value widened exactly (06 R117). -/
def Ctx.f64B (c : Ctx) (b : SrcB) (l : Nat) : Nat :=
  match b with
  | .reg r => (c.pair r l).toNat
  | .lit w => Fmt.f64.pack 0 (Fmt.f32.unpack w.toNat)

/-- d := op a b on each element of the type (06 R117, R118). -/
def fop2 (f : FormF) (op : Fmt → Nat → Nat → Nat) (c : Ctx) : List (Nat × (Nat → Word)) :=
  if f.ty == 3#2 then pairDst f.d (fun l => BitVec.ofNat 64 (op .f64 (c.pair f.a l).toNat (c.f64B f.b l)))
  else if f.ty == 0#2 then [(f.d.toNat, fun l => BitVec.ofNat 32 (op .f32 (c.src f.a l).toNat (c.srcB f.b l).toNat))]
  else [(f.d.toNat, fun l => packed2 (op (fmtOf f.ty)) (c.src f.a l) (c.srcB f.b l))]
/-- d := op a b d. -/
def fop3 (f : FormF) (op : Fmt → Nat → Nat → Nat → Nat) (c : Ctx) : List (Nat × (Nat → Word)) :=
  if f.ty == 3#2 then pairDst f.d (fun l => BitVec.ofNat 64 (op .f64 (c.pair f.a l).toNat (c.f64B f.b l) (c.pair f.d l).toNat))
  else if f.ty == 0#2 then
    [(f.d.toNat, fun l => BitVec.ofNat 32 (op .f32 (c.src f.a l).toNat (c.srcB f.b l).toNat (c.src f.d l).toNat))]
  else [(f.d.toNat, fun l => packed3 (op (fmtOf f.ty)) (c.src f.a l) (c.srcB f.b l) (c.src f.d l))]
/-- d := op a (06 R120). -/
def fop1 (f : FormFU) (op : Fmt → Nat → Nat) (c : Ctx) : List (Nat × (Nat → Word)) :=
  if f.ty == 3#2 then pairDst f.d (fun l => BitVec.ofNat 64 (op .f64 (c.pair f.a l).toNat))
  else if f.ty == 0#2 then [(f.d.toNat, fun l => BitVec.ofNat 32 (op .f32 (c.src f.a l).toNat))]
  else [(f.d.toNat, fun l => packed (op (fmtOf f.ty)) (c.src f.a l))]

def execFadd (f : FormF) (s : State) : Out :=
  regInstr (.fadd f) s (fop2 f (fun m a b => m.pack 0 ((m.unpack a).add (m.unpack b))))
def execFsub (f : FormF) (s : State) : Out :=
  regInstr (.fsub f) s (fop2 f (fun m a b => m.pack 0 ((m.unpack a).add (m.unpack b).neg)))
def execFmul (f : FormF) (s : State) : Out :=
  regInstr (.fmul f) s (fop2 f (fun m a b => m.pack 0 ((m.unpack a).mul (m.unpack b))))
/-- a * b + d, exact, rounded once (02 R40). -/
def execFfma (f : FormF) (s : State) : Out :=
  regInstr (.ffma f) s (fop3 f (fun m a b d => m.pack 0 (((m.unpack a).mul (m.unpack b)).add (m.unpack d))))
def execFmin (f : FormF) (s : State) : Out :=
  regInstr (.fmin f) s (fop2 f (fun m a b => m.pack 0 ((m.unpack a).minimum (m.unpack b))))
def execFmax (f : FormF) (s : State) : Out :=
  regInstr (.fmax f) s (fop2 f (fun m a b => m.pack 0 ((m.unpack a).maximum (m.unpack b))))

/-- f16 and bf16 compare element 0 only (06 R119). -/
def execFcmp (f : FormFC) (s : State) : Out :=
  maskInstr (.fcmp f) s f.mask.toNat (fun c l =>
    let m := fmtOf f.ty
    if f.ty == 3#2 then FVal.cond f.cond (m.unpack (c.pair f.a l).toNat) (m.unpack (c.f64B f.b l))
    else FVal.cond f.cond (m.unpack ((c.src f.a l).toNat % 2 ^ m.width)) (m.unpack ((c.srcB f.b l).toNat % 2 ^ m.width)))

/-- The sign bit flipped or cleared, the payload kept (02 R41, 06 R120). -/
def execFneg (f : FormFU) (s : State) : Out :=
  regInstr (.fneg f) s (fop1 f (fun m a => if a.testBit (m.width - 1) then a - 2 ^ (m.width - 1) else a + 2 ^ (m.width - 1)))
def execFabs (f : FormFU) (s : State) : Out := regInstr (.fabs f) s (fop1 f (fun m a => a % 2 ^ (m.width - 1)))
def execFrcp (f : FormFU) (s : State) : Out := regInstr (.frcp f) s (fop1 f (fun m a => m.unary .rcp a))
def execFrsq (f : FormFU) (s : State) : Out := regInstr (.frsq f) s (fop1 f (fun m a => m.unary .rsq a))
def execFsqrt (f : FormFU) (s : State) : Out := regInstr (.fsqrt f) s (fop1 f (fun m a => m.unary .sqrt a))
def execFexp2 (f : FormFU) (s : State) : Out := regInstr (.fexp2 f) s (fop1 f (fun m a => m.unary .exp2 a))
def execFlog2 (f : FormFU) (s : State) : Out := regInstr (.flog2 f) s (fop1 f (fun m a => m.unary .log2 a))
def execFsin (f : FormFU) (s : State) : Out := regInstr (.fsin f) s (fop1 f (fun m a => m.unary .sin a))
def execFcos (f : FormFU) (s : State) : Out := regInstr (.fcos f) s (fop1 f (fun m a => m.unary .cos a))
def execFrnd (f : FormFU) (rm : BitVec 2) (s : State) : Out :=
  regInstr (.frnd f rm) s (fop1 f (fun m a => m.roundIntegral rm.toNat a))

/-- The class word; fclass.f64 reads a pair and writes one register (06 R122). -/
def execFclass (f : FormFU) (s : State) : Out :=
  regInstr (.fclass f) s (fun c => [(f.d.toNat, fun l =>
    if f.ty == 3#2 then BitVec.ofNat 32 (Fmt.f64.classOf (c.pair f.a l).toNat)
    else if f.ty == 0#2 then BitVec.ofNat 32 (Fmt.f32.classOf (c.src f.a l).toNat)
    else packed (fmtOf f.ty).classOf (c.src f.a l))])

/-- a * 2^n, rounded once; n beyond the widest exponent range changes nothing further (06 R123). -/
def scaleOf (m : Fmt) (a : Nat) (n : Int) : Nat :=
  match m.unpack a with
  | .fin s k e => if n = 0 then a else m.pack 0 (.fin s k (e + clampInt (-10000) 10000 n))
  | v => m.pack 0 v
def execFscale (f : FormF) (s : State) : Out :=
  regInstr (.fscale f) s (fun c =>
    let n (l : Nat) : Int := (c.srcB f.b l).toInt
    if f.ty == 3#2 then pairDst f.d (fun l => BitVec.ofNat 64 (scaleOf .f64 (c.pair f.a l).toNat (n l)))
    else if f.ty == 0#2 then [(f.d.toNat, fun l => BitVec.ofNat 32 (scaleOf .f32 (c.src f.a l).toNat (n l)))]
    else [(f.d.toNat, fun l => packed (fun a => scaleOf (fmtOf f.ty) a (n l)) (c.src f.a l))])

/-- An input of fdot2: a subnormal counts as a zero of its sign (02 R40, 06 R124). -/
def dotIn (m : Fmt) (b : Nat) : FVal :=
  match m.unpack b with
  | .fin s k e => if bitsOf b m.fb m.eb = 0 then .fin s 0 0 else .fin s k e
  | v => v
def dotOf (m : Fmt) (a b d : Word) : Word :=
  let p (i : Nat) : FVal := (dotIn m (bitsOf a.toNat (16 * i) 16)).mul (dotIn m (bitsOf b.toNat (16 * i) 16))
  BitVec.ofNat 32 (Fmt.f32.pack 0 (((p 0).add (p 1)).add (Fmt.f32.unpack d.toNat)))
def execFdot2 (f : FormF) (s : State) : Out :=
  regInstr (.fdot2 f) s (fun c => [(f.d.toNat, fun l => dotOf (fmtOf f.ty) (c.src f.a l) (c.srcB f.b l) (c.src f.d l))])

end Sys2Proof.Machine
end

