-- ==== Sys2Proof/Machine/Lanes.lean ====
section
/-! DEFINITION. Lane exchange, bit planes, quantisation and set intersection (06 R129-R141). -/

namespace Sys2Proof.Machine

def execShfl (f : FormA) (s : State) : Out :=
  regInstr (.shfl f) s (fun c => [(f.d.toNat, fun l => c.src f.a (shflLane f.h c.W l (c.srcB f.b l).toNat))])
def execBcast (f : FormA) (s : State) : Out :=
  regInstr (.bcast f) s (fun c => [(f.d.toNat, fun _ => c.src f.a ((c.srcB f.b c.low).toNat % c.W))])

/-- Votes over the lanes of A (06 R135). -/
def execVote (d a : Reg) (mode : BitVec 2) (s : State) : Out :=
  regInstr (.vote d a mode) s (fun c =>
    let nz (j : Nat) : Bool := c.src a j != 0#32
    let bit (b : Bool) : Word := if b then 1#32 else 0#32
    if mode == 0#2 then [(d.toNat, fun _ => bit (c.lanes.any nz))]
    else if mode == 1#2 then [(d.toNat, fun _ => bit (c.lanes.all nz))]
    else if mode == 2#2 then pairDst d (fun _ => laneSetOf (fun j => hasLane c.A j && nz j))
    else [(d.toNat, fun _ => bit (c.lanes.all (fun j => c.src a j == c.src a c.low)))])

/-- One node of a reduction on 64-bit carriers of a type: 2 i32, 3 i64, 6 n32, 7 n64, 10 f32 (06 R136, 02 R53). -/
def laneOp (op : BitVec 3) (ty : BitVec 4) (x y : DWord) : DWord :=
  let wide := ty == 3#4 || ty == 7#4
  let signed := ty == 2#4 || ty == 3#4
  let a := loWord x
  let b := loWord y
  let lo (w : Word) : DWord := w.zeroExtend 64
  if ty == 10#4 then lo (if op == 0#3 then addF32 a b else if op == 1#3 then minF32 a b else maxF32 a b)
  else if op == 0#3 then (if wide then x + y else lo (a + b))
  else if op == 1#3 then
    (if wide then (if (if signed then x.sle y else x.ule y) then x else y) else lo (minWord signed a b))
  else if op == 2#3 then
    (if wide then (if (if signed then x.sle y else x.ule y) then y else x) else lo (maxWord signed a b))
  else if op == 3#3 then x &&& y else if op == 4#3 then x ||| y else x ^^^ y

/-- Identities (06 R136, 02 R53). -/
def laneIdentity (op : BitVec 3) (ty : BitVec 4) : DWord :=
  if ty == 10#4 then (if op == 0#3 then 0x80000000#64 else if op == 1#3 then 0x7F800000#64 else 0xFF800000#64)
  else if op == 1#3 then
    (if ty == 2#4 then 0x7FFFFFFF#64 else if ty == 3#4 then 0x7FFFFFFFFFFFFFFF#64 else if ty == 6#4 then 0xFFFFFFFF#64
     else 0xFFFFFFFFFFFFFFFF#64)
  else if op == 2#3 then (if ty == 2#4 then 0x80000000#64 else if ty == 3#4 then 0x8000000000000000#64 else 0#64)
  else if op == 3#3 then (if ty == 2#4 || ty == 6#4 then 0xFFFFFFFF#64 else 0xFFFFFFFFFFFFFFFF#64)
  else 0#64

/-- Combine neighbours. -/
def pairUp (f : DWord → DWord → DWord) : List DWord → List DWord
  | a :: b :: t => f a b :: pairUp f t
  | l => l
/-- The fixed pairwise tree of 02 R53 over a power-of-two number of leaves. -/
def treeOf (f : DWord → DWord → DWord) : Nat → List DWord → DWord
  | 0, l => l.headD 0#64
  | n + 1, l => if l.length ≤ 1 then l.headD 0#64 else treeOf f n (pairUp f l)

/-- The reduction over the lanes of A that satisfy p. -/
def Ctx.laneReduce (c : Ctx) (op : BitVec 3) (ty : BitVec 4) (a : Reg) (p : Nat → Bool) : DWord :=
  treeOf (laneOp op ty) 6 ((List.range c.W).map (fun j =>
    if hasLane c.A j && p j then (if ty == 3#4 || ty == 7#4 then c.pair a j else (c.src a j).zeroExtend 64) else laneIdentity op ty))

def laneDst (ty : BitVec 4) (d : Reg) (f : Nat → DWord) : List (Nat × (Nat → Word)) :=
  if ty == 3#4 || ty == 7#4 then pairDst d f else [(d.toNat, fun l => loWord (f l))]
def execLred (f : FormLane) (s : State) : Out :=
  regInstr (.lred f) s (fun c =>
    let v := c.laneReduce f.op f.ty f.a (fun _ => true)
    laneDst f.ty f.d (fun _ => v))
def execLscan (f : FormLane) (s : State) : Out :=
  regInstr (.lscan f) s (fun c => laneDst f.ty f.d (fun l =>
    c.laneReduce f.op f.ty f.a (fun j => if f.x then decide (j < l) else decide (j ≤ l))))

/-- The winning (value, index) pair of the lanes of A: lower index on equal values (06 R137). -/
def Ctx.winner (c : Ctx) (a : Reg) (less : Word → Word → Bool) (idv : Word) : DWord :=
  c.lanes.foldl (fun w j =>
    let p := c.pair a j
    if less (loWord p) (loWord w) || (loWord p == loWord w && (hiWord p).ult (hiWord w)) then p else w) (pairOf idv 0xFFFFFFFF#32)
def execLminx (f : FormU) (s : State) : Out :=
  regInstr (.lminx f) s (fun c =>
    let v := c.winner f.a (fun x y => if f.x then x.slt y else x.ult y) (if f.x then 0x7FFFFFFF#32 else 0xFFFFFFFF#32)
    pairDst f.d (fun _ => v))
def execLmaxx (f : FormU) (s : State) : Out :=
  regInstr (.lmaxx f) s (fun c =>
    let v := c.winner f.a (fun x y => if f.x then y.slt x else y.ult x) (if f.x then 0x80000000#32 else 0#32)
    pairDst f.d (fun _ => v))
def execMatch (f : FormU) (s : State) : Out :=
  regInstr (.laneMatch f) s (fun c => pairDst f.d (fun l => laneSetOf (fun j => hasLane c.A j &&
    (if f.x then c.pair f.a j == c.pair f.a l else c.src f.a j == c.src f.a l))))

/-- Set bits of a bitmap below e (06 R139). -/
def popBelow (b : DWord) (e : Nat) : Nat := ((List.range 64).filter (fun i => decide (i < e) && b.getLsbD i)).length
def execIsect (f : FormR) (s : State) : Out :=
  regInstr (.isect f) s (fun c => pairDst f.d (fun l =>
    let e := (c.src f.d l).toNat % 64
    let ba := c.pair f.a l
    let bb := c.pair f.b l
    if (ba &&& bb).getLsbD e then pairOf (BitVec.ofNat 32 (popBelow ba e)) (BitVec.ofNat 32 (popBelow bb e))
    else pairOf 0xFFFFFFFF#32 0xFFFFFFFF#32))
def execUnion (f : FormR) (s : State) : Out :=
  regInstr (.union f) s (fun c => pairDst f.d (fun l =>
    let e := (c.src f.d l).toNat % 64
    let ba := c.pair f.a l
    let bb := c.pair f.b l
    let u := ba ||| bb
    let pa := if ba.getLsbD e then popBelow ba e else 0xFFFF
    let pb := if bb.getLsbD e then popBelow bb e else 0xFFFF
    pairOf (if u.getLsbD e then BitVec.ofNat 32 (popBelow u e) else 0xFFFFFFFF#32) (BitVec.ofNat 32 (pb * 65536 + pa))))
def execBpfx (f : FormR) (s : State) : Out :=
  regInstr (.bpfx f) s (fun c => [(f.d.toNat, fun l => BitVec.ofNat 32 (popBelow (c.pair f.a l) (min (c.src f.b l).toNat 64)))])

/-- One plane bit, most significant plane first (06 R129). -/
def execPlanex (f : FormA) (s : State) : Out :=
  regInstr (.planex f) s (fun c => [(f.d.toNat, fun l =>
    let bit := (c.pair f.a l).getLsbD ((c.srcB f.b l).toNat % 64)
    if f.x then (if bit then 0xFFFFFFFF#32 else 0#32) else (c.src f.d l <<< 1) ||| (if bit then 1#32 else 0#32))])

/-- One plane of the executing lanes' values (06 R130). -/
def execPlanep (f : FormA) (s : State) : Out :=
  regInstr (.planep f) s (fun c =>
    let k := (c.srcB f.b c.low).toNat % 8
    let plane := laneSetOf (fun j => hasLane c.A j && (BitVec.ofInt 8 (clampInt (-128) 127 (c.src f.a j).toInt)).getLsbD k)
    pairDst f.d (fun _ => plane))

/-- One shared scale and the quantised values (06 R131). -/
def qntScale (c : Ctx) (f : FormA) : Nat :=
  let big (m : FVal) (w : Word) : FVal :=
    let v := (Fmt.f32.unpack w.toNat).abs
    if v.isNan then m else if m.lt v then v else m
  match big (c.lanes.foldl (fun m j => big m (c.src f.a j)) (.fin false 0 0)) (c.srcB f.b c.low) with
  | .fin _ m e => Fmt.f32.round 0 false m 127 e
  | v => Fmt.f32.pack 0 v
def qntValue (sc : Nat) (w : Word) : Word :=
  match Fmt.f32.unpack w.toNat, Fmt.f32.unpack sc with
  | .fin s m e, .fin _ n k =>
    if n = 0 then 0#32 else BitVec.ofInt 32 (XVal.toInt 0 (-128) 127 (.rat ⟨s, m, n, e - k⟩))
  | .inf s, .fin _ n _ => if n = 0 then 0#32 else BitVec.ofInt 32 (if s then -128 else 127)
  | _, _ => 0#32
def execQnt (f : FormA) (s : State) : Out :=
  regInstr (.qnt f) s (fun c =>
    let sc := qntScale c f
    pairDst f.d (fun l => pairOf (qntValue sc (c.src f.a l)) (BitVec.ofNat 32 sc)))

/-! ## Conversions (06 R125-R128, R393) -/

def execCvt (d a : Reg) (src dst : BitVec 4) (rm : BitVec 2) (s : State) : Out :=
  regInstr (.cvt d a src dst rm) s (fun c =>
    let v (l : Nat) : DWord := writeType dst rm.toNat (toX (readType src (c.src a l) (if wideType src then c.pair a l else 0#64)))
    if wideType dst then pairDst d v else [(d.toNat, fun l => loWord (v l))])

/-- cvts: check 5 reads the slot; in row and block mode the scale vector is then read as a plain load of the lane, and the result lands
when it has been read (02 R51, 06 R126-R128, R393). -/
def execCvts (f : FormCvts) (s : State) : Out :=
  instr (.cvts f) false s (fun c => do
    let v := c.launch.slots.getD f.slot.toNat 0#256
    let illegal : Run Eff := .error (.trap c.s (TrapInfo.at 0x0001 0#64 c.A))
    if slotFmt v == 9 && (f.enc || f.a.getLsbD 0) then illegal else
    let ds := oneOrTwo (!f.enc && f.ftype == 11#4) f.d
    let mode := slotMode v
    if mode == 0 then
      let r (l : Nat) : DWord := cvtsResult f v (.fin false 1 0) (c.src f.a l) (c.pair f.a l)
      return .done (← c.write c.s (if !f.enc && f.ftype == 11#4 then pairDst f.d r else [(f.d.toNat, fun l => loWord (r l))]))
    else
      let addr (l : Nat) : DWord :=
        let i := (c.src (cvtsI f) l).toNat
        let n := if mode == 1 then i else i * cvtsNb f + (c.src (cvtsJ f) l).toNat / 64
        BitVec.ofNat 64 (slotAddr v + 4 * n)
      let r ← c.reserve c.s ds
      -- the slots taken stay as spare if the read fails (01 R24)
      let hits ← owning r.2 (checkAll c r.1 8 1 true (c.lanes.map (fun l => ⟨l, addr l, 4, .global, false⟩)))
      return .done (r.1.addWork (fun id =>
        { id := id, span := c.u, lanes := c.A, dsts := ds, resv := r.2, iss := some c.entry,
          accs := hits.map (fun h => Acc.mk h.req.lane h.loc 4 h.mtype [] 0#64 h.req.addr 0),
          kind := .scale f v (c.lanes.map (fun l => (l, c.src f.a l, c.pair f.a l))) })))

end Sys2Proof.Machine
end

