-- ==== Sys2Proof/Machine/Keccak.lean ====
section
/-! DEFINITION. SHAKE256 of FIPS 202, the function that the digests of the manual are made with (20 R373, R375, 14 R293). The manual names
the function and prints no value; its constants are those of the standard. PRESUMED (log 8). -/

namespace Sys2Proof.Machine

/-- The sponge's state: 25 lanes of 64 bits, lane x + 5y. -/
abbrev Sponge := List DWord

def Sponge.lane (a : Sponge) (x y : Nat) : DWord := a.getD (x % 5 + 5 * (y % 5)) 0#64
/-- A sponge from a function of x and y. -/
def spongeOf (f : Nat → Nat → DWord) : Sponge := (List.range 25).map (fun i => f (i % 5) (i / 5))

/-- The rotation of each lane. -/
def spongeTurns : List Nat :=
  [0, 1, 62, 28, 27, 36, 44, 6, 55, 20, 3, 10, 43, 25, 39, 41, 45, 15, 21, 8, 18, 2, 61, 56, 14]

/-- The round constants. -/
def spongeConstants : List DWord :=
  [0x0000000000000001#64, 0x0000000000008082#64, 0x800000000000808A#64, 0x8000000080008000#64, 0x000000000000808B#64, 0x0000000080000001#64,
   0x8000000080008081#64, 0x8000000000008009#64, 0x000000000000008A#64, 0x0000000000000088#64, 0x0000000080008009#64, 0x000000008000000A#64,
   0x000000008000808B#64, 0x800000000000008B#64, 0x8000000000008089#64, 0x8000000000008003#64, 0x8000000000008002#64, 0x8000000000000080#64,
   0x000000000000800A#64, 0x800000008000000A#64, 0x8000000080008081#64, 0x8000000000008080#64, 0x0000000080000001#64, 0x8000000080008008#64]

/-- One round: theta, rho and pi, chi, iota. -/
def spongeRound (a : Sponge) (rc : DWord) : Sponge :=
  let c := (List.range 5).map (fun x => (List.range 5).foldl (fun v y => v ^^^ a.lane x y) 0#64)
  let d (x : Nat) : DWord := c.getD ((x + 4) % 5) 0#64 ^^^ (c.getD ((x + 1) % 5) 0#64).rotateLeft 1
  let t := spongeOf (fun x y => a.lane x y ^^^ d x)
  let b := spongeOf (fun x y => (t.lane (x + 3 * y) x).rotateLeft (spongeTurns.getD ((x + 3 * y) % 5 + 5 * x) 0))
  let e := spongeOf (fun x y => b.lane x y ^^^ (~~~(b.lane (x + 1) y) &&& b.lane (x + 2) y))
  e.set 0 (e.lane 0 0 ^^^ rc)

/-- The permutation. -/
def spongeMix (a : Sponge) : Sponge := spongeConstants.foldl spongeRound a

/-- Take a block of 136 bytes into the sponge. -/
def spongeTake (a : Sponge) (block : List Byte) : Sponge :=
  spongeMix (spongeOf (fun x y => a.lane x y ^^^ BitVec.ofNat 64 (bytesNat ((block.drop (8 * (x + 5 * y))).take 8))))

/-- Blocks of 136 bytes, at most n. -/
def spongeBlocks : Nat → List Byte → List (List Byte)
  | 0, _ => []
  | _ + 1, [] => []
  | n + 1, bs => bs.take 136 :: spongeBlocks n (bs.drop 136)

/-- A message with SHAKE's padding: 0x1F, zeros, and the last byte's top bit. -/
def spongePad (bs : List Byte) : List Byte :=
  let z := 135 - bs.length % 136
  if z = 0 then bs ++ [0x9F#8] else bs ++ 0x1F#8 :: List.replicate (z - 1) 0#8 ++ [0x80#8]

/-- The first 64 bytes of SHAKE256. -/
def shake256 (bs : List Byte) : List Byte :=
  let m := spongePad bs
  (((spongeBlocks (m.length / 136) m).foldl spongeTake (List.replicate 25 0#64)).flatMap (fun v => natBytes 8 v.toNat)).take 64

end Sys2Proof.Machine
end

