-- ==== Sys2Proof/Machine/Fetch.lean ====
section
/-! DEFINITION. Fetching the words of a clause through the page tables (03 R56, R59, 10 R243, 15 R312). -/

namespace Sys2Proof.Machine

/-- A fetched word, or why there is none. -/
inductive Fetched where
  | word (w : Word)
  | trap (t : TrapInfo)
  /-- A host page is still being asked for (20 R371). -/
  | ask (page : Nat)
  | noMem
  deriving DecidableEq, Repr

/-- A trap on fetching the word at va (15 R312): ADDR is the word's address and ACCESS is 10. -/
def fetchTrap (cause va mtype : Nat) (lanes : LaneSet) : Fetched :=
  .trap { cause := cause, addr := BitVec.ofNat 64 va, lanes := lanes, access := 10, mtype := mtype, pages := [va / 4096 * 4096],
          complete := true, past := false, boundary := none, entry := [], served := false, time := none }

/-- The launch of a span, by its number. -/
def launchOf (s : State) (u : Nat) : Nat :=
  ((((s.span? u).bind (fun x => s.deck? x.deck)).bind (fun d => s.girder? d.girder)).bind (fun g => s.launch? g.launch)).elim 0 (·.uid)

/-- The values of the word at a location that writes have replaced since a launch started and that its fetches may still return. -/
def olderWords (s : State) (launch : Nat) (l : Loc) : List Word :=
  ((freshPatches s).filter (fun p => wordKey l == some p.key && decide (launch < p.when_))).map (·.old)

/-- The word at a location as a lane of a launch fetches it: its value, or one that a write has replaced since the launch started and not
long ago; which of them, every fetch chooses anew (10 R255, 16 R337; log 4). -/
def codeWord (s : State) (launch : Nat) (l : Loc) : Word :=
  let new := BitVec.ofNat 32 (bytesNat (readLocs s l 4))
  match olderWords s launch l with
  | [] => new
  | olds => (new :: olds).getD (Config.staleFetch s.steps ((wordKey l).getD 0)) new

/-- The word at va, fetched by a lane of a context and launch. -/
def fetchWord (s : State) (cx : Context) (launch va : Nat) (lanes : LaneSet) : Fetched :=
  if 2 ^ 57 ≤ va || deckWindow va || privWindow va then fetchTrap 0x0005 va 0 lanes else
  match translate s cx true .fetch va with
  | .ok l _ => .word (codeWord s launch l)
  | .prot m => fetchTrap 0x0006 va m lanes
  | .absent => fetchTrap 0x0007 va 0 lanes
  | .ask p => .ask p
  | .noMem => .noMem

/-- Whether a fetch of the word at va has one outcome: a word that no recent write has replaced. -/
def fetchSure (s : State) (cx : Context) (launch va : Nat) : Bool :=
  match translate s cx true .fetch va with
  | .ok l _ => olderWords s launch l == []
  | _ => false

/-- Whether the word takes a literal (03 R63). -/
def takesLiteral (c : Cls) (w : Word) : Bool := (rawDecode c w (some 0#32)).elim false (fun i => i.literal.isSome)

/-- What an issue's fetch gives: its word and literal, or the reason there is none with the address it concerns. -/
inductive IssueWords where
  | words (w : Word) (lit : Option Word)
  | none (at_ : Nat) (f : Fetched)
  deriving DecidableEq, Repr

/-- Fetch an issue's words; a literal beyond the clause is no literal (03 R59). The literal is fetched before the word's reserved fields are
checked. DESIGN CHOICE (03 R73; log 42). -/
def fetchIssue (s : State) (cx : Context) (iss : Issue) : IssueWords :=
  let launch := launchOf s iss.span
  match fetchWord s cx launch iss.pc iss.gset with
  | .word w =>
    if takesLiteral iss.cls w && decide (iss.pc + 8 ≤ iss.next) then
      match fetchWord s cx launch (iss.pc + 4) iss.gset with
      | .word l => .words w (some l)
      | f => .none (iss.pc + 4) f
    else .words w none
  | f => .none iss.pc f

/-- A clause that the word at e may lie in, or none where it is a header: a free value (05 R111; log 16). -/
def freeClause (s : State) (e : Nat) : Option Clause :=
  let n := Config.lostClause s.steps e
  if n % 15 = 0 then none else some ⟨[Cls.alu, .ctrl, .mem, .cpy, .mtx, .sys].getD (n / 15 % 6) .ctrl, e + 4 * (n % 15)⟩

/-- The clause that holds the word at e, walking on from the clause with the given class and end; none where e is a header. A word on the
way that cannot be fetched or is no header leaves it a free value: no lane reaches it, so it raises nothing. Left: the host page whose
answer the walk has to wait for (05 R111, R115; DEDUCED, log 16). -/
def clauseAt (s : State) (cx : Context) (launch : Nat) (lanes : LaneSet) (e : Nat) : Nat → Clause → Except Nat (Option Clause)
  | 0, _ => .ok (freeClause s e)
  | n + 1, c =>
    if e < c.next then .ok (some c)
    else if e = c.next then .ok none
    else match fetchWord s cx launch c.next lanes with
      | .word w =>
        match decodeHeader w with
        | some h => clauseAt s cx launch lanes e n ⟨h.cls, c.next + 4 * (h.count + 1)⟩
        | none => .ok (freeClause s e)
      | .ask p => .error p
      | _ => .ok (freeClause s e)

end Sys2Proof.Machine
end

