-- ==== Sys2Proof/Machine/Shapes.lean ====
section
/-! DEFINITION. The shape and grant instructions of the CTRL class (05 R95-R100, 01 R23-R28). -/

namespace Sys2Proof.Machine

abbrev Out' := Host.Outcome State Fault Refusal

/-- Raise ILLEGAL_INSTRUCTION by an instruction's own check. -/
def Ctx.illegal (c : Ctx) (lanes : LaneSet) : Run α := .error (.trap c.s (TrapInfo.at 0x0001 0#64 lanes))

/-- Shape code and stride exponent as shq writes them (05 R95, 01 R17). -/
def VReg.shq : VReg → Word
  | .uniform _ => 0#32
  | .affine _ e => 1#32 ||| (e.zeroExtend 32 <<< 8)
  | .vector _ _ => 2#32
def execShq (d a : Reg) (s : State) : Out' := regInstr (.shq d a) s (fun c => [(d.toNat, fun _ => (c.sp.vreg a.toNat).shq)])

/-- The ADDR field of SHAPE_ASSERT (05 R96). -/
def shapeAddr (reg code asserted : Nat) : DWord := BitVec.ofNat 64 (reg + code * 2 ^ 8 + asserted * 2 ^ 12)
/-- Whether a shape is the asserted one (05 R96). -/
def shapeHolds (b : Nat) (v : VReg) : Bool := if b == 3 then v.code != 2 else v.code == b
def execShassert (a b : Reg) (s : State) : Out' :=
  instr (.shassert a b) false s (fun c =>
    let v := c.sp.vreg a.toNat
    if shapeHolds b.toNat v then .ok (.done c.s)
    else .error (.trap c.s (TrapInfo.at 0x000B (shapeAddr a.toNat v.code b.toNat) c.A)))

/-- A compact register moved into slots (05 R97). -/
def widenReg (s : State) (u d : Nat) : State :=
  { s.modSpan u (fun x => match x.vreg d with
      | .vector _ _ => x
      | _ => { x.setReg d (.vector (Config.freeSlot s.free % 24576) (x.vals d)) with used := x.used + x.octets }) with
    free := s.free + 1 }
/-- A VECTOR register that the checker can hold compactly takes that shape; its slots become spare (05 R97, R98). -/
def packReg (x : Span) (d : Nat) : Span :=
  match x.vreg d with
  | .vector _ _ => (checker (x.vals d)).elim x (fun v => { x.setReg d v with used := x.used - x.octets })
  | _ => x
/-- Force a range into one storage kind (05 R97). Latch entries of every register of the range end, of those left unchanged too: R35 speaks of
writes, and neither R97 nor R98 says. DESIGN CHOICE (log 97). -/
def execShforce (d n b : Reg) (s : State) : Out' :=
  instr (.shforce d n b) false s (fun c => do
    let rs := regRange d.toNat n.toNat
    if b == 0#7 then
      let comp := rs.filter (fun r => !(c.sp.vreg r).isVector)
      let t ← cover c.s c.u (comp.length * c.sp.octets) (comp.headD 0) c.A
      return .done (comp.foldl (fun t r => widenReg t c.u r) (dropLatch t c.sp rs.contains))
    else
      match rs.find? (fun r => (c.sp.vreg r).isVector && (checker (c.sp.vals r)).isNone) with
      | some r => .error (.trap c.s (TrapInfo.at 0x000B (shapeAddr r 2 3) c.A))
      | none => return .done ((dropLatch c.s c.sp rs.contains).modSpan c.u (fun x => rs.foldl packReg x)))
/-- Pack a range (05 R98); the latch entries of every register of it end, as with `shforce`. DESIGN CHOICE (log 97). -/
def execShpack (d n : Reg) (s : State) : Out' :=
  instr (.shpack d n) false s (fun c =>
    let rs := regRange d.toNat n.toNat
    .ok (.done ((dropLatch c.s c.sp rs.contains).modSpan c.u (fun x => rs.foldl packReg x))))

/-- Give n slots to a span as spare ones: none is acquired (01 R27, R28). -/
def grantSlots (s : State) (u pier n : Nat) : State :=
  (s.modPier pier (fun p => { p with pool := p.pool - n })).modSpan u (fun x => { x with grant := x.grant + n })
/-- SHAPE_STORAGE by a grow: reason CEILING (01 R25, R27). A grow has no destination for R25's register field, which is 0 here, and n counts as
the slots needed: R25 does not say. DESIGN CHOICE (log 86). -/
def growTrap (n : Nat) (lanes : LaneSet) : TrapInfo := TrapInfo.at 0x000A (BitVec.ofNat 64 n) lanes
/-- The blocking grow (01 R27, 05 R99). One that finds others waiting on its pier waits behind them, its slots free or not: R27 lets a
grow that the pool can serve take them and does not say whether it may go ahead. DESIGN CHOICE (log 68). -/
def execGrow (n : BitVec 9) (s : State) : Out' :=
  instr (.grow n) false s (fun c =>
    let k := n.toNat
    let p := c.deck.pier
    if k == 0 then .ok (.done c.s)
    else if c.sp.ceil < c.sp.grant + k then .error (.trap c.s (growTrap k c.A))
    else if (c.s.pier p).growQ == [] && decide (k ≤ (c.s.pier p).pool) then .ok (.done (grantSlots c.s c.u p k))
    else
      let req := c.s.fresh
      let t := { c.s with fresh := req + 1 }.modPier p (fun x => { x with growQ := x.growQ ++ [(c.u, req)] })
      .ok (.moved (hold t c.iss c.G (fun _ => .grow k req))))
def execGrowTry (k : Reg) (n : BitVec 9) (s : State) : Out' :=
  instr (.growTry k n) false s (fun c =>
    let n := n.toNat
    let p := c.s.pier c.deck.pier
    let fails := n != 0 && (decide (c.sp.ceil < c.sp.grant + n) || decide (p.pool < n) || p.growQ != [])
    .ok (.done (c.setBits (if fails then c.s else grantSlots c.s c.u c.deck.pier n) k.toNat (fun _ => fails))))

/-- The destination is covered first; a span that names itself returns what is left after that (05 R100; log 17). -/
def execShrink (f : FormR) (s : State) : Out' :=
  instr (.shrink f) false s (fun c => do
    let n := (c.src f.b c.low).toNat
    match (c.s.spansOf c.deck.uid).find? (fun x => x.idx == (c.src f.a c.low).toNat) with
    | none => (c.write c.s [(f.d.toNat, fun _ => 0#32)]).map .done
    | some t =>
      let wide := widens c.sp f.d.toNat (fun _ => BitVec.ofNat 32 (min n t.spare)) c.A
      let s ← if wide then cover c.s c.u c.sp.octets f.d.toNat c.A else .ok c.s
      let s := if wide then s.modSpan c.u (fun x => { x with used := x.used + x.octets }) else s
      let k := min n ((s.span? t.uid).elim 0 (·.spare))
      let s := (s.modSpan t.uid (fun x => { x with grant := x.grant - k })).modPier c.deck.pier (fun p => { p with pool := p.pool + k })
      return .done (landReg s c.u f.d.toNat (fun _ => BitVec.ofNat 32 k) c.A wide))

end Sys2Proof.Machine
end

