-- ==== Sys2Proof/Machine/Masks.lean ====
section
/-! DEFINITION. The mask-register instructions of the CTRL class (05 R101-R105). -/

namespace Sys2Proof.Machine

/-- The mask number of a mask select that names one (05 R101). -/
def maskOf (k : BitVec 4) : Nat := k.toNat - 1

def execJoin (k : BitVec 4) (s : State) : Out' := maskInstr (.join k) s (maskOf k) (fun _ _ => true)
/-- A leave is a release: the lanes' earlier accesses are performed first (05 R102, 10 R250). -/
def execLeave (k : BitVec 4) (s : State) : Out' :=
  instr (.leave k) false s (fun c => .ok (.done (c.setBits (drain c.s c.u c.A) (maskOf k) (fun _ => false))))

/-- Whether the run lane of an open serial section belongs to the issuing group (05 R102, R111), its P bit set or not: R102 does not say
whether a `waitm` of a group that holds the run lane with P = 0 beside other executing lanes is one by the run lane. DESIGN CHOICE
(log 99). -/
def Ctx.byRunLane (c : Ctx) : Bool :=
  match c.sp.serial with
  | some z => hasLane c.G z.run
  | none => false

/-- The lanes of A arrive, with a release, and wait; the others of the group go on; the set may open at once (05 R102). -/
def execWaitm (k : BitVec 4) (s : State) : Out' :=
  instr (.waitm k) false s (fun c =>
    if c.byRunLane then c.illegal c.A
    else .ok (.moved ((hold (goOn (drain c.s c.u c.A) c.iss (c.G &&& ~~~c.A)) c.iss c.A (fun _ => .setOpen (maskOf k))).modSpan c.u settleSets)))

def execMset (k a : Reg) (h : Bool) (s : State) : Out' := maskInstr (.mset k a h) s k.toNat (fun c l => c.src a l != 0#32)

/-- OP of mskop (05 R105). -/
def maskOp (op : BitVec 3) (a b : Bool) : Bool :=
  if op == 0#3 then a && b else if op == 1#3 then a || b else if op == 2#3 then a ^^ b else if op == 3#3 then a && !b
  else if op == 4#3 then !a else if op == 5#3 then a else op == 7#3
def execMskop (op : BitVec 3) (k : BitVec 4) (a b : Reg) (s : State) : Out' :=
  maskInstr (.mskop op k a b) s k.toNat (fun c l => maskOp op (hasLane (c.sp.mask a.toNat) l) (hasLane (c.sp.mask b.toNat) l))

def execMpopc (d k : Reg) (s : State) : Out' :=
  regInstr (.mpopc d k) s (fun c => [(d.toNat, fun _ => BitVec.ofNat 32 (laneCount (c.sp.mask k.toNat)))])
def execMfind (d k : Reg) (s : State) : Out' :=
  regInstr (.mfind d k) s (fun c => [(d.toNat, fun _ =>
    if c.sp.mask k.toNat == 0#64 then 0xFFFFFFFF#32 else BitVec.ofNat 32 (lowestLane (c.sp.mask k.toNat)))])
def execMskget (d k : Reg) (s : State) : Out' := regInstr (.mskget d k) s (fun c => pairDst d (fun _ => c.sp.mask k.toNat))
/-- A whole mask from a pair (05 R104). -/
def execMskput (k a : Reg) (h : Bool) (s : State) : Out' :=
  instr (.mskput k a h) false s (fun c => .ok (.done (putMask c.s c.u k.toNat (c.pair a c.low))))

end Sys2Proof.Machine
end

