-- ==== Sys2Proof/Machine/Control.lean ====
section
/-! DEFINITION. Branches, calls, serial sections, the end of lanes and the stack (05 R106-R114). -/

namespace Sys2Proof.Machine

/-- The lanes of A that a mask select chooses (05 R106). -/
def Ctx.chosen (c : Ctx) (k : BitVec 4) : LaneSet := if k == 0#4 then c.A else c.A &&& c.sp.mask (maskOf k)

/-- The word k words on (03 R61). -/
def Ctx.target (c : Ctx) (off : BitVec 20) : Nat := (((c.iss.pc : Int) + 4 * off.toInt) % 2 ^ 64).toNat

/-- Lanes of a set that satisfy p. -/
def Ctx.those (m : LaneSet) (p : Nat → Bool) : LaneSet := laneSetOf (fun l => hasLane m l && p l)

/-- Raise a cause for the lanes of m that satisfy p, with ADDR of the lowest of them. -/
def Ctx.check (c : Ctx) (cause : Nat) (m : LaneSet) (p : Nat → Bool) (addr : Nat → DWord) : Run Unit :=
  let bad := Ctx.those m p
  if bad == 0#64 then .ok () else .error (.trap c.s (TrapInfo.at cause (addr (lowestLane bad)) bad))

/-- The target checks of 05 R107. -/
def Ctx.targets (c : Ctx) (m : LaneSet) (t : Nat → DWord) : Run Unit := do
  c.check 0x0008 m (fun l => (t l).extractLsb' 0 2 != 0#2) t
  c.check 0x0005 m (fun l => (t l).extractLsb' 57 7 != 0#7) t

def execBra (k : BitVec 4) (off : BitVec 20) (s : State) : Out' :=
  instr (.bra k off) false s (fun c =>
    .ok (.moved (jump (goOn c.s c.iss (c.G &&& ~~~(c.chosen k))) c.iss (c.chosen k) (fun _ => c.target off))))

def execBrai (a : Reg) (h : Bool) (s : State) : Out' :=
  instr (.brai a h) false s (fun c => do
    c.targets c.A (c.pair a)
    return .moved (jump (goOn c.s c.iss (c.G &&& ~~~c.A)) c.iss c.A (fun l => (c.pair a l).toNat)))

/-! ## The stack -/

/-- %sp of a lane. -/
def Ctx.stack (c : Ctx) (l : Nat) : Nat := (c.sp.lane l).sp.toNat
def wide64 (n : Nat) : DWord := BitVec.ofNat 64 n
/-- The first checks of call and pushv (05 R108, R114). -/
def Ctx.stackAligned (c : Ctx) (m : LaneSet) : Run Unit := c.check 0x0008 m (fun l => c.stack l % 16 != 0) (fun l => wide64 (c.stack l))
def Ctx.stackRoom (c : Ctx) (m : LaneSet) (size : Nat) : Run Unit :=
  c.check 0x0009 m (fun l => decide (c.stack l < (c.sp.lane l).splim.toNat + size)) (fun l => ((c.sp.lane l).sp - BitVec.ofNat 32 size).zeroExtend 64)
/-- Move %sp of the lanes of m. -/
def moveStack (s : State) (u : Nat) (m : LaneSet) (by_ : Word) : State :=
  s.modSpan u (fun x => x.modLanes m (fun _ l => { l with sp := l.sp + by_ }))

/-- A private access of n words from base of every lane of m, checked: one access a lane (05 R108, R109, R114). -/
def Ctx.stackAccs (c : Ctx) (s : State) (m : LaneSet) (wr : Bool) (base : Nat → Nat) (n : Nat) (data : Nat → List Byte) : Run (List Acc) := do
  let reqs := (lanesOf m).flatMap (fun l => (List.range n).map (fun i => Req.mk l (wide64 (base l + 4 * i)) 4 .priv wr))
  let hits ← checkAll c s 9 0 (!wr) reqs
  return (lanesOf m).filterMap (fun l => (hits.find? (fun h => h.req.lane == l)).map (fun h => Acc.mk l h.loc (4 * n) 0 (data l) 0#64 (wide64 (base l)) 0))

/-- Outstanding stores of a set of lanes. -/
def addStore (s : State) (u : Nat) (m : LaneSet) (accs : List Acc) : State :=
  s.addWork (fun id => { id := id, span := u, lanes := m, dsts := [], resv := 0, accs := accs, kind := .store, iss := none })

/-- A call of the lanes of m (05 R108). -/
def callLanes (c : Ctx) (m : LaneSet) (checks : Run Unit) (target : Nat → Nat) : Run Eff := do
  c.stackAligned m
  c.stackRoom m 16
  checks
  let accs ← c.stackAccs c.s m true (fun l => c.stack l - 16) 4 (fun _ => natBytes 8 c.iss.next ++ natBytes 8 0)
  let s := moveStack (addStore c.s c.u m accs) c.u m (-16#32)
  return .moved (jump (goOn s c.iss (c.G &&& ~~~m)) c.iss m target)

def execCall (k : BitVec 4) (off : BitVec 20) (s : State) : Out' :=
  instr (.call k off) false s (fun c =>
    if c.chosen k == 0#64 then .ok (.done c.s) else callLanes c (c.chosen k) (.ok ()) (fun _ => c.target off))
def execCalli (a : Reg) (h : Bool) (s : State) : Out' :=
  instr (.calli a h) false s (fun c => callLanes c c.A (c.targets c.A (c.pair a)) (fun l => (c.pair a l).toNat))

/-- The lane's older accesses come first: the load of a return address is one of its own private accesses (05 R109). -/
def execRet (s : State) : Out' :=
  instr .ret false s (fun c => do
    c.stackAligned c.A
    let accs ← c.stackAccs c.s c.A false c.stack 2 (fun _ => [])
    let t := drain c.s c.u c.A
    let target (l : Nat) : DWord := (accs.find? (fun a => a.lane == l)).elim 0#64 (fun a => valueAt t a.loc 8)
    { c with s := t }.targets c.A target
    return .moved (jump (goOn (moveStack t c.u c.A 16#32) c.iss (c.G &&& ~~~c.A)) c.iss c.A (fun l => (target l).toNat)))

def execPushv (d n : Reg) (s : State) : Out' :=
  instr (.pushv d n) false s (fun c => do
    c.stackAligned c.A
    c.stackRoom c.A (stackSize n.toNat)
    let accs ← c.stackAccs c.s c.A true (fun l => c.stack l - stackSize n.toNat) n.toNat
      (fun l => (regRange d.toNat n.toNat).flatMap (fun r => natBytes 4 (c.regVal r l).toNat))
    return .done (moveStack (addStore c.s c.u c.A accs) c.u c.A (-(BitVec.ofNat 32 (stackSize n.toNat)))))
def execPopv (d n : Reg) (s : State) : Out' :=
  instr (.popv d n) false s (fun c => do
    c.stackAligned c.A
    let r ← c.reserve c.s (regRange d.toNat n.toNat)
    let accs ← owning r.2 (c.stackAccs r.1 c.A false c.stack n.toNat (fun _ => []))
    let t := r.1.addWork (fun id =>
      { id := id, span := c.u, lanes := c.A, dsts := regRange d.toNat n.toNat, resv := r.2, accs := accs, kind := .load 4#3, iss := some c.entry })
    return .done (moveStack t c.u c.A (BitVec.ofNat 32 (stackSize n.toNat))))

/-! ## Serial sections and the end of lanes -/

/-- The clause that holds the word at e, found by walking the headers from a clause before it (05 R111). While the host is asked for the page
of one, the instruction waits (20 R371). DEDUCED (log 16). -/
def Ctx.walkTo (c : Ctx) (e : Nat) (from_ : Clause) : Run (Option Clause) :=
  match clauseAt c.s c.cx c.launch.uid c.G e ((e - from_.next) / 4 + 2) from_ with
  | .ok x => .ok x
  | .error p => .error (.retry c.before (some p))

/-- Open a serial section; an empty A goes to the word after the endser (05 R111). The clause in which the lanes go on is the endser's, which
the run lane fixes as it issues it; where no lane issues it, the one found by walking the headers. DEDUCED (log 16). One by
the run lane is illegal, and its record names the group. DEDUCED (log 6). -/
def execSer (off : BitVec 20) (s : State) : Out' :=
  instr (.ser off) true s (fun c =>
    let resume := c.iss.pc + 4 * off.toNat + 4
    if c.byRunLane then c.illegal c.G
    else if c.sp.serial.isSome then .ok (.moved (hold c.s c.iss c.G (fun _ => .serBusy)))
    else
      let own : Clause := ⟨c.iss.cls, c.iss.next⟩
      if c.A == 0#64 then do
        let clause ← c.walkTo resume own
        .ok (.moved (c.s.modSpan c.u (fun x => x.modLanes (c.G &&& x.live) (fun _ l =>
          { l with pos := { l.pos with pc := resume, clause := clause, st := .standing } }))))
      else
        let t := c.s.modSpan c.u (fun x => { x with serial := some ⟨c.sp.trap.isSome, c.A, c.low, 0#64, resume, some own, false, c.G⟩ })
        let t := goOn t c.iss c.G
        .ok (.moved (t.modSpan c.u (fun x => x.modLanes (c.G &&& ~~~(oneLane c.low) &&& x.live) (fun _ l =>
          { l with pos := { l.pos with st := .waiting .serial } })))))

/-- The run lane's endser before the section's resume address fixes the clause in which the lanes go on: its own, or a header (05 R111). -/
def resumeIn (s : State) (iss : Issue) : State :=
  s.modSpan iss.span (fun x => { x with serial := x.serial.map (fun z =>
    if iss.nextPc = z.resume then { z with clause := iss.nextClause, known := true } else z) })

/-- Before the last pass of a section closes it, the clause in which its lanes go on is found, where lanes are left to go on and none has
issued the endser before the resume address (05 R111; log 16). -/
def Ctx.settleResume (c : Ctx) (s : State) : Run State :=
  match s.span? c.u with
  | none => .ok s
  | some sp =>
    match sp.serial with
    | none => .ok s
    | some z =>
      if z.known || z.group &&& sp.live == 0#64 || z.set &&& ~~~(z.done ||| oneLane z.run) &&& sp.live != 0#64 then .ok s
      else do
        let clause ← z.clause.elim (.ok none) (c.walkTo z.resume)
        .ok (s.modSpan c.u (fun x => { x with serial := some { z with clause := clause, known := true } }))

/-- The run lane ends its pass with a release, whatever its P bit (05 R111, 01 R29). -/
def execEndser (s : State) : Out' :=
  instr .endser true s (fun c =>
    match c.sp.serial with
    | some z =>
      if c.A &&& ~~~(oneLane z.run) != 0#64 then c.illegal c.A
      else if hasLane c.G z.run then do
        let t ← c.settleResume (hold (goOn (resumeIn (drain c.s c.u (oneLane z.run)) c.iss) c.iss (c.G &&& ~~~(oneLane z.run))) c.iss
          (oneLane z.run) (fun _ => .serial))
        .ok (.moved (endPass t c.u))
      else .ok (.done c.s)
    | none => if c.A == 0#64 then .ok (.done c.s) else c.illegal c.A)

/-- Lanes end; an exit by the run lane counts as its endser, and a handler whose lanes have all ended ends its trap
(05 R111, R112, 15 R309); it issues once the pages of the frame that this reads have been asked for. -/
def execExit (k : BitVec 4) (s : State) : Out' :=
  instr (.exit k) false s (fun c => do
    let e := c.chosen k
    let run := c.sp.serial.any (fun z => hasLane e z.run)
    -- the run lane's exit is its endser, a release at span scope (05 R111, 10 R250)
    let s := if run then drain c.s c.u (oneLane ((c.sp.serial.map (·.run)).getD 0)) else c.s
    let t := endLanes (goOn s c.iss (c.G &&& ~~~e)) c.u e
    let t ← if run then (c.settleResume t).map (endPass · c.u) else .ok t
    match exitAsks t c.cx c.u with
    | some p => .error (.retry c.before (some p))
    | none => .ok (.moved (endTrapByExit t c.u)))

def execNop (s : State) : Out' := instr .nop false s (fun c => .ok (.done c.s))
/-- The picker passes the group over for 16 cycles (05 R113, log 1). -/
def execYield (s : State) : Out' :=
  instr .yield false s (fun c =>
    .ok (.done (c.s.modSpan c.u (fun x => x.modLanes c.G (fun _ l => { l with yieldTill := some (c.s.steps + 16) })))))

end Sys2Proof.Machine
end

