-- ==== Sys2Proof/Machine/Memory.lean ====
section
/-! DEFINITION. Loads, stores, atomics, reductions, ordering instructions and pointers of the MEM class (07 R144-R164, 10 R245-R256). -/

namespace Sys2Proof.Machine

/-! ## Shared operations -/

/-- Write destinations that are acquired at issue, landing at once (07 R144, 01 R24). -/
def Ctx.issueWrite (c : Ctx) (s : State) (ds : List (Nat × (Nat → Word))) : Run State := do
  let r ← c.reserve s (ds.map (·.1))
  .ok (ds.foldl (fun t d => landReg t c.u d.1 d.2 c.A (!(c.sp.vreg d.1).isVector)) r.1)

/-- A lane's effective address in a space code (03 R61, 07 R150). -/
def Ctx.ea (c : Ctx) (sp : BitVec 2) (a : Reg) (off : Nat → Int) (l : Nat) : DWord :=
  if sp == 0#2 || sp == 1#2 then c.pair a l + BitVec.ofInt 64 (off l) else (c.src a l + BitVec.ofInt 32 (off l)).zeroExtend 64

/-- Whether an access is performed as it issues: device and strongly ordered pages (10 R246). -/
def inOrder (hits : List Hit) : Bool := hits.any (fun h => decide (2 ≤ h.mtype))

/-- Perform new work as it issues, after the lanes' older accesses (10 R246, R250). -/
def performNow (s : State) (u : Nat) (m : LaneSet) (f : Nat → Work) : State := drain (s.addWork f) u m

/-- New work of an access instruction, outstanding or performed at once. -/
def access (c : Ctx) (s : State) (now : Bool) (f : Nat → Work) : State := if now then performNow s c.u c.A f else s.addWork f

/-- The location found for a lane. -/
def hitOf (hits : List Hit) (l : Nat) : Option Hit := hits.find? (fun h => h.req.lane == l)

/-- A load of the lanes of A, `owner l` naming the lane whose address lane l uses (07 R145, R147, R149). -/
def Ctx.load (c : Ctx) (sp : Space) (sz : BitVec 3) (d : Reg) (ea : Nat → DWord) (owner : Nat → Nat) (now : Bool) : Run Eff := do
  let r ← c.reserve c.s (dataRegs sz d)
  let reqs := ((c.lanes.map owner).dedup).map (fun l => Req.mk l (ea l) (sizeBytes sz) sp false)
  let hits ← owning r.2 (checkAll c r.1 1 3 true reqs)
  let accs := c.lanes.filterMap (fun l => (hitOf hits (owner l)).map (fun h => Acc.mk l h.loc (sizeBytes sz) h.mtype [] 0#64 (ea (owner l)) 0))
  return .done (access c r.1 (now || inOrder hits) (fun id =>
    { id := id, span := c.u, lanes := c.A, dsts := dataRegs sz d, resv := r.2, accs := accs, kind := .load sz, iss := some c.entry }))

/-- The bytes a lane stores (07 R147). -/
def Ctx.storeBytes (c : Ctx) (sz : BitVec 3) (d : Reg) (l : Nat) : List Byte :=
  ((dataRegs sz d).flatMap (fun r => natBytes 4 (c.regVal r l).toNat)).take (sizeBytes sz)

/-- A store of the lanes of A (07 R145, R147, R148), performed or outstanding; `rel` is the scope a lane's store releases at (10 R256). -/
def Ctx.store (c : Ctx) (sp : Space) (sz : BitVec 3) (d : Reg) (ea : Nat → DWord) (rel : Nat → Nat) (now : Bool) : Run Eff := do
  let hits ← checkAll c c.s 2 3 false (c.lanes.map (fun l => Req.mk l (ea l) (sizeBytes sz) sp true))
  let accs := hits.map (fun h =>
    Acc.mk h.req.lane h.loc (sizeBytes sz) h.mtype (c.storeBytes sz d h.req.lane) 0#64 h.req.addr (rel h.req.lane))
  return .done (access c c.s (now || inOrder hits) (fun id =>
    { id := id, span := c.u, lanes := c.A, dsts := [], resv := 0, accs := accs, kind := .store, iss := none }))
/-- A plain store releases at the scope of the fence that its lane made before it. -/
def Ctx.fenceScope (c : Ctx) (l : Nat) : Nat := (c.sp.lane l).rel

/-! ## Loads and stores -/

def execLd (f : FormM) (s : State) : Out' :=
  instr (.ld f) false s (fun c =>
    c.load (spaceOf f.sp) f.sz f.d (c.ea f.sp f.a (fun _ => f.off.toInt * sizeBytes f.sz)) id false)
def execSt (f : FormM) (s : State) : Out' :=
  instr (.st f) false s (fun c =>
    c.store (spaceOf f.sp) f.sz f.d (c.ea f.sp f.a (fun _ => f.off.toInt * sizeBytes f.sz)) c.fenceScope false)
def execLduC (f : FormLdu) (s : State) : Out' :=
  instr (.lduC f) false s (fun c => c.load .const f.sz f.d (c.ea 2#2 f.a (fun _ => f.off.toInt * sizeBytes f.sz)) (fun _ => c.low) false)
def execLduG (f : FormLdu) (s : State) : Out' :=
  instr (.lduG f) false s (fun c => c.load .global f.sz f.d (c.ea 1#2 f.a (fun _ => f.off.toInt * sizeBytes f.sz)) (fun _ => c.low) false)

/-- The offset an index gives (07 R150). -/
def Ctx.index (c : Ctx) (f : FormX) (l : Nat) : Int :=
  (if f.x then (c.srcB f.b l).toInt else ((c.srcB f.b l).toNat : Int)) * sizeBytes f.sz
def execLdxG (f : FormX) (s : State) : Out' :=
  instr (.ldxG f) false s (fun c => c.load .global f.sz f.d (c.ea 1#2 f.a (c.index f)) id false)
def execLdxD (f : FormX) (s : State) : Out' :=
  instr (.ldxD f) false s (fun c => c.load .deck f.sz f.d (c.ea 2#2 f.a (c.index f)) id false)
def execStxG (f : FormX) (s : State) : Out' :=
  instr (.stxG f) false s (fun c => c.store .global f.sz f.d (c.ea 1#2 f.a (c.index f)) c.fenceScope false)
def execStxD (f : FormX) (s : State) : Out' :=
  instr (.stxD f) false s (fun c => c.store .deck f.sz f.d (c.ea 2#2 f.a (c.index f)) c.fenceScope false)
/-- A prefetch moves a line between caches that no access can tell apart; it never traps (07 R151). -/
def execPref (a : Reg) (off : BitVec 10) (s : State) : Out' := instr (.pref a off) false s (fun c => .ok (.done c.s))

/-! ## Atomics and reductions -/

/-- The request of an atomic: private targets are illegal, and for redx deck targets too (07 R152, R156). -/
def atomicReq (sp : BitVec 2) (noDeck : Bool) (size l : Nat) (a : DWord) : Req :=
  let v := a.toNat
  Req.mk l a size (if sp == 0#2 && (privWindow v || (noDeck && deckWindow v)) then .global else spaceOf sp) true

/-- Source b of an atomic code (07 R153). -/
def Ctx.atomB (c : Ctx) (op : BitVec 4) (b : SrcB) (l : Nat) : DWord :=
  if wideAtomic op then c.pairB b (op == 12#4 || op == 13#4) l else (c.srcB b l).zeroExtend 64

/-- An atomic with return (07 R152-R154): operand and comparand of each lane. -/
def Ctx.atomic (c : Ctx) (f : FormAt) (op : BitVec 4) (cas wide : Bool) (b cmp : Nat → DWord) : Run Eff := do
  let size := if wide then 8 else 4
  let r ← c.reserve c.s (oneOrTwo wide f.d)
  let hits ← owning r.2 (checkAll c r.1 3 0 true (c.lanes.map (fun l => atomicReq f.sp false size l (c.ea f.sp f.a (fun _ => 0) l))))
  let accs := hits.map (fun h => Acc.mk h.req.lane h.loc size h.mtype (natBytes size (b h.req.lane).toNat) (cmp h.req.lane) h.req.addr 0)
  return .done (r.1.addWork (fun id =>
    { id := id, span := c.u, lanes := c.A, dsts := oneOrTwo wide f.d, resv := r.2, accs := accs, kind := .atomic op cas wide, iss := some c.entry }))
def execAtom (op : BitVec 4) (f : FormAt) (s : State) : Out' :=
  instr (.atom op f) false s (fun c => c.atomic f op false (wideAtomic op) (c.atomB op f.b) (fun _ => 0#64))
def execAtomcasN32 (f : FormAt) (s : State) : Out' :=
  instr (.atomcasN32 f) false s (fun c => c.atomic f 0#4 true false (fun l => (c.srcB f.b l).zeroExtend 64) (fun l => (c.src f.d l).zeroExtend 64))
def execAtomcasN64 (f : FormAt) (s : State) : Out' :=
  instr (.atomcasN64 f) false s (fun c => c.atomic f 0#4 true true (c.pairB f.b false) (c.pair f.d))

/-- A reduction without return (07 R155, R156). -/
def Ctx.reduce (c : Ctx) (f : FormAt) (noDeck : Bool) (size : Nat) (kind : WorkKind) (b : Nat → DWord) : Run Eff := do
  let hits ← checkAll c c.s 4 0 false (c.lanes.map (fun l => atomicReq f.sp noDeck size l (c.ea f.sp f.a (fun _ => 0) l)))
  let accs := hits.map (fun h => Acc.mk h.req.lane h.loc size h.mtype (natBytes size (b h.req.lane).toNat) 0#64 h.req.addr 0)
  return .done (c.s.addWork (fun id => { id := id, span := c.u, lanes := c.A, dsts := [], resv := 0, accs := accs, kind := kind, iss := none }))
def execRed (op : BitVec 4) (f : FormAt) (s : State) : Out' :=
  instr (.red op f) false s (fun c => c.reduce f false (if wideAtomic op then 8 else 4) (.red op) (c.atomB op f.b))
def execRedx (f : FormAt) (s : State) : Out' :=
  instr (.redx f) false s (fun c => if 62 < f.d.toNat then c.illegal c.A else c.reduce f true 8 (.redx f.d.toNat) (fun l => toFx64 f.d.toNat (c.srcB f.b l)))

/-! ## Ordering -/

/-- A release and an acquire: the lanes' earlier accesses are performed first, and their later stores release at the scope
(07 R161, 10 R250, R256). -/
def execFence (scope : BitVec 3) (s : State) : Out' :=
  instr (.fence scope) false s (fun c =>
    .ok (.done ((drain c.s c.u c.A).modSpan c.u (fun x => x.modLanes c.A (fun _ l => l.fenced scope.toNat)))))
/-- The load is performed as it issues, before any later access of its lanes (07 R159, 10 R254). -/
def execAcq (f : FormOrd) (s : State) : Out' :=
  instr (.acq f) false s (fun c => c.load (spaceOf f.sp) f.size f.d (c.ea f.sp f.a (fun _ => 0)) id true)
/-- The store is performed as it issues, after every earlier access of its lanes (07 R158). -/
def execRel (f : FormOrd) (s : State) : Out' :=
  instr (.rel f) false s (fun c => c.store (spaceOf f.sp) f.size f.d (c.ea f.sp f.a (fun _ => 0)) (fun _ => f.scope.toNat) true)
/-- Every performed store is visible to the whole device already, so nothing is left to promote (07 R160, log 4). A scope of deck or pier
raises ILLEGAL_INSTRUCTION, and before the causes of R145: no rule orders them. DESIGN CHOICE (log 82). -/
def execAcqr (f : FormOrd) (s : State) : Out' :=
  instr (.acqr f) false s (fun c =>
    if f.scope.toNat < 3 then c.illegal c.A
    else c.load (spaceOf f.sp) f.size f.d (c.ea f.sp f.a (fun _ => 0)) id true)
/-- The L1 is managed without changing a value that any access returns (07 R162). No address raises a cause, one in a window or with bits [63:57]
set no more than an untranslated one, of which alone R162 speaks. DESIGN CHOICE (log 100). -/
def execCctl (a : Reg) (op : BitVec 3) (sp : BitVec 2) (s : State) : Out' := instr (.cctl a op sp) false s (fun c => .ok (.done c.s))

/-! ## Pointers -/

/-- A window address (07 R146). -/
def windowAddr (base pier slot rest : Nat) : DWord := BitVec.ofNat 64 (base + pier * 2 ^ 35 + slot * 2 ^ 31 + rest)
/-- The address p2g forms, none where it is illegal (07 R163). -/
def Ctx.pointer (c : Ctx) (x : Bool) (a b : Word) (l : Nat) : Option DWord :=
  if x then
    if c.girder.size ≤ b.toNat then none else
    match (c.s.decksOf c.girder.uid).find? (fun d => d.member == b.toNat) with
    | some d => if a.toNat < d.memSize then some (windowAddr 0x01FFE00000000000 d.pier d.slot a.toNat) else none
    | none => none
  else if a.toNat < c.launch.priv then
    some (windowAddr 0x01FFF00000000000 c.deck.pier c.deck.slot ((c.sp.idx * c.W + l) * 2 ^ 20 + a.toNat))
  else none
/-- A generic pointer (07 R163). ILLEGAL_ADDRESS reports the offset, extended by zeros, with ACCESS 0: R311 has no access kind for an
instruction that makes no access. DESIGN CHOICE (log 86). -/
def execP2g (d a : Reg) (b : SrcB) (x : Bool) (s : State) : Out' :=
  instr (.p2g d a b x) false s (fun c => do
    let r ← c.reserve c.s (two d)
    let p (l : Nat) := c.pointer x (c.src a l) (c.srcB b l) l
    owning r.2 ({ c with s := r.1 }.check 0x0005 c.A (fun l => (p l).isNone) (fun l => (c.src a l).zeroExtend 64))
    return .done (← c.issueWrite c.s (pairDst d (fun l => (p l).getD 0#64))))

/-- Classes of a generic address (07 R164). -/
def Ctx.spaceClass (c : Ctx) (a : DWord) (l : Nat) : Word :=
  match resolve c c.s .generic l a 1 with
  | none => 5#32
  | some (.global _) => 0#32
  | some (.here (.deck u _)) => if u == c.deck.uid then 1#32 else 2#32
  | some (.here (.priv _ k _)) => if k == c.sp.idx * c.W + l then 3#32 else 4#32
  | some (.here _) => 5#32
def execQspace (d a : Reg) (s : State) : Out' :=
  instr (.qspace d a) false s (fun c => (c.issueWrite c.s [(d.toNat, fun l => c.spaceClass (c.pair a l) l)]).map .done)

end Sys2Proof.Machine
end

