-- ==== Sys2Proof/Machine/Barriers.lean ====
section
/-! DEFINITION. Barriers, stage rings and timelines (07 R165-R174, 09 R234-R236). -/

namespace Sys2Proof.Machine

/-! ## Barriers -/

def Ctx.bar (c : Ctx) (n : Nat) : Bar := barOf c.s c.deck.uid c.girder.uid n
def Ctx.modBar (c : Ctx) (s : State) (n : Nat) (f : Bar → Bar) : State := s.modBar c.deck.uid c.girder.uid n f
def Ctx.barCheck (c : Ctx) (s : State) (n : Nat) : State := Machine.barCheck s c.deck.uid c.girder.uid n

/-- ADDR of BARRIER_OVERFLOW (15 R313). -/
def overflowAddr (n : Nat) (broken : Bool) : DWord := BitVec.ofNat 64 (n + if broken then 256 else 0)
/-- Every instruction that names a broken barrier raises BARRIER_OVERFLOW (07 R169). -/
def Ctx.unbroken (c : Ctx) (n : Nat) : Run Unit :=
  if (c.bar n).broken then .error (.trap c.s (TrapInfo.at 0x0015 (overflowAddr n true) c.A)) else .ok ()

/-- Whether the executing span's arrivals count (07 R166). -/
def Ctx.isMember (c : Ctx) (n : Nat) : Bool := (c.bar n).members.getLsbD (if n < 16 then c.sp.idx else c.deck.member)
/-- Lanes of A that have arrived in the current phase already: they wait and arrive again (07 R166). -/
def Ctx.marked (c : Ctx) (n : Nat) : LaneSet := if c.isMember n then c.A &&& (c.bar n).mark c.u else 0#64

/-- The lanes of m arrive, with a release (07 R166). -/
def Ctx.arrive (c : Ctx) (s : State) (n : Nat) (m : LaneSet) : State :=
  if c.isMember n && m != 0#64 then c.modBar (drain s c.u m) n (fun b => b.addMark c.u m) else s

/-- The instruction as executed by the lanes of m only. -/
def Ctx.only (c : Ctx) (m : LaneSet) : Ctx := { c with iss := { c.iss with aset := m } }

/-- The lanes that have not arrived in this phase arrive; the others wait and issue again (07 R166). BARRIER_OVERFLOW comes before
SHAPE_STORAGE: no rule orders the two. DESIGN CHOICE (log 82). -/
def execBararr (d n : Reg) (s : State) : Out' :=
  instr (.bararr d n) false s (fun c => do
    let k := n.toNat
    c.unbroken k
    let again := c.marked k
    let go := c.A &&& ~~~again
    let s ← if go == 0#64 then .ok c.s
      else (c.only go).issueWrite c.s [(d.toNat, fun _ => (c.bar k).gen)]
    let s := hold (goOn (c.arrive s k go) c.iss (c.G &&& ~~~again)) c.iss again (fun _ => .barAgain k (c.bar k).gen)
    return .moved (c.barCheck s k))

/-- Each lane waits for its own phase (07 R168). -/
def execBarwait (n : Reg) (b : SrcB) (s : State) : Out' :=
  instr (.barwait n b) false s (fun c => do
    let k := n.toNat
    c.unbroken k
    let stay := Ctx.those c.A (fun l => !phaseDone (c.bar k).gen (c.srcB b l))
    return .moved (hold (goOn c.s c.iss (c.G &&& ~~~stay)) c.iss stay (fun l => .barPhase k (c.srcB b l) c.iss.lit.isSome)))

def execBarsync (n : Reg) (s : State) : Out' :=
  instr (.barsync n) false s (fun c => do
    let k := n.toNat
    c.unbroken k
    let again := c.marked k
    let go := c.A &&& ~~~again
    let s := goOn (c.arrive c.s k go) c.iss (c.G &&& ~~~c.A)
    let s := hold (hold s c.iss go (fun _ => .barPhase k (c.bar k).gen false)) c.iss again (fun _ => .barAgain k (c.bar k).gen)
    return .moved (c.barCheck s k))

/-- BAL grows by the lowest lane's value, within 32 signed bits (07 R169). -/
def execBarexp (n : Reg) (b : SrcB) (s : State) : Out' :=
  instr (.barexp n b) false s (fun c => do
    let k := n.toNat
    c.unbroken k
    let v := (c.bar k).bal + (c.srcB b c.low).toInt
    if v < -(2 ^ 31) || 2 ^ 31 ≤ v then .error (.trap c.s (TrapInfo.at 0x0015 (overflowAddr k false) c.A))
    else return .done (c.barCheck (c.modBar c.s k (fun x => { x with bal := v })) k))

/-- MEMBERS changes at once, or at the phase's completion while the group waits (07 R170). -/
def execBarset (n : Reg) (b : SrcB) (s : State) : Out' :=
  instr (.barset n b) false s (fun c => do
    let k := n.toNat
    c.unbroken k
    let v := c.srcB b c.low
    if (c.bar k).any then
      return .moved (hold (c.modBar c.s k (fun x => { x with sets := x.sets ++ [v] })) c.iss c.G
        (fun _ => .barSet k (c.bar k).gen c.iss.lit.isSome))
    else return .done (c.modBar c.s k (fun x => { x with members := memberValue c.s c.deck.uid c.girder.uid k v })))

/-! ## Stage rings -/

/-- A ring's descriptor fields (09 R234). -/
def ringProd (v : DWord) : BitVec 2 := v.extractLsb' 61 2
def ringCons (v : DWord) : BitVec 2 := v.extractLsb' 59 2
def ringCount (v : DWord) : Nat := (v.extractLsb' 0 6).toNat
/-- Deck offset of a slot. -/
def ringOffset (v : DWord) (k : Nat) : Nat := 32 * (v.extractLsb' 18 14).toNat + 32 * (v.extractLsb' 6 12).toNat * k

/-- The side a role takes on a ring: producer true, consumer false, or none (07 R171). -/
def ringSide (v : DWord) (role : BitVec 2) : Option Bool :=
  if !v.getLsbD 63 then none else if role == ringProd v then some true else if role == ringCons v then some false else none

/-- WRONG_ROLE on a ring (15 R313). -/
def Ctx.ringRole (c : Ctx) (n : Nat) : Run (Option Bool × DWord) :=
  let v := c.launch.rings.getD n 0#64
  match ringSide v c.sp.role with
  | some side => .ok (some side, v)
  | none => .error (.trap c.s (TrapInfo.at 0x0003 (BitVec.ofNat 64 (c.sp.role.toNat + 0x70 + n * 256)) c.A))

/-- A waiting stgacq whose slot's turn has come takes the slot, writes its register and frees its group (09 R235). -/
def ringLand (s : State) (w : Work) (ring slot : Nat) (off : Word) : State :=
  let s := (landRegs s w (fun _ _ => off)).dropWork w.id
  let s := s.modDeck (workDeck s w) (fun d =>
    { d with rings := d.rings.modify ring (fun r => { r with held := r.held ||| BitVec.ofNat 32 (2 ^ slot) }) })
  s.modSpan w.span (Span.leaveIf (fun _ v => v == .ring w.id))

/-- Let the turn of a ring's slot come. -/
def ringTurn (s : State) (deck ring : Nat) : State :=
  match ringReady s deck ring with
  | some (w, slot, off) => ringLand s w ring slot off
  | none => s

/-- The side's cursor gives the slot, and the group waits for its turn (07 R171, 09 R235). WRONG_ROLE comes before SHAPE_STORAGE: no rule
orders the two. DESIGN CHOICE (log 82). -/
def execStgacq (d n : Reg) (s : State) : Out' :=
  instr (.stgacq d n) false s (fun c => do
    let k := n.toNat
    let (side, v) ← c.ringRole k
    let r ← c.reserve c.s (one d)
    let prod := side == some true
    let ring := c.deck.rings.getD k ⟨0, 0, 0#32, 0#32⟩
    let slot := if prod then ring.prod else ring.cons
    let next := if slot + 1 < ringCount v then slot + 1 else 0
    let s := r.1.modDeck c.deck.uid (fun x =>
      { x with rings := x.rings.modify k (fun y => if prod then { y with prod := next } else { y with cons := next }) })
    let s := hold s c.iss c.G (fun _ => .ring s.fresh)
    let s := s.addWork (fun id =>
      { id := id, span := c.u, lanes := c.A, dsts := one d, resv := r.2, accs := [], iss := none,
        kind := .ring k slot prod (BitVec.ofNat 32 (ringOffset v slot)) })
    return .moved (ringTurn s c.deck.uid k))

/-- A slot that the issuing side holds goes to the other side, with a release by the lanes of A (07 R172, 09 R235). -/
def execStgrel (n : Reg) (a : HeldReg) (s : State) : Out' :=
  instr (.stgrel n a) false s (fun c => do
    let k := n.toNat
    let (side, v) ← c.ringRole k
    let prod := side == some true
    let ring := c.deck.rings.getD k ⟨0, 0, 0#32, 0#32⟩
    let off := c.src a.reg c.low
    match (List.range (ringCount v)).find? (fun i =>
      ringOffset v i == off.toNat && (ring.phase.getLsbD i == !prod) && ring.held.getLsbD i) with
    | none => .error (.trap c.s (TrapInfo.at 0x0005 (off.zeroExtend 64) c.A))
    | some i =>
      return .done ((drain c.s c.u c.A).modDeck c.deck.uid (fun x =>
        { x with rings := x.rings.modify k (fun y =>
          { y with held := y.held &&& ~~~(BitVec.ofNat 32 (2 ^ i)), phase := y.phase ^^^ BitVec.ofNat 32 (2 ^ i) }) })))

/-! ## Timelines -/

def Ctx.timeline (c : Ctx) (k : Nat) : Nat := (c.cx.tl[k]?).elim 0 (·.value)
/-- Each lane waits for its own number; an unbound timeline is illegal (07 R174). -/
def execTlwait (n : Reg) (b : HeldB) (s : State) : Out' :=
  instr (.tlwait n b) false s (fun c =>
    let k := n.toNat
    if !c.launch.tlBound k then c.illegal c.A else
    let stay := Ctx.those c.A (fun l => decide (c.timeline k < (c.pairB b.src false l).toNat))
    .ok (.moved (hold (goOn c.s c.iss (c.G &&& ~~~stay)) c.iss stay (fun l => .timeline k (c.pairB b.src false l).toNat c.iss.lit.isSome))))
def execTlread (d n : Reg) (s : State) : Out' :=
  instr (.tlread d n) false s (fun c =>
    (c.issueWrite c.s (pairDst d (fun _ => if c.launch.tlBound n.toNat then BitVec.ofNat 64 (c.timeline n.toNat) else 0#64))).map .done)

end Sys2Proof.Machine
end

