-- ==== Sys2Proof/Machine/Engine.lean ====
section
/-! DEFINITION. The engines' own accesses: copy descriptors, the pieces of copies and fills, credits and completion (07 R178-R188,
08 R195-R197, 09 R237). -/

namespace Sys2Proof.Machine

/-! ## Descriptors (07 R178, R179) -/

def descField (d : BitVec 1024) (lo len : Nat) : Nat := (d.extractLsb' lo len).toNat
def descSrc (d : BitVec 1024) : Nat := descField d 0 64
def descDst (d : BitVec 1024) : Nat := descField d 64 64
def descAux (d : BitVec 1024) : Nat := descField d 160 32
def descAux2 (d : BitVec 1024) : Nat := descField d 192 64
def descExt (d : BitVec 1024) (k : Nat) : Nat := descField d (256 + 32 * k) 32
def descSS (d : BitVec 1024) (k : Nat) : Int := (d.extractLsb' (448 + 64 * k) 64).toInt
def descDS (d : BitVec 1024) (k : Nat) : Int := (d.extractLsb' (832 + 32 * k) 32).toInt
def descWs (d : BitVec 1024) : Bool := d.getLsbD 141
def descOp (d : BitVec 1024) : Nat := descField d 142 3
def descNdim (d : BitVec 1024) : Nat := descField d 145 3
def descEsz (d : BitVec 1024) : Nat := descField d 148 3
def descTl (d : BitVec 1024) : Nat := descField d 151 4
def descBar (d : BitVec 1024) : Nat := descField d 155 5
/-- Element size in bytes. -/
def descBytes (d : BitVec 1024) : Nat := 2 ^ descEsz d
/-- Elements of the dimensions below NDIM. -/
def descCount (d : BitVec 1024) : Nat := (List.range (descNdim d)).foldl (fun n k => n * descExt d k) 1
/-- Rows of tsparse: EXT1, or one (07 R184, 08 R197). -/
def sparseRows (d : BitVec 1024) : Nat := if descNdim d = 2 then descExt d 1 else 1

/-- The weight word of mxload and of a tsparse to the weight store (08 R195). -/
def wordP (w : Word) : Nat := (w.extractLsb' 20 4).toNat
def wordSub (w : Word) : Nat := (w.extractLsb' 18 2).toNat
def wordRows (w : Word) : Nat := (w.extractLsb' 11 7).toNat
def wordKrow (w : Word) : Nat := (w.extractLsb' 5 6).toNat
def wordBank (w : Word) : Nat := (w.extractLsb' 4 1).toNat
def wordMacro (w : Word) : Nat := (w.extractLsb' 0 4).toNat
/-- Its fields are within their limits; pk is the packing factor (08 R195). -/
def weightWordOk (w : Word) (pk : Nat) : Bool :=
  w.extractLsb' 24 8 == 0#8 && decide (2 ≤ wordP w) && decide (wordP w ≤ 8) && decide (wordSub w < pk) &&
  decide (1 ≤ wordRows w) && decide (wordKrow w + wordRows w ≤ 64)
/-- The packing factor of an arrangement (08 R193). -/
def packing (planes : Nat) : Nat := 8 / planes

/-- Bytes an operation counts (07 R183-R188). -/
def descTotal (op : Nat) (d : BitVec 1024) : Nat :=
  (if op = 2 ∨ op = 3 then descAux d * descExt d 0 else if op = 1 then sparseRows d * descExt d 0 else descCount d) * descBytes d
/-- Pieces an operation lands in: its elements, or the rows of a tsparse to the weight store. -/
def descPieces (op : Nat) (d : BitVec 1024) : Nat :=
  if op = 1 ∧ descWs d then sparseRows d else descTotal op d / descBytes d

/-- Engine kind of an instruction (07 R173). -/
def engineKind (op : Nat) : Nat := if op = 5 then 2 else if op = 2 ∨ op = 3 then 1 else 0

/-- The field checks of 07 R179 and R183-R188; `planes` is the issuing unit's plane count. AUX2 where an operation has no use for it and SRC of
tfill are not looked at: R178's table gives them as zero, and R180's step 4 names no check of them. DESIGN CHOICE (log 83). -/
def descOk (op : Nat) (d : BitVec 1024) (arranged : Bool) (planes : Nat) : Bool :=
  let bar := descBar d
  let aux := descAux d
  (decide (bar ≤ 19) || bar == 31) && decide (descEsz d ≤ 4) && decide (1 ≤ descNdim d) && decide (descNdim d ≤ 6) &&
  decide (descOp d ≤ 5) && descField d 128 13 == 0 && decide (descTotal op d < 2 ^ 31) && (op == 1 || !descWs d) &&
  (if op = 0 then descOp d == 0 && aux == 0
   else if op = 1 then
     descOp d == 0 && decide (descEsz d ≤ 1) && decide (descNdim d ≤ 2) && descExt d 0 % 4 == 0 &&
     (if descWs d then
        arranged && descEsz d == 0 && descExt d 0 == 64 && weightWordOk (BitVec.ofNat 32 aux) (packing planes) &&
        sparseRows d == wordRows (BitVec.ofNat 32 aux)
      else aux == 0)
   else if op = 2 then descNdim d == 1 && descOp d == 0
   else if op = 3 then descNdim d == 1 && (descOp d == 0 || descEsz d == if descOp d == 5 then 3 else 2)
   else if op = 4 then descOp d == 0
   else decide (aux / 256 = 0) && decide (aux % 16 ≤ 3))

/-! ## The engines' accesses -/

/-- Why a piece cannot land now: a fault with its element's address and the page that failed, a host page to ask for, or no memory. -/
inductive Stuck where
  | fault (cause : Nat) (addr : Nat) (mtype : Nat) (page : Nat)
  | ask (page : Nat)
  | noMem
  deriving DecidableEq, Repr, Inhabited

/-- Where an engine's access is made for: context, issuing deck, launch, the windows at issue. -/
structure Agent where
  cx : Context
  deck : Nat
  priv : Nat
  width : Nat
  wins : List (Nat × Nat)

def agentOf (s : State) (ctx launch deck : Nat) (wins : List (Nat × Nat)) : Option Agent := do
  let cx ← s.ctx? ctx
  let l ← s.launch? launch
  return ⟨cx, deck, l.priv, l.width, wins⟩

/-- The girder's deck windows as they stand (07 R146). -/
def windowsOf (s : State) (girder : Nat) : List (Nat × Nat) := (s.decksOf girder).map (fun d => (d.pier * 16 + d.slot, d.uid))

/-- A source that holds poisoned bytes raises POISON (07 R182, 21 R382). -/
def cleanLoc (s : State) (k : Kind) (el va mtype n : Nat) (l : Loc) : Except Stuck Loc :=
  if k == .read && poisoned s l n then .error (.fault 0x000C el mtype (va / 4096 * 4096)) else .ok l

/-- Resolve n bytes of one page for an engine, on a page of memory type `top` at most (07 R146, R182, 10 R246). -/
def engineLocTop (top : Nat) (s : State) (g : Agent) (k : Kind) (el va n : Nat) : Except Stuck Loc :=
  let page := va / 4096 * 4096
  let illegal : Except Stuck Loc := .error (.fault 0x0005 el 0 page)
  if 2 ^ 57 ≤ va then illegal
  else if privWindow va then
    let l := bitsOf va 20 11
    if (g.wins.find? (fun x => x.1 == bitsOf va 31 13)).elim false (fun x => x.2 == g.deck) && liveInDeck s g.deck g.width l &&
       decide (bitsOf va 0 20 + n ≤ g.priv) then cleanLoc s k el va 0 n (.priv g.deck l (bitsOf va 0 20)) else illegal
  else if deckWindow va then
    match (g.wins.find? (fun x => x.1 == bitsOf va 31 13)).bind (fun x => s.deck? x.2) with
    | some d =>
      if bitsOf va 19 12 == 0 && decide (bitsOf va 0 19 + n ≤ d.memSize) then cleanLoc s k el va 0 n (.deck d.uid (bitsOf va 0 19)) else illegal
    | none => illegal
  else match translate s g.cx true k va with
    | .ok l mt => if top < mt then .error (.fault 0x0006 el (0x80 + mt) page) else cleanLoc s k el va (0x80 + mt) n l
    | .prot m => .error (.fault 0x0006 el m page)
    | .absent => .error (.fault 0x0007 el 0 page)
    | .ask p => .error (.ask p)
    | .noMem => .error .noMem
/-- Copies reach normal and write-combining pages. -/
def engineLoc (s : State) (g : Agent) (k : Kind) (el va n : Nat) : Except Stuck Loc := engineLocTop 1 s g k el va n

/-- Bytes of an access that lie in its first page. -/
def firstPart (va n : Nat) : Nat := min n (4096 - va % 4096)

/-- The locations of n bytes at va, at most two pages. -/
def engineLocsTop (top : Nat) (s : State) (g : Agent) (k : Kind) (va n : Nat) : Except Stuck (List (Loc × Nat)) := do
  let p := firstPart va n
  let a ← engineLocTop top s g k va va p
  if p = n then return [(a, p)] else
  let b ← engineLocTop top s g k va (va + p) (n - p)
  return [(a, p), (b, n - p)]
def engineLocs (s : State) (g : Agent) (k : Kind) (va n : Nat) : Except Stuck (List (Loc × Nat)) := engineLocsTop 1 s g k va n

/-- The context wrote the lines of n bytes of a page. -/
def noteSpan (s : State) (ctx : Nat) (l : Loc × Nat) : State := noteWrite (noteWrite s (some ctx) l.1) (some ctx) (l.1.plus (l.2 - 1))

def engineRead (s : State) (g : Agent) (va n : Nat) : Except Stuck (List Byte) := do
  let ls ← engineLocs s g .read va n
  return ls.flatMap (fun l => readLocs s l.1 l.2)
def engineWrite (s : State) (g : Agent) (va : Nat) (bs : List Byte) : Except Stuck State := do
  let ls ← engineLocs s g .write va bs.length
  return ls.foldl (fun t l => noteSpan t g.cx.num l)
    (ls.foldl (fun (x : State × List Byte) (l : Loc × Nat) => (writeLocs (notePatch x.1 l.1 l.2) l.1 (x.2.take l.2), x.2.drop l.2)) (s, bs)).1

/-- 64-bit address arithmetic (07 R183). -/
def addr64 (base : Nat) (off : Int) : Nat := ((base + off) % 2 ^ 64).toNat

/-- Element j's index in dimension k, dimension 0 fastest (07 R183). -/
def dimIndex (d : BitVec 1024) (j k : Nat) : Nat := j / ((List.range k).foldl (fun n i => n * descExt d i) 1) % descExt d k
def tupleOff (d : BitVec 1024) (stride : Nat → Int) (j : Nat) : Int :=
  ((List.range (descNdim d)).map (fun k => (dimIndex d j k : Int) * stride k)).sum

/-- The combination of two elements by OP (07 R179, R186, R188); a store keeps the later one. An OP of another width than the
element's leaves a free value (log 18). -/
def copyCombine (op esz : Nat) (a b : DWord) : DWord :=
  let lo (w : Word) : DWord := w.zeroExtend 64
  if op = 0 then b
  else if op = 5 then (if esz = 3 then a + b else Config.mixedWidth op esz a b)
  else if esz ≠ 2 then Config.mixedWidth op esz a b
  else if op = 1 then lo (loWord a + loWord b)
  else if op = 2 then lo (addF32 (loWord a) (loWord b))
  else if op = 3 then lo (if (loWord a).sle (loWord b) then loWord a else loWord b)
  else lo (if (loWord a).sle (loWord b) then loWord b else loWord a)
/-- Two elements combined, as bytes; of one of 16 bytes each half is a free value (log 18). -/
def combineBytes (op esz : Nat) (x y : List Byte) : List Byte :=
  let word (l : List Byte) : DWord := BitVec.ofNat 64 (bytesNat l)
  if op = 0 then y
  else if esz < 4 then natBytes (2 ^ esz) (copyCombine op esz (word x) (word y)).toNat
  else natBytes 8 (Config.mixedWidth op esz (word (x.take 8)) (word (y.take 8))).toNat ++
    natBytes 8 (Config.mixedWidth (op + 8) esz (word (x.drop 8)) (word (y.drop 8))).toNat
/-- Fold elements in order, of a reducing collective from rank 0 on. With OP store, of which R188 does not say what a reduction of it combines
to, the last one is kept. DESIGN CHOICE (log 93). -/
def combineAll (op esz : Nat) : List (List Byte) → List Byte
  | [] => []
  | a :: t => t.foldl (combineBytes op esz) a

/-- The index of row r as memory holds it (07 R185). The array lies in deck or global memory; one in the private window, of which R185 says
nothing, is read there. DESIGN CHOICE (log 84). -/
def rowIndex (s : State) (g : Agent) (d : BitVec 1024) (r : Nat) : Except Stuck Nat := do
  let bs ← engineRead s g (addr64 (descAux2 d) (4 * r)) 4
  return bytesNat bs

/-- The metadata nibble of group k of the copy, groups counted through its rows (07 R184). -/
def nibbleAt (s : State) (g : Agent) (d : BitVec 1024) (k : Nat) : Except Stuck Nat := do
  let row := k / (descExt d 0 / 4)
  let grp := k % (descExt d 0 / 4)
  let bs ← engineRead s g (addr64 (descAux2 d) (row * ((descExt d 0 + 7) / 8) + grp / 2)) 1
  return if grp % 2 = 0 then bytesNat bs % 16 else bytesNat bs / 16

/-- What a copy has read of its indices and nibbles: each is read once (07 R184-R186). -/
def CopyOp.known (c : CopyOp) (k : Nat) : Nat := (c.memo.find? (fun x => x.1 == k)).elim 0 (·.2)

/-- The indices or nibbles that piece j needs: its group's or its row's; the index of every row where rows with equal indices are
combined. -/
def CopyOp.keys (c : CopyOp) (j : Nat) : List Nat :=
  if c.op = 1 then (if descWs c.desc then (List.range 16).map (16 * j + ·) else [j / 4])
  else if c.op = 2 then [j / descExt c.desc 0]
  else if c.op = 3 then (if descOp c.desc = 0 then [j / descExt c.desc 0] else List.range (descAux c.desc))
  else []

/-- Read the ones that have not been read. -/
def readKeys (s : State) (g : Agent) (c : CopyOp) : List Nat → Except Stuck (List (Nat × Nat))
  | [] => .ok []
  | k :: t => do
    let v ← (match c.memo.find? (fun x => x.1 == k) with
      | some x => .ok x.2
      | none => if c.op = 1 then nibbleAt s g c.desc k else rowIndex s g c.desc k)
    let rest ← readKeys s g c t
    return (k, v) :: rest

/-- The value tsparse gives element j of a dense row (07 R184): the row's source bytes and metadata nibble. -/
def sparseElem (s : State) (g : Agent) (c : CopyOp) (row j : Nat) : Except Stuck (List Byte) :=
  let d := c.desc
  let n := descBytes d
  let grp := j / 4
  let nib := c.known (row * (descExt d 0 / 4) + grp)
  let src (k : Nat) : Nat := addr64 (descSrc d) ((row : Int) * descSS d 1 + ((2 * grp + k) * n : Nat))
  if nib / 4 = j % 4 then engineRead s g (src 1) n
  else if nib % 4 = j % 4 then engineRead s g (src 0) n
  else .ok (List.replicate n 0#8)

/-! ## The matrix unit's fills (08 R193, R195-R197) -/

/-- Change the matrix unit of a deck's pier, where the deck owns it. A suspended fill that a `tret` resumes after its deck has moved to a V pier,
which has no unit, reads its rows, drops them and completes: neither 08 R197 nor 15 R321 says. DESIGN CHOICE (log 102). -/
def modUnit (s : State) (deck : Nat) (f : Matrix → Matrix) : State :=
  match s.deck? deck with
  | some d => if (s.pier d.pier).owner == some deck then s.modPier d.pier (fun p => { p with mtx := p.mtx.map f }) else s
  | none => s

/-- Byte offset of a plane word in the weight store (08 R205). -/
def weightOff (bank macro_ row pos : Nat) : Nat := (16 * bank + macro_) * 4096 + 64 * row + 8 * pos
/-- Byte offset of a plane word in the row buffer (08 R205). -/
def rowOff (row kb pos : Nat) : Nat := 1024 * row + 64 * kb + 8 * pos

/-- A K-row lands: plane positions of its sub-block take the source planes, or zeros, and the row is valid (08 R195). -/
def landKRow (m : Matrix) (w : Word) (planes r : Nat) (plane : Nat → List Byte) : Matrix :=
  let row := wordKrow w + r
  let off (k : Nat) : Nat := weightOff (wordBank w) (wordMacro w) row (wordSub w * planes + k)
  let m := (List.range planes).foldl (fun (m : Matrix) (k : Nat) =>
    { m with weights := m.weights.writeBytes (off k) (if k < wordP w then plane k else List.replicate 8 0#8),
             poisonW := m.poisonW.filter (fun x => x < off k || off k + 8 ≤ x) }) m
  { m with valid := m.valid.modify (16 * wordBank w + wordMacro w) (fun v => v ||| BitVec.ofNat 64 (2 ^ row)) }

/-- A row of the row buffer lands with its plane count (08 R196). -/
def landARow (m : Matrix) (row pa kblocks : Nat) (plane : Nat → Nat → List Byte) : Matrix :=
  let cleared := m.rows.clear (1024 * row) (1024 * row + 1024)
  let rows := (List.range kblocks).foldl (fun (b : Memory) (kb : Nat) =>
    (List.range pa).foldl (fun (b : Memory) (k : Nat) => b.writeBytes (rowOff row kb k) (plane kb k)) b) cleared
  { m with rows := rows, pa := m.pa.set row pa, poisonR := m.poisonR.filter (fun x => x < 1024 * row || 1024 * row + 1024 ≤ x) }

/-- Bit-plane word of 64 i8 elements: plane position k is bit 7 - k (02 R47, 08 R197). -/
def planeWord (els : List (List Byte)) (k : Nat) : List Byte :=
  natBytes 8 ((els.zipIdx.map (fun x => if (bytesNat x.1).testBit (7 - k) then 2 ^ x.2 else 0)).sum)

/-- All of a list's results, or the first obstacle. -/
def collect (f : Nat → Except Stuck α) : Nat → Nat → Except Stuck (List α)
  | _, 0 => .ok []
  | i, n + 1 => do
    let a ← f i
    let t ← collect f (i + 1) n
    return a :: t

/-! ## Pieces of a copy -/

/-- The outstanding collective of a girder's member that takes part with the given one (07 R188). -/
def collMate (s : State) (girder member : Nat) (joined : Bool) : Option (Work × CopyOp) :=
  s.works.findSome? (fun w => match w.kind with
    | .copy c => if c.op == 5 && bitsOf (descAux c.desc) 4 4 == 0 && c.joined == joined &&
        (s.deck? c.deck).elim false (fun d => d.girder == girder && d.member == member) then some (w, c) else none
    | _ => none)

/-- The address of the element a collective stands at: that of its own source (07 R182, 20 R372). -/
def CopyOp.elementAddr (c : CopyOp) : Nat := addr64 (descSrc c.desc) (tupleOff c.desc (descSS c.desc) c.next)

/-- What element e of rank r's source holds, for a collective of a girder or a peer group; this device's own part of a peer group is read
from its SRC (07 R188, 20 R372; log 13). A fault in another member's source is the reader's: each member whose piece reads that element raises
it on its own span, since R182 and R188 do not say on which. DESIGN CHOICE (log 93). -/
def collElem (s : State) (c : CopyOp) (g : Agent) (girder rank r e : Nat) : Except Stuck (List Byte) :=
  let grp := bitsOf (descAux c.desc) 4 4
  let own (g : Agent) (d : BitVec 1024) : Except Stuck (List Byte) :=
    engineRead s g (addr64 (descSrc d) (tupleOff d (descSS d) e)) (descBytes d)
  if grp = 0 then
    match collMate s girder r true with
    | some (_, m) =>
      match agentOf s m.ctx m.launch m.deck m.wins with
      | some g => own g m.desc
      | none => .ok []
    | none => .ok []
  else if r = rank then own g c.desc
  else .ok ((List.range (descBytes c.desc)).map (fun i => Config.peerByte c.seed r (descBytes c.desc * e + i)))

/-! An all-gather and a reduce-scatter of n elements divide them into one part for each rank. R188 gives neither which rank takes which part, nor
where a rank's part lies at its other end, nor whether the EXT product counts the elements of the whole or of a part. The model takes n, that
product, at the source and at the destination, parts as equal as they can be, and the rest free. DESIGN CHOICE (log 13). -/

/-- Where part p begins. -/
def partStart (ranks n p : Nat) : Nat := p * n / ranks
/-- The part of rank r: how many ranks come before it by their keys. -/
def partOf (ranks n r : Nat) : Nat :=
  ((List.range ranks).filter (fun q =>
    let x := Config.collKey ranks n q
    let y := Config.collKey ranks n r
    decide (x < y) || (x == y && decide (q < r)))).length
/-- Element j of the whole lies in the part of rank r. -/
def inPart (ranks n r j : Nat) : Bool :=
  decide (partStart ranks n (partOf ranks n r) ≤ j) && decide (j < partStart ranks n (partOf ranks n r + 1))
/-- Where the part of rank r begins at that rank's own end: all of it lies within n elements. -/
def partBase (ranks n r : Nat) : Nat :=
  let p := partOf ranks n r
  Config.collBase ranks n r % (n - (partStart ranks n (p + 1) - partStart ranks n p) + 1)
/-- The rank and its source element that element j of an all-gather's destination receives. -/
def gatherFrom (ranks n j : Nat) : Option (Nat × Nat) :=
  ((List.range ranks).find? (fun r => inPart ranks n r j)).map (fun r => (r, partBase ranks n r + (j - partStart ranks n (partOf ranks n r))))
/-- The element of the reduction that element j of a rank's destination receives in a reduce-scatter, if any. -/
def scatterFrom (ranks n rank j : Nat) : Option Nat :=
  let e := partStart ranks n (partOf ranks n rank) + (j - partBase ranks n rank)
  if partBase ranks n rank ≤ j ∧ inPart ranks n rank e then some e else none

/-- What a piece of a copy does: bytes to a destination, a reduction there with the rows it combines, nothing, or a row of the weight
store. -/
inductive Landing where
  | bytes (dst : Nat) (bs : List Byte)
  | reduce (dst : Nat) (bs : List Byte) (rows : Nat)
  | nothing
  | krow (els : List (List Byte))

/-- Piece j of a copy whose indices and nibbles have been read (07 R183-R188), its source read now, also where earlier pieces have written it (log
93). `girder`, `rank`, `ranks` matter to collectives only. -/
def pieceOf (s : State) (c : CopyOp) (g : Agent) (girder rank ranks j : Nat) : Except Stuck Landing := do
  let d := c.desc
  let n := descBytes d
  let row := j / descExt d 0
  let col := j % descExt d 0
  if c.op = 0 then
    let bs ← engineRead s g (addr64 (descSrc d) (tupleOff d (descSS d) j)) n
    return .bytes (addr64 (descDst d) (tupleOff d (descDS d) j)) bs
  else if c.op = 1 then
    if descWs d then return .krow (← collect (sparseElem s g c j) 0 64)
    else
      let bs ← sparseElem s g c row col
      return .bytes (addr64 (descDst d) ((row : Int) * descDS d 1 + (col * n : Nat))) bs
  else if c.op = 2 then
    let bs ← engineRead s g (addr64 (descSrc d) ((c.known row : Int) * descSS d 0 + (col * n : Nat))) n
    return .bytes (addr64 (descDst d) ((row : Int) * descDS d 0 + (col * n : Nat))) bs
  else if c.op = 3 then
    let idx := c.known row
    let dst := addr64 (descDst d) ((idx : Int) * descDS d 0 + (col * n : Nat))
    let src (r : Nat) : Nat := addr64 (descSrc d) ((r : Int) * descSS d 0 + (col * n : Nat))
    if descOp d = 0 then return .bytes dst (← engineRead s g (src row) n)
    else
      -- the last of the rows with this index applies the combination of all of them
      let rows := (List.range (descAux d)).filter (fun r => c.known r == idx)
      if rows.getLast? != some row then return .nothing
      else
        let els ← collect (fun i => engineRead s g (src (rows.getD i 0)) n) 0 rows.length
        return .reduce dst (combineAll (descOp d) (descEsz d) els) rows.length
  else if c.op = 4 then
    return .bytes (addr64 (descDst d) (tupleOff d (descDS d) j)) ((List.range n).map (fun i => BitVec.ofNat 8 (descAux d / 256 ^ (i % 4))))
  else
    let dst := addr64 (descDst d) (tupleOff d (descDS d) j)
    let kind := descAux d % 16
    let elem := collElem s c g girder rank
    if kind = 0 then return .bytes dst (← elem 0 j)
    else if kind = 1 then
      match gatherFrom ranks c.total j with
      | some (r, e) => return .bytes dst (← elem r e)
      | none => return .nothing
    else if kind = 2 then
      match scatterFrom ranks c.total rank j with
      | some e => return .bytes dst (combineAll (descOp d) (descEsz d) (← collect (fun r => elem r e) 0 ranks))
      | none => return .nothing
    else return .bytes dst (combineAll (descOp d) (descEsz d) (← collect (fun r => elem r j) 0 ranks))

/-- Apply a landing: the new state. A reduction is a `red` at its destination: normal memory, and no private window (07 R152, R186). -/
def applyLanding (s : State) (c : CopyOp) (g : Agent) (planes : Nat) : Landing → Except Stuck State
  | .bytes dst bs => engineWrite s g dst bs
  | .reduce dst bs _ => do
    if privWindow dst then .error (.fault 0x0005 dst 0 (dst / 4096 * 4096)) else
    let ls ← engineLocsTop 0 s g .write dst bs.length
    let old := ls.flatMap (fun l => readLocs s l.1 l.2)
    let new := natBytes bs.length (copyCombine (descOp c.desc) (descEsz c.desc) (BitVec.ofNat 64 (bytesNat old)) (BitVec.ofNat 64 (bytesNat bs))).toNat
    return ls.foldl (fun t l => noteSpan t g.cx.num l)
      (ls.foldl (fun (x : State × List Byte) (l : Loc × Nat) => (writeKeeping (notePatch x.1 l.1 l.2) l.1 (x.2.take l.2), x.2.drop l.2)) (s, new)).1
  | .nothing => .ok s
  | .krow els => .ok (modUnit s c.deck (fun m => landKRow m (BitVec.ofNat 32 (descAux c.desc)) planes c.next (planeWord els)))

/-- Bytes a piece delivers. -/
def pieceBytes (c : CopyOp) : Nat := if c.op = 1 ∧ descWs c.desc then 64 else descBytes c.desc
/-- Bytes that become visible with a landing: those of every row that a reduction combines (07 R181, R186, R188). -/
def Landing.credit (c : CopyOp) : Landing → Nat
  | .nothing => 0
  | .reduce _ _ rows => rows * descBytes c.desc
  | _ => pieceBytes c

/-! ## Credits and completion -/

/-- Lanes that wait on a barrier that breaks stand at their instruction again and raise BARRIER_OVERFLOW there (07 R169). -/
def breakBar (s : State) (deck girder n : Nat) : State :=
  let s := s.modBar deck girder n (fun b => { b with broken := true })
  (barSpans s deck girder n).foldl (fun s x => s.modSpan x.uid (fun y =>
    { y with lanes := y.lanes.map (Lane.mapPos (fun q => match q.st with
        | .waiting (.barPhase k _ _) | .waiting (.barSet k _ _) | .waiting (.barAgain k _) => if k == n then { q with st := .standing } else q
        | _ => q)) })) s

/-- k delivered bytes are credited to a barrier (07 R169, R181). -/
def creditBar (s : State) (deck girder n k : Nat) : State :=
  let b := barOf s deck girder n
  if b.broken then s
  else if b.bal - k < -(2 ^ 31) then breakBar s deck girder n
  else barCheck (s.modBar deck girder n (fun x => { x with bal := x.bal - k })) deck girder n

/-- The credit of a copy's piece: a bn of the deck that holds a deck-window destination, else of the issuing deck (07 R181). -/
def creditPiece (s : State) (c : CopyOp) (k : Nat) : State :=
  let n := descBar c.desc
  if 20 ≤ n || k == 0 then s else
  let dst := descDst c.desc
  let holder := if deckWindow dst then ((c.wins.find? (fun x => x.1 == bitsOf dst 31 13)).map (·.2)).getD c.deck else c.deck
  creditBar s (if n < 16 then holder else c.deck) ((s.deck? c.deck).elim 0 (·.girder)) n k

/-- Advance a timeline past every completed number (07 R173). -/
def advanceTl : Nat → Timeline → Timeline
  | 0, t => t
  | n + 1, t => if t.early.contains (t.value + 1) then
      advanceTl n { t with value := t.value + 1, early := t.early.filter (fun x => x != t.value + 1) } else t
/-- Operation n of timeline k of a context completes. -/
def completeNumber (s : State) (ctx k n : Nat) : State :=
  settleAll (s.modCtx ctx (fun c => { c with tl := c.tl.modify k (fun t => advanceTl (t.early.length + 1) { t with early := t.early ++ [n] }) }))
/-- Take the next number of a timeline (07 R173). -/
def takeNumber (s : State) (ctx k : Nat) : State × Nat :=
  let n := ((s.ctx? ctx).bind (fun c => c.tl[k]?)).elim 1 (fun t => t.issued + 1)
  (s.modCtx ctx (fun c => { c with tl := c.tl.modify k (fun t => { t with issued := n }) }), n)

/-- An engine's fault waits on its span for the next issue boundary (07 R182). -/
def raisePending (s : State) (u pc access : Nat) (cause addr mtype page : Nat) : State :=
  s.modSpan u (fun x =>
    let t : TrapInfo :=
      { cause := cause, addr := BitVec.ofNat 64 addr, lanes := if x.live == 0#64 then 1#64 else x.live, access := access, mtype := mtype,
        pages := [page], complete := true, past := false, boundary := some pc, entry := [], served := false, time := some s.time }
    { x with pending := some t })

end Sys2Proof.Machine
end

