-- ==== Sys2Proof/Machine/Copies.lean ====
section
/-! DEFINITION. The CPY class: per-lane copies, batch tags and the issue of engine copies (07 R175-R189). -/

namespace Sys2Proof.Machine

/-! ## Per-lane copies and tags -/

/-- The source requests of a lane's cpl, at most two pages (07 R175). -/
def cplSources (l : Nat) (src : DWord) (v : Nat) : List Req :=
  if v = 0 then [] else
  let p := firstPart src.toNat v
  if p = v then [Req.mk l src v .global false] else [Req.mk l src p .global false, Req.mk l (src + BitVec.ofNat 64 p) (v - p) .global false]

/-- A cpl's checks: each over every source and destination of every lane before the next; ADDR is the source where the source fails
(07 R175). -/
def cplCheck (c : Ctx) (dst : Nat → Word) (src : Nat → DWord) (v : Nat → Nat) : Run (List Hit) :=
  let reqs := c.lanes.flatMap (fun l => cplSources l (src l) (v l) ++ [Req.mk l ((dst l).zeroExtend 64) 32 .deck true])
  match checkAllWith (fun r => !r.wr || r.addr.toNat % 32 == 0) c c.s 7 1 false reqs with
  | .error (.trap s t) =>
    -- of the lowest failing lane the source's address is named where the source fails, even in its second page
    let low := lowestLane t.lanes
    let t' := match checkAllWith (fun r => !r.wr || r.addr.toNat % 32 == 0) c s 7 1 false (cplSources low (src low) (v low)) with
      | .error (.trap _ u) => if u.cause == t.cause then { t with addr := src low } else { t with addr := (dst low).zeroExtend 64 }
      | _ => { t with addr := (dst low).zeroExtend 64 }
    .error (.trap s t')
  | r => r

def execCpl (a b n : Reg) (t : BitVec 3) (s : State) : Out' :=
  instr (.cpl a b n t) false s (fun c => do
    let k := t.toNat
    if 255 < c.sp.tag k + laneCount c.A then return .moved (holdAgain c.s c.iss (.tagRoom k (laneCount c.A)))
    let v (l : Nat) : Nat := min (c.src n l).toNat 32
    let hits ← cplCheck c (c.src a) (c.pair b) v
    let s := c.s.modSpan c.u (fun x => { x with tags := x.tags.modify k (· + laneCount c.A) })
    return .done (c.lanes.foldl (fun s l => s.addWork (fun id =>
      { id := id, span := c.u, lanes := oneLane l, dsts := [], resv := 0, iss := none, kind := .cpl k (c.src a l).toNat (v l) none,
        accs := (hits.filter (fun h => h.req.lane == l && !h.req.wr)).map (fun h => Acc.mk l h.loc h.req.size h.mtype [] 0#64 h.req.addr 0) })) s))

/-- The group waits for the tag's count to be zero (07 R177). -/
def execTagwait (t : BitVec 3) (s : State) : Out' :=
  instr (.tagwait t) false s (fun c =>
    .ok (if c.sp.tag t.toNat == 0 then .done c.s else .moved (hold c.s c.iss c.G (fun _ => .tag t.toNat))))
def execTagcnt (a : Reg) (t : BitVec 3) (s : State) : Out' :=
  instr (.tagcnt a t) false s (fun c => (c.issueWrite c.s [(a.toNat, fun _ => BitVec.ofNat 32 (c.sp.tag t.toNat))]).map .done)

/-! ## The matrix unit's ownership (08 R192) -/

/-- Take the unit of the issuing deck's pier: the state with ownership, or the waiting state. A new owner waits for the clear. -/
def Ctx.takeUnit (c : Ctx) (s : State) : State ⊕ State :=
  let p := s.pier c.deck.pier
  if p.owner == some c.deck.uid && !p.clearing then .inr s
  else
    let s := if p.owner.isNone then s.modPier c.deck.pier (fun p =>
      { p with owner := some c.deck.uid, clearing := true, mtx := some .clear }) else s
    .inl (holdAgain s c.iss (.matrix 0 0))

/-! ## The issue of an engine copy (07 R180) -/

/-- Members of a girder whose collectives disagree (07 R188). -/
def collKey (d : BitVec 1024) : Nat × Nat × Nat × Nat := (descAux d % 16, descOp d, descEsz d, descTotal 5 d)

/-- When the last member of a girder's collective has issued, and an earlier one is over, the members have joined (07 R188). Of several outstanding
collectives of one girder a later one waits for the earlier, one whose members disagree included: R188 does not say. DESIGN CHOICE (log 93). -/
def joinColl (s : State) (girder size : Nat) : State :=
  let mates := (List.range size).filterMap (fun m => collMate s girder m false)
  if mates.length < size || (List.range size).any (fun m => (collMate s girder m true).isSome) then s else
  let bad := mates.any (fun x => mates.any (fun y => collKey x.2.desc != collKey y.2.desc))
  mates.foldl (fun s x => s.modWork x.1.id (fun w => { w with kind := .copy { x.2 with joined := true, bad := bad } })) s

/-- Issue an engine copy: the checks in their order, the number, the outstanding work (07 R180). Step 5 tests the window bounds of SRC and DST
for one byte, since R180 gives the test no size; the bytes that follow are tested as they are accessed (R182). DESIGN CHOICE (log 83). A copy
of kind tsparse to the weight store on a V pier is UNSUPPORTED_ON_GRADE before its fields are looked at: R73 orders neither cause before the
other within check 5. DESIGN CHOICE (log 82). -/
def issueCopy (c : Ctx) (op : Nat) (a b : Reg) : Run Eff := do
  let r ← c.reserve (drain c.s c.u c.A) (one a)
  let addr := c.pair b c.low
  let hits ← owning r.2 (checkAll c r.1 11 3 true [Req.mk c.low addr 128 .global false])
  let d : BitVec 1024 := BitVec.ofNat 1024 (bytesNat ((hits.head?).elim [] (fun h => readLocs r.1 h.loc 128)))
  if op = 1 ∧ descWs d ∧ gradeOf c.deck.pier = .v then .error (.grade r.2 r.1 .m)
  else match (if op = 1 ∧ descWs d then c.takeUnit r.1 else Sum.inr r.1) with
  | .inl waiting => return .moved (unreserve waiting c.u r.2)
  | .inr s =>
    let mtx := (s.pier c.deck.pier).unit
    let g := c.A
    if !(descOk op d mtx.arr.isSome mtx.planes && c.launch.tlBound (descTl d) && c.launch.tlKind (descTl d) == engineKind op) then
      .error (.holding r.2 s (TrapInfo.at 0x0001 addr g))
    else
      let ends := (if op = 4 then [] else [descSrc d]) ++ [descDst d]
      match ends.find? (fun x => (resolve c s .generic c.low (BitVec.ofNat 64 x) 1).isNone) with
      | some x =>
        let t := TrapInfo.at 0x0005 (BitVec.ofNat 64 x) g
        .error (.holding r.2 s { t with access := 5, pages := [x / 4096 * 4096] })
      | none =>
        let n := takeNumber s c.cx.num (descTl d)
        let coll := op = 5 && bitsOf (descAux d) 4 4 == 0
        let seed := n.1.fresh
        let bad := op = 5 && !coll && Config.peerMismatch (bitsOf (descAux d) 4 4) seed
        let s := n.1.addWork (fun id =>
          { id := id, span := c.u, lanes := c.A, dsts := one a, resv := r.2, accs := [], iss := none,
            kind := .copy { ctx := c.cx.num, launch := c.launch.uid, deck := c.deck.uid, op := op, desc := d, pc := c.iss.pc, tl := descTl d,
                            num := n.2, total := descPieces op d, next := 0, suspended := false, seed := seed, joined := !coll, bad := bad, cut := false,
                            dead := false,
                            wins := windowsOf s c.girder.uid, memo := [] } })
        return .done (if coll then joinColl s c.girder.uid c.girder.size else s)

def execTcopy (a b : Reg) (s : State) : Out' := instr (.tcopy a b) false s (fun c => issueCopy c 0 a b)
def execTsparse (a b : Reg) (s : State) : Out' := instr (.tsparse a b) false s (fun c => issueCopy c 1 a b)
def execTgather (a b : Reg) (s : State) : Out' := instr (.tgather a b) false s (fun c => issueCopy c 2 a b)
def execTscatter (a b : Reg) (s : State) : Out' := instr (.tscatter a b) false s (fun c => issueCopy c 3 a b)
def execTfill (a b : Reg) (s : State) : Out' := instr (.tfill a b) false s (fun c => issueCopy c 4 a b)
def execTcoll (a b : Reg) (s : State) : Out' := instr (.tcoll a b) false s (fun c => issueCopy c 5 a b)

/-- Whether a copy of the timeline is suspended by a fault (07 R182, R189). -/
def tlSuspended (s : State) (ctx k : Nat) : Bool :=
  s.works.any (fun w => match w.kind with
    | .copy c => c.ctx == ctx && c.tl == k && c.suspended
    | _ => false)
/-- Outstanding operations and status of a timeline (07 R189). The kind bits of an unbound timeline are zero, whatever TLBIND holds there, which
R189 does not say. DESIGN CHOICE (log 93). -/
def Ctx.tlStat (c : Ctx) (k : Nat) : DWord :=
  let t := (c.cx.tl[k]?).getD ⟨0, 0, []⟩
  let open_ := min (t.issued - t.value - t.early.length) 0xFFFFFFFF
  let bound := c.launch.tlBound k
  let bits := (if tlSuspended c.s c.cx.num k then 1 else 0) + (if bound then 2 + 16 * c.launch.tlKind k else 0)
  BitVec.ofNat 32 bits ++ BitVec.ofNat 32 open_
def execTstat (a n : Reg) (s : State) : Out' :=
  instr (.tstat a n) false s (fun c => (c.issueWrite c.s (pairDst a (fun _ => c.tlStat n.toNat))).map .done)

end Sys2Proof.Machine
end

