-- ==== Sys2Proof/Machine/MatrixUnit.lean ====
section
/-! DEFINITION. The MTX class: arrangement, fills, keystones, slices, waits and saving (08 R191-R205, 09 R237, R238). -/

namespace Sys2Proof.Machine

/-! ## Arrangements (08 R193) -/

/-- K_m and N_m of an arrangement code. -/
def arrShape (code : Nat) : Nat × Nat :=
  if code = 0 then (16, 1) else if code = 1 then (8, 2) else if code = 2 then (4, 4) else if code = 3 then (3, 5)
  else if code = 4 then (2, 8) else (1, 16)
/-- Columns of the arrangement, N_eff. -/
def columns (code planes : Nat) : Nat := 64 * (arrShape code).2 * packing planes
def macrosUsed (code : Nat) : Nat := (arrShape code).1 * (arrShape code).2

def Ctx.unit (c : Ctx) : Matrix := (c.s.pier c.deck.pier).unit

/-- Whether an operation of a deck runs (08 R194, R205). -/
def opRunning (s : State) (d : Nat) : Bool :=
  match (s.deck? d).bind (fun x => s.girder? x.girder) with
  | none => false
  | some g => g.keys.any (fun k => k.st == 2 && k.armed.any (fun a => a.deck == d && !a.landed))
/-- The unit has outstanding work of its owner. -/
def unitBusy (s : State) (d : Nat) : Bool := fillOutstanding s d s.fresh || opRunning s d

/-- Run a body with ownership of the unit, or wait for it (08 R192). -/
def Ctx.owned (c : Ctx) (body : Ctx → Run Eff) : Run Eff :=
  match c.takeUnit c.s with
  | .inl waiting => .ok (.moved waiting)
  | .inr s => body { c with s := s }

def execMxarr (p : Reg) (code : BitVec 3) (s : State) : Out' :=
  instr (.mxarr p code) false s (fun c => c.owned (fun c =>
    if unitBusy c.s c.deck.uid then .ok (.moved (holdAgain c.s c.iss (.matrix 1 0)))
    else .ok (.done (c.s.modPier c.deck.pier (fun x =>
      { x with mtx := x.mtx.map (fun u =>
          { u with arr := some code.toNat, planes := p.toNat,
                   valid := if u.planes == p.toNat then u.valid else List.replicate 32 0#64 }) })))))

/-! ## Fills (08 R195-R197) -/

/-- The parts of n bytes at va in 4 KiB pages. -/
def pageParts (n : Nat) : Nat → Nat → List (Nat × Nat)
  | 0, _ => []
  | fuel + 1, va => if n = 0 then [] else
    let p := 4096 - va % 4096
    if n ≤ p then [(va, n)] else (va, p) :: pageParts (n - p) fuel (va + p)

/-- The checks of a fill's source range for the lowest lane of A: aligned to 8, global or a deck window (08 R195, R197). They come before the
checks of the fields and of the arrangement, and where those fail R197 gives no range: the one checked is that of the fields as they stand,
with K / 64 = 0 for no arrangement, and 8 bytes at least. DESIGN CHOICE (log 101). -/
def fillCheck (c : Ctx) (va n : Nat) : Run Unit := do
  let reqs := (pageParts (max n 8) 64 va).map (fun p =>
    Req.mk c.low (BitVec.ofNat 64 p.1) p.2 (if privWindow p.1 then .global else .generic) false)
  let _ ← checkAllWith (fun r => r.addr.toNat % 8 == 0) c c.s 6 1 false reqs
  return ()

/-- A fill begins, after a release by the lanes of A (08 R197). -/
def startFill (c : Ctx) (va : Nat) (w : Word) (rows kblocks : Nat) (kind : FillOp → WorkKind) : Eff :=
  let s := drain c.s c.u c.A
  let f : FillOp :=
    { ctx := c.cx.num, launch := c.launch.uid, deck := c.deck.uid, pc := c.iss.pc, word := w, va := va, total := rows, next := 0,
      suspended := false, planes := c.unit.planes, kblocks := kblocks, wins := windowsOf s c.girder.uid }
  .done (s.addWork (fun id => { id := id, span := c.u, lanes := c.A, dsts := [], resv := 0, accs := [], iss := none, kind := kind f }))

def execMxload (a b : Reg) (s : State) : Out' :=
  instr (.mxload a b) false s (fun c => c.owned (fun c => do
    let va := (c.pair a c.low).toNat
    let w := c.src b c.low
    fillCheck c va (8 * wordP w * wordRows w)
    if c.unit.arr.isNone || !weightWordOk w (packing c.unit.planes) then c.illegal c.A
    else return startFill c va w (wordRows w) 0 .load8))

/-- The row word (08 R196). -/
def rowMemb (w : Word) : BitVec 8 := w.extractLsb' 18 8
def rowPa (w : Word) : Nat := (w.extractLsb' 14 4).toNat
def rowCount (w : Word) : Nat := (w.extractLsb' 7 7).toNat
def rowFirst (w : Word) : Nat := (w.extractLsb' 0 7).toNat
def rowWordOk (w : Word) : Bool :=
  w.extractLsb' 26 6 == 0#6 && decide (2 ≤ rowPa w) && decide (rowPa w ≤ 8) && decide (1 ≤ rowCount w) &&
  decide (rowFirst w + rowCount w ≤ 96)
/-- Every other member named receives rows in a unit it owns (08 R196). -/
def membOk (c : Ctx) (m : BitVec 8) : Bool :=
  (List.range 8).all (fun i => !m.getLsbD i || i == c.deck.member ||
    (c.s.decksOf c.girder.uid).any (fun d => d.member == i && (c.s.pier d.pier).owner == some d.uid))

def execMxarow (a b : Reg) (s : State) : Out' :=
  instr (.mxarow a b) false s (fun c => c.owned (fun c => do
    let va := (c.pair a c.low).toNat
    let w := c.src b c.low
    let kb := c.unit.arr.elim 0 (fun k => (arrShape k).1)
    fillCheck c va (rowCount w * kb * 8 * rowPa w)
    if c.unit.arr.isNone || !rowWordOk w || !membOk c (rowMemb w) then c.illegal c.A
    else return startFill c va w (rowCount w) kb .rows))

/-- Row r of a weight fill lands; only the planes that the arrangement holds are read (02 R48, 08 R195). -/
def landLoadRow (s : State) (f : FillOp) : Except Stuck State := do
  match agentOf s f.ctx f.launch f.deck f.wins with
  | none => .ok s
  | some g =>
    let p := wordP f.word
    let words ← collect (fun k => engineRead s g (addr64 f.va ((8 * p * f.next + 8 * k : Nat))) 8) 0 (min p f.planes)
    .ok (modUnit s f.deck (fun m => landKRow m f.word f.planes f.next (fun k => words.getD k [])))

/-- Row r of a row fill lands in the buffer of the issuing deck and of every member named (08 R196, 09 R237). -/
def landBroadcastRow (s : State) (f : FillOp) : Except Stuck State := do
  match agentOf s f.ctx f.launch f.deck f.wins with
  | none => .ok s
  | some g =>
    let pa := rowPa f.word
    let base : Nat := f.next * f.kblocks * 8 * pa
    let words ← collect (fun k => engineRead s g (addr64 f.va ((base + 8 * k : Nat))) 8) 0 (f.kblocks * pa)
    let row := rowFirst f.word + f.next
    let girder := (s.deck? f.deck).elim 0 (·.girder)
    let targets := (s.decksOf girder).filter (fun d => d.uid == f.deck || (rowMemb f.word).getLsbD d.member)
    .ok (targets.foldl (fun s d => modUnit s d.uid (fun m =>
      landARow m row pa f.kblocks (fun kb k => words.getD (kb * pa + k) []))) s)

/-! ## Keystones (08 R198-R200) -/

def Ctx.key (c : Ctx) (n : Nat) : Key := c.girder.keys.getD n ⟨0, 0, 0, 0, [], [], []⟩
def setKey (s : State) (girder n : Nat) (k : Key) : State := s.modGirder girder (fun g => { g with keys := g.keys.set n k })

/-- The operation descriptor (08 R200). -/
def opField (v : DWord) (lo len : Nat) : Nat := (v.extractLsb' lo len).toNat
def opM (v : DWord) : Nat := opField v 0 7
def opMV (v : DWord) : Nat := opField v 7 7
def opN (v : DWord) : Nat := opField v 14 9
def opNV (v : DWord) : Nat := opField v 23 9
def opCol (v : DWord) : Nat := opField v 32 12
def opRowB (v : DWord) : Nat := opField v 44 7
def opBank (v : DWord) : Nat := opField v 51 1
def opZero (v : DWord) : Bool := v.getLsbD 52
def opArms (v : DWord) : Nat := opField v 53 3
def opTlen (v : DWord) : Bool := v.getLsbD 56
def opTl (v : DWord) : Nat := opField v 57 4
/-- Its fields are within their limits under an arrangement (08 R200 check 2). -/
def opOk (v : DWord) (code planes : Nat) : Bool :=
  opField v 61 3 == 0 && decide (1 ≤ opM v) && decide (opM v ≤ 96) && decide (opMV v ≤ opM v) && decide (1 ≤ opN v) &&
  decide (opN v ≤ 320) && decide (opNV v ≤ opN v) && decide (opCol v + opN v ≤ columns code planes) && decide (opRowB v + opM v ≤ 96)

/-- SIGNED and ARMED have reached what was declared; a count has been declared (08 R198; log 19). -/
def Key.full (k : Key) : Bool := decide (0 < k.decl) && k.signers.length == k.decl && k.armed.length == k.arms + 1

/-- Accumulator pairs a signer needs for a deck's slice with l signers (08 R200). -/
def pairsFor (v : DWord) (l : Nat) : Nat := opM v * ((opN v + l - 1) / l)
/-- The completion checks (08 R200). -/
def Key.completes (k : Key) : Bool :=
  k.signers.all (fun x => k.armed.any (fun a => a.deck == x.deck)) &&
  k.armed.all (fun a =>
    let mine := k.signers.filter (fun x => x.deck == a.deck)
    mine.all (fun x => x.np == pairsFor a.desc mine.length))

/-- The distinct timelines named, ascending (08 R201). -/
def Key.timelines (k : Key) : List Nat := (List.range 16).filter (fun t => k.armed.any (fun a => opTlen a.desc && opTl a.desc == t))

/-- A deck that has armed without a signer has no slice (08 R201). -/
def Key.withoutSlices (k : Key) : Key :=
  { k with armed := k.armed.map (fun a => if k.signers.any (fun x => x.deck == a.deck) then a else { a with started := true, landed := true }) }

/-- Put a keystone back after a signature or an arm: it runs if that completes it (08 R198, R200, R201). -/
def keyStep (c : Ctx) (n : Nat) (k : Key) (lanes : LaneSet) : Run State :=
  if k.full then
    if k.completes then
      let r := k.timelines.foldl (fun (x : State × List (Nat × Nat)) t =>
        let y := takeNumber x.1 c.cx.num t
        (y.1, x.2 ++ [(t, y.2)])) (c.s, [])
      .ok (setKey r.1 c.girder.uid n { k.withoutSlices with st := 2, numbers := r.2 })
    else c.illegal lanes
  else .ok (setKey c.s c.girder.uid n k)

/-- ADDR of KEYSTONE_OVERRUN by mxsign (08 R199). -/
def overrunAddr (decl signed n : Nat) : DWord := BitVec.ofNat 64 (decl % 4096 + signed % 4096 * 2 ^ 12 + n * 2 ^ 24)

def execMxsign (a b np : Reg) (n : BitVec 3) (s : State) : Out' :=
  instr (.mxsign a b np n) false s (fun c => c.owned (fun c =>
    let k := c.key n.toNat
    let count := (c.src a c.low).toNat
    let m := laneCount c.A
    if !(decide (1 ≤ count) && decide (count ≤ 2048)) then c.illegal c.A
    else if k.st == 2 then .ok (.moved (holdAgain c.s c.iss (.matrix 2 n.toNat)))
    else match (regRange b.toNat (2 * np.toNat)).find? (fun r => !(c.sp.vreg r).isVector) with
    | some r => .error (.trap c.s (TrapInfo.at 0x000B (shapeAddr r (c.sp.vreg r).code 2) c.A))
    | none =>
      let decl := if k.signers.length == 0 then count else k.decl
      if count != decl || decl < k.signers.length + m then
        .error (.trap c.s (TrapInfo.at 0x0013 (overrunAddr decl k.signers.length m) c.A))
      else
        let new := c.lanes.map (fun l => Signer.mk c.deck.uid c.u l b.toNat np.toNat)
        (keyStep c n.toNat { k with st := 1, decl := decl, signers := k.signers ++ new } c.A).map .done))

/-- Outstanding row fills of a deck that cover a row (08 R200 check 3). -/
def pendingPa (s : State) (deck row : Nat) : Option Nat :=
  (s.works.filterMap (fun w => match w.kind with
    | .rows f => if f.deck == deck && decide (rowFirst f.word + f.next ≤ row) && decide (row < rowFirst f.word + f.total)
        then some (rowPa f.word) else none
    | _ => none)).getLast?
/-- K-rows of a macro bank that outstanding weight fills of a deck cover (08 R200 check 4). -/
def pendingRows (s : State) (deck bank macro_ : Nat) : DWord :=
  s.works.foldl (fun (m : DWord) (w : Work) =>
    let cover (word : Word) (total : Nat) : DWord :=
      if wordBank word == bank && wordMacro word == macro_ then BitVec.ofNat 64 ((2 ^ total - 1) * 2 ^ wordKrow word) else 0#64
    match w.kind with
    | .load8 f => if f.deck == deck then m ||| cover f.word f.total else m
    | .copy x => if x.deck == deck && x.op == 1 && descWs x.desc then m ||| cover (BitVec.ofNat 32 (descAux x.desc)) x.total else m
    | _ => m) 0#64
/-- The PA a row counts with at an arm. -/
def Ctx.rowPaAt (c : Ctx) (row : Nat) : Nat := (pendingPa c.s c.deck.uid row).getD (c.unit.pa.getD row 0)
def Ctx.rowsOk (c : Ctx) (v : DWord) : Bool :=
  (List.range (opMV v)).all (fun i => c.rowPaAt (opRowB v + i) == c.rowPaAt (opRowB v) && c.rowPaAt (opRowB v + i) != 0)
def Ctx.bankOk (c : Ctx) (v : DWord) (code : Nat) : Bool :=
  (List.range (macrosUsed code)).all (fun m =>
    (c.unit.valid.getD (16 * opBank v + m) 0#64 ||| pendingRows c.s c.deck.uid (opBank v) m) == BitVec.allOnes 64)
/-- Bit m set when macro m's bank is valid (08 R191). -/
def Matrix.validMask (u : Matrix) (bank : Nat) : Nat :=
  ((List.range 16).map (fun m => if u.valid.getD (16 * bank + m) 0#64 == BitVec.allOnes 64 then 2 ^ m else 0)).sum

def execMxmma (a : Reg) (n : BitVec 3) (s : State) : Out' :=
  instr (.mxmma a n) false s (fun c => c.owned (fun c =>
    let k := c.key n.toNat
    let v := c.pair a c.low
    let g := c.A
    if k.st == 2 then .ok (.moved (holdAgain c.s c.iss (.matrix 2 n.toNat)))
    else match c.unit.arr with
    | none => c.illegal g
    | some code =>
      if !opOk v code c.unit.planes || !c.rowsOk v then c.illegal g
      else if !c.bankOk v code then
        .error (.trap c.s (TrapInfo.at 0x0014 (BitVec.ofNat 64 (c.unit.validMask (opBank v) + opBank v * 2 ^ 16)) g))
      else if k.armed.length != 0 && (opArms v != k.arms || k.armed.length == k.arms + 1 || k.armed.any (fun x => x.deck == c.deck.uid)) then
        .error (.trap c.s (TrapInfo.at 0x0013 0#64 g))
      else if opTlen v && !(c.launch.tlBound (opTl v) && c.launch.tlKind (opTl v) == 3) then c.illegal g
      else
        let arm : Arm := ⟨c.deck.uid, v, c.s.fresh, false, false, false, [], []⟩
        (keyStep { c with s := { c.s with fresh := c.s.fresh + 1 } } n.toNat { k with st := 1, arms := if k.armed.length == 0 then opArms v else k.arms, armed := k.armed ++ [arm] } g).map .done))

/-! ## Slices (08 R201) -/

/-- The p-bit signed value whose planes, sign plane first, are given (02 R48). -/
def planesValue (p : Nat) (bit : Nat → Bool) : Int :=
  ((List.range p).map (fun k => if bit k then (if k = 0 then -(2 ^ (p - 1)) else (2 ^ (p - 1 - k) : Int)) else 0)).sum

/-- Bit j of the plane word at byte offset o. -/
def planeBit (m : Memory) (o j : Nat) : Bool := (m.read (o + j / 8)).getLsbD (j % 8)

/-- Element k of a row of the row buffer, read at a planes. -/
def rowElem (u : Matrix) (row k a : Nat) : Int := planesValue a (fun p => planeBit u.rows (rowOff row (k / 64) p) (k % 64))
/-- Element k of an arrangement column (08 R193). -/
def columnElem (u : Matrix) (code bank col k : Nat) : Int :=
  let pk := packing u.planes
  let m := col / (64 * pk) * (arrShape code).1 + k / 64
  planesValue u.planes (fun p => planeBit u.weights (weightOff bank m (k % 64) (col % (64 * pk) / 64 * u.planes + p)) (col % 64))

/-- Insertion by (span index, lane): the signers' positions (08 R201). -/
def signerLe (s : State) (x y : Signer) : Bool :=
  let i := (s.span? x.span).elim 0 (·.idx)
  let j := (s.span? y.span).elim 0 (·.idx)
  decide (i < j) || (i == j && decide (x.lane ≤ y.lane))

/-- The elements a slice computes: span, lane, even register, value (08 R201). Where its rows no longer agree in PA as it starts, since fills after
the arm have replaced some (09 R238), all are read at row ROWB's: no rule says. DESIGN CHOICE (log 103). -/
def sliceResults (s : State) (u : Matrix) (a : Arm) (signers : List Signer) : List (Nat × Nat × Nat × DWord) :=
  let v := a.desc
  let mine := (signers.filter (fun x => x.deck == a.deck)).insertionSort (fun x y => signerLe s x y = true)
  let l := mine.length
  match u.arr with
  | none => []
  | some code =>
    if l = 0 then [] else
    (List.range (opMV v)).flatMap (fun i => (List.range (opNV v)).filterMap (fun j =>
      (mine[j % l]?).map (fun x =>
        let p := x.base + 2 * (i + opM v * (j / l))
        let row := opRowB v + i
        let pa := u.pa.getD (opRowB v) 0
        let start : DWord := if opZero v then 0#64 else
          (s.span? x.span).elim 0#64 (fun sp => pairOf (sp.reg p x.lane) (sp.reg (p + 1) x.lane))
        let acc := ((List.range (64 * (arrShape code).1)).map (fun k =>
          rowElem u row k pa * columnElem u code (opBank v) (opCol v + j) k)).sum
        (x.span, x.lane, p, start + BitVec.ofInt 64 acc))))

/-- Whether a slice reads byte o of the row buffer: its valid rows, K / 64 blocks of the rows' planes (08 R201, R205). -/
def sliceReadsRow (u : Matrix) (v : DWord) (code o : Nat) : Bool :=
  decide (opRowB v ≤ o / 1024) && decide (o / 1024 < opRowB v + opMV v) && decide (o % 1024 / 64 < (arrShape code).1) &&
  decide (o % 64 / 8 < u.pa.getD (opRowB v) 0)
/-- Whether a slice reads byte o of the weight store: the bytes of its valid columns in the macros of the arrangement (08 R193, R205). -/
def sliceReadsWeight (u : Matrix) (v : DWord) (code o : Nat) : Bool :=
  let pk := packing u.planes
  let m := o / 4096 % 16
  o / 65536 == opBank v && (List.range (opNV v)).any (fun j =>
    let col := opCol v + j
    let base := col / (64 * pk) * (arrShape code).1
    decide (base ≤ m) && decide (m < base + (arrShape code).1) && o % 64 / 8 / u.planes == col % (64 * pk) / 64 && o % 8 == col % 64 / 8)
/-- Accumulators of a slice that hold poison as it reads them, by span, lane and even register; with ZERO it reads none (08 R201, 21 R382). -/
def sliceDirty (s : State) (a : Arm) (results : List (Nat × Nat × Nat × DWord)) : List (Nat × Nat × Nat) :=
  if opZero a.desc then [] else
  (results.filter (fun r => (s.span? r.1).elim false (fun x => x.poisonedReg r.2.2.1 r.2.1 || x.poisonedReg (r.2.2.1 + 1) r.2.1))).map
    (fun r => (r.1, r.2.1, r.2.2.1))
/-- Whether a slice reads poisoned bytes of its unit (21 R382). -/
def slicePoisoned (u : Matrix) (a : Arm) : Bool :=
  u.arr.elim false (fun code => u.poisonR.any (sliceReadsRow u a.desc code) || u.poisonW.any (sliceReadsWeight u a.desc code))

/-- Start the first armed slice of a running keystone whose deck's earlier fills have landed (08 R201). -/
def startSlice (s : State) (g : Girder) (n : Nat) : State :=
  match g.keys[n]? with
  | none => s
  | some k =>
    if k.st != 2 then s else
    match k.armed.find? (fun a => !a.started && !fillOutstanding s a.deck a.before) with
    | none => s
    | some a =>
      let u := (s.pier ((s.deck? a.deck).elim 0 (·.pier))).unit
      let results := sliceResults s u a k.signers
      let done := { a with started := true, poisoned := slicePoisoned u a, dirty := sliceDirty s a results, results := results }
      setKey s g.uid n { k with armed := replaceWhere (fun x => x.deck == a.deck) done k.armed }

/-- Land the results of one register of one span; a write to a lane that has exited is discarded. A sum that reads poison, in the unit or in the
accumulator itself, is poisoned (21 R382; log 91). -/
def landPair (s : State) (a : Arm) (u p : Nat) : State :=
  let rs := a.results.filter (fun r => r.1 == u && r.2.2.1 == p)
  let lanes := laneSetOf (fun l => rs.any (fun r => r.2.1 == l)) &&& (s.span? u).elim 0#64 (·.live)
  let val (l : Nat) : DWord := (rs.find? (fun r => r.2.1 == l)).elim 0#64 (fun r => r.2.2.2)
  let s := landReg (landReg s u p (fun l => loWord (val l)) lanes false) u (p + 1) (fun l => hiWord (val l)) lanes false
  let bad := if a.poisoned then lanes else lanes &&& laneSetOf (fun l => a.dirty.contains (u, l, p))
  if bad == 0#64 then s else s.modSpan u (fun x => { x with poison := x.poison ++ [(p, bad), (p + 1, bad)] })

/-- Multiply-accumulates of a slice are counted in units of 4,096, the rest kept for the next (21 R390). -/
def countMacs (s : State) (pier macs : Nat) : State :=
  let total := (s.pier pier).macs + macs
  countPier (s.modPier pier (fun p => { p with macs := total % 4096 })) pier 0x0B (total / 4096)

/-- The first started slice lands; with the last one the keystone returns to idle. Until then the keystone keeps its signatures
(08 R198, R201). -/
def landSlice (s : State) (g : Girder) (ctx n : Nat) : State :=
  match g.keys[n]? with
  | none => s
  | some k =>
    match k.armed.find? (fun a => a.started && !a.landed) with
    | none => s
    | some a =>
      let pairs := (a.results.map (fun r => (r.1, r.2.2.1))).dedup
      let pier := (s.deck? a.deck).elim 0 (·.pier)
      let s := countMacs s pier (a.results.length * 64 * (((s.pier pier).unit.arr).elim 0 (fun c => (arrShape c).1)))
      let s := pairs.foldl (fun s q => landPair s a q.1 q.2) s
      let armed := replaceWhere (fun x => x.deck == a.deck) { a with landed := true, results := [], dirty := [] } k.armed
      if armed.all (fun x => x.landed) then
        let s := setKey s g.uid n ⟨0, 0, 0, (k.gen + 1) % 2 ^ 31, [], [], []⟩
        settleAll (k.numbers.foldl (fun s t => completeNumber s ctx t.1 t.2) s)
      else setKey s g.uid n { k with armed := armed }

/-! ## Fills beside running operations (08 R197, 09 R237) -/

/-- Slices of running keystones on a deck's unit that have not read yet. -/
def unreadArms (s : State) (deck : Nat) : List Arm :=
  ((s.deck? deck).bind (fun d => s.girder? d.girder)).elim [] (fun g =>
    g.keys.flatMap (fun k => if k.st == 2 then k.armed.filter (fun a => a.deck == deck && !a.started) else []))

/-- A weight fill into a bank that a running operation still has to read waits; the fills that the operation itself waits for do not
(08 R197, R201). -/
def bankHeld (s : State) (deck id bank : Nat) : Bool := (unreadArms s deck).any (fun a => opBank a.desc == bank && decide (a.before ≤ id))
/-- A row that some member's running operation still has to read waits, for every target (09 R237). -/
def rowHeld (s : State) (f : FillOp) (id : Nat) : Bool :=
  let row := rowFirst f.word + f.next
  let girder := (s.deck? f.deck).elim 0 (·.girder)
  (s.decksOf girder).any (fun d => (d.uid == f.deck || (rowMemb f.word).getLsbD d.member) &&
    (unreadArms s d.uid).any (fun a => decide (opRowB a.desc ≤ row) && decide (row < opRowB a.desc + opMV a.desc) &&
      (d.uid != f.deck || decide (a.before ≤ id))))

/-- Whether a fill, or a copy to the weight store, has to wait for running operations to have read. -/
def fillHeld (s : State) (w : Work) : Bool :=
  match w.kind with
  | .load8 f => bankHeld s f.deck w.id (wordBank f.word)
  | .rows f => rowHeld s f w.id
  | .copy c => c.op == 1 && descWs c.desc && bankHeld s c.deck w.id (wordBank (BitVec.ofNat 32 (descAux c.desc)))
  | _ => false

/-! ## Validity, waiting, saving (08 R203-R205) -/

def Ctx.unitReport (c : Ctx) (bank : Nat) : DWord :=
  let p := c.s.pier c.deck.pier
  let mine := p.owner == some c.deck.uid
  let lo := if p.owner.isSome && !mine then 0 else p.unit.validMask bank
  let fills := p.owner.elim false (fun d => fillOutstanding c.s d c.s.fresh)
  let hi := p.unit.arr.getD 7 + 8 * p.unit.planes + (if mine then 128 else 0) + (if fills then 256 else 0)
  BitVec.ofNat 32 hi ++ BitVec.ofNat 32 lo
def execMxvalid (a : Reg) (k : BitVec 3) (s : State) : Out' :=
  instr (.mxvalid a k) false s (fun c => (c.write c.s (pairDst a (fun _ => c.unitReport k.toNat))).map .done)

def execMxwait (m : BitVec 3) (s : State) : Out' :=
  instr (.mxwait m) false s (fun c => c.owned (fun c =>
    let w := Wait.mxwait m.toNat c.s.fresh
    .ok (if waitOver c.s c.sp c.cx w then .done c.s else .moved (hold c.s c.iss c.G (fun _ => w)))))

/-- Whether bytes of a unit's weight store or row buffer are poisoned. -/
def Matrix.poisoned (m : Matrix) : Bool := m.poisonW != [] || m.poisonR != []

/-- Nonzero bytes of a 4 KiB page, by offset. -/
def pageCells (s : State) : Loc → List Host.Cell
  | .dev pa => if declaredOff s pa then [] else
    ((s.mem.cells.filter (fun x => decide (pa ≤ x.1) && decide (x.1 < pa + 4096))).map (fun x => (x.1 - pa, x.2)))
  | .host ha => ((s.hostMem.cells.filter (fun x => decide (ha ≤ x.1) && decide (x.1 < ha + 4096))).map (fun x => (x.1 - ha, x.2)))
  | _ => []

/-- The image's cells of page i (08 R205). -/
def imagePage (u : Matrix) (i : Nat) : List Host.Cell :=
  let from_ (m : Memory) (lo : Nat) : List Host.Cell :=
    (m.cells.filter (fun x => decide (lo ≤ x.1) && decide (x.1 < lo + 4096))).map (fun x => (x.1 - lo, x.2))
  if i = 0 then
    let bytes := natBytes 2 (u.validMask 0) ++ natBytes 2 (u.validMask 1) ++ natBytes 1 (u.arr.getD 7) ++ natBytes 1 u.planes ++
      List.replicate 10 0#8 ++ (List.range 48).map (fun k => BitVec.ofNat 8 (u.pa.getD (2 * k) 0 + 16 * u.pa.getD (2 * k + 1) 0))
    (bytes.zipIdx.map (fun x => (x.2, x.1))).filter (fun x => x.2 != 0#8)
  else if i ≤ 32 then from_ u.weights (4096 * (i - 1)) else from_ u.rows (4096 * (i - 33))

/-- A unit from an image, none where its header is not well formed (08 R205). R205 refuses neither a set code with plane count 0, whose packing
factor the division leaves without a value and which gives no columns here (`packing`), nor code 7 with a nonzero count. DESIGN CHOICE
(log 104). -/
def unitOfImage (pages : Nat → List Host.Cell) : Option Matrix :=
  let h (o : Nat) : Nat := (readCells (pages 0) o).toNat
  let code := h 4
  let planes := h 5
  let pa := (List.range 96).map (fun i => if i % 2 = 0 then h (16 + i / 2) % 16 else h (16 + i / 2) / 16)
  let valid (k m : Nat) : DWord := if (h (2 * k) + 256 * h (2 * k + 1)).testBit m then BitVec.allOnes 64 else 0#64
  let shift (lo i : Nat) : List Host.Cell := (pages i).map (fun x => (x.1 + lo, x.2))
  if code == 6 || decide (7 < code) || planes == 1 || decide (8 < planes) || pa.any (fun p => p == 1 || decide (8 < p)) ||
     (pages 0).any (fun x => (decide (6 ≤ x.1) && decide (x.1 < 16)) || decide (64 ≤ x.1)) then none
  else some
    { weights := ⟨(List.range 32).flatMap (fun i => shift (4096 * i) (i + 1))⟩,
      valid := (List.range 32).map (fun i => valid (i / 16) (i % 16)), arr := if code = 7 then none else some code, planes := planes,
      rows := ⟨(List.range 24).flatMap (fun i => shift (4096 * i) (i + 33))⟩, pa := pa, poisonW := [], poisonR := [] }

/-- Save or restore the unit (08 R205). Saving reads the whole unit: a poisoned byte of it raises POISON after the image's own checks (21 R382);
the record names the lane that makes the accesses and, as for a register, no address. DESIGN CHOICE (log 92). -/
def execMxsave (a : Reg) (release restore : Bool) (s : State) : Out' :=
  instr (.mxsave a release restore) false s (fun c => c.owned (fun c => do
    if unitBusy c.s c.deck.uid then return .moved (holdAgain c.s c.iss (.matrix 1 0))
    let va := (c.pair a c.low).toNat
    let reqs := (List.range 57).map (fun i => Req.mk c.low (BitVec.ofNat 64 (va + 4096 * i)) 4096 .global (!restore))
    let hits ← checkAll c c.s (if restore then 1 else 2) 1 restore reqs
    if !restore && c.unit.poisoned then .error (.trap c.s (TrapInfo.at 0x000C 0#64 (oneLane c.low)))
    let s := drain c.s c.u (oneLane c.low)
    if restore then
      match unitOfImage (fun i => (hits[i]?).elim [] (fun h => pageCells s h.loc)) with
      | none => c.illegal c.A
      | some m => return .done (s.modPier c.deck.pier (fun p => { p with mtx := some m }))
    else
      let u := c.unit
      let s := hits.zipIdx.foldl (fun s h => (imagePage u h.2).foldl (fun s x => writeLoc s (h.1.loc.plus x.1) x.2) (notePage (zeroPage s h.1.loc) c.cx.num h.1.loc)) s
      return .done (if release then s.modPier c.deck.pier (fun p => { p with owner := none }) else s)))

end Sys2Proof.Machine
end

