-- ==== Sys2Proof/Machine/System.lean ====
section
/-! DEFINITION. The SYS class: spawn, performance level, traps, system registers, clock, entry waits, migration hint, read-side sections,
grace periods and deferred free (08 R206-R217, 14 R286, 17 R345-R350). -/

namespace Sys2Proof.Machine

/-! ## System registers (08 R206) -/

/-- A keystone register (08 R198). -/
def Key.word (k : Key) : DWord :=
  BitVec.ofNat 64 (k.st * 2 ^ 62 + k.arms * 2 ^ 59 + k.armed.length * 2 ^ 55 + k.decl * 2 ^ 43 + k.signers.length * 2 ^ 31 + k.gen)
/-- The span's performance-level request (08 R208). -/
def Span.request (sp : Span) : Nat := (sp.lanes.map (fun l => l.plvl.elim 0 (·.toNat))).foldl max 0

/-- A system register's value for a lane; 32-bit values are zero-extended. -/
def Ctx.csr (c : Ctx) (num : Nat) (l : Nat) : DWord :=
  let n (v : Nat) : DWord := BitVec.ofNat 64 v
  let ln := c.sp.lane l
  if num = 0x000 then n l else if num = 0x001 then n c.sp.idx else if num = 0x002 then n c.deck.slot
  else if num = 0x003 then n c.deck.member else if num = 0x004 then n c.deck.pier
  else if num = 0x005 then n (segOf c.deck.pier + if gradeOf c.deck.pier = .v then 256 else 0)
  else if num = 0x006 then n c.cx.num else if num = 0x008 then ln.sp.zeroExtend 64 else if num = 0x009 then ln.splim.zeroExtend 64
  else if num = 0x00A then ln.rsn.zeroExtend 64 else if num = 0x010 then n (c.sp.trap.elim 0 (·.cause))
  else if num = 0x011 then c.sp.trap.elim 0#64 (·.faddr) else if num = 0x018 then n (c.sp.grant % 65536 + c.sp.spare * 65536)
  else if num = 0x019 then n c.sp.ceil
  else if num = 0x020 then n ((c.s.seg (segOf c.deck.pier)).level + c.sp.request * 256)
  else (c.key (num - 0x030)).word
/-- Read a system register (08 R206). %grant is read before the instruction's own destination acquires slots: R206 does not say. DESIGN CHOICE
(log 106). -/
def execCsrr (d : Reg) (num : BitVec 10) (s : State) : Out' :=
  instr (.csrr d num) false s (fun c =>
    (c.write c.s (if csrWide num then pairDst d (c.csr num.toNat) else [(d.toNat, fun l => loWord (c.csr num.toNat l))])).map .done)
/-- %sp in any mode, %splim in trap mode only. -/
def execCsrw (a : Reg) (num : BitVec 10) (s : State) : Out' :=
  instr (.csrw a num) false s (fun c =>
    if num == 0x009#10 && c.sp.trap.isNone then c.illegal c.A
    else .ok (.done (c.s.modSpan c.u (fun x => x.modLanes c.A (fun l y =>
      if num == 0x008#10 then { y with sp := c.src a l } else { y with splim := c.src a l })))))

/-! ## Spawn and performance level -/

/-- Offer an item: to the segment's queue, then to the context's overflow ring (14 R286). -/
def offerItem (s : State) (seg ctx : Nat) (it : Item) : Option State :=
  if (s.seg seg).spawnQ.length < 4096 then
    some (countSeg (s.modSeg seg (fun g => { g with spawnQ := g.spawnQ ++ [it] })) seg 0x26 1)
  else do
    let cx ← s.ctx? ctx
    let l ← s.launch? it.launch
    if cx.d.ovfCount ≤ cx.ovfTail - cx.ovfHead then none
    else
      let va := cx.d.ovfBase + 32 * (cx.ovfTail % cx.d.ovfCount)
      let s ← ctxWrite s cx va (natBytes 8 it.entry ++ it.payload.flatMap (fun w => natBytes 4 w.toNat) ++ natBytes 2 l.queue ++
        natBytes 4 l.rdidx ++ natBytes 2 0)
      return (countSeg s seg 0x26 1).modCtx ctx (fun c => { c with ovfTail := c.ovfTail + 1, ovfIssue := c.ovfIssue ++ [⟨it.issue, it.lane, it.deck, it.launch, seg⟩] })

/-- The host page that the next n entries of a context's overflow ring still have to ask for, where a segment's queue lacks room for n items
(20 R371). -/
def ringAsks (s : State) (seg : Nat) (cx : Context) (n : Nat) : Option Nat :=
  if (s.seg seg).spawnQ.length + n ≤ 4096 || cx.d.ovfCount = 0 then none else
  (List.range n).findSome? (fun i => match translate s cx false .write (cx.d.ovfBase + 32 * ((cx.ovfTail + i) % cx.d.ovfCount)) with
    | .ask p => some p
    | _ => none)

/-- The item a lane offers (08 R207). -/
def Ctx.item (c : Ctx) (e p : Reg) (issue l : Nat) : Item :=
  ⟨c.cx.num, c.launch.uid, (c.pair e l).toNat, (four p).map (fun r => c.regVal r l), issue, l, c.deck.uid⟩

/-- Offer the items of lanes in order until one fails: the state and the lanes not accepted. -/
def Ctx.offerAll (c : Ctx) (e p : Reg) (issue : Nat) : List Nat → State → State × List Nat
  | [], s => (s, [])
  | l :: t, s =>
    match offerItem s (segOf c.deck.pier) c.cx.num (c.item e p issue l) with
    | some s => c.offerAll e p issue t s
    | none => (s, l :: t)

/-- The entry checks (08 R207), and the wait for a translation of the overflow ring's pages. -/
def Ctx.entries (c : Ctx) (e : Reg) : Run Unit := do
  c.check 0x0008 c.A (fun l => (c.pair e l).extractLsb' 0 2 != 0#2) (c.pair e)
  c.check 0x0005 c.A (fun l => (c.pair e l).extractLsb' 57 7 != 0#7) (c.pair e)
  match ringAsks c.s (segOf c.deck.pier) c.cx c.lanes.length with
  | some p => .error (.retry c.before (some p))
  | none => .ok ()

def execSpawn (e p : Reg) (s : State) : Out' :=
  instr (.spawn e p) false s (fun c => do
    c.entries e
    let id := c.s.fresh
    let t := { drain c.s c.u c.A with fresh := id + 1 }
    let r := c.offerAll e p id c.lanes t
    if r.2 == [] then return .done r.1
    else return .moved (hold r.1 c.iss c.G (fun l =>
      .spawn (c.pair e l).toNat ((four p).map (fun r => c.regVal r l)) id (!r.2.contains l))))
def execSpawnTry (e p : Reg) (k : BitVec 4) (s : State) : Out' :=
  instr (.spawnTry e p k) false s (fun c => do
    c.entries e
    let id := c.s.fresh
    let t := { drain c.s c.u c.A with fresh := id + 1 }
    let r := c.offerAll e p id c.lanes t
    return .done (c.setBits r.1 k.toNat (fun l => r.2.contains l)))

/-- Each lane records a request; the segment's level follows by itself (08 R208). -/
def execPlvl (a : Reg) (s : State) : Out' :=
  instr (.plvl a) false s (fun c =>
    .ok (.done (c.s.modSpan c.u (fun x => x.modLanes c.A (fun l y => { y with plvl := some (BitVec.ofNat 3 (min (c.src a l).toNat 7)) })))))

/-! ## Traps -/

/-- A trap that is complete when it is taken: the lanes stand at the next word (08 R209). -/
def Ctx.raiseDone (c : Ctx) (cause : Nat) (code : BitVec 16) : Run Eff :=
  .error (.trap c.s { TrapInfo.at cause (code.zeroExtend 64) c.A with complete := true, past := true })
def execTrap (code : BitVec 16) (s : State) : Out' := instr (.trap code) false s (fun c => c.raiseDone 0x000F code)
def execBrk (code : BitVec 16) (s : State) : Out' := instr (.brk code) false s (fun c => c.raiseDone 0x000E code)
/-- Return from a trap, for the span whatever the executing set (08 R210). What the handler has issued is complete before the frame is
read; a cause that raises comes first. -/
def execTret (s : State) : Out' :=
  instr .tret true s (fun c =>
    match c.sp.trap with
    | none => c.illegal c.G
    | some m =>
      let t := completeOlder c.s c.u
      if t.pendingOf c.u then .error (.retry (completeOlder c.before c.u) none)
      else match frameReadAsks t c.cx m.frame with
        | some p => .error (.retry (completeOlder c.before c.u) (some p))
        | none => .ok (.moved (returnFromTrap t c.u)))

/-! ## Clock, entry waits, migration hint -/

def execClock (d : Reg) (s : State) : Out' :=
  instr (.clock d) false s (fun c => (c.write c.s (pairDst d (fun _ => BitVec.ofNat 64 c.s.time))).map .done)

/-- The group waits while the word of the lowest lane holds the expected value (08 R212). -/
def execEntw (a b : Reg) (s : State) : Out' :=
  instr (.entw a b) false s (fun c => do
    let va := c.pair a c.low
    let hits ← checkAll c c.s 1 3 true [Req.mk c.low va 8 .global false]
    let s := drain c.s c.u (oneLane c.low)
    let expected := c.pair b c.low
    if hits.all (fun h => valueAt s h.loc 8 == expected) then
      return .moved (hold s c.iss c.G (fun _ => .entw va.toNat expected))
    else return .done s)

/-- The deck migrates where a capable pier set of the named grade exists now; it resumes at the next word (08 R213). -/
def execMigr (g : BitVec 2) (s : State) : Out' :=
  instr (.migr g) false s (fun c =>
    let target : Grade := if g == 1#2 then .m else .v
    if g == 0#2 || gradeOf c.deck.pier == target || (capableSet c.s c.cx c.launch c.girder target false).isNone then .ok (.done c.s)
    else .ok (.moved (startMigration (goOn c.s c.iss c.G) c.girder target)))

/-! ## Read-side sections and grace periods -/

def Ctx.rsn (c : Ctx) (l : Nat) : Nat := (c.sp.lane l).rsn.toNat

/-- %rsn is 0 in every lane, and no load that a lane made before its last rdexit is still to return (08 R214, 17 R345). -/
def isQuiescent (s : State) (sp : Span) : Bool :=
  sp.lanes.all (fun l => l.rsn == 0#4) && s.works.all (fun w => w.span != sp.uid || !(match w.kind with
    | .load _ | .atomic _ _ _ | .reply _ _ | .scale _ _ _ => (lanesOf w.lanes).any (fun l => decide (w.id < (sp.lane l).exitAt))
    | _ => false))
/-- The engine observes that a span is quiescent; periods that waited for it no longer do (17 R346, R347). -/
def observeQuiet (s : State) (u : Nat) : State :=
  match s.span? u with
  | none => s
  | some sp =>
    if sp.quiet || !isQuiescent s sp then s else
    { s.modSpan u (fun x => { x with quiet := true }) with
      ctxs := s.ctxs.map (fun c => { c with gp := { c.gp with holders := c.gp.holders.filter (fun h => h != u) } }) }

/-- The engine observes an rdenter at once, and before it a change that it has not observed yet: every change of a span's quiescence is
reported (08 R214, 17 R345, R346). -/
def execRdenter (s : State) : Out' :=
  instr .rdenter false s (fun c => do
    c.check 0x0001 c.A (fun l => c.rsn l == 15) (fun _ => 0#64)
    let t := if c.sp.quiet || c.sp.lanes.any (fun l => l.rsn != 0#4) then c.s else observeQuiet (drain c.s c.u (BitVec.allOnes 64)) c.u
    return .done (t.modSpan c.u (fun x => Span.modLanes { x with quiet := false } c.A (fun _ y => { y with rsn := y.rsn + 1#4 }))))
/-- The engine observes an rdexit later, by GP_QUIESCENCE_CHANGE (08 R214, 17 R346). -/
def execRdexit (s : State) : Out' :=
  instr .rdexit false s (fun c => do
    c.check 0x0016 c.A (fun l => c.rsn l == 0) (fun _ => 0#64)
    return .done (c.s.modSpan c.u (fun x => x.modLanes c.A (fun _ y =>
      { y with rsn := y.rsn - 1#4, exitAt := c.s.fresh }))))

/-- The context a span belongs to. -/
def spanCtx (s : State) (sp : Span) : Option Nat :=
  ((s.deck? sp.deck).bind (fun d => s.girder? d.girder)).bind (fun g => (s.launch? g.launch).map (·.ctx))
/-- The spans of a context that the engine sees inside a section (17 R345, R347). -/
def readers (s : State) (ctx : Nat) : List Nat := (s.spans.filter (fun x => !x.quiet && spanCtx s x == some ctx)).map (·.uid)

/-- The period a request names (08 R215). -/
def Grace.requested (g : Grace) : Nat := g.started + 1
/-- A request to a context's engine (08 R215, 17 R347). -/
def gpRequest (s : State) (ctx : Nat) : State :=
  let h := readers s ctx
  s.modCtx ctx (fun c =>
    if c.gp.started == c.gp.completed then
      { c with gp := { c.gp with started := c.gp.started + 1, holders := h, since := s.time, stalled := false } }
    else { c with gp := { c.gp with pend := true } })

def execGpstart (d : Reg) (s : State) : Out' :=
  instr (.gpstart d) false s (fun c => do
    let t ← c.write (drain c.s c.u c.A) (pairDst d (fun _ => BitVec.ofNat 64 c.cx.gp.requested))
    return .done (gpRequest t c.cx.num))

def execWaitgp (a : Reg) (s : State) : Out' :=
  instr (.waitgp a) false s (fun c => do
    let g := (c.pair a c.low).toNat
    c.check 0x0001 c.A (fun l => c.rsn l != 0) (fun _ => 0#64)
    if c.cx.gp.started + (if c.cx.gp.pend then 1 else 0) < g then c.illegal c.A
    else return (if g ≤ c.cx.gp.completed then .done c.s else .moved (hold c.s c.iss c.G (fun _ => .gp g))))

/-- Append the lanes' entries in order; the lanes that found the queue full, and all after them, are answered (08 R217, 17 R350). -/
def Ctx.defer (c : Ctx) (a b : Reg) (g : Nat) : List Nat → List (DWord × Word × Nat) → List (DWord × Word × Nat) × List Nat
  | [], q => (q, [])
  | l :: t, q =>
    if c.src b l == 0#32 then c.defer a b g t q
    else if q.length < 1024 then c.defer a b g t (q ++ [(c.pair a l, c.src b l, g)])
    else (q, l :: t)
def execDfree (k : BitVec 4) (a b : Reg) (s : State) : Out' :=
  instr (.dfree k a b) false s (fun c => do
    let bad (l : Nat) : Bool := let v := (c.pair a l).toNat; decide (2 ^ 57 ≤ v) || deckWindow v || privWindow v
    c.check 0x0005 c.A bad (c.pair a)
    let t := gpRequest (drain c.s c.u c.A) c.cx.num
    let r := c.defer a b c.cx.gp.requested c.lanes c.cx.deferred
    let t := t.modCtx c.cx.num (fun x => { x with deferred := r.1 })
    return .done (c.setBits t k.toNat (fun l => r.2.contains l)))

end Sys2Proof.Machine
end

