-- ==== Sys2Proof/Machine/Landings.lean ====
section
/-! DEFINITION. The device's steps that land outstanding work: loads, stores, atomics, copies, fills, barriers, rings, grows and slices
(the table's rows LOAD_RETURN to ENTW_WAKE, and STORE_PERFORMED). A step that names nothing it can act on changes nothing. -/

namespace Sys2Proof.Machine

/-- Act on outstanding work that p admits. -/
def withWork (s : State) (id : Nat) (p : Work → Bool) (f : Work → State) : Out' :=
  .next (match s.work? id with
    | some w => if p w then f w else s
    | none => s)

def Work.isLoad (w : Work) : Bool := match w.kind with | .load _ | .scale _ _ _ => true | _ => false
def Work.isStore (w : Work) : Bool := match w.kind with | .store => true | _ => false
def Work.isAtomic (w : Work) : Bool := match w.kind with | .atomic _ _ _ => true | _ => false
def Work.isRed (w : Work) : Bool := match w.kind with | .red _ | .redx _ => true | _ => false

/-- A load's data returns, or the scale vector's elements of a `cvts` (07 R147, 06 R128). -/
def execLoadReturn (id : Nat) (s : State) : Out' := withWork s id (fun w => w.isLoad && workReady s w) (performReady s)
/-- An atomic is performed (07 R152). -/
def execAtomicPerform (id : Nat) (s : State) : Out' := withWork s id (fun w => w.isAtomic && workReady s w) (performReady s)
/-- An atomic's old value lands (07 R153). -/
def execAtomicReply (id : Nat) (s : State) : Out' := withWork s id Work.isReply (performWork s)
/-- A reduction's contribution is applied (07 R155). -/
def execReductionPerform (id : Nat) (s : State) : Out' := withWork s id (fun w => w.isRed && workReady s w) (performReady s)

/-- A store with the accesses that p admits only. -/
def Work.part (w : Work) (p : Acc → Bool) : Work := { w with accs := w.accs.filter p }
/-- Perform the accesses of a store that p admits; the others stay outstanding (10 R246, R255). -/
def performSome (s : State) (w : Work) (p : Acc → Bool) : State :=
  let now := w.accs.filter p
  let s := performNeeds s (olderNeeds s (w.part p))
  let t := noteLines (now.foldl (fun s a => writeLocs s a.loc a.data) (notePatches s now)) w.span now
  let rest := w.accs.filter (fun a => !p a)
  if rest == [] then t.dropWork w.id else t.modWork w.id (fun x => { x with accs := rest })
/-- A store is performed; its write-combining lanes stay buffered (10 R246, R255). -/
def execStorePerformed (id : Nat) (s : State) : Out' :=
  withWork s id (fun w => w.isStore && workReady s (w.part (fun a => a.mtype != 1))) (fun w => performSome s w (fun a => a.mtype != 1))
/-- A buffered line of a pier is written (10 R246). -/
def execWcFlush (pier line : Nat) (s : State) : Out' :=
  let at_ (a : Acc) : Bool := a.mtype == 1 && lineOf a.loc == some line
  .next (s.works.foldl (fun t w =>
    if w.isStore && w.accs.any at_ && workReady t (w.part at_) && (s.deck? (workDeck s w)).elim false (fun d => d.pier == pier)
    then performSome t w at_ else t) s)
/-- A line leaves L2: its owner's releases are promoted, and the directory forgets its owner and its writer (10 R256). -/
def execL2EvictionPromote (line : Nat) (s : State) : Out' :=
  .next { s with owners := putKey line none s.owners, writers := putKey line none s.writers }

/-- A lane's cpl: its source is read after the lane's earlier accesses, its bytes are written after the lane's older writes of them
(07 R144, R176, 10 R257). -/
def execCplLaneComplete (id : Nat) (s : State) : Out' :=
  withWork s id (fun w => w.isCpl && workReady s w) (fun w =>
    let t := performReady s w
    settleSpan (passHeaders t w.span (BitVec.allOnes 64)) w.span)

/-! ## Engine copies and fills -/

/-- Ranks of a copy's collective and the issuer's own (07 R188, 20 R372). A peer group that has no installed list counts one rank, and a list
without this device gives it rank 0: neither rule says. DESIGN CHOICE (log 85). -/
def ranksOf (s : State) (c : CopyOp) (size member : Nat) : Nat × Nat :=
  let grp := bitsOf (descAux c.desc) 4 4
  if grp = 0 then (size, member)
  else match (s.ctx? c.ctx).bind (fun x => x.peers.find? (fun p => p.group == grp)) with
    | some p => (p.ranks.length, (p.ranks.findIdx? (fun r => r.1 == Config.busNumber)).getD 0)
    | none => (1, 0)

/-- Try the next piece of a copy: the state after it, or what keeps it from landing. Elements land one by one, in ascending order, and each reads
its source as it lands; R181 leaves open what an overlapping copy writes. DESIGN CHOICE (log 93). -/
def tryPiece (s : State) (w : Work) (c : CopyOp) : Except Stuck State := do
  match agentOf s c.ctx c.launch c.deck c.wins, (s.deck? c.deck).bind (fun d => (s.girder? d.girder).map (fun g => (d, g))) with
  | some g, some (d, gd) =>
    let r := ranksOf s c gd.size d.member
    let memo ← readKeys s g c (c.keys c.next)
    let c := { c with memo := memo }
    let l ← pieceOf s c g gd.uid r.2 r.1 c.next
    let t ← applyLanding s c g (s.pier d.pier).unit.planes l
    return creditPiece (t.modWork w.id (fun x => { x with kind := .copy { c with next := c.next + 1 } })) c (l.credit c)
  | _, _ => .ok s

/-- A fill's next row. -/
def tryRow (s : State) (w : Work) : Except Stuck State :=
  match w.kind with
  | .load8 f => (landLoadRow s f).map (fun t =>
      if f.next + 1 < f.total then t.modWork w.id (fun x => { x with kind := .load8 { f with next := f.next + 1 } })
      else settleAll (t.dropWork w.id))
  | .rows f => (landBroadcastRow s f).map (fun t =>
      if f.next + 1 < f.total then t.modWork w.id (fun x => { x with kind := .rows { f with next := f.next + 1 } })
      else settleAll (t.dropWork w.id))
  | _ => .ok s

/-- Whether a row fill has a row to send: it would land now (09 R237). -/
def rowReady (s : State) (w : Work) : Bool :=
  match w.kind with
  | .rows f => !f.suspended && !fillHeld s w && (match tryRow s w with
    | .ok _ => true
    | _ => false)
  | _ => false
/-- The oldest fill of a pier's decks that has a row to send. -/
def oldestRow (s : State) (pier : Nat) : Option Nat :=
  (s.works.find? (fun w => (s.deck? (workDeck s w)).elim false (fun d => d.pier == pier) && rowReady s w)).map (·.id)
/-- The pier that a truss's broadcast bus serves next, round-robin among those with rows to send (09 R237). -/
def busTurn (s : State) (truss : Nat) : Option Nat :=
  let ready := (piersOfTruss truss).filter (fun p => (oldestRow s p).isSome)
  (ready.find? (fun p => decide (s.bus.getD truss 0 ≤ p % 8))).or ready.head?

/-- What an attempt leaves: a page that the host has to be asked for, or nothing yet. -/
def attempt (s : State) : Except Stuck State → Out'
  | .ok t => .next t
  | .error (.ask p) => .next (askPage s p)
  | .error .noMem => .fault .noSuchMemory
  | .error (.fault _ _ _ _) => .next s

/-- Whether a copy may land a piece. -/
def CopyOp.open_ (c : CopyOp) : Bool := !c.suspended && !c.dead && !c.cut && c.joined && !c.bad && decide (c.next < c.total)

/-- A piece of an engine copy lands and credits its barrier (07 R181). -/
def execCopyPieceLanding (id : Nat) (s : State) : Out' :=
  match s.work? id with
  | some w => match w.kind with
    | .copy c => if c.open_ && !fillHeld s w then attempt s (tryPiece s w c) else .next s
    | _ => .next s
  | none => .next s

/-- Whether a span has a live lane to receive a token (09 R394). -/
def receives (s : State) (w : Work) : Bool := (s.span? w.span).elim false (fun x => x.live != 0#64)
/-- Whether the deck of a copy moves between piers with live lanes to receive its token: token and completion are held (15 R319). -/
def tokenHeld (s : State) (w : Work) (c : CopyOp) : Bool :=
  receives s w && (s.deck? c.deck).elim false (fun d => match d.status with
    | .moving _ | .saving (some _) => true
    | _ => false)
/-- A copy's token is written (07 R181). -/
def landToken (s : State) (w : Work) (num : Nat) : State := (landRegs s w (fun _ _ => BitVec.ofNat 32 num)).dropWork w.id

/-- Write the token and complete the number (07 R181). The token of a saved deck is kept until the deck arrives, and discarded where no live
lane remains to receive it (14 R292, 09 R394; log 81). What an aborted span left of its copy ends without either (log 29). -/
def finishCopy (s : State) (w : Work) (c : CopyOp) : State :=
  if c.dead then s.dropWork w.id else
  completeNumber (if !imageShut s c.deck then landToken s w c.num
    else if receives s w then s.modWork w.id (fun x => { x with kind := .token c.num })
    else s.dropWork w.id) c.ctx c.tl c.num

/-- Every byte of a copy is visible. The members of a girder's collective complete together. -/
def execCopyCompletion (id : Nat) (s : State) : Out' :=
  withWork s id (fun w => match w.kind with
    | .copy c => c.dead || (!c.suspended && !c.cut && c.joined && !c.bad && decide (c.total ≤ c.next))
    | _ => false) (fun w => match w.kind with
    | .copy c =>
      match (if c.op = 5 ∧ bitsOf (descAux c.desc) 4 4 = 0 then (s.deck? c.deck).bind (fun d => s.girder? d.girder) else none) with
      | none => if tokenHeld s w c then s else finishCopy s w c
      | some g =>
        let mates := (List.range g.size).filterMap (fun m => collMate s g.uid m true)
        if mates.all (fun x => x.2.dead || (decide (x.2.total ≤ x.2.next) && !x.2.suspended && !x.2.cut && !tokenHeld s x.1 x.2)) then
          joinColl (mates.foldl (fun s x => finishCopy s x.1 x.2) s) g.uid g.size
        else s
    | _ => s)

/-- Mark a copy or fill suspended (07 R182). -/
def suspend (s : State) (id : Nat) : State :=
  s.modWork id (fun w => match w.kind with
    | .copy c => { w with kind := .copy { c with suspended := true, cut := false } }
    | .load8 f => { w with kind := .load8 { f with suspended := true } }
    | .rows f => { w with kind := .rows { f with suspended := true } }
    | _ => w)

/-- The fault that the next piece or row meets, if it meets one: cause, ADDR, MTYPE and page, with the instruction's PC and ACCESS. -/
def nextFault (s : State) (w : Work) : Option (Nat × Nat × Nat × Nat × Nat × Nat) :=
  match w.kind with
  | .copy c =>
    if c.suspended || c.dead then none
    else if c.cut then some (0x0006, c.elementAddr, 0, c.elementAddr / 4096 * 4096, c.pc, 5)
    else if !c.joined then none
    else if c.bad then some (0x0001, 0, 0, 0, c.pc, 5)
    else if c.total ≤ c.next then none
    else match tryPiece s w c with
      | .error (.fault k a m p) => some (k, a, m, p, c.pc, 5)
      | _ => none
  | .load8 f | .rows f =>
    if f.suspended then none else
    match tryRow s w with
    | .error (.fault k a m p) => some (k, a, m, p, f.pc, 6)
    | _ => none
  | _ => none

/-- A fault met after issue is raised on the issuing span at its next issue boundary (07 R182); one at a time. -/
def execEngineCopyFault (id : Nat) (s : State) : Out' :=
  .next (match s.work? id with
    | some w =>
      match s.span? w.span, nextFault s w with
      | some sp, some (k, a, m, page, pc, acc) =>
        if sp.pending.isSome then s else raisePending (suspend s id) w.span pc acc k a m page
      | _, _ => s
    | none => s)

/-- A K-row of a weight fill lands (08 R195). -/
def execFillRowLanding (id : Nat) (s : State) : Out' :=
  match s.work? id with
  | some w => match w.kind with
    | .load8 f => if f.suspended || fillHeld s w then .next s else attempt s (tryRow s w)
    | _ => .next s
  | none => .next s
/-- A row lands in every named member's row buffer, at its pier's turn (09 R237); a row whose source has first to be asked for is no row to
send yet, and asks (20 R371). -/
def execBroadcastRowLanding (id : Nat) (s : State) : Out' :=
  match s.work? id with
  | some w => match w.kind with
    | .rows f =>
      let pier := (s.deck? f.deck).elim 0 (·.pier)
      if f.suspended || fillHeld s w then .next s
      else match tryRow s w with
        | .ok _ =>
          if busTurn s (trussOf pier) == some pier && oldestRow s pier == some id then
            attempt { s with bus := s.bus.set (trussOf pier) (pier % 8 + 1) } (tryRow { s with bus := s.bus.set (trussOf pier) (pier % 8 + 1) } w)
          else .next s
        | r => attempt s r
    | _ => .next s
  | none => .next s

/-! ## Barriers, sets, rings, grows -/

/-- A phase completes when every member has arrived and the balance is zero (07 R167). `owner` is a deck for bn, a girder for gb. -/
def execBarrierPhaseComplete (owner bar : Nat) (s : State) : Out' :=
  .next (if bar < 16 then
    match s.deck? owner with
    | some d => barCheck s d.uid d.girder bar
    | none => s
  else if bar < 20 then
    match (s.decksOf owner).head? with
    | some d => barCheck s d.uid owner bar
    | none => s
  else s)

/-- The next wave of spans leaves (21 R381). -/
def execBarrierReleaseWave (truss : Nat) (s : State) : Out' :=
  .next (match s.waves.getD truss [] with
    | [] => s
    | w :: rest => w.spans.foldl (fun s x => s.modSpan x.1 (Span.leaveIf (fun _ v => match v with
        | .barWave n _ => n == x.2
        | _ => false))) { s with waves := s.waves.set truss rest })

/-- An open membership set lets its lanes go (05 R102). -/
def execWaitmOpen (span k : Nat) (s : State) : Out' := .next (if k < 12 then s.modSpan span settleSets else s)

/-- A claimed slot's turn comes (09 R235). -/
def execStageSlotTurn (deck ring : Nat) (s : State) : Out' := .next (ringTurn s deck ring)

/-- The request of a waiting grow: its entry and its slots (05 R99). -/
def growWait (sp : Span) (req : Nat) : Option (Issue × Nat) :=
  (growEntries sp).findSome? (fun e => match (sp.lane (lowestLane e.gset)).pos.st with
    | .waiting (.grow n k) => if k == req then some (e, n) else none
    | _ => none)

/-- The grow at the head of a pier's order is served, or traps on the ceiling (01 R27, 05 R99). -/
def execGrowServed (pier : Nat) (s : State) : Out' :=
  match (s.pier pier).growQ with
  | [] => .next s
  | (u, req) :: rest =>
    let drop := s.modPier pier (fun p => { p with growQ := rest })
    match s.span? u with
    | none => .next drop
    | some sp =>
      match growWait sp req with
      | some (e, n) =>
        if (s.pier pier).pool < n then .next s
        else if sp.ceil < sp.grant + n then takeTrap (drop.modSpan u (fun x => releaseGrows x [e])) e (growTrap n e.aset)
        else .next ((grantSlots drop u pier n).modSpan u (Span.leaveIf (fun _ v => v == .grow n req)))
      | none => .next drop

/-! ## The matrix unit -/

/-- A waiting deck takes a free unit, whose clear begins (08 R192): the first in the order in which the decks were placed, since the manual does
not say which. DESIGN CHOICE (log 93). -/
def execMatrixOwnershipChange (pier : Nat) (s : State) : Out' :=
  .next (match (s.pier pier).owner, (s.pier pier).mtx with
    | none, some _ =>
      match ((s.decks.filter (fun d => d.pier == pier && d.status == .running)).find? (fun d =>
        (s.spansOf d.uid).any (fun x => (x.lanes).any (Lane.waits (fun _ v => v == .matrix 0 0))))) with
      | some d => s.modPier pier (fun p => { p with owner := some d.uid, clearing := true, mtx := some .clear })
      | none => s
    | _, _ => s)
/-- The clear at a change of owner ends (08 R192). -/
def execMatrixClearDone (pier : Nat) (s : State) : Out' := .next (s.modPier pier (fun p => { p with clearing := false }))
/-- A deck's slice starts (08 R201). -/
def execSliceStart (girder key : Nat) (s : State) : Out' :=
  .next ((s.girder? girder).elim s (fun g => startSlice s g key))
/-- A deck's slice lands (08 R201). -/
def execSliceLanding (girder key : Nat) (s : State) : Out' :=
  .next ((s.girder? girder).elim s (fun g => (s.launch? g.launch).elim s (fun l => landSlice s g l.ctx key)))

/-- A lane that watches a word, and every lane of the same wait, leaves when the word differs (08 R212). -/
def execEntwWake (span lane : Nat) (s : State) : Out' :=
  match s.span? span with
  | none => .next s
  | some sp =>
    let waits (q : Pos) : Option (Nat × Nat × DWord) := match q.st with
      | .waiting (.entw va expected) => some (q.pc, va, expected)
      | _ => none
    match (waits (sp.lane lane).pos).orElse (fun _ => (sp.lane lane).held.bind waits), (spanCtx s sp).bind (fun n => s.ctx? n) with
    | some (at_, va, expected), some cx =>
      (match translate s cx true .read va with
       | .ok l _ =>
         if valueAt s l 8 == expected then .next s else
         .next (s.modSpan span (Span.leaveIf (fun pc v => pc == at_ && v == .entw va expected)))
       | .ask p => .next (askPage s p)
       | .noMem => .fault .noSuchMemory
       | _ => .next s)
    | _, _ => .next s

end Sys2Proof.Machine
end

