-- ==== Sys2Proof/Machine/Picker.lean ====
section
/-! DEFINITION. The issue slots: PC groups, readiness, the picker, clause headers and the yield hold (03 R58-R60, 05 R113,
09 R223-R230, 15 R326, R327). -/

namespace Sys2Proof.Machine

/-! ## PC groups and readiness -/

/-- A deck runs, and every member of its girder has been placed and cleared (09 R220, 01 R31). -/
def deckOpen (s : State) (deck : Nat) : Bool :=
  match s.deck? deck with
  | none => false
  | some d => d.status == .running && (s.decksOf d.girder).all (fun e => e.status != .clearing)

/-- The launch and context of a span. -/
def spanEnv (s : State) (sp : Span) : Option (Launch × Context) := do
  let d ← s.deck? sp.deck
  let g ← s.girder? d.girder
  let l ← s.launch? g.launch
  let cx ← s.ctx? l.ctx
  return (l, cx)

/-- What a debugger still lets issue: lane sets with a live lane (15 R326, R327). -/
def Span.allowance (sp : Span) : Option (List LaneSet) := sp.steps.map (fun ms => ms.filter (fun m => m &&& sp.live != 0#64))
/-- A debugger's step is over: the span stops at this boundary. -/
def Span.stepDone (sp : Span) : Bool := sp.reinj == [] && sp.allowance == some []
/-- Whether a span may act: nothing stops it, and no trap or stop waits for its boundary. -/
def spanActs (s : State) (sp : Span) : Bool :=
  sp.stop == .running && sp.pending.isNone && !sp.stepDone && deckOpen s sp.deck
/-- Lanes that move: in trap mode the handler's (15 R306). -/
def Span.movable (sp : Span) : LaneSet :=
  match sp.trap with
  | some t => sp.live &&& t.lanes
  | none => sp.live

/-- A PC group: lanes of one position (09 R223). -/
structure Group where
  lanes : LaneSet
  pos : Pos
  deriving DecidableEq, Repr, Inhabited

/-- Whether a wait that issues again may do so now. -/
def retryReady (s : State) (sp : Span) : Wait → Bool
  | .serBusy => sp.serial.isNone
  | .barAgain k gen => phaseDone (barOf s sp.deck ((s.deck? sp.deck).elim 0 (·.girder)) k).gen gen
  | .tagRoom t n => decide (sp.tag t + n ≤ 255)
  | .matrix 0 _ => (s.deck? sp.deck).elim false (fun d =>
    gradeOf d.pier == .v || ((s.pier d.pier).owner == some sp.deck && !(s.pier d.pier).clearing))
  | .matrix 1 _ => !unitBusy s sp.deck
  | .matrix _ k => ((s.deck? sp.deck).bind (fun d => s.girder? d.girder)).elim true (fun g => (g.keys[k]?).elim true (fun x => x.st != 2))
  | _ => false

/-- Where a lane stands for the grouping of 09 R223: one whose wait is over stands at its word like the others there (09 R224), unless it
replays an instruction with captured sources. -/
def standPos (s : State) (sp : Span) (l : Nat) : Pos :=
  let q := (sp.lane l).pos
  match q.st with
  | .waiting w =>
    if retryReady s sp w && !sp.kept.any (fun e => hasLane e.gset l) then { q with p := true, st := .standing } else { q with p := true }
  | _ => { q with p := true }

/-- The movable lanes by position, in ascending order of their lowest lanes. Lanes at one address inside clauses of another class or end, or
with one of them at it as a header, are groups of their own: R59 decodes a word in its clause and does not say how such lanes group.
DESIGN CHOICE (log 69). -/
def Span.groups (s : State) (sp : Span) : List Group :=
  let m := sp.movable
  (((lanesOf m).map (standPos s sp)).eraseDups).map (fun k => ⟨laneSetOf (fun l => hasLane m l && standPos s sp l == k), k⟩)

/-- The issue of a group inside a clause; a replayed instruction that waited keeps its captured sources (15 R308). -/
def groupIssue (sp : Span) (g : Group) : Option Issue :=
  g.pos.clause.map (fun c =>
    let plain := Issue.plain sp.uid (laneSetOf (fun l => hasLane g.lanes l && (sp.lane l).pos.p)) g.lanes g.pos.pc c.cls c.next
    if g.pos.st == .standing then plain else
    match sp.kept.find? (fun e => e.pc == g.pos.pc && e.gset &&& g.lanes != 0#64) with
    | some e => { e with gset := e.gset &&& g.lanes, aset := e.aset &&& g.lanes }
    | none => plain)

/-- The words of an issue: a replay entry carries its own (15 R307). -/
def issueWords (s : State) (cx : Context) (e : Issue) : IssueWords :=
  if e.cols.isSome then .words e.word e.lit else fetchIssue s cx e

/-- Whether the load of a span's `popv` is outstanding: its %sp may still be given back (05 R114). -/
def stackBusy (s : State) (u : Nat) : Bool := s.works.any (fun w => w.span == u && w.isPop)

/-- Whether an outstanding read may raise POISON at its data read as things stand: its bytes carry the mark, or a `cpl` of its lanes has still to
be written to them. -/
def Work.doubtful (s : State) (w : Work) : Bool := w.reads && (w.marked s || (olderNeeds s w).any (fun x => x.1.isCpl && x.2))

/-- Whether a `tret` waits for the registers that it restores, v124 to v127 (01 R33, R36, 08 R210). It waits for none while a copy or fill of
the span is suspended, which only a `tret` resumes (07 R182) and which the pending write may itself wait for. DEDUCED (log 95). -/
def restoreHeld (s : State) (u : Nat) (i : Instr) : Bool :=
  i == .tret && !s.works.any (fun w => w.span == u && w.suspended) && (regRange 124 4).any (regPending s u)

/-- Whether an instruction cannot issue yet: a register that it names is pending (01 R33), it uses %sp while a `popv` is outstanding,
which R114 leaves room for (DESIGN CHOICE, log 88), it is a `tret` whose registers are pending, or a read of its span may yet raise POISON:
what follows that read has no effect before (15 R300; DEDUCED, log 67). -/
def heldBack (s : State) (l : Launch) (u : Nat) (i : Instr) : Bool :=
  (namedRegs l.slots i).any (regPending s u) || (usesStack i && stackBusy s u) || restoreHeld s u i ||
    s.works.any (fun w => w.span == u && w.doubtful s)

/-- Whether a group that was put back waits for a host page (20 R371). -/
def Span.asking (s : State) (sp : Span) (e : Issue) : Bool :=
  sp.asks.any (fun x => x.1 == e.pc && x.2.1 &&& e.gset != 0#64 && s.atsAsked.contains x.2.2)

/-- An issue has to wait: its instruction is held back, or the host is being asked for the page of its word or of its access. -/
def blocked (s : State) (sp : Span) (l : Launch) (cx : Context) (e : Issue) : Bool :=
  sp.asking s e || match issueWords s cx e with
  | .words w lit => (decode e.cls w lit).elim false (heldBack s l e.span)
  | .none _ (.ask p) => s.atsAsked.contains p
  | .none _ _ => false

/-- Instructions of a span that are issued and unfinished: those that may still raise a cause, waiting grows, picked issues and what is to
be re-injected. A span holds eight at most (15 R300; log 67). -/
def unfinished (s : State) (sp : Span) : Nat :=
  (s.works.filter (fun w => w.span == sp.uid && w.iss.isSome)).length + (growEntries sp).length +
  (s.issuing.filter (fun i => i.span == sp.uid)).length + sp.reinj.length

/-- Class codes of 03 R57. -/
def Cls.num : Cls → Nat
  | .alu => 0 | .ctrl => 1 | .mem => 2 | .cpy => 3 | .mtx => 4 | .sys => 5

/-- Whether a role forbids a class (03 R60). -/
def roleForbids (role : BitVec 2) (c : Cls) : Bool :=
  (role == 1#2 && c == .mtx) || (role == 2#2 && c == .cpy) || (role == 3#2 && (c == .cpy || c == .mtx))

/-- The header at which a group stands or waits. -/
def Group.header (s : State) (l : Launch) (cx : Context) (g : Group) : Option Header :=
  match g.pos.st with
  | .waiting (.header w) => decodeHeader w
  | .standing => if g.pos.clause.isSome then none else match fetchWord s cx l.uid g.pos.pc g.lanes with
    | .word w => decodeHeader w
    | _ => none
  | _ => none

/-- The first issue of a group that stands at a header which it may pass now (03 R58): a debugger's step counts the group as ready
(15 R326, R327). -/
def enteringIssue (s : State) (sp : Span) (l : Launch) (cx : Context) (g : Group) : Option Issue :=
  (g.header s l cx).bind (fun h =>
    let e := Issue.plain sp.uid g.lanes g.lanes (g.pos.pc + 4) h.cls (g.pos.pc + 4 + 4 * h.count)
    if (sp.trap.isNone && roleForbids sp.role h.cls) || !tagsClear sp h.tagwait || blocked s sp l cx e then none else some e)

/-- The groups that a debugger's step takes for ready at headers. -/
def enteringSets (s : State) (sp : Span) : List LaneSet :=
  if !spanActs s sp then [] else
  match spanEnv s sp with
  | none => []
  | some (l, cx) => ((sp.groups s).filterMap (enteringIssue s sp l cx)).map (·.gset)

/-- Whether the lanes of a replay entry stand at it: an entry waits until those of its group that an earlier one holds have gone on (15 R308). Lanes
that were past it when it raised its cause stay where they are. -/
def Span.standsAt (sp : Span) (e : Issue) : Bool :=
  e.late || (lanesOf (e.gset &&& sp.live)).all (fun l => (sp.lane l).pos.pc == e.pc && (sp.lane l).pos.st == .standing)

/-- The ready PC groups of a span as issues, by lowest lane. While its replay queue is re-injected only the queue's head issues
(15 R308); under a debugger's step only the lanes of the step, the lowest ready group of them first, if it has first to pass its header
(15 R326, R327). -/
def readyIssues (s : State) (sp : Span) : List Issue :=
  if !spanActs s sp then [] else
  match spanEnv s sp with
  | none => []
  | some (l, cx) =>
    match sp.reinj with
    | e :: _ =>
      let e := { e with gset := e.gset &&& sp.live, aset := e.aset &&& sp.live }
      if blocked s sp l cx e || !sp.standsAt e then [] else [e]
    | [] =>
      if 8 ≤ unfinished s sp then [] else
      let go := (sp.groups s).filter (fun g => match g.pos.st with
        | .standing => true
        | .waiting w => retryReady s sp w
        | .exited => false)
      let es := (go.filterMap (groupIssue sp)).filter (fun e => !blocked s sp l cx e)
      match sp.allowance with
      | some (m :: _) =>
        match (es.map (fun e => { e with gset := e.gset &&& m, aset := e.aset &&& m })).filter (fun e => e.gset != 0#64) with
        | [] => []
        | e :: _ =>
          if (enteringSets s sp).any (fun g => g &&& m != 0#64 && decide (lowestLane (g &&& m) < lowestLane e.gset)) then [] else [e]
      | _ => es

/-! ## The picker (09 R228-R230) -/

/-- The spans of an issue slot in ascending resident-span slot. -/
def slotSpans (s : State) (pier q : Nat) : List Span :=
  ((spansAt s pier).filter (fun x => x.islot == q)).insertionSort (fun a b => a.rslot ≤ b.rslot)

/-- A yield holds the group back (05 R113). -/
def yielding (s : State) (sp : Span) (e : Issue) : Bool :=
  (lanesOf e.gset).any (fun l => ((sp.lane l).yieldTill).any (fun t => decide (s.steps < t)))

/-- The better of two promoted spans: promoted earliest, then the lowest slot. -/
def earlier (a b : Span × List Issue) : Span × List Issue :=
  let x := a.1.promoted.getD 0
  let y := b.1.promoted.getD 0
  if y < x || (x == y && decide (b.1.rslot < a.1.rslot)) then b else a

/-- The span of pick(q) among the candidates, in ascending slot order. -/
def pickSpan (last : Option (Nat × Nat)) (r : List (Span × List Issue)) : Option (Span × List Issue) :=
  match r.filter (fun x => x.1.promoted.isSome) with
  | p :: ps => some (ps.foldl earlier p)
  | [] =>
    match last with
    | none => r.head?
    | some (u, slot) =>
      ((r.find? (fun x => x.1.uid == u)).or (r.find? (fun x => decide (slot < x.1.rslot)))).or r.head?

/-- Starve of a group (09 R229). -/
def starveOf (sp : Span) (e : Issue) : Nat := ((lanesOf e.gset).map (fun l => (sp.lane l).starve)).foldl max 0

/-- group(s) of 09 R229 among the ready groups, ordered by lowest lane. -/
def pickGroup (sp : Span) (es : List Issue) : Option Issue :=
  match es.filter (fun e => decide (15 ≤ starveOf sp e)) with
  | e :: rest => some (rest.foldl (fun b x => if starveOf sp b < starveOf sp x then x else b) e)
  | [] => ((sp.lastLane.bind (fun l => es.find? (fun e => hasLane e.gset l)))).or es.head?

/-- Every yield of a span is over (05 R113). -/
def Span.endYields (x : Span) : Span := { x with lanes := x.lanes.map (fun l => { l with yieldTill := none }) }

/-- Spans of one packing set (09 R222). -/
def packMates (a b : Span) : Bool :=
  a.deck == b.deck && a.uid != b.uid && decide (a.width < 64) && a.idx / (64 / a.width) == b.idx / (64 / b.width)

/-- The counters of a span and its lanes after `e` was picked out of the ready groups `es` (09 R228, R229); a yield of its group is over
(05 R113). The lane that issued last is the lowest lane of the group: R229 does not say which counts once the group has split. DESIGN CHOICE
(log 94). -/
def afterPick (es : List Issue) (e : Issue) (x : Span) : Span :=
  let others := (es.filter (fun y => y.gset != e.gset)).foldl (fun (m : LaneSet) (y : Issue) => m ||| y.gset) 0#64
  let x := { x with idle := 0, promoted := none, lastLane := some (lowestLane e.gset),
                    asks := x.asks.filter (fun q => q.2.1 &&& e.gset == 0#64), kept := x.kept.filter (fun k => k.gset &&& e.gset == 0#64),
                    steps := if x.reinj == [] then x.allowance.map List.tail else x.steps,
                    reinj := x.reinj.tail }
  x.modLanes (e.gset ||| others) (fun i l =>
    if hasLane e.gset i then { l with starve := 0, yieldTill := none } else { l with starve := l.starve + 1 })

/-- The instruction of an issue, with its words, where no fetch can give another one. -/
def sureInstr (s : State) (l : Launch) (cx : Context) (e : Issue) : Option (Issue × Instr) :=
  match issueWords s cx e with
  | .words w lit =>
    let e := { e with word := w, lit := lit }
    if e.cols.isSome || ((List.range (1 + lit.toList.length)).all (fun k => fetchSure s cx l.uid (e.pc + 4 * k))) then
      (decode e.cls w lit).map (fun i => (e, i)) else none
  | _ => none

/-- The next word of a picked group's clause, to issue behind the instruction `f` that the group is issuing: where that completes, its lanes
stand at this word, with no others (09 R223, 15 R300). -/
def nextIssue (sp : Span) (f : Issue × Instr) : Option Issue :=
  let m := f.1.gset
  if f.1.nextPc = f.1.next || !fallsThrough f.2 || (lanesOf sp.movable).any (fun l => !hasLane m l && (sp.lane l).pos.pc == f.1.nextPc) then none
  else some (Issue.plain sp.uid (laneSetOf (fun l => hasLane m l && (sp.lane l).pos.p)) m f.1.nextPc f.1.cls f.1.next)

/-- Issues of a span that have been picked and have not passed their checks. -/
def flying (s : State) (sp : Span) : List Issue := s.issuing.filter (fun i => i.span == sp.uid)

/-- What an instruction names on the scoreboard (01 R33): general registers, masks, keystones and tags. -/
def namedRes (slots : List (BitVec 256)) (i : Instr) : List Nat := namedRegs slots i ++ resReads i ++ resWrites i

/-- The groups of a span that may issue while older issues of it are in flight, by lowest lane: the next word of a group in flight, and other
ready groups. Each names nothing on the scoreboard that an issue in flight writes, and takes its sources now (01 R33, 15 R300, R302;
log 67). -/
def aheadIssues (s : State) (sp : Span) : List Issue :=
  match spanEnv s sp, (spanEnv s sp).bind (fun v => (flying s sp).mapM (sureInstr s v.1 v.2)) with
  | some (l, cx), some known =>
    if known.any (fun x => x.1.cols.isSome && !x.1.fetched) || sp.steps.isSome || sp.reinj != [] || sp.trap.isSome || !spanActs s sp ||
      decide (8 ≤ unfinished s sp) then [] else
    let busy := known.flatMap (fun x => dstRegs x.2 ++ resWrites x.2)
    let others := (readyIssues s sp).filter (fun e => known.all (fun x => e.gset &&& x.1.gset == 0#64))
    let last := known.filter (fun x => (known.filter (fun y => y.1.gset &&& x.1.gset != 0#64)).getLast? == some x)
    let found := ((others ++ last.filterMap (nextIssue sp)).filter (fun e => e.cols.isNone)).filterMap (sureInstr s l cx)
    let fit := found.filter (fun x => !heldBack s l sp.uid x.2 && (namedRes l.slots x.2).all (fun r => !busy.contains r))
    (fit.map (fun x => { capture l.slots sp x.1 with fetched := true })).insertionSort (fun a b => lowestLane a.gset ≤ lowestLane b.gset)
  | _, _ => []

/-- What a span has ready to issue: while it has issues in flight, only what may issue ahead of their checks (15 R300; log 67). -/
def issuesOf (s : State) (sp : Span) : List Issue := if flying s sp == [] then readyIssues s sp else aheadIssues s sp

/-- The groups of a span that no yield keeps back (05 R113). -/
def freeIssues (s : State) (sp : Span) : List Issue := (issuesOf s sp).filter (fun e => !yielding s sp e)

/-- The candidate spans with their groups; where no group but yielding ones is ready on the slot, those count (05 R113, 09 R228). -/
def candidates (s : State) (here : List Span) : List (Span × List Issue) :=
  let free := (here.map (fun x => (x, freeIssues s x))).filter (fun x => x.2 != [])
  if free == [] then (here.map (fun x => (x, issuesOf s x))).filter (fun x => x.2 != []) else free

/-- A cycle of an issue slot: pick a span and its group, and the groups packed with it (09 R228, R230); every yield on the slot ends where no
other group is ready (05 R113, R226). -/
def execIssuePick (pier q : Nat) (s : State) : Out' :=
  if decide (4 ≤ q) || decide (288 ≤ pier) then .next s else
  let s := (slotSpans s pier q).foldl (fun s x =>
    if spanActs s x && flying s x == [] then s.modSpan x.uid (fun y => dropHeads y.reinj y) else s) s
  let here := slotSpans s pier q
  let r := candidates s here
  let s := if here.all (fun x => freeIssues s x == []) then here.foldl (fun s x => s.modSpan x.uid Span.endYields) s else s
  let s := here.foldl (fun s x => s.modSpan x.uid (fun y =>
    if r.any (fun c => c.1.uid == y.uid) then
      { y with idle := y.idle + 1, promoted := if 64 ≤ y.idle + 1 then y.promoted.or (some s.steps) else none }
    else { y with idle := 0, promoted := none })) s
  let r := r.map (fun c => ((s.span? c.1.uid).getD c.1, c.2))
  match pickSpan (((s.pier pier).last[q]?).getD none) r with
  | none => .next s
  | some (sp, es) =>
    match pickGroup sp es with
    | none => .next s
    | some g =>
      let mates := if sp.steps.isSome then [] else r.filterMap (fun c =>
        if packMates sp c.1 && c.1.steps.isNone && c.1.trap.isSome == sp.trap.isSome then
          (c.2.find? (fun e => e.pc == g.pc)).map (fun e => (c.1, c.2, e))
        else none)
      let all := ((sp, es, g) :: mates).insertionSort (fun a b => a.1.rslot ≤ b.1.rslot)
      let s := all.foldl (fun s x => s.modSpan x.1.uid (afterPick x.2.1 x.2.2)) s
      let s := s.modPier pier (fun p => { p with last := p.last.set q (some (sp.uid, sp.rslot)) })
      .next { s with issuing := s.issuing ++ all.map (fun x => x.2.2) }

/-- The hold of a yielding group ends (05 R113). -/
def execYieldExpiry (span lane : Nat) (s : State) : Out' :=
  .next (match s.span? span with
    | none => s
    | some sp =>
      let t := (sp.lane lane).yieldTill
      s.modSpan span (fun x => { x with lanes := x.lanes.map (fun l => if l.yieldTill == t then { l with yieldTill := none } else l) }))

/-! ## Clause headers (03 R58, R60) -/

/-- The movable lanes that stand, or wait, where lane l does. -/
def sameGroup (sp : Span) (l : Nat) : LaneSet :=
  let q := (sp.lane l).pos
  laneSetOf (fun i => hasLane sp.movable i && (sp.lane i).pos.pc == q.pc && (sp.lane i).pos.clause == q.clause && (sp.lane i).pos.st == q.st)

/-- A group reaches a header: step 1 of 03 R58, and the wait of step 2 begins. -/
def execClauseHeaderEntry (span lane : Nat) (s : State) : Out' :=
  match s.span? span with
  | none => .next s
  | some sp =>
    let q := (sp.lane lane).pos
    if !(spanActs s sp && sp.reinj == [] && hasLane sp.movable lane && q.clause.isNone && q.st == .standing) then .next s else
    let g := sameGroup sp lane
    let iss := Issue.plain span g g q.pc .alu q.pc
    let trap (cause : Nat) (addr : Nat) : Out' := takeTrap s iss { TrapInfo.at cause (BitVec.ofNat 64 addr) g with complete := true }
    match spanEnv s sp with
    | none => .next s
    | some (l, cx) =>
      match fetchWord s cx l.uid q.pc g with
      | .trap t => takeTrap s iss t
      | .ask p => .next (askPage s p)
      | .noMem => .fault .noSuchMemory
      | .word w =>
        match decodeHeader w with
        | none => trap 0x0002 w.toNat
        | some h =>
          if sp.trap.isNone && roleForbids sp.role h.cls then trap 0x0003 (sp.role.toNat + 16 * Cls.num h.cls)
          else .next (s.modSpan span (fun x => x.modLanes g (fun _ l => { l with pos := { l.pos with st := .waiting (.header w) } })))

/-- Steps 2 to 5 of 03 R58 for the lanes that wait at the header where lane l does, its own position or the handler's: the wait ends, also
on a stopped span (15 R303). -/
def execClauseHeaderPass (span lane : Nat) (s : State) : Out' :=
  .next (match s.span? span with
    | none => s
    | some sp =>
      let at_ := ((sp.lane lane).pos :: (sp.lane lane).held.toList).filter (fun q => (headerReady sp q).isSome)
      passHeaders s span (laneSetOf (fun i => decide (i < sp.width) && at_.any (fun q =>
        let same (x : Pos) : Bool := x.pc == q.pc && x.st == q.st
        same (sp.lane i).pos || (sp.lane i).held.any same))))

end Sys2Proof.Machine
end

