-- ==== Sys2Proof/Machine/Queues.lean ====
section
/-! DEFINITION. Context descriptors, hardware queue slots and pre-emption (14 R272-R277, R290). -/

namespace Sys2Proof.Machine

/-- n bytes of device memory as a number. -/
def devNat (s : State) (pa n : Nat) : Nat := bytesNat ((List.range n).map (fun i => devByte s (pa + i)))

/-- The fields of a context descriptor (14 R272, 15 R299, 17 R343, 20 R369, 16 R339). -/
def readDesc (s : State) (pa : Nat) : CtxDesc :=
  { plvlcap := devNat s (pa + 0x002) 1 % 8, deadline := devNat s (pa + 0x004) 4, parklead := devNat s (pa + 0x008) 4,
    saveBase := devNat s (pa + 0x010) 8, saveSize := devNat s (pa + 0x018) 8, privBase := devNat s (pa + 0x020) 8,
    privSize := devNat s (pa + 0x028) 8, ovfBase := devNat s (pa + 0x030) 8, ovfCount := devNat s (pa + 0x038) 4,
    handler := devNat s (pa + 0x040) 8, frameBase := devNat s (pa + 0x048) 8, wdog := devNat s (pa + 0x050) 4,
    tflags := BitVec.ofNat 32 (devNat s (pa + 0x054) 4), relBase := devNat s (pa + 0x060) 8, relCount := devNat s (pa + 0x068) 4,
    gpLimit := devNat s (pa + 0x06C) 4, ptroot := devNat s (pa + 0x080) 8, bindstub := devNat s (pa + 0x0E0) 8 }

/-- Read a context's descriptor (14 R272). -/
def loadCtx (s : State) (n : Nat) : State := s.modCtx n (fun c => { c with loaded := true, d := readDesc s c.desc })

/-- The slot a queue is mapped to, and what its descriptor says (14 R273). -/
def slotOf (s : State) (q : Nat) : Option Nat := s.hw.findIdx? (fun h => h.queue == some q)
def prio (s : State) (q : Nat) : Nat := queueField s q 0x16 1 % 16
def rdIdx (s : State) (q : Nat) : Nat := queueField s q 0x0C 4
def wrIdx (s : State) (q : Nat) : Nat := queueField s q 0x10 4
def qState (s : State) (q : Nat) : Nat := queueField s q 0x18 4
def queueCtx (s : State) (q : Nat) : Option Nat := (s.queue? q).map (·.ctx)
/-- A slot's priority. -/
def slotPrio (s : State) (h : HwSlot) : Nat := h.queue.elim 0 (prio s)
/-- A mapped slot is idle when its queue has nothing to start and no launch running (14 R275). -/
def slotIdle (s : State) (h : HwSlot) : Bool :=
  h.queue.elim false (fun q => rdIdx s q == wrIdx s q && (s.queue? q).elim true (fun x => x.launch.isNone))
/-- A full slice, in nanoseconds (14 R276). -/
def fullSlice (s : State) (q : Nat) : Nat := s.mgmt.quantum * queueField s q 0x17 1 * 1000

/-- The launch a deck belongs to. -/
def deckLaunch (s : State) (d : Deck) : Option Launch := (s.girder? d.girder).bind (fun g => s.launch? g.launch)
/-- The resident decks of a queue's launch. -/
def queueDecks (s : State) (q : Nat) : List Deck := s.decks.filter (fun d => d.resident && (deckLaunch s d).elim false (fun l => l.queue == q))
def ctxDecks (s : State) (n : Nat) : List Deck := s.decks.filter (fun d => d.resident && (deckLaunch s d).elim false (fun l => l.ctx == n))

def modHw (s : State) (i : Nat) (f : HwSlot → HwSlot) : State := { s with hw := s.hw.modify i f }

/-- Put a queue into a slot; the first mapping of a context reads its descriptor (14 R272, R275). -/
def takeSlot (s : State) (q i : Nat) : State :=
  let s := modHw s i (fun _ => ⟨some q, fullSlice s q, s.time, [], [], false⟩)
  match (queueCtx s q).bind (fun n => s.ctx? n) with
  | some c => if c.loaded then s else loadCtx s c.num
  | none => s

/-- The least recently active of the idle slots. -/
def idleSlot (s : State) : Option Nat :=
  (s.hw.zipIdx.filter (fun x => slotIdle s x.1)).foldl (fun b x => match b with
    | none => some x.2
    | some i => if x.1.active < ((s.hw[i]?).elim 0 (·.active)) then some x.2 else b) none

/-- A queue that wants a slot: running, unmapped, with a record to start or a launch to finish. -/
def wantsSlot (s : State) (q : Queue) : Bool :=
  (slotOf s q.num).isNone && qState s q.num == 1 && !q.destroying && (s.ctx? q.ctx).isSome && (q.launch.isSome || rdIdx s q.num != wrIdx s q.num)

/-- A free or idle slot goes to the waiting queue of the highest priority (14 R275; log 22). -/
def mapOne (s : State) : Option State :=
  match (s.queues.filter (wantsSlot s)).foldl (fun (b : Option Queue) x => match b with
    | none => some x
    | some y => if prio s y.num < prio s x.num then some x else b) none with
  | none => none
  | some q => ((s.hw.findIdx? (fun h => h.queue.isNone)).or (idleSlot s)).map (takeSlot s q.num)
/-- The same n times, as long as a queue waits and a slot is there. -/
def mapUpTo : Nat → State → State
  | 0, s => s
  | n + 1, s => (mapOne s).elim s (mapUpTo n)
/-- Free or idle slots go to the waiting queues (14 R275). -/
def mapWaiting (s : State) : State := mapUpTo s.queues.length s

/-- The piers that the pre-emptions of a context vacate, and of a slot (14 R290). -/
def Context.vacating (c : Context) : List Nat := c.vacate.flatten
def HwSlot.vacating (h : HwSlot) : List Nat := h.preempt.flatten

/-- A park that was abandoned counts until the girder has left every V (14 R291, R293). -/
def parkAgain (s : State) (ctx : Nat) (v : List Nat) : State :=
  { s with decks := s.decks.map (fun d => if (deckLaunch s d).elim false (fun l => l.ctx == ctx)
      then { d with noPark := d.noPark && (s.decksOf d.girder).any (fun e => v.contains e.pier) } else d) }

/-- A pre-emption ends when every deck of the context has left its V, and with the last one the timer stops; a slot that gives way is unmapped
(14 R275, R290). -/
def settleVacate (s : State) (ctx : Nat) : State :=
  match s.ctx? ctx with
  | none => s
  | some cx =>
    let goes (v : List Nat) : Bool := (ctxDecks s ctx).any (fun d => v.contains d.pier)
    let left := cx.vacate.filter goes
    let s := parkAgain (s.modCtx ctx (fun c => { c with vacate := left, timer := if left == [] then none else c.timer })) ctx left.flatten
    let s := { s with hw := s.hw.map (fun (h : HwSlot) =>
      if h.queue.bind (queueCtx s) == some ctx then { h with preempt := h.preempt.filter goes } else h) }
    mapWaiting { s with hw := s.hw.map (fun (h : HwSlot) =>
      if h.leaving && h.queue.elim true (fun q => (queueDecks s q) == []) then ⟨none, 0, 0, [], [], false⟩ else h) }

/-- Vacate piers of a slot: the drain begins and the context's deadline timer runs, unless there is nothing to vacate (14 R290). -/
def startPreempt (s : State) (i : Nat) (v : List Nat) : State :=
  match ((s.hw[i]?).bind (·.queue)).bind (fun q => (queueCtx s q).bind (fun n => s.ctx? n)) with
  | none => s
  | some cx =>
    if v == [] then settleVacate s cx.num else
    let s := modHw s i (fun h => { h with preempt := h.preempt ++ [v] })
    settleVacate (s.modCtx cx.num (fun c => { c with vacate := c.vacate ++ [v], timer := c.timer.or (some (s.time + 1000 * c.d.deadline)) })) cx.num

/-- Map a queue: a free slot, else the least recently active idle one, else the lowest-priority slot gives way (14 R275). -/
def mapQueue (s : State) (q : Nat) : State :=
  if (slotOf s q).isSome then s else
  match (s.hw.findIdx? (fun h => h.queue.isNone)).or (idleSlot s) with
  | some i => takeSlot s q i
  | none =>
    let low := s.hw.zipIdx.foldl (fun (b : Option (Nat × Nat)) x => match b with
      | none => some (slotPrio s x.1, x.2)
      | some y => if slotPrio s x.1 < y.1 then some (slotPrio s x.1, x.2) else b) none
    match low with
    | some (p, i) =>
      if p < prio s q then
        let v := (((s.hw[i]?).bind (·.queue)).elim [] (fun u => (queueDecks s u).map (·.pier))).dedup
        startPreempt (modHw s i (fun h => { h with leaving := true })) i v
      else s
    | none => s

/-! ## What a slot waits to place (14 R276) -/

/-- Piers where nothing of a slot is placed: those it vacates, and all of them once it gives way (14 R275, R290). -/
def HwSlot.barred (h : HwSlot) : List Nat := if h.leaving then List.range 288 else h.vacating

/-- The grade a girder's decks move to. -/
def movingTo (decks : List Deck) : Option Grade :=
  match decks.map (fun d => match d.status with | .moving g => some g | _ => none) with
  | [] => none
  | t :: ts => if ts.all (fun x => x == t) then t else none

/-- Payload registers of a child span: lanes without an item keep zero (08 R207, 14 R287). -/
def childRegs (items : List Item) (slot : Nat) : List VReg :=
  let vals (r : Nat) : List Word := (List.range 32).map (fun l => (items[l]?).elim 0#32 (fun x => x.payload.getD r 0#32))
  ((List.range 4).map (fun r => (checker (vals r)).getD (.vector ((slot + r) % 24576) (vals r)))) ++ List.replicate 124 (.uniform 0#32)
/-- Octet slots that a child span's payload registers take. -/
def childSlots (items : List Item) : Nat := 4 * ((childRegs items 0).filter VReg.isVector).length

/-- Something a launch has to place: a saved girder's decks with the grade they go to, or a new deck or girder of `size` decks; a spawned
span's deck goes to its segment and takes slots for its payload. -/
structure Want where
  size : Nat
  decks : List Deck
  grade : Option Grade
  need : Need
  seg : Option Nat
  slots : Nat
  deriving DecidableEq, Repr, Inhabited

/-- The grade a parked girder resumes on: either where the launch allows any and no member carries matrix state (14 R294). -/
def resumeGrade (l : Launch) (decks : List Deck) : Option Grade :=
  match decks.head? with
  | none => none
  | some d => if l.grade = 0 && decks.all (fun x => x.image.isNone) then none else some (gradeOf d.pier)

/-- Saved girders of a launch, with the grade they go to: between piers in a migration, or parked (14 R294, 15 R317). -/
def savedWants (s : State) (l : Launch) : List Want :=
  (s.girders.filter (fun g => g.launch == l.uid)).filterMap (fun g =>
    let decks := s.decksOf g.uid
    let w (grade : Option Grade) : Want := ⟨g.size, decks, grade, l.need, none, 0⟩
    match movingTo decks with
    | some t => some (w (some t))
    | none => if decks != [] && decks.all (fun d => d.status == .parked) then some (w (resumeGrade l decks)) else none)

/-- Girders of a launch. -/
def Launch.girders (l : Launch) : Nat := (l.gx + 1) * (l.gy + 1) * (l.gz + 1)
/-- Whether a saved girder is parked, not between piers in a migration. -/
def Want.parked (w : Want) : Bool := w.decks.any (fun d => d.status == .parked)

/-- What a queue's launch has to place, in order: saved girders, a new girder once no parked one is left (14 R294), spawned spans. A queue
that is being destroyed places nothing, and one that does not run starts no girder (14 R274, R395). -/
def wants (s : State) (l : Launch) : List Want :=
  if (s.queue? l.queue).elim true (·.destroying) then [] else
  let saved := savedWants s l
  saved ++ (if saved.any Want.parked || l.girders ≤ l.nextGirder || qState s l.queue != 1 then [] else [⟨l.girderSize, [], none, l.need, none, 0⟩]) ++
  (s.segs.zipIdx.flatMap (fun g => (g.1.emitted.filter (fun is => (is.head?).elim false (fun x => x.launch == l.uid))).map (fun is =>
    ⟨1, [], none, l.childNeed, some g.2, childSlots is⟩)))

/-- Whether pier p can take one of the decks now, or with every other deck gone (14 R284, R294, 15 R316). -/
def Want.takes (w : Want) (s : State) (cx : Context) (l : Launch) (alone : Bool) (p : Nat) : Bool :=
  let mask := coreMask s l.queue
  if w.decks == [] then pierFits s w.need mask (privFree s cx) alone none p && w.seg.all (fun k => k == segOf p) &&
    (alone || decide (w.slots ≤ (s.pier p).pool))
  else w.decks.any (fun d => capablePier s cx l mask w.grade alone d p)

/-- Whether piers, ascending, can take it now. -/
def Want.fits (w : Want) (s : State) (cx : Context) (l : Launch) (piers : List Nat) : Bool :=
  if w.decks == [] then decide (w.size * privBytes l.priv ≤ privFree s cx) && piers.all (w.takes s cx l false)
  else (w.decks.zip piers).all (fun x => capablePier s cx l (coreMask s l.queue) w.grade false x.1 x.2)

/-- The first piers that can take it now, of one truss and grade (14 R284, R285, 15 R316). -/
def Want.place (w : Want) (s : State) (cx : Context) (l : Launch) (barred : List Nat) : Option (List Nat) :=
  if w.decks == [] then
    (if privFree s cx < w.size * privBytes l.priv then none else pierSet w.size (fun p => !barred.contains p && w.takes s cx l false p))
  else pierSetFor (fun d p => !barred.contains p && capablePier s cx l (coreMask s l.queue) w.grade false d p) w.decks

/-- A slot's launch, with its context. -/
def HwSlot.env (s : State) (h : HwSlot) : Option (Launch × Context) := do
  let q ← h.queue
  let x ← s.queue? q
  let u ← x.launch
  let l ← s.launch? u
  let cx ← s.ctx? l.ctx
  return (l, cx)

/-- Whether a slot waits to place a deck, and for pier p among others. -/
def waitsFor (s : State) (h : HwSlot) (p : Nat) : Bool :=
  !h.leaving && (h.env s).elim false (fun e => (wants s e.1).any (fun w =>
    (w.place s e.2 e.1 h.barred).isNone && w.takes s e.2 e.1 true p))

/-- Piers where the decks of slots below a priority stand. -/
def lowerHeld (s : State) (pr : Nat) : List Nat :=
  ((s.hw.filter (fun h => h.queue.isSome && decide (slotPrio s h < pr))).flatMap (fun h => h.queue.elim [] (fun q => (queueDecks s q).map (·.pier)))).dedup

/-- The state as if the decks of slots below a priority were gone. -/
def withoutLower (s : State) (pr : Nat) : State :=
  let gone (d : Deck) : Bool := d.resident && (deckLaunch s d).elim false (fun l =>
    (slotOf s l.queue).isSome && decide (prio s l.queue < pr))
  let give (p : Nat) : Nat := ((s.decks.filter (fun d => gone d && d.pier == p)).map (fun d => ((s.spansOf d.uid).map (·.grant)).sum)).sum
  { s with decks := s.decks.filter (fun d => !gone d), piers := s.piers.zipIdx.map (fun x =>
    { x.1 with pool := x.1.pool + give x.2, owner := x.1.owner.filter (fun u => !s.decks.any (fun d => d.uid == u && gone d)) }) }

/-- The highest priority among a set's holders below pr, and its lowest pier: the choice of 14 R276. -/
def setRank (s : State) (pr : Nat) (v : List Nat) : Nat × Nat :=
  let holders := s.hw.filter (fun h => decide (slotPrio s h < pr) && h.queue.elim false (fun q => (queueDecks s q).any (fun d => v.contains d.pier)))
  ((holders.map (slotPrio s)).foldl max 0, (v.min?).getD 0)

/-- The sets of g piers that would serve. -/
def servingSets (g : Nat) (ok : List Nat) : List (List Nat) :=
  if g = 1 then ok.map (fun p => [p])
  else (List.range 36).flatMap (fun t => List.sublistsLen g (ok.filter (fun p => trussOf p == t)))

/-- A slot's piers of a set. -/
def HwSlot.heldOf (s : State) (h : HwSlot) (v : List Nat) : List Nat :=
  ((h.queue.elim [] (fun u => (queueDecks s u).map (·.pier))).filter (fun p => v.contains p)).dedup
/-- The set of piers of 14 R276 for something a slot waits to place: the one it has chosen for it, as long as that would serve, else the best
of those that would. -/
def chosenSet (s : State) (pr : Nat) (h : HwSlot) (l : Launch) (cx : Context) (w : Want) : Option (List Nat) :=
  let t := withoutLower s pr
  let sets := (servingSets w.size ((List.range 288).filter (fun p => !h.barred.contains p && w.takes t cx l false p))).filter (w.fits t cx l)
  if sets.contains h.chosen then some h.chosen else
  sets.foldl (fun (b : Option (List Nat)) v => match b with
    | none => some v
    | some w =>
      let x := setRank s pr v
      let y := setRank s pr w
      if x.1 < y.1 || (x.1 == y.1 && decide (x.2 < y.2)) then some v else b) none

/-- What a slot waits to place is placed, or nothing waits: what it has chosen no longer holds (14 R276). -/
def forgetChosen (s : State) (q : Nat) : State :=
  { s with hw := s.hw.map (fun h => if h.queue == some q then { h with chosen := [] } else h) }

/-- The set that the slot's next deck or girder pre-empts, where it waits for piers of lower slots (14 R276). -/
def slotChoice (s : State) (h : HwSlot) : Option (List Nat) := do
  let (l, cx) ← h.env s
  let pr := slotPrio s h
  if lowerHeld s pr == [] then none else
  let w ← (wants s l).find? (fun w => (w.place s cx l h.barred).isNone)
  chosenSet s pr h l cx w

/-- A slot whose next deck or girder waits for piers of lower slots pre-empts at once the set it needs, and no others (14 R276). -/
def preemptFor (s : State) (i : Nat) : State :=
  match s.hw[i]? with
  | none => s
  | some h =>
    let v := (slotChoice s h).getD []
    let todo (x : HwSlot) : List Nat := (x.heldOf s v).filter (fun p => !x.vacating.contains p)
    (s.hw.zipIdx.filter (fun x => todo x.1 != [] && decide (slotPrio s x.1 < slotPrio s h))).foldl (fun t x =>
      startPreempt t x.2 (todo x.1)) (modHw s i (fun x => { x with chosen := v }))

/-- Every slot's own pre-emption of lower ones. -/
def preemptHigher (s : State) : State := (List.range s.hw.length).foldl preemptFor s

/-- A slice runs out while a slot of equal or higher priority waits for a pier of it: those piers are vacated, the slice refilled
(14 R276). -/
def execSliceExpiry (slot : Nat) (s : State) : Out' :=
  .next (match s.hw[slot]? with
    | none => s
    | some h =>
      match h.queue with
      | none => s
      | some q =>
        if h.slice != 0 then s else
        let others := s.hw.zipIdx.filter (fun x => x.2 != slot && x.1.queue.isSome && decide (slotPrio s h ≤ slotPrio s x.1))
        let v := (((queueDecks s q).map (·.pier)).filter (fun p => others.any (fun x => waitsFor s x.1 p))).dedup
        if v == [] then s else startPreempt (modHw s slot (fun x => { x with slice := fullSlice s q })) slot v)

end Sys2Proof.Machine
end

