-- ==== Sys2Proof/Machine/Traps.lean ====
section
/-! DEFINITION. Traps at issue boundaries, the watchdog, page requests, and the retirement of spans, decks and girders (15 R300-R315,
R325, 09 R239-R241, R394). -/

namespace Sys2Proof.Machine

/-! ## Traps at an issue boundary -/

/-- An issue that stands for a span at its boundary, with the record's PC. -/
def boundaryIssue (u pc : Nat) (lanes : LaneSet) : Issue := Issue.plain u lanes lanes pc .alu pc

/-- A cause is raised at a span's boundary: what it has issued completes, and a cause of its own that this raises comes first (15 R301). -/
def boundaryTrap (s : State) (u pc : Nat) (lanes : LaneSet) (t : TrapInfo) : Out' :=
  let s := completeOlder s u
  if s.pendingOf u then .next s else deliverTrap s (boundaryIssue u pc lanes) { t with boundary := some pc }

/-- A debugger's stop at the span's boundary, with a frame; in trap mode the handler's frame stands (15 R325; log 20). -/
def debugStop (s : State) (sp : Span) : Out' :=
  if sp.trap.isSome then
    let s := completeOlder s sp.uid
    if s.pendingOf sp.uid then .next s else .next ((holdSpan (slotsOf s sp.deck) s sp.uid).modSpan sp.uid Span.debugStopped)
  else boundaryTrap s sp.uid (sp.lane (lowestLane sp.live)).pos.pc sp.live (TrapInfo.at 0 0#64 sp.live)

/-- Whether a deck's spans may still take a trap: it is not saved yet (15 R301, R317). -/
def beforeSave (s : State) (deck : Nat) : Bool :=
  (s.deck? deck).elim false (fun d => match d.status with
    | .running | .parking | .migrating _ => true
    | _ => false)

/-- The instruction a waiting cause names: the oldest that raised one as it completed; the head of the queue where the device could not
serve its page; none for a cause at the boundary or of a header. -/
def pendingIssue (sp : Span) (t : TrapInfo) : Issue :=
  let edge := boundaryIssue sp.uid (t.boundary.getD t.addr.toNat) t.lanes
  match t.entry with
  | e :: _ => e.2
  | [] => if t.served && !t.complete && t.boundary.isNone then sp.reinj.headD edge else edge

/-- A waiting cause becomes a trap at the span's boundary, or a debugger's step ends (15 R300, R301, R306, R326, 07 R182). -/
def execTrapEntry (span : Nat) (s : State) : Out' :=
  match s.span? span with
  | none => .next s
  | some sp =>
    if sp.stop != .running || !beforeSave s sp.deck then .next s else
    if sp.pending.isNone then (if sp.stepDone then debugStop s sp else .next s) else
    let s := completeOlder s span
    match s.span? span with
    | none => .next s
    | some sp =>
      match sp.pending with
      | some t => deliverTrap s (pendingIssue sp t) t
      | none => .next s

/-- The watchdog's condition (15 R315). -/
def watchdogDue (s : State) (sp : Span) (cx : Context) : Bool :=
  cx.d.wdog != 0 && sp.stop == .running && sp.live != 0#64 && deckOpen s sp.deck && decide (sp.lastIssue + 1000 * cx.d.wdog ≤ s.time)

/-- WATCHDOG at an issue boundary, on every live lane (15 R315). -/
def execWatchdogExpiry (span : Nat) (s : State) : Out' :=
  match s.span? span with
  | none => .next s
  | some sp =>
    match spanEnv s sp with
    | none => .next s
    | some (_, cx) =>
      if !watchdogDue s sp cx then .next s else
      boundaryTrap s span (sp.lane (lowestLane sp.live)).pos.pc sp.live (TrapInfo.at 0x0010 (BitVec.ofNat 64 cx.d.wdog) sp.live)

/-- Host pages that had no translation are asked for again (20 R371). -/
def State.forgetAbsent (s : State) : State := { s with ats := s.ats.filter (fun x => x.2.isSome) }

/-- The oldest page request of a span is answered, which makes room for another; with the last success its queue issues again, and a failure
gives the cause to the span: it waits no more for the others, and the trap is delivered at its boundary (15 R314, 20 R371). Requests that a
span has stopped waiting for are answered before later ones of it. -/
def execPageRequestResponse (span : Nat) (ok : Bool) (s : State) : Out' :=
  if s.prgLoose.contains span then
    .next (sendAllPages { s with prgLoose := s.prgLoose.erase span, trust := { s.trust with pri := true } }) else
  match s.span? span with
  | none => .next s
  | some sp =>
    match sp.stop with
    | .pages t (n + 1) (_ :: rest) =>
      let s := { s with trust := { s.trust with pri := true } }
      .next (sendAllPages (
        if !ok then
          (loosePages s span n).modSpan span (fun x =>
            { x with stop := .running, reinj := x.replay, replay := [], pending := some { t with entry := [], served := true } })
        else if rest != [] then s.modSpan span (fun x => { x with stop := .pages t n rest })
        else State.forgetAbsent (resumeCopies (s.modSpan span (fun x =>
          { x with stop := .running, reinj := x.replay, replay := [], lastIssue := s.time })) span)))
    | _ => .next s

/-! ## Retirement -/

/-- Whether nothing outstanding of a span keeps it resident (09 R239): stores, reductions and a ring's turn do not. -/
def spanDone (s : State) (sp : Span) : Bool :=
  sp.live == 0#64 && sp.stop == .running && sp.pending.isNone && sp.trap.isNone &&
  s.works.all (fun w => w.span != sp.uid || match w.kind with
    | .store | .red _ | .redx _ | .ring _ _ _ _ => true
    | .copy c => c.dead
    | _ => false) &&
  s.girders.all (fun g => g.keys.all (fun k => k.signers.all (fun x => x.span != sp.uid || k.hasLanded x.deck)))

/-- A girder whose decks have no spans left ends, and with it its keystones, barriers and every member's memory (09 R241). -/
def retireGirder (s : State) (girder : Nat) : State :=
  if (s.decksOf girder).all (fun d => (s.spansOf d.uid) == []) then
    let ctx := ((s.girder? girder).bind (fun g => s.launch? g.launch)).map (·.ctx)
    let mine (w : Work) : Bool := match w.kind with
      | .copy c => c.dead && (s.decksOf girder).any (fun d => d.uid == c.deck)
      | _ => false
    let s := { s with works := s.works.filter (fun w => !mine w), decks := s.decks.filter (fun d => d.girder != girder), girders := s.girders.filter (fun g => g.uid != girder) }
    ctx.elim s (settleVacate s)
  else s

/-- A deck whose spans have all retired: its matrix unit is free; it keeps its place in a larger girder (09 R240, R394). -/
def retireDeck (s : State) (d : Deck) : State :=
  if (s.spansOf d.uid) != [] then s else
  let s := if d.resident then
      (s.modPier d.pier (fun p => { p with owner := if p.owner == some d.uid then none else p.owner,
                                           clearing := p.clearing && p.owner != some d.uid })).modDeck d.uid (fun x =>
        { x with image := none, imageBytes := 0, status := match x.status with
            | .running => .retired
            | st => st })
    else s.modDeck d.uid (fun x => { x with image := none, imageBytes := 0 })
  retireGirder s d.girder

/-- A span ends: its slots, its place and its latch entries are free, and it counts as arrived at every barrier (09 R239, 07 R166). A ring slot that
a `stgacq` of an aborted span has claimed goes to the claim where its turn comes before, and is passed over otherwise: neither 09 R235 nor 15
R310 says. DESIGN CHOICE (log 107). -/
def retireSpan (s : State) (sp : Span) (d : Deck) : State :=
  let s := drain s sp.uid (BitVec.allOnes 64)
  let s := if d.resident then s.modPier d.pier (fun p =>
      { p with pool := p.pool + sp.grant, latch := p.latch.map (fun z => z.filter (fun e => e.span != sp.uid)) })
    else s.modDeck d.uid (fun x => { x with imageBytes := x.imageBytes - (4096 + 32 * sp.used + 16 * sp.width) })
  let s := { s with spans := s.spans.filter (fun x => x.uid != sp.uid), works := s.works.filter (fun w => w.span != sp.uid || w.isOrphan) }
  retireDeck (barCheckAll s d.uid d.girder) d

/-- A resident span with nothing left outstanding retires (09 R239). -/
def execSpanRetire (span : Nat) (s : State) : Out' :=
  .next (match s.span? span with
    | none => s
    | some sp =>
      match s.deck? sp.deck with
      | none => s
      | some d => if d.resident && spanDone s sp then retireSpan s sp d else s)

/-- A span of a parked or moving deck retires without being placed again (09 R394). -/
def execParkedSpanRetire (span : Nat) (s : State) : Out' :=
  .next (match s.span? span with
    | none => s
    | some sp =>
      match s.deck? sp.deck with
      | none => s
      | some d => if !d.resident && spanDone s sp then retireSpan s sp d else s)

end Sys2Proof.Machine
end

