-- ==== Sys2Proof/Machine/Launches.lean ====
section
/-! DEFINITION. Launch records, placement, spawned work, completion and doorbells (14 R274, R278-R289, 20 R367, 09 R221). -/

namespace Sys2Proof.Machine

/-! ## The launch record and its checks (14 R278-R280) -/

/-- A field of a record's bytes. -/
def fieldOf (r : List Byte) (off n : Nat) : Nat := bytesNat ((r.drop off).take n)

/-- A format slot that violates 02 R50. -/
def slotBad (v : BitVec 256) : Bool :=
  let fmt := slotFmt v
  let finite32 (w : Nat) : Bool := bitsOf w 23 8 != 255
  let finite16 (w : Nat) : Bool := bitsOf w 10 5 != 31
  decide (9 < fmt) || slotMode v == 3 ||
  (if fmt = 8 then decide (slotPlanes v < 2) || decide (8 < slotPlanes v) else slotPlanes v != 0) ||
  !finite32 (slotScale v).toNat || !finite16 (slotExtra v) ||
  (slotZero v != 0 && (fmt == 8 || fmt == 3 || fmt == 4 || fmt == 5 || fmt == 6)) ||
  v.extractLsb' 96 32 != 0#32 || v.extractLsb' 185 71 != 0#71

/-- A ring descriptor that violates 09 R234. -/
def ringBad (v : DWord) (deckmem : Nat) : Bool :=
  if !v.getLsbD 63 then v != 0#64 else
  let base := (v.extractLsb' 18 14).toNat
  let size := (v.extractLsb' 6 12).toNat
  let count := ringCount v
  ringProd v == ringCons v || size == 0 || decide (2048 < size) || count == 0 || decide (32 < count) ||
  decide (deckmem < 32 * (base + size * count)) || v.extractLsb' 32 27 != 0#27

/-- A launch as a record states it. -/
def recordLaunch (r : List Byte) (uid queue ctx rdidx : Nat) : Launch :=
  { uid := uid, queue := queue, ctx := ctx, rdidx := rdidx, entry := fieldOf r 0x000 8, args := BitVec.ofNat 64 (fieldOf r 0x008 8),
    gx := fieldOf r 0x010 4, gy := fieldOf r 0x014 4, gz := fieldOf r 0x018 4, shapew := BitVec.ofNat 32 (fieldOf r 0x01C 4),
    roles := BitVec.ofNat 64 (fieldOf r 0x020 8), ceil := fieldOf r 0x028 4, deckmem := fieldOf r 0x030 4, priv := fieldOf r 0x034 4,
    constBase := fieldOf r 0x038 8, constSize := fieldOf r 0x040 4, tlbind := BitVec.ofNat 64 (fieldOf r 0x048 8),
    compl := fieldOf r 0x050 8, rings := (List.range 8).map (fun k => BitVec.ofNat 64 (fieldOf r (0x080 + 8 * k) 8)),
    slots := (List.range 8).map (fun k => BitVec.ofNat 256 (fieldOf r (0x100 + 32 * k) 32)), nextGirder := 0, aborted := false,
    discarded := false }

/-- Check 1: the offset of the first of ENTRY, COMPL and CONSTBASE that is not aligned or no global address (07 R146, 14 R278). -/
def badEntry (l : Launch) : Option Nat :=
  if l.entry % 4 != 0 || decide (0x01FFE00000000000 ≤ l.entry) then some 0x000
  else if l.compl % 8 != 0 || decide (0x01FFE00000000000 ≤ l.compl) then some 0x050
  else if l.constBase % 16 != 0 || decide (0x01FFE00000000000 ≤ l.constBase) then some 0x038
  else none

/-- Check 2: the row of the offending bit with the lowest offset. -/
def badField (l : Launch) (r : List Byte) : Option Nat :=
  let rows : List (Nat × Bool) :=
    [(0x01C, l.shapew.extractLsb' 21 11 != 0#11 || l.grade == 3),
     (0x020, (List.range 32).any (fun i => decide (l.spans ≤ i) && l.roles.extractLsb' (2 * i) 2 != 0#2)),
     (0x028, decide (16 * l.width < l.ceil)), (0x02C, fieldOf r 0x02C 4 != 0 && fieldOf r 0x02C 4 != 256),
     (0x030, decide (393216 < l.deckmem) || l.deckmem % 1024 != 0), (0x034, decide (1048576 < l.priv) || l.priv % 16 != 0),
     (0x040, decide (65536 < l.constSize) || l.constSize % 4 != 0), (0x044, fieldOf r 0x044 4 != 0),
     (0x048, l.tlbind.extractLsb' 48 16 != 0#16), (0x058, fieldOf r 0x058 40 != 0), (0x0C0, fieldOf r 0x0C0 64 != 0)]
  (rows.find? (·.2)).map (·.1)

/-- Check 5: a bound timeline whose kind a running launch of the context binds otherwise (14 R282). -/
def tlConflict (s : State) (l : Launch) : Bool :=
  (List.range 16).any (fun k => l.tlBound k && s.launches.any (fun x =>
    x.ctx == l.ctx && x.uid != l.uid && decide (0 < x.nextGirder) && x.tlBound k && x.tlKind k != l.tlKind k))

/-- Check 6: no pier set could take one girder with every other deck gone. -/
def noFit (s : State) (cx : Context) (l : Launch) : Bool :=
  decide (cx.d.privSize < l.girderSize * privBytes l.priv) ||
  (pierSet l.girderSize (pierFits s l.need (coreMask s l.queue) 0 true none)).isNone

/-- The status and offset of the first check a record fails (14 R280, R281). -/
def recordFault (s : State) (cx : Context) (l : Launch) (r : List Byte) : Option (Nat × Nat) :=
  match badEntry l with
  | some o => some (0x0006, o)
  | none =>
    match badField l r with
    | some o => some (0x0001, o)
    | none =>
      match l.slots.findIdx? slotBad with
      | some k => some (0x0002, 0x100 + 32 * k)
      | none =>
        match l.rings.findIdx? (fun v => ringBad v l.deckmem) with
        | some k => some (0x0003, 0x080 + 8 * k)
        | none => if tlConflict s l then some (0x0005, 0x048) else if noFit s cx l then some (0x0004, 0x01C) else none

/-! ## The end of a launch (14 R274, R281) -/

/-- QUEUE_FAULT's payload (20 R368). -/
def queueFault (s : State) (cx q reason rdidx addr : Nat) : State :=
  postEvent s 0x0005 cx (natBytes 2 q ++ natBytes 1 reason ++ natBytes 1 0 ++ natBytes 4 rdidx ++ natBytes 8 addr)

/-- Write a completion word, or report that it cannot be written (14 R281). -/
def writeCompletion (s : State) (cx : Context) (q rdidx compl status : Nat) : State :=
  if compl = 0 then s
  else if compl % 8 != 0 then queueFault s cx.num q 1 rdidx compl
  else match translate s cx false .write compl with
  | .ok l 0 => writeLocs s l (natBytes 8 status)
  | _ => queueFault s cx.num q 1 rdidx compl

/-- The queue goes on to its next record: RDIDX advances (14 R274). -/
def advanceQueue (s : State) (q : Nat) : State :=
  let s := setQueueField s q 0x0C 4 ((rdIdx s q + 1) % 2 ^ 32)
  let s := s.modQueue q (fun x => { x with launch := none })
  { s with hw := s.hw.map (fun h => if h.queue == some q then { h with active := s.time } else h) }

/-- End a running launch with a status. -/
def endLaunch (s : State) (l : Launch) (status : Nat) : State :=
  match s.ctx? l.ctx with
  | none => s
  | some cx =>
    let s := writeCompletion s cx l.queue l.rdidx l.compl status
    advanceQueue { s with launches := s.launches.filter (fun x => x.uid != l.uid) } l.queue

/-- A host page that the write of a completion word still asks for. -/
def asksFor (s : State) (cx : Context) (compl : Nat) : Option Nat :=
  if compl = 0 then none else
  match translate s cx false .write compl with
  | .ask p => some p
  | _ => none

/-- Write a completion word, or owe it where the host has to be asked for its page first (14 R281, 20 R371). -/
def completeOrOwe (s : State) (cx : Context) (o : Owed) : State :=
  match asksFor s cx o.compl with
  | some p => askPage { s with owed := s.owed ++ [o] } p
  | none => writeCompletion s cx o.queue o.rdidx o.compl o.status
/-- Owed completion words are tried again. -/
def payOwed (s : State) : State :=
  s.owed.foldl (fun s o => (s.ctx? o.ctx).elim s (fun cx => completeOrOwe s cx o)) { s with owed := [] }

/-- A queue reads and checks its next record (14 R274, R280). -/
def execLaunchStart (queue : Nat) (s : State) : Out' :=
  match s.queue? queue, (queueCtx s queue).bind (fun n => s.ctx? n) with
  | some q, some cx =>
    if q.launch.isSome || q.destroying || (slotOf s queue).isNone || qState s queue != 1 || rdIdx s queue == wrIdx s queue then .next s else
    let at_ := queueField s queue 0x00 8 + 512 * (rdIdx s queue % queueField s queue 0x08 4)
    let stop : State := queueFault (setQueueField s queue 0x18 4 2) cx.num queue 0 (rdIdx s queue) at_
    match translate s cx false .read at_ with
    | .ask p => .next (askPage s p)
    | .ok l _ =>
      if poisoned s l 512 then .next stop else
      let r := readLocs s l 512
      let x := recordLaunch r s.fresh queue cx.num (rdIdx s queue)
      (match recordFault s cx x r with
       | some (status, off) =>
         (match asksFor s cx x.compl with
          | some p => .next (askPage s p)
          | none => .next (advanceQueue (writeCompletion s cx queue x.rdidx x.compl (status + 65536 * off)) queue))
       | none =>
         let s := { s with launches := s.launches ++ [x], fresh := s.fresh + 1 }
         .next (preemptHigher (s.modQueue queue (fun y => { y with launch := some x.uid }))))
    | _ => .next stop
  | _, _ => .next s

/-! ## Placing (14 R283-R285, 09 R220, R221) -/

/-- Whether another slot comes first for one of these piers (14 R276). -/
def outranked (s : State) (q : Nat) (piers : List Nat) : Bool :=
  match (slotOf s q).bind (fun i => (s.hw[i]?).map (fun h => (i, h))) with
  | none => true
  | some (i, h) => s.hw.zipIdx.any (fun x =>
      let before := decide (slotPrio s h < slotPrio s x.1) || (slotPrio s h == slotPrio s x.1 &&
        (decide (h.slice < x.1.slice) || (h.slice == x.1.slice && decide (x.2 < i))))
      x.2 != i && before && (x.1.env s).elim false (fun e => (wants s e.1).any (fun w =>
        (w.place s e.2 e.1 x.1.barred).isSome && piers.any (fun p => !x.1.barred.contains p && w.takes s e.2 e.1 false p))))

/-- Piers barred to a queue by pre-emption (14 R275, R290). -/
def barredPiers (s : State) (q : Nat) : List Nat := ((slotOf s q).bind (fun i => s.hw[i]?)).elim [] HwSlot.barred

/-- Whether the dispatcher may place what a launch has to place on these piers, ascending, of one truss: they take it, none is barred, and
no other slot comes first (14 R276, R284, R285, R290). -/
def Want.allowed (w : Want) (s : State) (cx : Context) (l : Launch) (piers : List Nat) : Bool :=
  piers.length == w.size && (piers.zip piers.tail).all (fun x => decide (x.1 < x.2)) &&
  piers.all (fun p => trussOf p == trussOf (piers.headD 0) && !(barredPiers s l.queue).contains p) && w.fits s cx l piers &&
  !outranked s l.queue piers

/-- A new girder that a launch has to place. -/
def newWant (s : State) (l : Launch) : Option Want := (wants s l).find? (fun w => w.decks == [] && w.seg.isNone)

/-- The next girder of a launch is placed; parked decks come first (14 R283, R294). -/
def execDeckPlace (launch : Nat) (piers : List Nat) (s : State) : Out' :=
  .next (match s.launch? launch with
    | none => s
    | some l =>
      match s.ctx? l.ctx, newWant s l with
      | some cx, some w => if w.allowed s cx l piers then preemptHigher (forgetChosen (placeGirder s l piers) l.queue) else s
      | _, _ => s)

/-- The clear ends and the deck's spans may issue (01 R31). -/
def execDeckMemoryCleared (deck : Nat) (s : State) : Out' :=
  .next (s.modDeck deck (fun d => { d with status := match d.status with
    | .clearing => .running
    | st => st }))

/-! ## Spawned work (14 R286-R288, 08 R207) -/

/-- The lanes of a span whose item of a spawn has not been accepted. -/
def unaccepted (sp : Span) (issue : Nat) : List Nat :=
  (lanesOf sp.live).filter (fun l => (sp.lane l).waits (fun _ w => match w with
    | .spawn _ _ i a => i == issue && !a
    | _ => false))

/-- A lane's waiting item. -/
def waitingItem (l : Lane) : Option (Nat × List Word × Nat) :=
  let at_ (q : Pos) : Option (Nat × List Word × Nat) := match q.st with
    | .waiting (.spawn e p i false) => some (e, p, i)
    | _ => none
  (at_ l.pos).or (l.held.bind at_)

/-- Mark a lane's item accepted. -/
def markAccepted (issue : Nat) (q : Pos) : Pos :=
  match q.st with
  | .waiting (.spawn e p i _) => if i == issue then { q with st := .waiting (.spawn e p i true) } else q
  | _ => q

/-- A waiting item is accepted, in ascending lane order; with the last one the group goes on. A stopped lane offers nothing
(08 R207, 14 R286, 15 R303). -/
def execSpawnOfferAccept (span lane : Nat) (s : State) : Out' :=
  .next (match s.span? span with
    | none => s
    | some sp =>
      match waitingItem (sp.lane lane), spanEnv s sp, s.deck? sp.deck with
      | some (e, p, i), some (l, cx), some d =>
        if !spanActs s sp || (unaccepted sp i).head? != some lane || !hasLane sp.movable lane then s else
        match offerItem s (segOf d.pier) cx.num ⟨cx.num, l.uid, e, p, i, lane, d.uid⟩ with
        | none => (ringAsks s (segOf d.pier) cx 1).elim s (askPage s)
        | some t =>
          let t := t.modSpan span (fun x => x.modLane lane (Lane.mapPos (markAccepted i)))
          if (unaccepted sp i).length ≤ 1 then
            t.modSpan span (Span.leaveIf (fun _ w => match w with
              | .spawn _ _ j _ => j == i
              | _ => false))
          else t
      | _, _, _ => s)

/-- The launch an overflow entry names: its queue's, by ring index (14 R286). -/
def entryLaunch (s : State) (ctx : Nat) (bs : List Byte) : Option Launch :=
  s.launches.find? (fun l => l.ctx == ctx && l.queue == fieldOf bs 24 2 && l.rdidx == fieldOf bs 26 4)

/-- Where a context's oldest overflow entry lies. -/
def Context.ovfAddr (cx : Context) : Nat := cx.d.ovfBase + 32 * (cx.ovfHead % cx.d.ovfCount)

/-- The item of a context's oldest overflow entry, with its launch; none where the entry cannot be read or names no launch. -/
def oldestItem (s : State) (cx : Context) : Option (Launch × Item) := do
  let id ← cx.ovfIssue.head?
  let bs ← ctxRead s cx cx.ovfAddr 32
  let l ← entryLaunch s cx.num bs
  return (l, ⟨cx.num, l.uid, fieldOf bs 0 8, (List.range 4).map (fun i => BitVec.ofNat 32 (fieldOf bs (8 + 4 * i) 4)), id.issue, id.lane, id.deck⟩)

/-- Whether a context's oldest overflow entry may move to a segment's queue: to the one of the span that issued it, on which its span is placed
(14 R286, R287; log 51). -/
def mayDrain (s : State) (seg : Nat) (cx : Context) : Bool :=
  cx.ovfHead != cx.ovfTail && (oldestItem s cx).isSome && cx.ovfIssue.head?.elim false (fun x => x.seg == seg)

/-- The context whose overflow ring a segment serves next, round-robin (14 R286). -/
def nextServed (s : State) (seg : Nat) : Option Nat :=
  let all := (s.ctxs.filter (mayDrain s seg)).map (·.num)
  ((all.filter (fun n => decide ((s.seg seg).served < n))).min?).or all.min?

/-- Dropped entries at the head of an overflow ring give their room back (14 R395). -/
def trimRing : List RingItem → Context → Context
  | [], c => { c with ovfIssue := [] }
  | e :: t, c => if e.issue = 0 then trimRing t { c with ovfHead := c.ovfHead + 1 } else { c with ovfIssue := e :: t }

/-- The oldest overflow entry of the context whose turn it is moves into a segment queue with room (14 R286). -/
def execOverflowDrain (seg ctx : Nat) (s : State) : Out' :=
  .next (match s.ctx? ctx with
    | none => s
    | some cx =>
      match (if cx.ovfHead = cx.ovfTail then Tr.absent else translate s cx false .read cx.ovfAddr) with
      | .ask p => askPage s p
      | _ =>
      if 8 ≤ seg || 4096 ≤ (s.seg seg).spawnQ.length || nextServed s seg != some ctx then s else
      match oldestItem s cx with
      | none => s
      | some (_, it) =>
        let s := s.modCtx ctx (fun c => trimRing c.ovfIssue.tail { c with ovfHead := c.ovfHead + 1 })
        s.modSeg seg (fun g => { g with spawnQ := g.spawnQ ++ [it], served := ctx }))

/-- Drop the spawn items that p admits, by launch and deck, and free what overflow entries they leave at a ring's head (14 R395). -/
def dropItems (s : State) (ctx : Nat) (p : Nat → Nat → Bool) : State :=
  let s := s.modCtx ctx (fun c => trimRing (c.ovfIssue.map (fun x => if p x.launch x.deck then { x with issue := 0 } else x)) c)
  { s with segs := s.segs.map (fun (g : Seg) =>
      { g with spawnQ := g.spawnQ.filter (fun x => !p x.launch x.deck),
               emitted := (g.emitted.map (fun is => is.filter (fun x => !p x.launch x.deck))).filter (fun is => is != []) }) }

/-- Whether every item of a spawn has arrived at the queue (14 R288). -/
def allArrivedItems (s : State) (ctx issue : Nat) : Bool :=
  s.spans.all (fun x => unaccepted x issue == []) && (s.ctx? ctx).elim true (fun c => c.ovfIssue.all (fun x => x.issue != issue))

/-- Spans of at most 32 items. -/
def chunkItems : Nat → List Item → List (List Item)
  | 0, _ => []
  | _ + 1, [] => []
  | n + 1, l => l.take 32 :: chunkItems n (l.drop 32)

/-- Take items out of the segments' queues and emit spans of them on one segment. -/
def emitItems (s : State) (seg : Nat) (p : Item → Bool) (spans : List (List Item)) : State :=
  preemptHigher <| { s with segs := s.segs.map (fun (g : Seg) => { g with spawnQ := g.spawnQ.filter (fun x => !p x) }) }.modSeg seg
    (fun g => { g with emitted := g.emitted ++ spans })

/-- The items of one launch and entry in a segment's queue. -/
def sameItems (s : State) (seg launch : Nat) (entry : DWord) : List Item :=
  (s.seg seg).spawnQ.filter (fun x => x.launch == launch && x.entry == entry.toNat)

/-- The items of one spawn, in whatever segment's queue they lie, by lane (14 R288). -/
def issueItems (s : State) (issue : Nat) : List Item :=
  ((s.segs.flatMap (·.spawnQ)).filter (fun y => y.issue == issue)).insertionSort (fun a b => a.lane ≤ b.lane)

/-- 32 items of one launch and entry form a span; with DETERM the items of one spawn do, by lane, also those that an overflow ring has led to
another segment (14 R286, R288). -/
def execSpawnSpanEmit (seg launch : Nat) (entry : DWord) (s : State) : Out' :=
  .next (match s.launch? launch with
    | none => s
    | some l =>
      let items := sameItems s seg launch entry
      if l.determ then
        match items.find? (fun x => allArrivedItems s x.ctx x.issue) with
        | none => s
        | some x =>
          let mine := issueItems s x.issue
          emitItems s seg (fun y => y.issue == x.issue) (chunkItems mine.length mine)
      else if items.length < 32 then s
      else
        let mine := items.take 32
        emitItems s seg (fun y => mine.contains y) [mine])

/-- 256 cycles after the last item a part-filled span is emitted (14 R286). -/
def execSpawnPackTimeout (seg launch : Nat) (entry : DWord) (s : State) : Out' :=
  .next (match s.launch? launch with
    | none => s
    | some l =>
      let items := (sameItems s seg launch entry).take 32
      if l.determ || items == [] then s else emitItems s seg (fun y => items.contains y) [items])

/-- A spawned span is placed as a deck of its own (14 R287; log 21). -/
def execSpawnedSpanPlace (seg idx pier : Nat) (s : State) : Out' :=
  .next (match (s.seg seg).emitted[idx]? with
    | none => s
    | some items =>
      match ((items.head?).bind (fun x => s.launch? x.launch)).bind (fun l => (s.ctx? l.ctx).map (fun c => (l, c))), (items.head?).isSome with
      | some (l, cx), true =>
        let regs := childRegs items (Config.freeSlot s.free)
        let slots := childSlots items
        if (s.queue? l.queue).elim true (·.destroying) || !(Want.mk 1 [] none l.childNeed (some seg) slots).allowed s cx l [pier] then s else
        let x := (Config.spawnedCoord s.free).toNat
        let y := (Config.spawnedCoord (s.free + 1)).toNat
        let z := (Config.spawnedCoord (s.free + 2)).toNat
        let g := newGirder s.fresh l.uid x y z 1 (trussOf pier)
        let s := { s with girders := s.girders ++ [g], fresh := s.fresh + 1, free := s.free + 4 }
        let s := s.modSeg seg (fun k => { k with emitted := k.emitted.eraseIdx idx })
        let s := placeDeck s g 0 pier l.childNeed (min l.ceil 512) (fun _ => 0#2) (fun _ _ => regs)
          (fun _ i => newLane ((items[i]?).elim 0 (·.entry)) l.priv (decide (i < items.length))) true
        let s := s.modPier pier (fun p => { p with pool := p.pool - slots })
        preemptHigher (forgetChosen { s with spans := s.spans.map (fun v => if (s.deck? v.deck).elim false (fun d => d.girder == g.uid) then
            { v with grant := slots, used := slots } else v) } l.queue)
      | _, _ => s.modSeg seg (fun k => { k with emitted := k.emitted.eraseIdx idx }))

/-! ## Completion and doorbells -/

/-- Whether an item of the launch waits in a queue or a ring, or as an emitted span (14 R289). -/
def hasItems (s : State) (l : Launch) : Bool :=
  s.segs.any (fun g => g.spawnQ.any (fun x => x.launch == l.uid) || g.emitted.any (fun is => is.any (fun x => x.launch == l.uid))) ||
  (s.ctx? l.ctx).elim false (fun cx => cx.ovfIssue.any (fun x => x.issue != 0 && x.launch == l.uid))

/-- Whether every girder and every spawned span of a launch has retired and no item is left (14 R289). -/
def launchDone (s : State) (l : Launch) : Bool :=
  l.nextGirder == l.girders && s.girders.all (fun g => g.launch != l.uid) && !hasItems s l

/-- A launch completes: its completion word, RDIDX, and a queue that stops after an aborted one (14 R281, R289, 15 R310). -/
def execLaunchComplete (queue : Nat) (s : State) : Out' :=
  match (s.queue? queue).bind (fun q => q.launch.bind (fun u => s.launch? u)), (queueCtx s queue).bind (fun n => s.ctx? n) with
  | some l, some cx =>
    if !launchDone s l then .next s else
    match asksFor s cx l.compl with
    | some p => .next (askPage s p)
    | none =>
      let t := endLaunch s l (if l.discarded then 0x0300 else if l.aborted then 0x0200 else 0)
      .next (preemptHigher (mapWaiting (if l.aborted then setQueueField t queue 0x18 4 2 else t)))
  | _, _ => .next s

/-- A doorbell write (20 R367). -/
def execDoorbell (off size val : Nat) (s : State) : Out' :=
  .next (if size != 8 || off < 0x80000 || 0x100000 ≤ off || off % 8 != 0 || s.trust.recovery then s else
    let q := (off - 0x80000) / 8
    match s.queue? q with
    | none => s
    | some x =>
      let v := val % 2 ^ 32
      let ahead := (v + 2 ^ 32 - wrIdx s q) % 2 ^ 32
      let posted := (v + 2 ^ 32 - rdIdx s q) % 2 ^ 32
      if 2 ^ 31 ≤ ahead then s
      else if queueField s q 0x08 4 < posted then setQueueField s q 0x18 4 2
      else
        let s := setQueueField s q 0x10 4 v
        if qState s q == 1 && !x.destroying then preemptHigher (mapQueue s q) else s)

end Sys2Proof.Machine
end

