-- ==== Sys2Proof/Machine/Parking.lean ====
section
/-! DEFINITION. Parking, resumption, migration between piers, and the forced reset of a context (14 R290-R296, 15 R316-R322). -/

namespace Sys2Proof.Machine

/-! ## Parking (14 R291-R293) -/

/-- Save-area bytes that decks of a context take: saved and stopping ones, and images that V could not hold (14 R293, 15 R318). -/
def pledgedBytes (s : State) (ctx : Nat) : Nat :=
  ((s.decks.filter (fun d => (deckLaunch s d).elim false (fun l => l.ctx == ctx))).map (fun d => match d.status with
    | .parking | .migrating _ | .saving _ => imageBytes s d
    | _ => d.imageBytes)).sum

/-- Whether a deck can begin to park. -/
def mayPark (d : Deck) : Bool :=
  !d.noPark && match d.status with
    | .running | .clearing | .retired => true
    | _ => false

/-- A girder with a member on V parks whole, or is abandoned where the save area is too small (14 R291, R293). -/
def parkGirder (s : State) (cx : Context) (g : Girder) : State :=
  let decks := s.decksOf g.uid
  if pledgedBytes s cx.num - (decks.map (·.imageBytes)).sum + (decks.map (imageBytes s)).sum ≤ cx.d.saveSize then
    decks.foldl (fun s d => stopDeck s d.uid .parking) s
  else
    decks.foldl (fun s d => postEvent (s.modDeck d.uid (fun x => { x with noPark := true })) 0x0004 cx.num
      (natBytes 2 d.pier ++ natBytes 1 d.slot)) s

/-- The deadline timer reaches PARKLEAD (14 R291). -/
def execParkleadReached (ctx : Nat) (s : State) : Out' :=
  .next (match s.ctx? ctx with
    | none => s
    | some cx =>
      match cx.timer with
      | none => s
      | some t =>
        if s.time + 1000 * cx.d.parklead < t then s else
        (s.girders.filter (fun g => (s.launch? g.launch).elim false (fun l => l.ctx == ctx && l.parkable) &&
          (s.decksOf g.uid).all mayPark && (s.decksOf g.uid).any (fun d => cx.vacating.contains d.pier))).foldl (fun s g => parkGirder s cx g) s)

/-- Whether the save area has room for the images of a deck's girder beside what the context's other decks take (15 R316). -/
def saveRoom (s : State) (d : Deck) : Bool :=
  (deckLaunch s d).elim true (fun l => (s.ctx? l.ctx).elim true (fun cx =>
    let mates := (s.decksOf d.girder).filter Deck.resident
    let own := (mates.map (fun e => match e.status with
      | .parking | .migrating _ | .saving _ => imageBytes s e
      | _ => e.imageBytes)).sum
    decide (pledgedBytes s cx.num - own + (mates.map (imageBytes s)).sum ≤ cx.d.saveSize)))

/-- A stopping deck has quiesced: its image is written from here on, a migrating one's once the save area has room (14 R291, R292,
15 R316). -/
def execDeckQuiesced (deck : Nat) (s : State) : Out' :=
  .next (match s.deck? deck with
    | none => s
    | some d =>
      if quiesced s deck && (s.spansOf deck).all (fun x => x.pending.isNone) && (d.status == .parking || saveRoom s d) then
        s.modDeck deck (fun x => { x with status := match d.status with
          | .parking => .saving none
          | .migrating g => .saving (some g)
          | st => st })
      else s)

/-! ## The forced reset (14 R295, R296) -/

/-- Whether each access in flight is performed at a forced reset is open (14 R295; log 26). -/
def maybe (s : State) (id i : Nat) (t : State) : State := if Config.performed s.steps id i then t else s

/-- The single-copy-atomic parts of a store: a quad is two of them (10 R248). -/
def Acc.parts (a : Acc) : List (Loc × List Byte) :=
  if a.data.length ≤ 8 then [(a.loc, a.data)] else [(a.loc, a.data.take 8), (a.loc.plus 8, a.data.drop 8)]

/-- An outstanding piece of work at a forced reset: each access, contribution and element performed or not, nothing written to registers,
tokens or tags. What a `cpl` would write is deck memory, which the reset discards. -/
def abandonWork (s : State) (w : Work) : State :=
  match w.kind with
  | .store => (w.accs.flatMap Acc.parts).zipIdx.foldl (fun t a => maybe t w.id a.2 (writeLocs t a.1.1 a.1.2)) s
  | .atomic op cas _ => (w.accs.zipIdx).foldl (fun t a => maybe t w.id a.2 (atomicLanes op cas [a.1] t []).1) s
  | .red op => ((combine (atomicValue op) w.accs []).zipIdx).foldl (fun t x => maybe t w.id x.2
      (writeKeeping t x.1.1 (natBytes x.1.2.1 (atomicValue op (valueAt t x.1.1 x.1.2.1) x.1.2.2).toNat))) s
  | .redx _ => ((combine (fun a b => a + b) w.accs []).zipIdx).foldl (fun t x => maybe t w.id x.2
      (writeKeeping t x.1.1 (natBytes x.1.2.1 (valueAt t x.1.1 x.1.2.1 + x.1.2.2).toNat))) s
  | .copy c =>
    if c.suspended || c.dead || c.cut || c.bad || !c.joined then s else
    (List.range (c.total - c.next)).foldl (fun t i =>
      maybe t w.id i (match tryPiece t w { c with next := c.next + i } with
        | .ok u => u
        | .error _ => t)) s
  | _ => s

/-- The grace periods of a context at its forced reset: none is left open, every entry is due (17 R353). -/
def Grace.reset (g : Grace) : Grace :=
  let n := g.started + (if g.pend && g.started != g.completed then 1 else 0)
  { g with started := n, completed := n, pend := false, holders := [], stalled := false }

/-- FORCED RESET of a context (14 R295, R296): its spans stop, its state is discarded, its launches end with RESET, its queues enter
state 2 and the host is told. -/
def resetContext (s : State) (ctx : Nat) : State :=
  match s.ctx? ctx with
  | none => s
  | some cx =>
    let mine (d : Deck) : Bool := (deckLaunch s d).elim false (fun l => l.ctx == ctx)
    let decks := s.decks.filter mine
    let spans := decks.flatMap (fun d => s.spansOf d.uid)
    let ofSpan (u : Nat) : Bool := spans.any (fun x => x.uid == u)
    let s := (s.works.filter (fun w => ofSpan w.span)).foldl abandonWork s
    let s := spans.foldl (fun s x => loosePages s x.uid x.sent) s
    let s := (s.launches.filter (fun l => l.ctx == ctx)).foldl (fun s l => completeOrOwe s cx ⟨ctx, l.queue, l.rdidx, l.compl, 0x0100⟩) s
    let s := (s.queues.filter (fun q => q.ctx == ctx)).foldl (fun s q => setQueueField s q.num 0x18 4 2) s
    let s := decks.foldl (fun s d => if d.resident then s.modPier d.pier (fun p =>
        { p with pool := p.pool + ((s.spansOf d.uid).map (·.grant)).sum, owner := if p.owner == some d.uid then none else p.owner })
      else s) s
    let keepDecks := s.decks.filter (fun d => !mine d)
    let keepGirders := s.girders.filter (fun g => (s.launch? g.launch).elim false (fun l => l.ctx != ctx))
    let hw := s.hw.map (fun (h : HwSlot) => if h.queue.bind (queueCtx s) == some ctx then
        (if h.leaving then HwSlot.mk none 0 0 [] [] false else { h with preempt := [], chosen := [] }) else h)
    let waves := s.waves.map (fun (ws : List Wave) => ws.map (fun w => Wave.mk (w.spans.filter (fun x => !ofSpan x.1))))
    let segs := s.segs.map (fun (g : Seg) => { g with spawnQ := g.spawnQ.filter (fun x => x.ctx != ctx),
                                                      emitted := g.emitted.filter (fun is => is.all (fun x => x.ctx != ctx)) })
    let piers := s.piers.map (fun (p : Pier) => { p with growQ := p.growQ.filter (fun x => !ofSpan x.1),
                                                         latch := p.latch.map (fun z => z.filter (fun e => !ofSpan e.span)) })
    let queues := s.queues.map (fun (q : Queue) => if q.ctx == ctx then { q with launch := none } else q)
    let s := { s with works := s.works.filter (fun w => !ofSpan w.span && !w.orphanOf ctx), spans := s.spans.filter (fun x => !ofSpan x.uid),
                      decks := keepDecks, girders := keepGirders, launches := s.launches.filter (fun l => l.ctx != ctx),
                      issuing := s.issuing.filter (fun i => !ofSpan i.span), cur := none, waves := waves, segs := segs,
                      piers := piers, queues := queues, hw := hw }
    let s := s.modCtx ctx (fun c =>
      { c with tl := List.replicate 16 ⟨0, 0, []⟩, ovfHead := 0, ovfTail := 0, ovfIssue := [], timer := none, vacate := [],
               resets := c.resets + 1, gp := c.gp.reset })
    let s := loadCtx s ctx
    let ended := cx.gp.reset.completed - cx.gp.completed
    let s := if ended = 0 then s else countDev s 0x42 ended
    sendAllPages (countDev (postEvent s 0x0001 ctx (natBytes 4 cx.d.deadline)) 0x44 1)

/-- The deadline expires with a deck of the context still on V and not parked (14 R295). -/
def execDeadlineExpiry (ctx : Nat) (s : State) : Out' :=
  .next (match s.ctx? ctx with
    | none => s
    | some cx =>
      match cx.timer with
      | none => s
      | some t =>
        if t ≤ s.time && (ctxDecks s ctx).any (fun d => cx.vacating.contains d.pier) then mapWaiting (resetContext s ctx) else s)

/-! ## Discarding the decks of a destroyed queue (14 R395) -/

/-- The copies a discarded deck left running: what can still land does, and their numbers complete (log 27). The source of a girder's
collective stays readable for the other members (07 R188). -/
def finishLoose (s : State) (w : Work) : State :=
  match w.kind with
  | .copy c =>
    if c.dead then s else
    let s := if c.suspended || c.cut || c.bad || !c.joined then s else
      (List.range (c.total - c.next)).foldl (fun t i => match tryPiece t w { c with next := c.next + i } with
        | .ok u => u
        | .error _ => t) s
    completeNumber (w.orphan.elim (s.dropWork w.id) (fun v => s.modWork w.id (fun _ => v))) c.ctx c.tl c.num
  | _ => s.dropWork w.id

/-- A saved deck of a destroyed queue is dropped with its spawn items and overflow entries: its spans count as retired. -/
def discardDeck (s : State) (d : Deck) : State :=
  let us := (s.spansOf d.uid).map (·.uid)
  let s := (s.spansOf d.uid).foldl (fun s x => loosePages s x.uid x.sent) s
  let s := (s.works.filter (fun w => us.contains w.span)).foldl finishLoose s
  let s := match deckLaunch s d with
    | some l => dropItems (s.modLaunch l.uid (fun x => { x with discarded := true })) l.ctx (fun _ k => k == d.uid)
    | none => s
  retireDeck (barCheckAll { s with spans := s.spans.filter (fun x => x.deck != d.uid) } d.uid d.girder) d

/-- Drop every saved deck of a queue's launch. -/
def discardSaved (s : State) (q : Nat) : State :=
  (s.decks.filter (fun d => !d.resident && (deckLaunch s d).elim false (fun l => l.queue == q))).foldl discardDeck s

/-! ## Saved decks leave and arrive -/

/-- A deck's image is written and its pier's resources return (14 R291, 15 R317). -/
def execParkSaveDone (deck : Nat) (s : State) : Out' :=
  .next (match s.deck? deck with
    | none => s
    | some d =>
      match d.status with
      | .saving target =>
        let s := vacateDeck s deck (target.elim .parked .moving)
        let s := if target.isSome then countPier s d.pier 0x0D 1 else s
        let s := match deckLaunch s d with
          | some l =>
            let s := if (s.queue? l.queue).elim false (·.destroying) then discardSaved s l.queue else s
            settleVacate s l.ctx
          | none => s
        preemptHigher s
      | _ => s)

/-- Apply what was held while the decks were saved: tokens of copies that have completed, and copies whose pieces have all landed, which write
their tokens and complete (14 R292, 15 R319). -/
def applyHeld (s : State) : State :=
  s.works.foldl (fun s w => match w.kind with
    | .token n => if imageShut s (workDeck s w) then s else landToken s w n
    | _ => match execCopyCompletion w.id s with
      | .next t => t
      | _ => s) s

/-- Put a saved girder's decks on piers, in member order, once no frame's page has to be asked for; every frame is read before one is
written (15 R304; log 76). -/
def arriveGirder (s : State) (cx : Context) (queue girder : Nat) (piers : List Nat) : State :=
  let pairs := (s.decksOf girder).zip piers
  match pairs.findSome? (fun x => arriveAsks s cx x.1.uid x.2) with
  | some page => askPage s page
  | none =>
    let t := pairs.foldl (fun s x => arriveDeck s x.1.uid x.2) s
    preemptHigher (forgetChosen (applyHeld ((girderMoves s cx pairs).foldl (fun s m => moveFrame s cx m) t)) queue)

/-- What a saved girder waits for, with its launch and context. -/
def savedWant (s : State) (girder : Nat) : Option (Want × Launch × Context) := do
  let g ← s.girder? girder
  let l ← s.launch? g.launch
  let cx ← s.ctx? l.ctx
  let w ← (savedWants s l).find? (fun w => w.decks.any (fun d => d.girder == girder))
  return (w, l, cx)

/-- A saved girder is placed again, parked or between piers in a migration, unless its queue is being destroyed; an image that does not match
its digest resets the context (14 R293-R295). -/
def placeSaved (parked : Bool) (girder : Nat) (piers : List Nat) (s : State) : State :=
  match savedWant s girder with
  | some (w, l, cx) =>
    if w.parked != parked || (s.queue? l.queue).elim true (·.destroying) || !w.allowed s cx l piers then s
    else if w.decks.any (·.tampered) then mapWaiting (resetContext s l.ctx)
    else arriveGirder s cx l.queue girder piers
  | none => s

/-- A parked girder is placed again and its spans resume (14 R294). -/
def execDeckResume (girder : Nat) (piers : List Nat) (s : State) : Out' := .next (placeSaved true girder piers s)

/-- A saved migrating girder is placed on capable piers of the other grade and its spans resume (15 R317). -/
def execMigrationPlace (girder : Nat) (piers : List Nat) (s : State) : Out' := .next (placeSaved false girder piers s)

end Sys2Proof.Machine
end

