-- ==== Sys2Proof/Machine/Grace.lean ====
section
/-! DEFINITION. The grace-period engine and the release ring (17 R345-R354). -/

namespace Sys2Proof.Machine

/-! ## Quiescence and periods -/

/-- The engine observes a span's quiescence (17 R346, R347). -/
def execGpQuiescenceChange (span : Nat) (s : State) : Out' := .next (observeQuiet s span)

/-- The spans a period still waits for (17 R347). -/
def holdersLeft (s : State) (g : Grace) : List Nat := g.holders.filter (fun u => (s.span? u).isSome)

/-- Period g completes; a pending one starts in the same cycle (17 R347). -/
def execGpComplete (ctx : Nat) (s : State) : Out' :=
  .next (match s.ctx? ctx with
    | none => s
    | some c =>
      if c.gp.started ≤ c.gp.completed || holdersLeft s c.gp != [] then s else
      let h := readers s ctx
      let s := s.modCtx ctx (fun c =>
        let done := c.gp.completed + 1
        if c.gp.pend then
          { c with gp := { started := done + 1, completed := done, pend := false, holders := h, since := s.time, stalled := false } }
        else { c with gp := { c.gp with completed := done, holders := [] } })
      settleAll (countDev s 0x42 1))

/-- Order of the spans a stall names: pier, then span slot (17 R354). -/
def stallKey (s : State) (sp : Span) : Nat := (s.deck? sp.deck).elim 0 (·.pier) * 64 + sp.rslot

/-- A deck is parked or migrating: one whose park is not over is not parked yet (15 R295, 17 R354). -/
def DeckStatus.away : DeckStatus → Bool
  | .migrating _ | .saving (some _) | .parked | .moving _ => true
  | .clearing | .running | .parking | .saving none | .retired => false

/-- GP_STALL's payload after g: unobserved spans, and the first of them (17 R354, 20 R368). -/
def stallBytes (s : State) (left : List Span) : List Byte :=
  match left with
  | [] => natBytes 4 0
  | a :: rest =>
    let x := rest.foldl (fun b y => if stallKey s y < stallKey s b then y else b) a
    let d := s.deck? x.deck
    natBytes 4 left.length ++ natBytes 2 (d.elim 0 (·.pier)) ++ natBytes 1 (d.elim 0 (·.slot)) ++ natBytes 1 x.idx ++
    natBytes 1 (d.elim 0 (fun d => if d.status.away then 1 else 0))

/-- A period that lasts GPLIMIT is reported once (17 R354). -/
def execGpStall (ctx : Nat) (s : State) : Out' :=
  .next (match s.ctx? ctx with
    | none => s
    | some c =>
      if c.gp.started ≤ c.gp.completed || c.gp.stalled || c.d.gpLimit = 0 || s.time < c.gp.since + 1000 * c.d.gpLimit then s else
      let left := (holdersLeft s c.gp).filterMap (fun u => s.span? u)
      let s := postEvent s 0x0003 ctx (natBytes 8 (c.gp.completed + 1) ++ stallBytes s left)
      s.modCtx ctx (fun c => { c with gp := { c.gp with stalled := true } }))

/-! ## The release ring (17 R343, R350, R351) -/

/-- RELWR and RELRD in the context descriptor. -/
def relWr (s : State) (c : Context) : Nat := devNat s (c.desc + 0x070) 4
def relRd (s : State) (c : Context) : Nat := devNat s (c.desc + 0x074) 4
/-- The ring is full, also where RELRD lies beyond RELWR. -/
def ringFull (s : State) (c : Context) : Bool := decide (c.d.relCount ≤ (relWr s c + 2 ^ 32 - relRd s c) % 2 ^ 32)

/-- Where the release ring's next entry goes. -/
def relAddr (s : State) (c : Context) : Nat := c.d.relBase + 16 * (relWr s c % c.d.relCount)

/-- Move due entries in order while the ring has room; a write that fails is reported once until one succeeds (17 R350, R351). -/
def moveDue : Nat → State → Nat → State
  | 0, s, _ => s
  | n + 1, s, ctx =>
    match s.ctx? ctx with
    | none => s
    | some c =>
      match c.deferred with
      | [] => s
      | (a, len, g) :: rest =>
        if c.gp.completed < g || ringFull s c then s else
        match translate s c false .write (relAddr s c) with
        | .ok l 0 =>
          let t := writeLocs s l (natBytes 8 a.toNat ++ natBytes 4 len.toNat ++ natBytes 4 g)
          let t := writeLocs t (.dev (c.desc + 0x070)) (natBytes 4 ((relWr s c + 1) % 2 ^ 32))
          moveDue n (t.modCtx ctx (fun c => { c with deferred := rest, relFault := false })) ctx
        | .ask p => askPage s p
        | _ =>
          if c.relFault then s else
          (postEvent s 0x0006 ctx (natBytes 8 (relAddr s c))).modCtx ctx (fun c => { c with relFault := true })

/-- Move what is due of a context. -/
def moveAllDue (s : State) (ctx : Nat) : State := moveDue ((s.ctx? ctx).elim 0 (·.deferred.length)) s ctx

/-- Due entries move to the ring (17 R350). -/
def execDfreeRelease (ctx : Nat) (s : State) : Out' := .next (if (s.ctx? ctx).elim true (·.relFault) then s else moveAllDue s ctx)
/-- The engine reads RELRD again and tries a failed write again; a host page that had no translation is asked for again (17 R351, 20 R371). -/
def execRelringRetry (ctx : Nat) (s : State) : Out' := .next (moveAllDue s.forgetAbsent ctx)

end Sys2Proof.Machine
end

