-- ==== Sys2Proof/Machine/Registers.lean ====
section
/-! DEFINITION. Performance levels, management registers, counters, power, errors and refresh (14 R298, 21 R376-R390, 20 R365, R368). -/

namespace Sys2Proof.Machine

/-! ## Levels (14 R298, 21 R376, R377) -/

/-- Guard-banded core voltage of a level, in mV (21 R376). -/
def guardVolt (level : Nat) : Nat := ([450, 500, 540, 580, 620, 660, 700, 750] : List Nat).getD level 750

/-- A deck's request, clamped to its context's cap: none where no live lane recorded one (08 R208, 14 R298). -/
def deckRequest (s : State) (d : Deck) : Option Nat :=
  let rs := ((s.spansOf d.uid).flatMap (fun x => x.lanes)).filterMap (fun l => if l.pos.st == .exited then none else l.plvl.map (·.toNat))
  let cap := ((deckLaunch s d).bind (fun l => s.ctx? l.ctx)).elim 7 (·.d.plvlcap)
  match rs with
  | [] => none
  | _ => some (min (rs.foldl max 0) cap)

/-- The level that R298 chooses for a segment. -/
def chosenLevel (s : State) (k : Nat) : Nat :=
  match (s.decks.filter (fun d => d.resident && segOf d.pier == k)).filterMap (deckRequest s) with
  | [] => s.mgmt.floor.getD k 4
  | r :: rs => rs.foldl max r

/-- The effective level: the lowest of the chosen level and the three caps (21 R377). -/
def effectiveLevel (s : State) (k : Nat) : Nat :=
  let g := s.seg k
  min (min (chosenLevel s k) g.powerCap) (min g.currentCap g.thermalCap)

/-- VOLT of a segment at a level (21 R383). -/
def voltOf (level uvoff : Nat) : Nat := max (guardVolt level - uvoff) 450

/-- The segment takes its effective level; during a voltage restore the change waits (21 R377, R384). -/
def applyLevel (s : State) (k : Nat) : State :=
  let c := chosenLevel s k
  let e := effectiveLevel s k
  s.modSeg k (fun g => if g.restoring then { g with chosen := c } else { g with chosen := c, level := e, volt := voltOf e g.uvoff })

def execLevelChange (seg : Nat) (s : State) : Out' := .next (applyLevel s seg)

/-! ## Counters' registers (21 R390) -/

/-- Source classes: 0 none, 1 pier, 2 segment, 3 device. -/
def sourceClass (c : Nat) : Nat :=
  if 0x01 ≤ c ∧ c ≤ 0x0E then 1 else if 0x20 ≤ c ∧ c ≤ 0x28 then 2 else if 0x40 ≤ c ∧ c ≤ 0x47 then 3 else 0

/-- A select after a host write: one that names a source outside the class or an unlisted code is ignored, writing 1 to OVF clears it. -/
def writeSelect (most : Nat) (old : Word) (v : Nat) : Word :=
  let src := v % 256
  if sourceClass src == 0 || decide (most < sourceClass src) then old
  else BitVec.ofNat 32 (v % 512) ||| (if old.getLsbD 9 && !bitOf v 9 then 0x200#32 else 0#32)

/-- A count after a host write. -/
def writeCount (v : Nat) : DWord := BitVec.ofNat 64 (v % 2 ^ 48)

/-- What only timing decides: counters of such sources advance by amounts the spec leaves open (21 R390; log 14). -/
def timingTick (s : State) : State :=
  let pierSrc : List Nat := [0x01, 0x05, 0x08, 0x09, 0x0C, 0x0E]
  let segSrc : List Nat := [0x20, 0x21, 0x22, 0x25, 0x28]
  let devSrc : List Nat := [0x40, 0x41]
  let amount (i src : Nat) : Nat := Config.counted src (s.steps * 512 + i)
  let s := (List.range 288).foldl (fun s p => pierSrc.foldl (fun s c => countPier s p c (amount p c)) s) s
  let s := (List.range 8).foldl (fun s k => segSrc.foldl (fun s c => countSeg s k c (amount (288 + k) c)) s) s
  devSrc.foldl (fun s c => countDev s c (amount 300 c)) s

/-! ## Host writes to registers (21 R378, 20 R365, R368) -/

def modMgmt (s : State) (f : Mgmt → Mgmt) : State := { s with mgmt := f s.mgmt }
def isPow2 (v lo hi : Nat) : Bool := decide (lo ≤ v) && decide (v ≤ hi) && (List.range 33).any (fun i => v == 2 ^ i)

/-- Event ring control (20 R368). -/
def writeEventReg (s : State) (off size v : Nat) : State :=
  let e := s.events
  if off = 0 ∧ size = 8 then (if v % 128 = 0 then { s with events := { e with base := BitVec.ofNat 64 v } } else s)
  else if off = 8 ∧ size = 4 then (if isPow2 v 16 65536 then { s with events := { e with count := BitVec.ofNat 32 v } } else s)
  else if off = 16 ∧ size = 4 then { s with events := { e with rd := BitVec.ofNat 32 v } }
  else s

/-- UVEN: clearing a bit ends its segment's offset (21 R383). -/
def writeUven (s : State) (v : Nat) : State :=
  let s := modMgmt s (fun m => { m with uven := BitVec.ofNat 8 v })
  { s with segs := s.segs.zipIdx.map (fun x =>
      if bitOf v x.2 || x.1.restoring then x.1 else { x.1 with uvoff := 0, volt := voltOf x.1.level 0 }) }

/-- Counters and their selects, of the device, a segment, or the pier that PIERSEL shows. -/
def writeCounterReg (s : State) (off size v : Nat) : State :=
  if 0x2400 ≤ off ∧ off < 0x2500 ∧ size = 8 ∧ off % 8 = 0 then
    modMgmt s (fun m => { m with cnt := m.cnt.set ((off - 0x2400) / 8) (writeCount v) })
  else if 0x2500 ≤ off ∧ off < 0x2580 ∧ size = 4 ∧ off % 4 = 0 then
    modMgmt s (fun m => { m with sel := m.sel.modify ((off - 0x2500) / 4) (fun o => writeSelect 3 o v) })
  else if 0x2600 ≤ off ∧ off < 0x2A00 ∧ size = 8 ∧ off % 8 = 0 then
    s.modSeg ((off - 0x2600) / 128) (fun g => { g with cnt := g.cnt.set ((off - 0x2600) % 128 / 8) (writeCount v) })
  else if 0x2A00 ≤ off ∧ off < 0x2C00 ∧ size = 4 ∧ off % 4 = 0 then
    s.modSeg ((off - 0x2A00) / 64) (fun g => { g with sel := g.sel.modify ((off - 0x2A00) % 64 / 4) (fun o => writeSelect 2 o v) })
  else if off = 0x2C00 ∧ size = 4 then (if v < 288 then modMgmt s (fun m => { m with pierSel := v }) else s)
  else if 0x2C40 ≤ off ∧ off < 0x2C80 ∧ size = 8 ∧ off % 8 = 0 then
    s.modPier s.mgmt.pierSel (fun p => { p with cnt := p.cnt.set ((off - 0x2C40) / 8) (writeCount v) })
  else if 0x2C80 ≤ off ∧ off < 0x2CA0 ∧ size = 4 ∧ off % 4 = 0 then
    s.modPier s.mgmt.pierSel (fun p => { p with sel := p.sel.modify ((off - 0x2C80) / 4) (fun o => writeSelect 1 o v) })
  else s

/-- A management register: a value outside its limits is ignored (21 R378). -/
def writeMgmtReg (s : State) (off size v : Nat) : State :=
  if off = 0x2000 ∧ size = 8 then
    (if 500 ≤ v % 65536 ∧ v % 65536 ≤ 2000 then modMgmt s (fun m => { m with plimit := v % 65536 }) else s)
  else if off = 0x2008 ∧ size = 4 then (if 1 ≤ v ∧ v ≤ 1000 then modMgmt s (fun m => { m with quantum := v }) else s)
  else if off = 0x2010 ∧ size = 8 then modMgmt s (fun m => { m with floor := (List.range 8).map (fun k => bitsOf v (3 * k) 3) })
  else if off = 0x2018 ∧ size = 4 then writeUven s v
  else if off = 0x201C ∧ size = 4 then (if 1 ≤ v ∧ v ≤ 65535 then modMgmt s (fun m => { m with uvthr := v }) else s)
  else if 0x2100 ≤ off ∧ off < 0x2220 ∧ size = 8 ∧ off % 8 = 0 then
    (if v % 256 = 0 then s else modMgmt s (fun m => { m with tslope := m.tslope.set ((off - 0x2100) / 8) (BitVec.ofNat 16 v) }))
  else if off = 0x2300 ∧ size = 8 then
    (if v % 2 ^ 20 = 0 ∧ v < 2 ^ 39 then modMgmt s (fun m => { m with refmap := BitVec.ofNat 64 v }) else s)
  else writeCounterReg s off size v

/-! ## The power limit, current, undervolting, temperature (21 R377-R385) -/

/-- The segment to lower: the highest POWER whose effective level is above its floor, ties to the lowest number (21 R379). -/
def lowerPick (s : State) : Option Nat :=
  ((List.range 8).filter (fun k => decide (s.mgmt.floor.getD k 4 < effectiveLevel s k))).foldl (fun (b : Option Nat) k => match b with
    | none => some k
    | some j => if (s.seg j).power < (s.seg k).power then some k else b) none

/-- A telemetry tick: package power, segment powers and currents, and one step of the limit (21 R379). -/
def execPowerLimitTick (average : Nat) (powers : List Nat) (s : State) : Out' :=
  .next (
    let s := timingTick (modMgmt s (fun m => { m with pkgpwr := average % 65536 }))
    let s := { s with segs := s.segs.zipIdx.map (fun x =>
      { x.1 with power := powers.getD x.2 x.1.power % 65536, current := Config.currentSample s.steps x.2 % 501 }) }
    if s.mgmt.plimit < average then
      match lowerPick s with
      | some k => s.modSeg k (fun g => { g with powerCap := effectiveLevel s k - 1 })
      | none => s
    else if average + 50 < s.mgmt.plimit then
      match (List.range 8).find? (fun k => decide ((s.seg k).powerCap < chosenLevel s k)) with
      | some k => s.modSeg k (fun g => { g with powerCap := if g.powerCap + 1 < chosenLevel s k then g.powerCap + 1 else 7 })
      | none => s
    else s)

/-- A segment whose current would exceed 500 A skips cycles; the cap this imposes is not stated (21 R377; log 24). -/
def execCurrentLimitSkip (seg amps : Nat) (s : State) : Out' :=
  .next (if 8 ≤ seg then s else
    let s := s.modSeg seg (fun g =>
      { g with current := min amps 500, currentCap := if 500 < amps then Config.currentCap s.steps % 8 else 7 })
    if amps ≤ 500 then s else
    ((List.range 288).filter (fun p => segOf p == seg)).foldl (fun s p => countPier s p 0x0E (Config.counted 0x0E (s.steps * 512 + p))) s)

/-- Corrected SRAM errors of a segment in the last second (21 R383). -/
def sramRate (s : State) (k : Nat) : Nat := ((s.seg k).corrected.filter (fun x => !x.2 && decide (s.time < x.1 + 10 ^ 9))).length
/-- Corrected errors of a segment in the last second (21 R388). -/
def errorRate (s : State) (k : Nat) : Nat := ((s.seg k).corrected.filter (fun x => decide (s.time < x.1 + 10 ^ 9))).length

/-- The offset of an enabled segment is adjusted (21 R383). -/
def execUndervoltAdjust (seg : Nat) (s : State) : Out' :=
  .next (if 8 ≤ seg || !s.mgmt.uven.getLsbD seg || (s.seg seg).restoring then s else
    let off (g : Seg) : Nat := if sramRate s seg < s.mgmt.uvthr then min (g.uvoff + 5) 75 else g.uvoff - 10
    s.modSeg seg (fun g => { g with uvoff := off g, volt := voltOf g.level (off g) }))

/-- The segment that holds a device-physical address in its HBM stack (00 R2, R3, 10 R243). -/
def ownerSeg (pa : Nat) : Nat := pa / 2 ^ 36

/-- A corrected error is counted and changes no value (21 R382); one of the HBM, at a device-physical address of the segment's own stack, is not
counted where it lies in a block declared free of refresh (21 R387). -/
def execEccCorrected (seg : Nat) (hbm : Option Nat) (s : State) : Out' :=
  .next (if 8 ≤ seg || hbm.any (fun addr => ownerSeg addr != seg || declaredOff s addr) then s else
    countSeg (s.modSeg seg (fun g => { g with corrected := g.corrected ++ [(s.time, hbm.isSome)] })) seg 0x23 1)

/-- Whether a device address lies in a page of an area of a context's global addresses. -/
def inArea (s : State) (cx : Context) (base size pa : Nat) : Bool :=
  (List.range ((size + 4095) / 4096)).any (fun i =>
    match translate s cx false .read (base + 4096 * i) with
    | .ok (.dev p) _ => p / 4096 == pa / 4096
    | _ => false)

/-- Poison the n-th aligned 32 bytes of a deck's private memory: one word of eight lanes (10 R244). -/
def poisonPrivate (s : State) (d : Deck) (priv n : Nat) : State :=
  if priv = 0 then s else
  let w := ((s.spansOf d.uid).head?).elim 32 (·.width)
  let c := n % (d.spans * (priv * w / 32))
  let r := c % (priv * w / 32)
  let lane := c / (priv * w / 32) * w + 8 * (r % (w / 8))
  (List.range 8).foldl (fun s t => poisonLocs s (.priv d.uid (lane + t) (4 * (r / (w / 8)))) 4) s

/-- Poison the aligned 32 bytes at a device-physical address; in a context's private pool they are private bytes of one of its decks,
which ones the manual does not say (10 R244, 21 R382; log 25). -/
def poisonDev (s : State) (base : Nat) : State :=
  let k := Config.privateAt base
  match (s.ctxs.find? (fun cx => inArea s cx cx.d.privBase cx.d.privSize base)).bind (fun cx =>
      (s.deck? k.1).bind (fun d => ((deckLaunch s d).filter (fun l => l.ctx == cx.num)).map (fun l => (d, l)))) with
  | some (d, l) => poisonPrivate s d l.priv k.2
  | none => poisonLocs s (.dev base) 32

/-- The poison an uncorrectable error leaves: the aligned 32 bytes, or register lanes (21 R382). `addr` is the device-physical address,
the lane set of register storage, or the offset in deck memory, weight store or row buffer; `slot` a span or deck slot. -/
def poisonFor (s : State) (struc pier addr slot : Nat) (reg : Reg) : State :=
  let base := addr / 32 * 32
  let bytes := (List.range 32).map (base + ·)
  if struc ≤ 2 then poisonDev s base
  else if struc ≤ 4 then
    match (spansAt s pier).find? (fun x => x.rslot == slot) with
    | some x => s.modSpan x.uid (fun y => { y with poison := y.poison ++ [(reg.toNat, BitVec.ofNat 64 addr &&& lanesBelow y.width)] })
    | none => s
  else if struc = 5 then
    match (decksAt s pier).find? (fun d => d.slot == slot) with
    | some d => if base + 32 ≤ d.memSize then poisonLocs s (.deck d.uid base) 32 else s
    | none => s
  else if struc = 6 then s.modPier pier (fun p => { p with mtx := p.mtx.map (fun m => { m with poisonW := m.poisonW ++ bytes }) })
  else s.modPier pier (fun p => { p with mtx := p.mtx.map (fun m => { m with poisonR := m.poisonR ++ bytes }) })

/-- Whether a segment has such a structure at such a place: its own HBM and L2, and its piers' SRAMs, of which only an M pier's hold a weight
store and a row buffer (00 R1-R4, 08 R191, 10 R243). -/
def eccPlace (seg struc pier addr : Nat) : Bool :=
  decide (seg < 8) &&
  (if struc ≤ 1 then ownerSeg addr == seg
   else decide (pier < 288) && segOf pier == seg &&
    (if struc = 2 then decide (ownerSeg addr < 8)
     else if struc ≤ 4 then true
     else if struc = 5 then decide (addr < deckMemOf pier)
     else if struc = 6 then gradeOf pier == .m && decide (addr < 131072)
     else struc == 7 && gradeOf pier == .m && decide (addr < 98304)))

/-- An uncorrectable error: poison, and ECC_UE, or UV_REVERT where it ends a segment's undervolting; the writer of an L2 line is the context of
its tag (21 R382, R384, R385). -/
def execEccUe (seg struc pier addr slot : Nat) (reg : Reg) (s : State) : Out' :=
  .next (if !eccPlace seg struc pier addr || (struc == 0 && declaredOff s addr) then s else
    let writer := if struc = 1 then ((s.writers.find? (fun x => x.1 == addr / 128)).map (·.2)).getD 0xFFFF else 0xFFFF
    let s := poisoning s (fun s => poisonFor s struc pier addr slot reg)
    let s := countSeg (s.modSeg seg (fun g => { g with uncorrected := g.uncorrected + 1 })) seg 0x24 1
    let body := natBytes 1 seg ++ natBytes 1 struc ++ natBytes 2 (if struc ≤ 1 then 0xFFFF else pier) ++
      natBytes 8 (if struc ≤ 2 then addr else 0) ++ natBytes 2 writer
    let g := s.seg seg
    if struc != 0 && g.uvoff != 0 then
      let s := s.modSeg seg (fun g => { g with uvoff := 0, restoring := true })
      let s := modMgmt s (fun m => { m with uven := m.uven &&& ~~~(BitVec.ofNat 8 (2 ^ seg)) })
      postEvent s 0x0011 writer (body ++ natBytes 1 g.uvoff)
    else postEvent s 0x0010 writer body)

/-- The restore ends; a level change held meanwhile takes effect (21 R384). -/
def execUvRestoreDone (seg : Nat) (s : State) : Out' :=
  .next (if (s.seg seg).restoring then applyLevel (s.modSeg seg (fun g => { g with restoring := false })) seg else s)

/-- A segment that reaches 105 °C is capped at level 3 (21 R385). -/
def execThermal (seg temp : Nat) (s : State) : Out' :=
  .next (if 8 ≤ seg || temp < 105 || (s.seg seg).thermalCap == 3 then s else
    postEvent (s.modSeg seg (fun g => { g with thermalCap := 3 })) 0x0012 0xFFFF (natBytes 1 seg ++ natBytes 2 temp))
/-- Below 95 °C the cap is lifted (21 R385). -/
def execThermalRelease (seg temp : Nat) (s : State) : Out' :=
  .next (if temp < 95 then s.modSeg seg (fun g => { g with thermalCap := 7 }) else s)

/-! ## Refresh (21 R386, R387) -/

/-- The blocks a bitmap byte declares. -/
def blocksOf (i : Nat) (b : Byte) : List Nat := ((List.range 8).filter (fun k => b.getLsbD k)).map (8 * i + ·)
/-- The blocks the bitmap at REFMAP declares now: its nonzero bytes. -/
def readRefmap (s : State) : List Nat :=
  if s.mgmt.refmap == 0#64 then [] else
  let base := s.mgmt.refmap.toNat
  (s.mem.cells.filter (fun c => decide (base ≤ c.1) && decide (c.1 < base + 2 ^ 20) && !declaredOff s c.1)).flatMap
    (fun c => blocksOf (c.1 - base) c.2)

/-- Writing 1 asks the refresh controller to read and apply the bitmap (21 R387). -/
def execRefsync (val : Nat) (s : State) : Out' :=
  .next (if bitOf val 0 && !s.trust.recovery then
    let next := readRefmap s
    modMgmt s (fun m => { m with refsync := true, nextOff := next }) else s)
/-- The new map is applied: a block whose bit changes loses what it held, withdrawn blocks are zeros, and REFSYNC reads 0 (21 R387). -/
def execRefmapApplied (s : State) : Out' :=
  .next (if !s.mgmt.refsync then s else
    let changed := s.refreshOff.filter (fun b => !s.mgmt.nextOff.contains b) ++ s.mgmt.nextOff.filter (fun b => !s.refreshOff.contains b)
    let s := changed.foldl (fun s b =>
      { s with mem := s.mem.clear (65536 * b) (65536 * (b + 1)), poison := s.poison.filter (fun x => x / 65536 != b) }) s
    modMgmt { s with refreshOff := s.mgmt.nextOff } (fun m => { m with refsync := false, nextOff := [] }))
/-- Blocks of a segment's own stack that are declared free of refresh. -/
def skippedBlocks (s : State) (seg : Nat) : Nat := (s.refreshOff.filter (fun b => ownerSeg (65536 * b) == seg)).length
/-- A bank is refreshed unless declared: no value changes; the skipped blocks of the window are counted, of the segment's declared ones as many
as lie in the bank, which the manual does not lay out (21 R386, R390; log 14). -/
def execHbmRefresh (seg bank : Nat) (s : State) : Out' :=
  .next (if skippedBlocks s seg == 0 then s else
    countSeg s seg 0x27 (Config.counted 0x27 (s.steps * 512 + bank) % (skippedBlocks s seg + 1)))

end Sys2Proof.Machine
end

