-- ==== Sys2Proof/Machine/Mailbox.lean ====
section
/-! DEFINITION. The mailbox and its commands, host accesses, translations and the link, peers, firmware and boot (20 R362-R375, R395,
15 R325-R327, 21 R388, R389, 10 R259). -/

namespace Sys2Proof.Machine

/-! ## The mailbox (20 R365, R366) -/

def codeOk : Nat := 0
def badOpcode : Nat := 1
def badArg : Nat := 2
def inUse : Nat := 3
def notFound : Nat := 4
def verifyFail : Nat := 5
def inRecovery : Nat := 6

/-- Field i of ARGS, and n bytes from an offset. -/
def argBytes (s : State) (off n : Nat) : List Byte := (s.mail.args.drop off).take n
def arg (s : State) (i : Nat) : Nat := bytesNat (argBytes s (8 * i) 8)
/-- Every byte of ARGS from an offset on is zero. -/
def argsEnd (s : State) (off : Nat) : Bool := (s.mail.args.drop off).all (fun b => b == 0#8)

/-- A command completes: RESULT, CODE, BUSY clear, vector 1. -/
def finish (s : State) (code result : Nat) : State :=
  { s with mail := { s.mail with busy := false, begun := false, code := code, result := natBytes 8 result ++ List.replicate 120 0#8 },
           msix := s.msix.modify 1 (· + 1) }

/-- The commands that the recovery state serves (20 R366). -/
def servedInRecovery (op : Nat) : Bool := op == 0x0009 || op == 0x000A || op == 0x000B

/-- Run a command's own row when its opcode waits; one that the recovery state does not serve completes with RECOVERY (20 R366). -/
def runCommand (op : Nat) (s : State) (f : State → Out') : Out' :=
  if s.mail.busy && s.mail.opcode == op && !s.mail.begun then
    (if s.trust.recovery && !servedInRecovery op then .next (finish s inRecovery 0) else f s)
  else .next s

/-- Complete with a code and change nothing. -/
def refuse (s : State) (code : Nat) : Out' := .next (finish s code 0)

/-- A write to CMD: GO starts the command, and what no row of its own serves completes at once. -/
def writeCmd (s : State) (v : Nat) : State :=
  let op := v % 65536
  let s := { s with mail := { s.mail with opcode := op } }
  if !bitOf v 31 then s else
  let s := { s with mail := { s.mail with busy := true, begun := false } }
  if op = 0 ∨ 0x000C < op then finish s badOpcode 0
  else if s.trust.recovery && !servedInRecovery op then finish s inRecovery 0
  else if op = 0x0008 ∧ 5 < arg s 1 then finish s badArg 0
  else s

/-- Write bytes of ARGS and RESULT. -/
def writeMailBytes (s : State) (off : Nat) : List Byte → State
  | [] => s
  | b :: bs =>
    let m := s.mail
    let m := if 0x040 ≤ off ∧ off < 0x0C0 then { m with args := m.args.set (off - 0x040) b }
      else if 0x0C0 ≤ off ∧ off < 0x140 then { m with result := m.result.set (off - 0x0C0) b } else m
    writeMailBytes { s with mail := m } (off + 1) bs

/-- A host write to a register that has no row of its own: the mailbox, the event ring, the management registers (20 R364, R365, R368,
21 R378). In the recovery state only the mailbox answers (20 R373). -/
def execRegisterWrite (off size val : Nat) (s : State) : Out' :=
  .next (if off < 0x1000 then
      (if s.mail.busy then s
       else if off = 0 then (if size = 4 ∨ size = 8 then writeCmd s val else s)
       else if size ≤ 8 then writeMailBytes s off (natBytes size val) else s)
    else if s.trust.recovery then s
    else if off < 0x2000 then writeEventReg s (off - 0x1000) size (val % 2 ^ (8 * size))
    else if off < 0x8000 then writeMgmtReg s off size (val % 2 ^ (8 * size))
    else s)

/-! ## Contexts and queues (20 R366, 14 R395) -/

/-- A new context (14 R271, R272). -/
def newContext (s : State) (num desc : Nat) : Context :=
  { num := num, desc := desc, loaded := false, d := readDesc s desc, tl := List.replicate 16 ⟨0, 0, []⟩, ovfHead := 0, ovfTail := 0,
    ovfIssue := [], timer := none, vacate := [], debug := none, resets := 0, gp := ⟨0, 0, false, [], 0, false⟩, deferred := [],
    relFault := false, peers := [] }

def execCreateContext (s : State) : Out' :=
  runCommand 0x0001 s (fun s =>
    let desc := arg s 0
    if desc % 4096 != 0 || decide (2 ^ 39 ≤ desc) || !argsEnd s 8 then refuse s badArg else
    let num := devNat s desc 2
    if 4095 < num then refuse s badArg
    else if (s.ctx? num).isSome then refuse s inUse
    else .next (finish { s with ctxs := s.ctxs ++ [newContext s num desc] } codeOk 0))

/-- Remove a queue; its slot frees. -/
def removeQueue (s : State) (q : Nat) : State :=
  { s with queues := s.queues.filter (fun x => x.num != q),
           hw := s.hw.map (fun h => if h.queue == some q then ⟨none, 0, 0, [], [], false⟩ else h) }

/-- Completion words that a context still owes cannot be written once it is gone (14 R281). -/
def refuseOwed (s : State) (ctx : Nat) : State :=
  (s.owed.filter (fun o => o.ctx == ctx)).foldl (fun s o => queueFault s ctx o.queue 1 o.rdidx o.compl)
    { s with owed := s.owed.filter (fun o => o.ctx != ctx) }

/-- A forced reset, then the context and its queues are gone. -/
def execDestroyContext (s : State) : Out' :=
  runCommand 0x0002 s (fun s =>
    let num := arg s 0
    if 4095 < num || !argsEnd s 8 then refuse s badArg
    else if (s.ctx? num).isNone then refuse s notFound
    else
      match (s.launches.filter (fun l => l.ctx == num)).findSome? (fun l => (s.ctx? num).bind (fun cx => asksFor s cx l.compl)) with
      | some p => .next (askPage s p)
      | none =>
      let s := refuseOwed (moveAllDue (resetContext s num) num) num
      let s := ((s.queues.filter (fun q => q.ctx == num)).map (·.num)).foldl removeQueue s
      .next (finish (mapWaiting { s with ctxs := s.ctxs.filter (fun c => c.num != num) }) codeOk 0))

def execCreateQueue (s : State) : Out' :=
  runCommand 0x0003 s (fun s =>
    let q := arg s 0
    let desc := arg s 1
    if 65535 < q || desc % 128 != 0 || decide (2 ^ 39 ≤ desc) || !argsEnd s 16 then refuse s badArg
    else if (s.queue? q).isSome then refuse s inUse
    else
      let ctx := devNat s (desc + 0x14) 2
      if (s.ctx? ctx).isNone then refuse s notFound
      else .next (finish { s with queues := s.queues ++ [⟨q, ctx, desc, none, false⟩] } codeOk 0))

/-- DESTROY_QUEUE: the queue starts nothing, its piers are pre-empted and its saved decks discarded (14 R395). -/
def execDestroyQueue (s : State) : Out' :=
  runCommand 0x0004 s (fun s =>
    let q := arg s 0
    if 65535 < q || !argsEnd s 8 then refuse s badArg else
    match s.queue? q with
    | none => refuse s notFound
    | some x =>
      if x.launch.isNone then .next (finish (mapWaiting (removeQueue s q)) codeOk 0) else
      let s := (s.modQueue q (fun y => { y with destroying := true }))
      let v := ((queueDecks s q).map (·.pier)).dedup
      let s := match slotOf s q with
        | some i => if v == [] then s else startPreempt s i v
        | none => s
      let s := discardSaved s q
      .next { s with mail := { s.mail with begun := true } })

/-- The launch of a queue that is being destroyed has no deck resident: it ends and the command completes (14 R395). -/
def execDestroyQueueDone (queue : Nat) (s : State) : Out' :=
  if !(s.mail.busy && s.mail.begun && s.mail.opcode == 0x0004 && arg s 0 == queue) then .next s else
  match s.queue? queue with
  | none => .next (finish s codeOk 0)
  | some q =>
    match q.launch.bind (fun u => s.launch? u) with
    | none => .next (finish (mapWaiting (removeQueue s queue)) codeOk 0)
    | some l =>
      if (queueDecks s queue) != [] then .next s else
      match (s.ctx? l.ctx).bind (fun cx => asksFor s cx l.compl) with
      | some p => .next (askPage s p)
      | none =>
        let status := if !launchDone s l || l.discarded then 0x0300 else if l.aborted then 0x0200 else 0
        let s := endLaunch (dropItems s l.ctx (fun u _ => u == l.uid)) l status
        .next (finish (mapWaiting (removeQueue s queue)) codeOk 0)

/-- PREEMPT: the piers of the mask are vacated for the queue's slot (14 R290). -/
def execPreempt (s : State) : Out' :=
  runCommand 0x0005 s (fun s =>
    let q := arg s 0
    let mask := bytesNat (argBytes s 8 36)
    if 65535 < q || !argsEnd s 0x2C then refuse s badArg
    else if (s.queue? q).isNone then refuse s notFound
    else
      let v := (List.range 288).filter (fun p => mask.testBit p)
      .next (finish (match slotOf s q with
        | some i => if v == [] then s else startPreempt s i v
        | none => s) codeOk 0))

/-! ## Translation (20 R371) -/

/-- Every outstanding access of the spans that satisfy p is performed. -/
def drainSpans (s : State) (p : Span → Bool) : State :=
  (s.spans.filter p).foldl (fun s x => drain s x.uid (BitVec.allOnes 64)) s

def execInvalidate (s : State) : Out' :=
  runCommand 0x0006 s (fun s =>
    if 4095 < arg s 0 || !argsEnd s 24 then refuse s badArg
    else if (s.ctx? (arg s 0)).isNone then refuse s notFound
    else .next { s with mail := { s.mail with begun := true } })

/-- What used the old translation has been performed, and no translation of a host page is kept. -/
def execInvalidateDone (s : State) : Out' :=
  .next (if s.mail.busy && s.mail.begun && s.mail.opcode == 0x0006 then
      finish { drainSpans s (fun x => spanCtx s x == some (arg s 0)) with ats := [] } codeOk 0
    else s)

def execAtsInvalidation (page : Nat) (s : State) : Out' :=
  .next { drainSpans s (fun _ => true) with ats := s.ats.filter (fun x => x.1 != page) }

/-- The host answers a translation request: an address, or none. ATS is on then; completion words that waited are written (log 61). -/
def execAtsTranslationCompletion (page target : Nat) (ok : Bool) (s : State) : Out' :=
  .next (if !s.atsAsked.contains page then s else
    payOwed { s with ats := (page, if ok then some target else none) :: s.ats.filter (fun x => x.1 != page),
                     atsAsked := s.atsAsked.filter (fun p => p != page), trust := { s.trust with ats := true } })

/-! ## Peers (20 R372) -/

/-- The collectives in flight of a context's group stop under 07 R182. -/
def cutGroup (s : State) (ctx group : Nat) : State :=
  { s with works := s.works.map (fun w => match w.kind with
      | .copy c => if c.ctx == ctx && c.op == 5 && bitsOf (descAux c.desc) 4 4 == group then { w with kind := .copy { c with cut := true } } else w
      | _ => w) }

/-- Entry r of a member list. -/
def peerEntry (bs : List Byte) (r : Nat) : Nat × Nat := (fieldOf bs (16 * r) 2, fieldOf bs (16 * r + 2) 2)

def execSetPeerGroup (s : State) : Out' :=
  runCommand 0x0007 s (fun s =>
    let num := arg s 0
    let group := arg s 1
    let len := arg s 3
    if 4095 < num || group = 0 || 15 < group || 256 < len || len % 16 != 0 || !argsEnd s 32 then refuse s badArg
    else if (s.ctx? num).isNone then refuse s notFound
    else
      let bs := s.hostMem.readBytes (arg s 2) len
      let ranks := (List.range (len / 16)).map (peerEntry bs)
      let s := cutGroup s num group
      .next (finish (s.modCtx num (fun c =>
        { c with peers := c.peers.filter (fun g => g.group != group) ++ (if len = 0 then [] else [⟨group, ranks⟩]) })) codeOk 0))

/-- A peer is reset or its link fails. -/
def execPeerFailure (bdf : Nat) (s : State) : Out' :=
  .next (s.ctxs.foldl (fun t c => (c.peers.filter (fun g => g.ranks.any (fun r => r.1 == bdf))).foldl (fun t g => cutGroup t c.num g.group) t) s)

/-! ## The debugger (15 R325-R327, 20 R366) -/

/-- The checks of a DEBUG command that concerns a span: the span that its arguments name, of a context that a debugger is attached to. -/
def debugArgsBad (s : State) : Bool :=
  decide (4095 < arg s 0) || decide (287 < arg s 2) || decide (63 < arg s 3) || decide (2 ^ 32 ≤ arg s 4) || !argsEnd s 40

def debugSpan (s : State) : Option (Span × Context) :=
  match s.ctx? (arg s 0) with
  | none => none
  | some cx =>
    if (cx.debug).isNone then none else
    ((spansAt s (arg s 2)).find? (fun x => x.rslot == arg s 3 && spanCtx s x == some cx.num)).map (fun x => (x, cx))

/-- Run DEBUG sub-operation k. -/
def runDebug (k : Nat) (s : State) (f : State → Out') : Out' :=
  runCommand 0x0008 s (fun s => if arg s 1 != k then .next s else if debugArgsBad s then refuse s badArg else f s)

/-- A DEBUG sub-operation on a span. -/
def onSpan (s : State) (f : State → Span → Context → Out') : Out' :=
  match debugSpan s with
  | none => refuse s notFound
  | some (sp, cx) => f s sp cx

def execDebugAttach (s : State) : Out' :=
  runDebug 0 s (fun s =>
    if (s.ctx? (arg s 0)).isNone then refuse s notFound else
    let mask := BitVec.ofNat 32 (arg s 4)
    let s := s.modCtx (arg s 0) (fun c => { c with debug := some mask })
    .next (finish { s with trust := { s.trust with debugged := true } } codeOk 0))

/-- A stopped span goes on as after `tret`, with the frame as the debugger has edited it (15 R325). -/
def resumeSpan (s : State) (cx : Context) (sp : Span) : State :=
  match sp.stop with
  | .debug (some frame) =>
    let s := restoreFrame s cx sp.uid frame sp.replay ([124, 125, 126, 127].map sp.vreg) false
    let s := s.modSpan sp.uid (fun x => { x with stop := .running, replay := [], lastIssue := s.time })
    resumeCopies s sp.uid
  | .debug none => s.modSpan sp.uid (fun x => { x with stop := .running, reinj := x.reinj ++ x.replay, replay := [], lastIssue := s.time })
  | _ => s

/-- The host page that the frame of a stopped span has still to ask for before it goes on (20 R371). -/
def resumeAsks (s : State) (cx : Context) (sp : Span) : Option Nat :=
  match sp.stop with
  | .debug (some frame) => frameReadAsks s cx frame
  | _ => none

/-- Whether a span is stopped for the debugger. -/
def Span.debugged (sp : Span) : Bool :=
  match sp.stop with
  | .debug _ => true
  | _ => false

/-- The stopped spans of the context go on. -/
def execDebugDetach (s : State) : Out' :=
  runDebug 1 s (fun s =>
    match s.ctx? (arg s 0) with
    | none => refuse s notFound
    | some cx =>
      let mine := s.spans.filter (fun x => spanCtx s x == some cx.num)
      match mine.findSome? (resumeAsks s cx) with
      | some p => .next (askPage s p)
      | none =>
      let s := mine.foldl (fun s x =>
        (resumeSpan s cx x).modSpan x.uid (fun y =>
          { y with steps := none, trap := y.trap.map (fun t => { t with outer := none }) })) s
      .next (finish (s.modCtx cx.num (fun c => { c with debug := none })) codeOk 0))

/-- STOP: at the span's next issue boundary; a span that is stopped for another reason stops when that reason ends. The command completes
with the stop: a cause that older instructions raise comes first, and a page of the frame may have to be asked for. -/
def execDebugStop (s : State) : Out' :=
  runDebug 2 s (fun s => onSpan s (fun s sp _ =>
    if sp.debugged then refuse s codeOk
    else if sp.stop != .running || !beforeSave s sp.deck then
      .next (finish (s.modSpan sp.uid (fun x => { x with steps := some [] })) codeOk 0)
    else if sp.pending.isSome then .next s
    else match debugStop s sp with
      | .next t => .next (if (t.span? sp.uid).elim true (fun x => x.debugged || x.live == 0#64) then finish t codeOk 0 else t)
      | o => o))

/-- A DEBUG sub-operation that lets a stopped span go on, once its frame can be read. -/
def onStopped (s : State) (f : State → Span → Context → Out') : Out' :=
  onSpan s (fun s sp cx =>
    if !sp.debugged then refuse s codeOk else
    match resumeAsks s cx sp with
    | some p => .next (askPage s p)
    | none => f s sp cx)

/-- STEP: the replay queue as one step, then one instruction for each step (15 R326). -/
def execDebugStep (s : State) : Out' :=
  runDebug 3 s (fun s => onStopped s (fun s sp cx =>
    let s := resumeSpan s cx sp
    let todo : List LaneSet := if sp.replay != [] || sp.reinj != [] then [] else [BitVec.allOnes 64]
    .next (finish (s.modSpan sp.uid (fun x => { x with steps := some todo })) codeOk 0)))

/-- The groups of a span that are ready, at a word or at a header that they may pass, by lowest lane (15 R327). -/
def readySets (s : State) (sp : Span) : List LaneSet :=
  ((readyIssues s sp).map (·.gset) ++ enteringSets s sp).insertionSort (fun a b => lowestLane a ≤ lowestLane b)

/-- STEP_SPAN: once each, the groups that are ready when the command arrives (15 R327). -/
def execDebugStepSpan (s : State) : Out' :=
  runDebug 4 s (fun s => onStopped s (fun s sp cx =>
    let s := (resumeSpan s cx sp).modSpan sp.uid (fun x => { x with steps := none })
    let busy := (s.span? sp.uid).elim 0#64 (fun x => x.reinj.foldl (fun (m : LaneSet) (e : Issue) => m ||| e.gset) 0#64)
    let t := s.modSpan sp.uid (fun x => { x with reinj := [] })
    let sets := (((t.span? sp.uid).elim [] (readySets t)).map (fun m => m &&& ~~~busy)).filter (fun m => m != 0#64)
    .next (finish (s.modSpan sp.uid (fun x => { x with steps := some sets })) codeOk 0)))

def execDebugContinue (s : State) : Out' :=
  runDebug 5 s (fun s => onStopped s (fun s sp cx =>
    .next (finish ((resumeSpan s cx sp).modSpan sp.uid (fun x => { x with steps := none })) codeOk 0)))

/-! ## Trust (20 R373-R375) and the summary (21 R388, R389) -/

/-- A string cut or filled with zeros to n bytes. -/
def padTo (n : Nat) (bs : List Byte) : List Byte := bs.take n ++ List.replicate (n - bs.length) 0#8

/-- BODYLEN and FWVER of an image's header, and the signed bytes. -/
def bodyLen (im : List Byte) : Nat := fieldOf im 0x10 8
def fwVersion (im : List Byte) : Nat := fieldOf im 0x08 8
def signedPart (im : List Byte) : List Byte := im.take (64 + bodyLen im)

/-- An image that the security processor accepts (20 R373; log 8). -/
def imageOk (im : List Byte) : Bool :=
  fieldOf im 0 4 == 0x57465844 && im.length == 64 + bodyLen im + 3309 && (((im.drop 0x18).take 0x28).all (fun b => b == 0#8)) &&
  Config.verify (shake256 (signedPart im)) (im.drop (64 + bodyLen im))

/-- FLOOR (21 R378). -/
def floorField (m : Mgmt) : Nat := (List.range 8).foldl (fun v k => v + m.floor.getD k 4 * 2 ^ (3 * k)) 0

/-- The configuration record (21 R389). -/
def configRecord (s : State) : List Byte :=
  let m := s.mgmt
  let link := (if s.trust.ide == [] then 0 else 1) + (if s.trust.ats then 2 else 0) + (if s.trust.pri then 4 else 0)
  padTo 256 (natBytes 2 m.plimit ++ natBytes 2 m.quantum ++ natBytes 4 (floorField m) ++ natBytes 1 m.uven.toNat ++ natBytes 1 s.trust.linkWidth ++
    natBytes 2 link ++ natBytes 4 m.uvthr ++ natBytes 8 m.refmap.toNat)

/-- The first 256 bytes of an attestation report. -/
def reportBody (s : State) (nonce : List Byte) : List Byte :=
  let t := s.trust
  let flags := (if t.debugged then 1 else 0) + (if t.ide == [] then 0 else 2) + (if s.mgmt.uven == 0#8 then 0 else 4) + (if t.recovery then 8 else 0)
  padTo 256 (natBytes 4 0x54415844 ++ natBytes 2 1 ++ natBytes 2 flags ++ padTo 32 nonce ++ padTo 16 Config.serial ++
    natBytes 8 (fwVersion t.running) ++ padTo 64 (shake256 (signedPart t.running)) ++ padTo 64 (shake256 (configRecord s)) ++
    natBytes 8 t.boots ++ natBytes 8 s.time)

def execAttest (s : State) : Out' :=
  runCommand 0x0009 s (fun s =>
    if !argsEnd s 40 then refuse s badArg else
    let body := reportBody s (argBytes s 0 32)
    let report := body ++ padTo 3309 (Config.sign (shake256 body))
    .next (finish { s with hostMem := s.hostMem.writeBytes (arg s 4) report } codeOk 0))

def execGetCert (s : State) : Out' :=
  runCommand 0x000A s (fun s =>
    let n := Config.certChain.length
    if !argsEnd s 16 || decide (arg s 1 < n) then refuse s badArg
    else .next (finish { s with hostMem := s.hostMem.writeBytes (arg s 0) Config.certChain } codeOk n))

/-- A device reset: what R362 says outlives it, the memories and the model's own counters stay. -/
def resetDevice (s : State) : State :=
  let z := State.reset
  { z with agenda := s.agenda, steps := s.steps, free := s.free, fresh := s.fresh, time := s.time, mem := s.mem, hostMem := s.hostMem,
           poison := s.poison, msix := s.msix,
           trust := { s.trust with running := [], booted := false, recovery := false, debugged := false } }

/-- An image that verifies replaces the one in flash and the device resets (20 R373). -/
def execFwDeliver (s : State) : Out' :=
  runCommand 0x000B s (fun s =>
    if !argsEnd s 16 then refuse s badArg else
    let im := s.hostMem.readBytes (arg s 0) (arg s 1)
    if !imageOk im then refuse s verifyFail else
    let s := finish s codeOk 0
    .next (resetDevice { s with trust := { s.trust with flash := im } }))

/-- SEGSTAT (21 R378). -/
def segStat (s : State) (k : Nat) : Nat :=
  let g := s.seg k
  g.level % 8 + 16 * (g.chosen % 8) + (if g.level < g.chosen then 128 else 0) + 2 ^ 8 * (g.volt % 4096) + 2 ^ 20 * (g.uvoff % 256) +
  2 ^ 28 * (g.power % 65536) + 2 ^ 44 * (g.current % 65536)

/-- A hardware queue slot in the summary. -/
def slotSummary (s : State) (h : HwSlot) : List Byte :=
  match h.queue with
  | none => List.replicate 8 0#8
  | some q =>
    let st := if h.preempt != [] || h.leaving then 3 else if slotIdle s h then 1 else 2
    natBytes 2 q ++ natBytes 2 ((queueCtx s q).getD 0) ++ natBytes 1 (prio s q) ++ natBytes 1 st ++ natBytes 2 0

/-! ## What a host read of BAR0 returns (20 R364-R368, 21 R378, R381, R390) -/

/-- A segment's counters, or another's, with their selects. -/
def countBytes (l : List DWord) : List Byte := l.flatMap (fun v => natBytes 8 v.toNat)
def selectBytes (l : List Word) : List Byte := l.flatMap (fun v => natBytes 4 v.toNat)

/-- The mailbox's registers by offset: GO reads 0 (20 R365). -/
def mailRegs (s : State) : List (Nat × List Byte) :=
  let m := s.mail
  [(0x0000, natBytes 8 m.opcode), (0x0008, natBytes 8 (m.code + if m.busy then 2 ^ 31 else 0)), (0x0040, m.args), (0x00C0, m.result)]

/-- The event ring's and the management registers by offset (20 R368, 21 R378, R381, R390). -/
def mgmtRegs (s : State) : List (Nat × List Byte) :=
  let e := s.events
  let m := s.mgmt
  let p := s.pier m.pierSel
  [(0x1000, natBytes 8 e.base.toNat ++ natBytes 4 e.count.toNat ++ natBytes 4 e.wr.toNat ++ natBytes 4 e.rd.toNat),
   (0x2000, natBytes 8 (m.plimit + 65536 * m.pkgpwr)), (0x2008, natBytes 4 m.quantum), (0x2010, natBytes 8 (floorField m)),
   (0x2018, natBytes 4 m.uven.toNat ++ natBytes 4 m.uvthr), (0x2040, (List.range 8).flatMap (fun k => natBytes 8 (segStat s k))),
   (0x2100, m.tslope.flatMap (fun v => natBytes 8 v.toNat)), (0x2300, natBytes 8 m.refmap.toNat ++ natBytes 4 (if m.refsync then 1 else 0)),
   (0x2400, countBytes m.cnt), (0x2500, selectBytes m.sel), (0x2600, s.segs.flatMap (fun g => countBytes g.cnt)),
   (0x2A00, s.segs.flatMap (fun g => selectBytes g.sel)), (0x2C00, natBytes 4 m.pierSel), (0x2C40, countBytes p.cnt), (0x2C80, selectBytes p.sel)]

/-- A byte of BAR0 as the host reads it: reserved fields and offsets, and every doorbell, read as zero (00 R8, 20 R364, R367). In the recovery
state only the mailbox answers (20 R373); that the rest reads as zero there is DEDUCED (log 70). -/
def barByte (s : State) (off : Nat) : Byte :=
  match (mailRegs s ++ if s.trust.recovery then [] else mgmtRegs s).find? (fun r => decide (r.1 ≤ off) && decide (off < r.1 + r.2.length)) with
  | some r => r.2.getD (off - r.1) 0#8
  | none => 0#8
/-- The value of a host read of `size` bytes of BAR0: it changes no state. -/
def barRead (s : State) (off size : Nat) : Nat := bytesNat ((List.range size).map (fun i => barByte s (off + i)))

/-- The 4 KiB summary (21 R388). -/
def summaryBytes (s : State) : List Byte :=
  let live (i : Nat) : Byte := BitVec.ofBoolListLE ((List.range 8).map (fun j => (s.ctx? (8 * i + j)).isSome))
  padTo 0x40 (natBytes 4 0x59525844 ++ natBytes 2 1 ++ natBytes 2 (if s.trust.debugged then 1 else 0) ++ natBytes 8 s.trust.boots ++
    natBytes 8 s.time ++ natBytes 4 s.events.wr.toNat ++ natBytes 4 s.events.rd.toNat ++ natBytes 8 (fwVersion s.trust.running)) ++
  configRecord s ++
  padTo 0xC0 ((List.range 8).flatMap (fun k => natBytes 8 (segStat s k) ++ natBytes 4 (errorRate s k) ++ natBytes 4 (s.seg k).uncorrected)) ++
  (List.range 512).map live ++
  padTo 512 (s.hw.flatMap (slotSummary s)) ++
  padTo 0x200 ((List.range 36).flatMap (fun t => natBytes 8 (s.mgmt.tslope.getD t 0#16).toNat)) ++
  padTo 0x400 (s.events.recent.flatMap id) ++ List.replicate 0x400 0#8

def execResync (s : State) : Out' :=
  runCommand 0x000C s (fun s =>
    if arg s 0 % 4096 != 0 || !argsEnd s 8 then refuse s badArg
    else .next (finish { s with hostMem := s.hostMem.writeBytes (arg s 0) (summaryBytes s) } codeOk 0))

/-- The security processor verifies the image in flash: it runs, or the device is in recovery (20 R373). -/
def execDeviceBoot (s : State) : Out' :=
  .next (if s.trust.booted then s
    else if imageOk s.trust.flash then
      { s with trust := { s.trust with booted := true, recovery := false, running := s.trust.flash, boots := s.trust.boots + 1 } }
    else { s with trust := { s.trust with booted := true, recovery := true, running := [] } })

/-! ## Host accesses and the link (10 R259, 14 R293, 20 R362, R363) -/

/-- A deck that has an image in the save area, were it that of a matrix unit which V cannot hold. -/
def Deck.hasImage (d : Deck) : Bool :=
  match d.status with
  | .parked | .moving _ | .saving _ => true
  | _ => d.image.isSome

/-- A host write may change saved images, whose layout is not visible (14 R293; log 23). -/
def tamper (s : State) (pa n : Nat) : State :=
  (s.decks.filter Deck.hasImage).foldl (fun t d =>
    match (deckLaunch s d).bind (fun l => s.ctx? l.ctx) with
    | none => t
    | some cx =>
      if (List.range n).any (fun i => inArea s cx cx.d.saveBase cx.d.saveSize (pa + i)) then
        let hit := Config.hitsImage t.free
        ({ t with free := t.free + 1 } : State).modDeck d.uid (fun x => { x with tampered := x.tampered || hit })
      else t) s

/-- No context wrote the lines of n bytes of device memory. -/
def forgetWriters (s : State) (pa n : Nat) : State :=
  { s with writers := s.writers.filter (fun x => decide (x.1 < pa / 128) || decide (pa + n ≤ 128 * x.1)) }

/-- A host or peer access is performed at the memory partition; a read changes nothing (10 R259). -/
def execHostMemAccess (write : Bool) (addr : Nat) (bytes : List Byte) (s : State) : Out' :=
  .next (if s.trust.recovery || !write || decide (2 ^ 39 < addr + bytes.length) then s
    else
      let s := forgetWriters (tamper s addr bytes.length) addr bytes.length
      writeLocs (notePatch s (.dev addr) bytes.length) (.dev addr) bytes)

/-- A reset of the link ends its configuration; it comes up x16, or x8 where the host bifurcates it (20 R362, R363; log 61). -/
def execLinkReset (s : State) : Out' :=
  .next { s with trust := { s.trust with linkWidth := if Config.linkX8 s.steps then 8 else 16, ide := [], ats := false, pri := false } }

/-- IDE_KM programs the keys (20 R363). -/
def execIdeKm (key : List Byte) (s : State) : Out' := .next { s with trust := { s.trust with ide := key } }

end Sys2Proof.Machine
end

