-- ==== Sys2Proof/Machine/Dispatch.lean ====
section
/-! DEFINITION. One arm per constructor: the meaning of each instruction and device step. -/

namespace Sys2Proof.Machine

def exec (i : Instr) (s : State) : Host.Outcome State Fault Refusal :=
  match i with
  | .add f => Sys2Proof.Machine.execAdd f s
  | .sub f => Sys2Proof.Machine.execSub f s
  | .mul f => Sys2Proof.Machine.execMul f s
  | .mulh f => Sys2Proof.Machine.execMulh f s
  | .mad f => Sys2Proof.Machine.execMad f s
  | .madw f => Sys2Proof.Machine.execMadw f s
  | .abs f => Sys2Proof.Machine.execAbs f s
  | .min f => Sys2Proof.Machine.execMin f s
  | .max f => Sys2Proof.Machine.execMax f s
  | .and f => Sys2Proof.Machine.execAnd f s
  | .or f => Sys2Proof.Machine.execOr f s
  | .xor f => Sys2Proof.Machine.execXor f s
  | .not f => Sys2Proof.Machine.execNot f s
  | .andn f => Sys2Proof.Machine.execAndn f s
  | .mov f => Sys2Proof.Machine.execMov f s
  | .movl d x lit => Sys2Proof.Machine.execMovl d x lit s
  | .shl f => Sys2Proof.Machine.execShl f s
  | .shr f => Sys2Proof.Machine.execShr f s
  | .sar f => Sys2Proof.Machine.execSar f s
  | .rot f => Sys2Proof.Machine.execRot f s
  | .fshl f => Sys2Proof.Machine.execFshl f s
  | .fshr f => Sys2Proof.Machine.execFshr f s
  | .bfx f => Sys2Proof.Machine.execBfx f s
  | .bfi f => Sys2Proof.Machine.execBfi f s
  | .popc f => Sys2Proof.Machine.execPopc f s
  | .clz f => Sys2Proof.Machine.execClz f s
  | .ctz f => Sys2Proof.Machine.execCtz f s
  | .brev f => Sys2Proof.Machine.execBrev f s
  | .permb f => Sys2Proof.Machine.execPermb f s
  | .lea f => Sys2Proof.Machine.execLea f s
  | .cmp f => Sys2Proof.Machine.execCmp f s
  | .add64 f => Sys2Proof.Machine.execAdd64 f s
  | .sub64 f => Sys2Proof.Machine.execSub64 f s
  | .shl64 f => Sys2Proof.Machine.execShl64 f s
  | .shr64 f => Sys2Proof.Machine.execShr64 f s
  | .cmp64 f => Sys2Proof.Machine.execCmp64 f s
  | .addc k f => Sys2Proof.Machine.execAddc k f s
  | .subb k f => Sys2Proof.Machine.execSubb k f s
  | .sel k f => Sys2Proof.Machine.execSel k f s
  | .addImm f => Sys2Proof.Machine.execAddImm f s
  | .mulImm f => Sys2Proof.Machine.execMulImm f s
  | .andImm f => Sys2Proof.Machine.execAndImm f s
  | .orImm f => Sys2Proof.Machine.execOrImm f s
  | .xorImm f => Sys2Proof.Machine.execXorImm f s
  | .shlImm f => Sys2Proof.Machine.execShlImm f s
  | .shrImm f => Sys2Proof.Machine.execShrImm f s
  | .sarImm f => Sys2Proof.Machine.execSarImm f s
  | .rotImm f => Sys2Proof.Machine.execRotImm f s
  | .minI32Imm f => Sys2Proof.Machine.execMinI32Imm f s
  | .minN32Imm f => Sys2Proof.Machine.execMinN32Imm f s
  | .maxI32Imm f => Sys2Proof.Machine.execMaxI32Imm f s
  | .maxN32Imm f => Sys2Proof.Machine.execMaxN32Imm f s
  | .cmpI32Imm f => Sys2Proof.Machine.execCmpI32Imm f s
  | .cmpN32Imm f => Sys2Proof.Machine.execCmpN32Imm f s
  | .cvt d a src dst rm => Sys2Proof.Machine.execCvt d a src dst rm s
  | .cvts f => Sys2Proof.Machine.execCvts f s
  | .planex f => Sys2Proof.Machine.execPlanex f s
  | .planep f => Sys2Proof.Machine.execPlanep f s
  | .qnt f => Sys2Proof.Machine.execQnt f s
  | .shfl f => Sys2Proof.Machine.execShfl f s
  | .bcast f => Sys2Proof.Machine.execBcast f s
  | .vote d a mode => Sys2Proof.Machine.execVote d a mode s
  | .lred f => Sys2Proof.Machine.execLred f s
  | .lminx f => Sys2Proof.Machine.execLminx f s
  | .lmaxx f => Sys2Proof.Machine.execLmaxx f s
  | .lscan f => Sys2Proof.Machine.execLscan f s
  | .laneMatch f => Sys2Proof.Machine.execMatch f s
  | .isect f => Sys2Proof.Machine.execIsect f s
  | .union f => Sys2Proof.Machine.execUnion f s
  | .bpfx f => Sys2Proof.Machine.execBpfx f s
  | .fadd f => Sys2Proof.Machine.execFadd f s
  | .fsub f => Sys2Proof.Machine.execFsub f s
  | .fmul f => Sys2Proof.Machine.execFmul f s
  | .ffma f => Sys2Proof.Machine.execFfma f s
  | .fmin f => Sys2Proof.Machine.execFmin f s
  | .fmax f => Sys2Proof.Machine.execFmax f s
  | .fcmp f => Sys2Proof.Machine.execFcmp f s
  | .fneg f => Sys2Proof.Machine.execFneg f s
  | .fabs f => Sys2Proof.Machine.execFabs f s
  | .frcp f => Sys2Proof.Machine.execFrcp f s
  | .frsq f => Sys2Proof.Machine.execFrsq f s
  | .fsqrt f => Sys2Proof.Machine.execFsqrt f s
  | .fexp2 f => Sys2Proof.Machine.execFexp2 f s
  | .flog2 f => Sys2Proof.Machine.execFlog2 f s
  | .fsin f => Sys2Proof.Machine.execFsin f s
  | .fcos f => Sys2Proof.Machine.execFcos f s
  | .frnd f rm => Sys2Proof.Machine.execFrnd f rm s
  | .fclass f => Sys2Proof.Machine.execFclass f s
  | .fscale f => Sys2Proof.Machine.execFscale f s
  | .fdot2 f => Sys2Proof.Machine.execFdot2 f s
  | .shq d a => Sys2Proof.Machine.execShq d a s
  | .shassert a b => Sys2Proof.Machine.execShassert a b s
  | .shforce d n b => Sys2Proof.Machine.execShforce d n b s
  | .shpack d n => Sys2Proof.Machine.execShpack d n s
  | .grow n => Sys2Proof.Machine.execGrow n s
  | .growTry k n => Sys2Proof.Machine.execGrowTry k n s
  | .shrink f => Sys2Proof.Machine.execShrink f s
  | .join k => Sys2Proof.Machine.execJoin k s
  | .leave k => Sys2Proof.Machine.execLeave k s
  | .waitm k => Sys2Proof.Machine.execWaitm k s
  | .mset k a h => Sys2Proof.Machine.execMset k a h s
  | .mskop op k a b => Sys2Proof.Machine.execMskop op k a b s
  | .mpopc d k => Sys2Proof.Machine.execMpopc d k s
  | .mfind d k => Sys2Proof.Machine.execMfind d k s
  | .mskget d k => Sys2Proof.Machine.execMskget d k s
  | .mskput k a h => Sys2Proof.Machine.execMskput k a h s
  | .bra k off => Sys2Proof.Machine.execBra k off s
  | .brai a h => Sys2Proof.Machine.execBrai a h s
  | .call k off => Sys2Proof.Machine.execCall k off s
  | .calli a h => Sys2Proof.Machine.execCalli a h s
  | .ret => Sys2Proof.Machine.execRet s
  | .ser off => Sys2Proof.Machine.execSer off s
  | .endser => Sys2Proof.Machine.execEndser s
  | .exit k => Sys2Proof.Machine.execExit k s
  | .nop => Sys2Proof.Machine.execNop s
  | .yield => Sys2Proof.Machine.execYield s
  | .pushv d n => Sys2Proof.Machine.execPushv d n s
  | .popv d n => Sys2Proof.Machine.execPopv d n s
  | .ld f => Sys2Proof.Machine.execLd f s
  | .st f => Sys2Proof.Machine.execSt f s
  | .lduC f => Sys2Proof.Machine.execLduC f s
  | .lduG f => Sys2Proof.Machine.execLduG f s
  | .ldxG f => Sys2Proof.Machine.execLdxG f s
  | .ldxD f => Sys2Proof.Machine.execLdxD f s
  | .stxG f => Sys2Proof.Machine.execStxG f s
  | .stxD f => Sys2Proof.Machine.execStxD f s
  | .atom op f => Sys2Proof.Machine.execAtom op f s
  | .red op f => Sys2Proof.Machine.execRed op f s
  | .atomcasN32 f => Sys2Proof.Machine.execAtomcasN32 f s
  | .atomcasN64 f => Sys2Proof.Machine.execAtomcasN64 f s
  | .redx f => Sys2Proof.Machine.execRedx f s
  | .pref a off => Sys2Proof.Machine.execPref a off s
  | .fence scope => Sys2Proof.Machine.execFence scope s
  | .acq f => Sys2Proof.Machine.execAcq f s
  | .rel f => Sys2Proof.Machine.execRel f s
  | .acqr f => Sys2Proof.Machine.execAcqr f s
  | .cctl a op sp => Sys2Proof.Machine.execCctl a op sp s
  | .p2g d a b x => Sys2Proof.Machine.execP2g d a b x s
  | .qspace d a => Sys2Proof.Machine.execQspace d a s
  | .bararr d n => Sys2Proof.Machine.execBararr d n s
  | .barwait n b => Sys2Proof.Machine.execBarwait n b s
  | .barsync n => Sys2Proof.Machine.execBarsync n s
  | .barexp n b => Sys2Proof.Machine.execBarexp n b s
  | .barset n b => Sys2Proof.Machine.execBarset n b s
  | .stgacq d n => Sys2Proof.Machine.execStgacq d n s
  | .stgrel n a => Sys2Proof.Machine.execStgrel n a s
  | .tlwait n b => Sys2Proof.Machine.execTlwait n b s
  | .tlread d n => Sys2Proof.Machine.execTlread d n s
  | .cpl a b c t => Sys2Proof.Machine.execCpl a b c t s
  | .tagwait t => Sys2Proof.Machine.execTagwait t s
  | .tagcnt a t => Sys2Proof.Machine.execTagcnt a t s
  | .tcopy a b => Sys2Proof.Machine.execTcopy a b s
  | .tsparse a b => Sys2Proof.Machine.execTsparse a b s
  | .tgather a b => Sys2Proof.Machine.execTgather a b s
  | .tscatter a b => Sys2Proof.Machine.execTscatter a b s
  | .tfill a b => Sys2Proof.Machine.execTfill a b s
  | .tcoll a b => Sys2Proof.Machine.execTcoll a b s
  | .tstat a n => Sys2Proof.Machine.execTstat a n s
  | .mxarr p c => Sys2Proof.Machine.execMxarr p c s
  | .mxload a b => Sys2Proof.Machine.execMxload a b s
  | .mxarow a b => Sys2Proof.Machine.execMxarow a b s
  | .mxsign a b c n => Sys2Proof.Machine.execMxsign a b c n s
  | .mxmma a n => Sys2Proof.Machine.execMxmma a n s
  | .mxvalid a k => Sys2Proof.Machine.execMxvalid a k s
  | .mxwait m => Sys2Proof.Machine.execMxwait m s
  | .mxsave a release restore => Sys2Proof.Machine.execMxsave a release restore s
  | .spawn e p => Sys2Proof.Machine.execSpawn e p s
  | .spawnTry e p k => Sys2Proof.Machine.execSpawnTry e p k s
  | .plvl a => Sys2Proof.Machine.execPlvl a s
  | .trap code => Sys2Proof.Machine.execTrap code s
  | .tret => Sys2Proof.Machine.execTret s
  | .brk code => Sys2Proof.Machine.execBrk code s
  | .csrr d num => Sys2Proof.Machine.execCsrr d num s
  | .csrw a num => Sys2Proof.Machine.execCsrw a num s
  | .clock d => Sys2Proof.Machine.execClock d s
  | .entw a b => Sys2Proof.Machine.execEntw a b s
  | .migr g => Sys2Proof.Machine.execMigr g s
  | .rdenter => Sys2Proof.Machine.execRdenter s
  | .rdexit => Sys2Proof.Machine.execRdexit s
  | .gpstart d => Sys2Proof.Machine.execGpstart d s
  | .waitgp a => Sys2Proof.Machine.execWaitgp a s
  | .dfree k a b => Sys2Proof.Machine.execDfree k a b s
  | .issuePick pier q => Sys2Proof.Machine.execIssuePick pier q s
  | .clauseHeaderEntry span lane => Sys2Proof.Machine.execClauseHeaderEntry span lane s
  | .clauseHeaderPass span lane => Sys2Proof.Machine.execClauseHeaderPass span lane s
  | .yieldExpiry span lane => Sys2Proof.Machine.execYieldExpiry span lane s
  | .loadReturn id => Sys2Proof.Machine.execLoadReturn id s
  | .atomicPerform id => Sys2Proof.Machine.execAtomicPerform id s
  | .atomicReply id => Sys2Proof.Machine.execAtomicReply id s
  | .reductionPerform id => Sys2Proof.Machine.execReductionPerform id s
  | .wcFlush pier line => Sys2Proof.Machine.execWcFlush pier line s
  | .l2EvictionPromote line => Sys2Proof.Machine.execL2EvictionPromote line s
  | .cplLaneComplete id => Sys2Proof.Machine.execCplLaneComplete id s
  | .copyPieceLanding id => Sys2Proof.Machine.execCopyPieceLanding id s
  | .copyCompletion id => Sys2Proof.Machine.execCopyCompletion id s
  | .engineCopyFault id => Sys2Proof.Machine.execEngineCopyFault id s
  | .barrierPhaseComplete owner bar => Sys2Proof.Machine.execBarrierPhaseComplete owner bar s
  | .barrierReleaseWave truss => Sys2Proof.Machine.execBarrierReleaseWave truss s
  | .waitmOpen span k => Sys2Proof.Machine.execWaitmOpen span k s
  | .stageSlotTurn deck ring => Sys2Proof.Machine.execStageSlotTurn deck ring s
  | .growServed pier => Sys2Proof.Machine.execGrowServed pier s
  | .fillRowLanding id => Sys2Proof.Machine.execFillRowLanding id s
  | .broadcastRowLanding id => Sys2Proof.Machine.execBroadcastRowLanding id s
  | .matrixOwnershipChange pier => Sys2Proof.Machine.execMatrixOwnershipChange pier s
  | .sliceStart girder key => Sys2Proof.Machine.execSliceStart girder key s
  | .sliceLanding girder key => Sys2Proof.Machine.execSliceLanding girder key s
  | .entwWake span lane => Sys2Proof.Machine.execEntwWake span lane s
  | .trapEntry span => Sys2Proof.Machine.execTrapEntry span s
  | .watchdogExpiry span => Sys2Proof.Machine.execWatchdogExpiry span s
  | .pageRequestResponse span ok => Sys2Proof.Machine.execPageRequestResponse span ok s
  | .spanRetire span => Sys2Proof.Machine.execSpanRetire span s
  | .parkedSpanRetire span => Sys2Proof.Machine.execParkedSpanRetire span s
  | .launchStart queue => Sys2Proof.Machine.execLaunchStart queue s
  | .deckPlace launch piers => Sys2Proof.Machine.execDeckPlace launch piers s
  | .deckMemoryCleared deck => Sys2Proof.Machine.execDeckMemoryCleared deck s
  | .spawnOfferAccept span lane => Sys2Proof.Machine.execSpawnOfferAccept span lane s
  | .overflowDrain seg ctx => Sys2Proof.Machine.execOverflowDrain seg ctx s
  | .spawnPackTimeout seg launch entry => Sys2Proof.Machine.execSpawnPackTimeout seg launch entry s
  | .spawnSpanEmit seg launch entry => Sys2Proof.Machine.execSpawnSpanEmit seg launch entry s
  | .spawnedSpanPlace seg idx pier => Sys2Proof.Machine.execSpawnedSpanPlace seg idx pier s
  | .launchComplete queue => Sys2Proof.Machine.execLaunchComplete queue s
  | .doorbell off size val => Sys2Proof.Machine.execDoorbell off size val s
  | .sliceExpiry slot => Sys2Proof.Machine.execSliceExpiry slot s
  | .parkleadReached ctx => Sys2Proof.Machine.execParkleadReached ctx s
  | .deckQuiesced deck => Sys2Proof.Machine.execDeckQuiesced deck s
  | .parkSaveDone deck => Sys2Proof.Machine.execParkSaveDone deck s
  | .deckResume girder piers => Sys2Proof.Machine.execDeckResume girder piers s
  | .deadlineExpiry ctx => Sys2Proof.Machine.execDeadlineExpiry ctx s
  | .migrationPlace girder piers => Sys2Proof.Machine.execMigrationPlace girder piers s
  | .gpQuiescenceChange span => Sys2Proof.Machine.execGpQuiescenceChange span s
  | .gpComplete ctx => Sys2Proof.Machine.execGpComplete ctx s
  | .gpStall ctx => Sys2Proof.Machine.execGpStall ctx s
  | .dfreeRelease ctx => Sys2Proof.Machine.execDfreeRelease ctx s
  | .relringRetry ctx => Sys2Proof.Machine.execRelringRetry ctx s
  | .createContext => Sys2Proof.Machine.execCreateContext s
  | .destroyContext => Sys2Proof.Machine.execDestroyContext s
  | .createQueue => Sys2Proof.Machine.execCreateQueue s
  | .destroyQueue => Sys2Proof.Machine.execDestroyQueue s
  | .destroyQueueDone queue => Sys2Proof.Machine.execDestroyQueueDone queue s
  | .preempt => Sys2Proof.Machine.execPreempt s
  | .invalidate => Sys2Proof.Machine.execInvalidate s
  | .invalidateDone => Sys2Proof.Machine.execInvalidateDone s
  | .setPeerGroup => Sys2Proof.Machine.execSetPeerGroup s
  | .debugAttach => Sys2Proof.Machine.execDebugAttach s
  | .debugDetach => Sys2Proof.Machine.execDebugDetach s
  | .debugStop => Sys2Proof.Machine.execDebugStop s
  | .debugStep => Sys2Proof.Machine.execDebugStep s
  | .debugStepSpan => Sys2Proof.Machine.execDebugStepSpan s
  | .debugContinue => Sys2Proof.Machine.execDebugContinue s
  | .attest => Sys2Proof.Machine.execAttest s
  | .getCert => Sys2Proof.Machine.execGetCert s
  | .fwDeliver => Sys2Proof.Machine.execFwDeliver s
  | .resync => Sys2Proof.Machine.execResync s
  | .registerWrite off size val => Sys2Proof.Machine.execRegisterWrite off size val s
  | .refsync val => Sys2Proof.Machine.execRefsync val s
  | .refmapApplied => Sys2Proof.Machine.execRefmapApplied s
  | .hbmRefresh seg bank => Sys2Proof.Machine.execHbmRefresh seg bank s
  | .powerLimitTick average powers => Sys2Proof.Machine.execPowerLimitTick average powers s
  | .currentLimitSkip seg amps => Sys2Proof.Machine.execCurrentLimitSkip seg amps s
  | .levelChange seg => Sys2Proof.Machine.execLevelChange seg s
  | .undervoltAdjust seg => Sys2Proof.Machine.execUndervoltAdjust seg s
  | .eccCorrected seg hbm => Sys2Proof.Machine.execEccCorrected seg hbm s
  | .eccUe seg struc pier addr slot reg => Sys2Proof.Machine.execEccUe seg struc pier addr slot reg s
  | .thermal seg temp => Sys2Proof.Machine.execThermal seg temp s
  | .thermalRelease seg temp => Sys2Proof.Machine.execThermalRelease seg temp s
  | .hostMemAccess write addr bytes => Sys2Proof.Machine.execHostMemAccess write addr bytes s
  | .atsInvalidation page => Sys2Proof.Machine.execAtsInvalidation page s
  | .peerFailure bdf => Sys2Proof.Machine.execPeerFailure bdf s
  | .deviceBoot => Sys2Proof.Machine.execDeviceBoot s
  | .matrixClearDone pier => Sys2Proof.Machine.execMatrixClearDone pier s
  | .storePerformed id => Sys2Proof.Machine.execStorePerformed id s
  | .linkReset => Sys2Proof.Machine.execLinkReset s
  | .ideKm key => Sys2Proof.Machine.execIdeKm key s
  | .atsTranslationCompletion page target ok => Sys2Proof.Machine.execAtsTranslationCompletion page target ok s
  | .uvRestoreDone seg => Sys2Proof.Machine.execUvRestoreDone seg s

end Sys2Proof.Machine
end

