-- ==== Sys2Proof/Machine/Drive.lean ====
section
/-! DEFINITION. What a step runs: time passes; an issue in progress is fetched, decoded and run; else the next entry of the agenda; else
the device's own next act (03 R56, R59, R73, 01 R19, R34, 16 R339, 21 R390; log 1, 3). -/

namespace Sys2Proof.Machine

/-! ## Time -/

/-- Time passes: the reference time, the slices of slots with a deck resident, and the microsecond counter (08 R211, 14 R276,
21 R390; log 3). -/
def advance (s : State) : State :=
  let d := Config.elapsed s.steps
  let us := (s.time + d) / 1000 - s.time / 1000
  let hw := s.hw.map (fun (h : HwSlot) =>
    if h.queue.elim false (fun q => (queueDecks s q) != []) then { h with slice := h.slice - d, active := s.time + d } else h)
  countDev { s with time := s.time + d, steps := s.steps + 1, hw := hw } 0x47 us

/-! ## An issue (03 R56, R59, R73) -/

/-- What is left to run: an instruction in a state, or an outcome already. -/
inductive Act where
  | run (i : Instr) (s : State)
  | out (o : Host.Outcome State Fault Refusal)

/-- A call anywhere but at its clause's end is illegal (03 R59). -/
def callMisplaced (iss : Issue) : Instr → Bool
  | .call _ _ | .calli _ _ => iss.nextPc != iss.next
  | _ => false

/-- The binding stub's cause that issuing the word at pc raises (16 R339). -/
def bindCause (cx : Context) (pc : Nat) : Option Nat :=
  if cx.d.bindstub = 0 then none
  else if pc = cx.d.bindstub + 4 then some 0x0011
  else if pc = cx.d.bindstub + 12 then some 0x0012
  else none

/-- Whether the lanes of an issue stand at it: those of one that was to follow its group's last instruction may have gone elsewhere. -/
def Ctx.reached (c : Ctx) : Bool :=
  !c.iss.fetched || (lanesOf (c.G &&& c.sp.live)).all (fun l => (c.sp.lane l).pos.pc == c.iss.pc && (c.sp.lane l).pos.clause.isSome)

/-- Run an issue: its words are fetched, or it waits; a binding stub's cause, then check 3 of 03 R73; then the instruction itself. That the cause
of 16 R339 comes before checks 3 and 4 where the word fails them too, neither rule says. DESIGN CHOICE (log 98). -/
def issueAct (s : State) (iss : Issue) : Act :=
  match ctxOf s iss with
  | none => .out (.next s)
  | some c =>
    if !c.reached then .out (.next s) else
    match issueWords s c.cx iss with
    | .none _ (.ask p) => .out (.next (askPage (putBack s iss) p))
    | .none _ .noMem => .out (.fault .noSuchMemory)
    | .none at_ (.trap t) => .out (takeTrap s { iss with pc := at_ } t)
    | .none _ (.word _) => .out (.next s)
    | .words w lit =>
      let iss := { iss with word := w, lit := lit }
      match (if iss.bound then none else bindCause c.cx iss.pc) with
      | some k => .out (takeTrap s iss (TrapInfo.at k (pairOf (c.regVal 14 (lowestLane iss.gset)) (c.regVal 15 (lowestLane iss.gset))) iss.gset))
      | none =>
        match decode iss.cls w lit with
        | none => .out (takeTrap s iss (TrapInfo.at 0x0001 0#64 iss.gset))
        | some i =>
          if callMisplaced iss i then .out (takeTrap s iss (TrapInfo.at 0x0001 0#64 iss.gset))
          else if heldBack s c.launch iss.span i then .out (.next (putBack s iss))
          else .run i { s with cur := some iss }

/-! ## The device's own next act (log 1) -/

/-- An act of the device: the meaning of one of its own rows. -/
abbrev Own := State → Out'

/-- The row of a mailbox command in progress. -/
def mailAct (s : State) : List Own :=
  if !s.mail.busy then [] else
  let op := s.mail.opcode
  if s.mail.begun then
    (if op = 4 then [execDestroyQueueDone (arg s 0)] else [execInvalidateDone])
  else if op = 1 then [execCreateContext] else if op = 2 then [execDestroyContext] else if op = 3 then [execCreateQueue]
  else if op = 4 then [execDestroyQueue] else if op = 5 then [execPreempt] else if op = 6 then [execInvalidate] else if op = 7 then [execSetPeerGroup]
  else if op = 8 then
    (let k := arg s 1
     if k = 0 then [execDebugAttach] else if k = 1 then [execDebugDetach] else if k = 2 then [execDebugStop] else if k = 3 then [execDebugStep]
     else if k = 4 then [execDebugStepSpan] else [execDebugContinue])
  else if op = 9 then [execAttest] else if op = 10 then [execGetCert] else if op = 11 then [execFwDeliver] else [execResync]

/-- What lands of an outstanding piece of work. -/
def workActs (s : State) (w : Work) : List Own :=
  match w.kind with
  | .load _ | .scale _ _ _ => [execLoadReturn w.id]
  | .store => execStorePerformed w.id :: (((w.accs.filter (fun a => a.mtype == 1)).filterMap (fun a => lineOf a.loc)).dedup).map
      (execWcFlush ((s.deck? (workDeck s w)).elim 0 (·.pier)))
  | .atomic _ _ _ => [execAtomicPerform w.id]
  | .reply _ _ => [execAtomicReply w.id]
  | .red _ | .redx _ => [execReductionPerform w.id]
  | .cpl _ _ _ _ => [execCplLaneComplete w.id]
  | .copy _ => [execEngineCopyFault w.id, execCopyPieceLanding w.id, execCopyCompletion w.id]
  | .load8 _ => [execEngineCopyFault w.id, execFillRowLanding w.id]
  | .rows _ => [execEngineCopyFault w.id, execBroadcastRowLanding w.id]
  | .ring _ _ _ _ | .token _ => []

/-- What may come of a span: its trap, its headers, its waits, its end. -/
def spanLaneActs (sp : Span) : List Own :=
  (lanesOf sp.movable).flatMap (fun l =>
    let p := (sp.lane l).pos
    match p.st with
    | .standing => if p.clause.isNone then [execClauseHeaderEntry sp.uid l] else []
    | .waiting (.header _) => [execClauseHeaderPass sp.uid l]
    | .waiting (.spawn _ _ _ _) => [execSpawnOfferAccept sp.uid l]
    | .waiting (.entw _ _) => [execEntwWake sp.uid l]
    | _ => [])
def spanActsOf (sp : Span) : List Own :=
  [execTrapEntry sp.uid, execWatchdogExpiry sp.uid] ++ spanLaneActs sp ++ [execSpanRetire sp.uid, execParkedSpanRetire sp.uid, execGpQuiescenceChange sp.uid]

/-- The piers where decks stand. -/
def busyPiers (s : State) : List Nat := ((s.decks.filter Deck.resident).map (·.pier)).dedup
def pierActs (p : Nat) : List Own := [execGrowServed p, execMatrixClearDone p, execMatrixOwnershipChange p]

def deckActs (d : Deck) : List Own :=
  [execDeckMemoryCleared d.uid, execDeckQuiesced d.uid, execParkSaveDone d.uid] ++ (List.range 8).map (execStageSlotTurn d.uid)
def girderActs (g : Girder) : List Own := (List.range 8).flatMap (fun k => [execSliceStart g.uid k, execSliceLanding g.uid k])

/-- Placements that the dispatcher may make for a slot, in the order of what it has to place (14 R276, R283, R294, 15 R317). -/
def slotActs (s : State) (h : HwSlot) : List Own :=
  (h.env s).elim [] (fun e => (wants s e.1).flatMap (fun w =>
    match w.place s e.2 e.1 h.barred, w.decks with
    | some ps, d :: _ => [execDeckResume d.girder ps, execMigrationPlace d.girder ps]
    | some ps, [] => if w.seg.isNone then [execDeckPlace e.1.uid ps] else []
    | none, _ => []))

/-- The spawn unit of a segment. -/
def segActs (s : State) (k : Nat) : List Own :=
  let q := (s.seg k).spawnQ
  let pairs := (q.map (fun x => (x.launch, BitVec.ofNat 64 x.entry))).dedup
  let place := ((s.seg k).emitted.zipIdx).flatMap (fun x =>
    match (x.1.head?).bind (fun it => s.launch? it.launch) with
    | none => [execSpawnedSpanPlace k x.2 0]
    | some l => ((s.ctx? l.ctx).bind (fun cx =>
        (Want.mk 1 [] none l.childNeed (some k) (childSlots x.1)).place s cx l (barredPiers s l.queue))).elim []
          (fun ps => ps.map (execSpawnedSpanPlace k x.2)))
  s.ctxs.map (fun c => execOverflowDrain k c.num) ++ place ++ pairs.map (fun x => execSpawnSpanEmit k x.1 x.2) ++
  pairs.map (fun x => execSpawnPackTimeout k x.1 x.2)

def ctxActs (c : Context) : List Own :=
  [execParkleadReached c.num, execDeadlineExpiry c.num, execGpComplete c.num, execGpStall c.num] ++ (if c.deferred == [] then [] else
    [if c.relFault then execRelringRetry c.num else execDfreeRelease c.num])

/-- When a span of an issue slot last issued. -/
def slotLast (s : State) (x : Nat × Nat) : Nat := (slotSpans s x.1 x.2).foldl (fun m sp => max m sp.lastIssue) 0
/-- The issue slots of the busy piers, the one that has issued nothing for the longest first; ties start from one that the step's number
names (log 1). -/
def pickActs (s : State) : List Own :=
  let all := (busyPiers s).flatMap (fun p => (List.range 4).map (fun q => (p, q)))
  let k := s.steps % max all.length 1
  ((all.drop k ++ all.take k).insertionSort (fun a b => slotLast s a ≤ slotLast s b)).map (fun x => execIssuePick x.1 x.2)

/-- Everything the device could do next on its own, in the order in which it is tried; what a waiting deck pre-empts is settled at once
(14 R276), and collectives join once the one before them is over (07 R188). -/
def ownActs (s : State) : List Own :=
  (if s.trust.booted then [] else [execDeviceBoot]) ++ mailAct s ++ [fun s => .next (preemptHigher s), fun s => .next (mapWaiting s)] ++ s.works.flatMap (workActs s) ++ s.decks.flatMap deckActs ++
  s.girders.map (fun g s => .next (joinColl s g.uid g.size)) ++ s.girders.flatMap girderActs ++ (busyPiers s).flatMap pierActs ++
  (s.waves.zipIdx.filter (fun x => x.1 != [])).map (fun x => execBarrierReleaseWave x.2) ++ s.spans.flatMap spanActsOf ++
  s.ctxs.flatMap ctxActs ++ (s.queues.flatMap (fun q => [execLaunchComplete q.num, execLaunchStart q.num])) ++
  s.hw.flatMap (slotActs s) ++ (List.range 8).flatMap (segActs s) ++
  (s.hw.zipIdx.filter (fun x => x.1.queue.isSome && x.1.slice == 0)).map (fun x => execSliceExpiry x.2) ++
  (if s.mgmt.refsync then [execRefmapApplied] else []) ++ (List.range 8).map execLevelChange ++ pickActs s

/-- The agenda's next pick, where a span of its slot can issue a group ahead of what has been picked (15 R300; log 67). -/
def picksAhead (s : State) : Option Instr :=
  match s.agenda with
  | .issuePick p q :: _ =>
    if (slotSpans s p q).any (fun x => flying s x != [] && aheadIssues s x != []) then some (.issuePick p q) else none
  | _ => none

/-! ## A program placed for the next step -/

/-- A byte string written to device memory, poison and refresh declarations aside. -/
def putDev (s : State) (pa : Nat) (bs : List Byte) : State := { s with mem := s.mem.writeBytes pa bs }

/-- A context whose tables map the first 1 GiB of its addresses onto device memory. -/
def fetchContext (num : Nat) : Context :=
  { num := num, desc := 0x20000, loaded := true, tl := List.replicate 16 ⟨0, 0, []⟩, ovfHead := 0, ovfTail := 0, ovfIssue := [], timer := none,
    vacate := [], debug := none, resets := 0, gp := ⟨0, 0, false, [], 0, false⟩, deferred := [], relFault := false, peers := [],
    d := { plvlcap := 7, deadline := 1000000, parklead := 0, saveBase := 0, saveSize := 0, privBase := 0, privSize := 0, ovfBase := 0, ovfCount := 0,
           handler := 0, frameBase := 0, wdog := 0, tflags := 0#32, relBase := 0, relCount := 0, gpLimit := 0, ptroot := 0x10000, bindstub := 0 } }

/-- A launch of one width-8 span. -/
def fetchLaunch (uid num queue : Nat) : Launch :=
  { uid := uid, queue := queue, ctx := num, rdidx := 0, entry := 0x14000, args := 0#64, gx := 0, gy := 0, gz := 0, shapew := 0#32, roles := 0#64,
    ceil := 128, deckmem := 0, priv := 0, constBase := 0, constSize := 0, tlbind := 0#64, compl := 0, rings := List.replicate 8 0#64,
    slots := List.replicate 8 0#256, nextGirder := 1, aborted := false, discarded := false }

/-- The addresses of the header and of the word that is placed. -/
def placedHeader : Nat := 0x14000
def placedPc : Nat := 0x14004

/-- The issue of the placed instruction by all eight lanes. -/
def placedIssue (span : Nat) (cls : Cls) (words : Nat) : Issue :=
  Issue.plain span 0xFF#64 0xFF#64 placedPc cls (placedPc + 4 * words)

/-- A span of eight lanes, standing at the placed word in a clause of its class (01 R30, 09 R221). -/
def placedSpan (uid deck rslot now : Nat) (cls : Cls) (words : Nat) : Span :=
  let lane : Lane := { newLane placedHeader 0 true with pos := ⟨placedPc, some ⟨cls, placedPc + 4 * words⟩, true, .standing⟩ }
  newSpan uid deck 0 8 0#2 rslot 0 (List.replicate 128 (.uniform 0#32)) (List.replicate 8 lane) 128 now false

/-- The tables, the clause's header and its words in memory. -/
def placeWords (s : State) (cls : Cls) (words : List Word) : State :=
  let s := putDev s 0x10000 (natBytes 8 0x11001)
  let s := putDev s 0x11000 (natBytes 8 0x12001)
  let s := putDev s 0x12000 (natBytes 8 0x0000001D)
  let h : Header := ⟨words.length, cls, 0, false, 0#8, 0⟩
  putDev s placedHeader (bytesOfWord h.encode ++ words.flatMap bytesOfWord)

/-- One context, launch, girder, deck and span are there, and the span's placed instruction has been picked: the next step fetches and
runs it. It stands for the load of a program (log 28). -/
def placeInstr (s : State) (cls : Cls) (i : Option Instr) (words : List Word) : State :=
  let pier := if (i.bind Instr.grade) = some .v then 160 else 0
  let u := s.fresh
  let num := ((s.ctxs.map (·.num)).foldl max 0) + (if s.ctxs == [] then 0 else 1)
  let slot := (lowestFree 16 ((decksAt s pier).map (·.slot))).getD 0
  let rslot := (lowestFree 64 ((spansAt s pier).map (·.rslot))).getD 0
  let s := placeWords s cls words
  let deck := { newDeck (u + 2) (u + 1) 0 pier slot 0 0 1 with status := .running }
  { s with refreshOff := [], mgmt := { s.mgmt with refsync := false, nextOff := [] }, agenda := s.agenda, fresh := u + 4,
           ctxs := fetchContext num :: s.ctxs, launches := fetchLaunch u num 0 :: s.launches,
           girders := newGirder (u + 1) u 0 0 0 1 (trussOf pier) :: s.girders, decks := deck :: s.decks,
           spans := placedSpan (u + 3) (u + 2) rslot s.time cls words.length :: s.spans, issuing := [placedIssue (u + 3) cls words.length] }

/-- The words a table word stands for, cut to the instruction's length, its class and its reading. -/
def placedReading (nbits w : Nat) : Cls × Option Instr × List Word :=
  match tableReading nbits w with
  | some (c, i) => (c, some i, (tableWords nbits w).take i.words)
  | none => (.alu, none, (tableWords nbits w).take 1)

end Sys2Proof.Machine
end

