-- ==== Sys2Proof/Machine/Step.lean ====
section
/-! DEFINITION. One step of the machine, and an instruction placed where the next step fetches. -/

namespace Sys2Proof.Machine

/-- Run an act. -/
def runAct : Act → Host.Outcome State Fault Refusal
  | .run i s => exec i s
  | .out o => o

/-- Whether an outcome differs from the state that an act started in. -/
def changes (s : State) : Host.Outcome State Fault Refusal → Bool
  | .next t => t != s
  | _ => true

/-- The first of the device's own acts that does something. -/
def ownStep (s : State) : Host.Outcome State Fault Refusal :=
  match (ownActs s).find? (fun f => changes s (f s)) with
  | some f => f s
  | none => .next s

/-- The next act: the oldest issue that has been picked, unless the agenda's pick can issue ahead of it; with none picked
the head of the agenda, else the device's own. -/
def act (s : State) : Host.Outcome State Fault Refusal :=
  match s.issuing with
  | iss :: rest =>
    match picksAhead s with
    | some i => exec i { s with agenda := s.agenda.tail }
    | none => runAct (issueAct { s with issuing := rest } iss)
  | [] =>
    match s.agenda with
    | i :: rest => exec i { s with agenda := rest }
    | [] => ownStep s

/-- One step: time passes and one act is done (log 1, 3). -/
def step (s : State) : Host.Outcome State Fault Refusal := act (advance s)

/-- The instruction of a table word, placed so that the next step fetches and runs it. -/
def State.withFetchWord (s : State) (nbits w : Nat) : State :=
  let r := placedReading nbits w
  placeInstr s r.1 r.2.1 r.2.2

end Sys2Proof.Machine
end

