-- ==== Sys2Proof/Safety.lean ====
section
/-! DEFINITION. What the statements speak of: a well-shaped span, an instruction that issues, room for its registers, and what a result
changes and leaves alone. -/

namespace Sys2Proof.Machine

/-- A span has 128 registers, 12 masks, 8 tags and as many lanes as its width, 64 at most (01 R11, R12, 09 R219). -/
structure Span.Shaped (sp : Span) : Prop where
  regs : sp.regs.length = 128
  masks : sp.masks.length = 12
  tags : sp.tags.length = 8
  lanes : sp.lanes.length = sp.width
  width : sp.width ≤ 64

/-- Instruction i has been picked, with its context: it is legal, the pier's grade has it, a lane executes it and no source of such a lane
is poisoned (03 R73, 01 R29, 21 R382). -/
structure Issues (s : State) (i : Instr) (c : Ctx) : Prop where
  picked : startCtx i s = some c
  legal : i.wf = true
  grade : ∀ g, i.grade = some g → g = gradeOf c.deck.pier
  some_lane : c.A ≠ 0#64
  clean : poisonLanes c i = 0#64
  shaped : c.sp.Shaped

/-- The same with no lane executing: what acts for the span all the same issues (01 R29). -/
structure PassesBy (s : State) (i : Instr) (c : Ctx) : Prop where
  picked : startCtx i s = some c
  legal : i.wf = true
  grade : ∀ g, i.grade = some g → g = gradeOf c.deck.pier
  no_lane : c.A = 0#64
  shaped : c.sp.Shaped

/-- A trap is delivered to its handler or a debugger: the span is outside trap mode, its context has a handler or a debugger that catches the
cause, the device does not serve the page, and no page of the frame has still to be asked for (15 R301, R304, R310, R314, R325). -/
structure Delivers (b : State) (iss : Issue) (t : TrapInfo) (k : Ctx) : Prop where
  context : ctxOf b iss = some k
  outside : k.sp.trap = none
  goes : k.cx.d.handler ≠ 0 ∨ k.cx.catches t.cause = true
  device : t.served = true ∨ t.cause ≠ 0x0007 ∨ k.cx.d.tflags.getLsbD 0 = false
  frame : frameAsks b k.cx (frameAddr k.cx k.deck k.sp) = none

/-- What it leaves: the span has stopped, the trap is counted, the frame is written and the handler entered, on the issuing group, or on
every live lane where the cause is raised at a boundary (15 R300, R304-R306). Nothing but the older instructions holds slots acquired. -/
def delivered (b : State) (iss : Issue) (t : TrapInfo) (k : Ctx) : State :=
  let stopped := k.stopSpan b t 0
  enterTrap (if t.cause = 0 then stopped else countTrap stopped k.deck.pier t.cause) k t (t.boundary.getD iss.pc)
    (if t.boundary.isSome then (if k.sp.live = 0#64 then 1#64 else k.sp.live) else iss.gset) (k.trapQueue b t) (k.cx.catches t.cause)

/-- Room for n more octet slots: spare ones, or a grant within the ceiling and the pier's pool (01 R23). -/
def Room (c : Ctx) (n : Nat) : Prop :=
  n ≤ c.sp.spare ∨ (c.sp.grant + (n - c.sp.spare) ≤ c.sp.ceil ∧ n - c.sp.spare ≤ (c.s.pier c.deck.pier).pool)

/-- The registers that a write widens: each compact one whose merged value no compact shape holds (01 R18, R20, R23). -/
def wideOf (c : Ctx) (ds : List (Nat × (Nat → Word))) : List Nat := (ds.filter (fun d => widens c.sp d.1 d.2 c.A)).map (·.1)
/-- The registers that count as widening where they are written later: each compact one (01 R24). -/
def compactOf (c : Ctx) (ds : List Nat) : List Nat := ds.filter (fun d => !(c.sp.vreg d).isVector)
/-- Slots a write of these registers needs (01 R23). -/
def needOf (c : Ctx) (ds : List (Nat × (Nat → Word))) : Nat := (wideOf c ds).length * c.sp.octets
/-- Slots acquired at issue for registers written later (01 R24). -/
def needAtIssue (c : Ctx) (ds : List Nat) : Nat := (compactOf c ds).length * c.sp.octets

/-- SHAPE_STORAGE on widening these registers: ADDR holds the slots needed, the lowest of the registers, and whether the ceiling allows them
(01 R23, R25). -/
def storageTrap (c : Ctx) (wide : List Nat) : TrapInfo :=
  let n := wide.length * c.sp.octets
  let ceiling := decide (c.sp.ceil < c.sp.grant + (n - c.sp.spare))
  TrapInfo.at 0x000A (BitVec.ofNat 64 (n % 2 ^ 16 + wide.min?.getD 0 * 2 ^ 16 + if ceiling then 0 else 2 ^ 24)) c.A

/-- A span whose issuing group has gone on to the next word, unless it is past the instruction already (03 R56, R59, 15 R301). -/
def Ctx.onward (c : Ctx) (sp : Span) : Span := sp.modLanes (c.G &&& sp.live) (fun _ l => { l with pos := c.iss.after l.pos })
/-- The executing span after its issuing group has gone on. -/
def Ctx.advanced (c : Ctx) : Span := c.onward c.sp

/-- Everything of t but span u, the pool, latches and counters of piers and the counters of segments and device is as in s; so is every
byte of every memory. -/
structure Elsewhere (s t : State) (u : Nat) : Prop where
  state : { t with spans := s.spans, piers := s.piers, segs := s.segs, mgmt := s.mgmt, free := s.free } = s
  mgmt : { t.mgmt with cnt := s.mgmt.cnt, sel := s.mgmt.sel } = s.mgmt
  spans : ∀ v, v ≠ u → t.span? v = s.span? v
  piers : ∀ p, { t.pier p with pool := (s.pier p).pool, latch := (s.pier p).latch, cnt := (s.pier p).cnt, sel := (s.pier p).sel } = s.pier p
  segs : ∀ k, { t.seg k with cnt := (s.seg k).cnt, sel := (s.seg k).sel } = s.seg k
  bytes : ∀ l, readLoc t l = readLoc s l

/-- The shape that the writeback checker gives the values of all lanes: the first that holds them exactly (01 R18). -/
def Shapes (vals : List Word) (v : VReg) : Prop :=
  let same : Prop := ∃ x, ∀ y ∈ vals, y = x
  let strides (b : Word) (e : BitVec 3) : Prop := ∀ l (h : l < vals.length), vals[l] = b + BitVec.ofNat 32 (l * 2 ^ e.toNat)
  match v with
  | .uniform x => ∀ y ∈ vals, y = x
  | .affine b e => ¬ same ∧ strides b e
  | .vector _ m => m = vals ∧ ¬ same ∧ ∀ b e, ¬ strides b e

/-- Span sp has the registers of ds written in the lanes of A, and every other register as it was; a VECTOR register keeps its slots, a compact one
has the shape that holds its merged values; n slots were acquired, those of the registers that have widened are in use, and the registers'
poison has ended in the lanes written (01 R18, R20, R23, R24, 21 R382). -/
structure Written (c : Ctx) (sp : Span) (ds : List (Nat × (Nat → Word))) (n : Nat) : Prop where
  vals : ∀ d ∈ ds, ∀ l < c.W, sp.reg d.1 l = if hasLane c.A l then d.2 l else c.sp.reg d.1 l
  slots : ∀ d ∈ ds, ∀ slot m, c.sp.vreg d.1 = .vector slot m → ∃ m', sp.vreg d.1 = .vector slot m'
  shapes : ∀ d ∈ ds, (c.sp.vreg d.1).isVector = false → Shapes (merge c.sp d.1 d.2 c.A) (sp.vreg d.1)
  others : ∀ r, r ∉ ds.map (·.1) → sp.vreg r = c.sp.vreg r
  used : sp.used = c.sp.used + ds.countP (fun d => !(c.sp.vreg d.1).isVector && (sp.vreg d.1).isVector) * c.sp.octets
  grant : sp.grant = c.sp.grant + (n - c.sp.spare)
  poison : ∀ r l, sp.poisonedReg r l = (c.sp.poisonedReg r l && !((ds.map (·.1)).contains r && hasLane c.A l))

/-- What a span has to draw from its pier's pool for n slots beyond its spare ones has left the pool, and no other pool has changed (01 R23). -/
structure Drew (c : Ctx) (t : State) (n : Nat) : Prop where
  own : c.deck.pier < c.s.piers.length → (t.pier c.deck.pier).pool = (c.s.pier c.deck.pier).pool - (n - c.sp.spare)
  others : ∀ p, p ≠ c.deck.pier → (t.pier p).pool = (c.s.pier p).pool

/-- The span of t is the executing span, advanced, with the registers of ds written in the lanes of A, after n slots were acquired, and every
other register, mask, tag, lane register and bit as it was. -/
structure Wrote (c : Ctx) (t : State) (ds : List (Nat × (Nat → Word))) (n : Nat) : Prop where
  span : ∃ sp, t.span? c.u = some sp ∧ Written c sp ds n ∧
    { sp with regs := c.sp.regs, used := c.sp.used, grant := c.sp.grant, poison := c.sp.poison } = c.advanced
  pool : Drew c t n
  elsewhere : Elsewhere c.s t c.u

/-- Instruction i completes wherever it issues with room for its results, and writes exactly these registers of the lanes of A; without
room it raises SHAPE_STORAGE. -/
def Computes (i : Instr) (ds : Ctx → List (Nat × (Nat → Word))) : Prop :=
  ∀ s c, Issues s i c → (Room c (needOf c (ds c)) → ∃ t, exec i s = .next t ∧ Wrote c t (ds c) (needOf c (ds c))) ∧
    (¬ Room c (needOf c (ds c)) → exec i s = takeTrapFrom c.before c.s c.iss (storageTrap c (wideOf c (ds c))))
/-- The same for an instruction that acquires the slots of every compact destination as it issues (01 R24, 07 R144). -/
def ComputesAtIssue (i : Instr) (ds : Ctx → List (Nat × (Nat → Word))) : Prop :=
  ∀ s c, Issues s i c → let rs := (ds c).map (·.1)
    (Room c (needAtIssue c rs) → ∃ t, exec i s = .next t ∧ Wrote c t (ds c) (needAtIssue c rs)) ∧
    (¬ Room c (needAtIssue c rs) → exec i s = takeTrapFrom c.before c.s c.iss (storageTrap c (compactOf c rs)))

/-- One register, with its value in each lane. -/
def put (r : Reg) (f : Nat → Word) : List (Nat × (Nat → Word)) := [(r.toNat, f)]

/-- t is s but for span u, which is sp, and for counters. -/
structure Becomes (s t : State) (u : Nat) (sp : Span) : Prop where
  span : t.span? u = some sp
  elsewhere : Elsewhere s t u

/-- t is b, where span u was x, but mask k has taken a value: every other mask, register, tag and lane register is as it was; the group has
gone on, and so have lanes whose waitm the value opens (05 R101, R102). -/
structure Masked (c : Ctx) (b : State) (x : Span) (t : State) (k : Nat) (m : LaneSet) : Prop where
  span : ∃ sp, t.span? c.u = some sp ∧ sp.mask k = m &&& x.maskable ∧ (∀ j, j ≠ k → sp.mask j = x.mask j) ∧
    { sp with masks := x.masks, lanes := x.lanes } = x ∧ sp.lanes = (c.onward (settleSets (x.setMask k m))).lanes
  elsewhere : Elsewhere b t c.u

/-- Instruction i completes wherever it issues, and writes exactly mask k. -/
def Marks (i : Instr) (k : Nat) (m : Ctx → LaneSet) : Prop :=
  ∀ s c, Issues s i c → ∃ t, exec i s = .next t ∧ Masked c c.s c.sp t k (m c)

/-- The bits of the lanes of A by a condition, those of the other lanes as they were. -/
def Ctx.bits (c : Ctx) (k : Nat) (f : Nat → Bool) : LaneSet := maskBits (c.sp.mask k) c.A f

/-- The number that a finite float stands for, 0 for the others. -/
def FVal.rat : FVal → Rat
  | .fin neg m e => (if neg then -1 else 1) * m * 2 ^ e
  | _ => 0
/-- The number that an exact quotient stands for. -/
def RVal.rat (r : RVal) : Rat := (if r.neg then -1 else 1) * r.n / r.d * 2 ^ r.e

/-- The magnitude of pattern g of a format, its exponent field unbounded (02 R39, R43, R44). -/
def Fmt.mag (m : Fmt) (g : Nat) : Rat :=
  let e : Nat := g / 2 ^ m.fb
  if e = 0 then g * 2 ^ (1 - (m.bias : Int) - m.fb) else (g % 2 ^ m.fb + 2 ^ m.fb : Nat) * 2 ^ ((e : Int) - m.bias - m.fb)
/-- Pattern g is the magnitude r of a number of the given sign rounded by the mode: to nearest even, to zero, down or up (02 R52). -/
def Fmt.Rounds (m : Fmt) (rm : Nat) (neg : Bool) (r : Rat) (g : Nat) : Prop :=
  if rm = 0 then
    (∀ h, h + 1 = g → m.mag h + m.mag g ≤ 2 * r ∧ (m.mag h + m.mag g = 2 * r → g % 2 = 0)) ∧
    2 * r ≤ m.mag g + m.mag (g + 1) ∧ (2 * r = m.mag g + m.mag (g + 1) → g % 2 = 0)
  else if (rm = 2 ∧ neg = true) ∨ (rm = 3 ∧ neg = false) then r ≤ m.mag g ∧ ∀ h, h + 1 = g → m.mag h < r
  else m.mag g ≤ r ∧ r < m.mag (g + 1)

/-- z is r rounded to an integer by the mode: to nearest even, to zero, down or up (02 R52). -/
def RoundsTo (rm : Nat) (r : Rat) (z : Int) : Prop :=
  match rm with
  | 0 => |r - z| ≤ 1 / 2 ∧ (|r - z| = 1 / 2 → z % 2 = 0)
  | 1 => (0 ≤ r → (z : Rat) ≤ r ∧ r < z + 1) ∧ (r ≤ 0 → (z : Rat) - 1 < r ∧ r ≤ z)
  | 2 => (z : Rat) ≤ r ∧ r < z + 1
  | _ => (z : Rat) - 1 < r ∧ r ≤ z

/-- Whether a value is infinite. -/
def FVal.isInf : FVal → Bool
  | .inf _ => true
  | _ => false
/-- u is x / (s v 2^k) + z, exactly, with infinities and NaN as IEEE division gives them (06 R127; the sign of a NaN that arises is log 73). -/
def Divides (s v : FVal) (k z : Int) (x : FVal) (u : XVal) : Prop :=
  let sign := x.signBit ^^ (s.signBit ^^ v.signBit)
  if x.isNan then u = .nan x.signBit
  else if s.isNan ∨ v.isNan ∨ (s.isInf ∧ v.isZero) ∨ (s.isZero ∧ v.isInf) then u = .nan false
  else if s.isInf ∨ v.isInf then (if x.isInf then u = .nan false else ∃ r : RVal, u = .rat r ∧ r.d ≠ 0 ∧ r.rat = z)
  else if x.isInf then u = .inf sign
  else if s.isZero ∨ v.isZero then u = (if x.isZero then .nan false else .inf sign)
  else ∃ r : RVal, u = .rat r ∧ r.d ≠ 0 ∧ r.rat = x.rat / (s.rat * v.rat * 2 ^ k) + z ∧ (z = 0 → r.neg = sign)
/-- Word `out` is u rounded once by the mode into the slot format of code fmt, an out-of-range integer or narrow value saturated (02 R46, R52, 06 R127). -/
def Encoded (fmt rm : Nat) (extra : FVal) (u : XVal) (out : Word) : Prop :=
  let int (lo hi : Int) : Prop := match u with
    | .nan _ => out = 0#32
    | .inf neg => out = BitVec.ofInt 32 (if neg then lo else hi)
    | .rat r => ∃ z, RoundsTo rm r.rat z ∧ out = BitVec.ofInt 32 (clampInt lo hi z)
  let float (m : Fmt) : Prop := out = match u with
    | .nan _ => BitVec.ofNat 32 m.nanBits
    | .inf neg => BitVec.ofNat 32 (m.signed neg m.infBits)
    | .rat r => BitVec.ofNat 32 (m.round rm r.neg r.n r.d r.e)
  match fmt with
  | 1 => int 0 255
  | 2 => int (-32768) 32767
  | 3 => float .f16
  | 4 => float .bf16
  | 5 => float .f32
  | 6 => out = match u with
    | .nan neg => if neg then 0xFF#32 else 0x7F#32
    | .inf neg => if neg then 0xFE#32 else 0x7E#32
    | .rat r => if 448 < |r.rat| then (if r.neg then 0xFE#32 else 0x7E#32)
        else BitVec.ofNat 32 (Fmt.e4m3.roundMag rm r.neg r.n r.d r.e + if r.neg then 128 else 0)
  | 7 => out = match u with
    | .nan _ => 0#32
    | .inf neg => if neg then 15#32 else 7#32
    | .rat r => if r.rat = extra.rat then 8#32
        else if 6 < |r.rat| then (if r.neg then 15#32 else 7#32)
        else let g := Fmt.e2m1.roundMag rm r.neg r.n r.d r.e
          if g = 0 then 0#32 else BitVec.ofNat 32 (g + if r.neg then 8 else 0)
  | _ => int (-128) 127

/-- A condition code on exact values (05 R91). -/
def holdsOn (cond : BitVec 3) (a b : Int) : Bool :=
  match cond.toNat with
  | 0 => decide (a = b)
  | 1 => decide (a ≠ b)
  | 2 => decide (a < b)
  | 3 => decide (a ≤ b)
  | 4 => decide (a > b)
  | _ => decide (a ≥ b)

/-- Register d and the bits of mask k are written together in the lanes of A; nothing else of the span but lanes that go on. -/
structure Carried (c : Ctx) (t : State) (k : Nat) (d : Reg) (v : Nat → Word) (b : Nat → Bool) : Prop where
  span : ∃ sp, t.span? c.u = some sp ∧ Written c sp (put d v) (needOf c (put d v)) ∧ sp.mask k = maskBits (c.sp.mask k) c.A b &&& c.sp.maskable ∧
    (∀ j, j ≠ k → sp.mask j = c.sp.mask j) ∧
    { sp with regs := c.sp.regs, used := c.sp.used, grant := c.sp.grant, poison := c.sp.poison, masks := c.sp.masks, lanes := c.sp.lanes } = c.sp ∧
    sp.lanes = (c.onward (settleSets (c.sp.setMask k (maskBits (c.sp.mask k) c.A b)))).lanes
  pool : Drew c t (needOf c (put d v))
  elsewhere : Elsewhere c.s t c.u

/-- A lane's position at another header, standing (03 R56). -/
def Pos.at_ (q : Pos) (pc : Nat) : Pos := { q with pc := pc, clause := none, st := .standing }
/-- A lane's position waiting at the issued instruction (09 R226). -/
def Ctx.waiting (c : Ctx) (q : Pos) (w : Wait) : Pos := { q with pc := c.iss.pc, clause := some ⟨c.iss.cls, c.iss.next⟩, st := .waiting w }

/-- A span whose lanes of m take the position f gives and whose other lanes of the issuing group go on. -/
def Ctx.split (c : Ctx) (sp : Span) (m : LaneSet) (f : Nat → Pos → Pos) : Span :=
  sp.modLanes ((c.G ||| m) &&& sp.live) (fun l y => { y with pos := if hasLane m l then f l y.pos else c.iss.after y.pos })

/-- The bytes of a lane's private memory from an offset on, as a location (07 R146). -/
def Ctx.privAt (c : Ctx) (l off : Nat) : Loc := .priv c.deck.uid (c.sp.idx * c.W + l) off

/-- The lanes of m have called: 16 bytes of frame are outstanding below each lane's %sp, which has moved, and the lanes stand at their
targets; the rest of the group goes on (05 R108). -/
structure Called (c : Ctx) (t : State) (m : LaneSet) (target : Nat → Nat) : Prop where
  works : t.works = c.s.works ++ [{
    id := c.s.fresh, span := c.u, lanes := m, dsts := [], resv := 0, kind := .store, iss := none,
    accs := (lanesOf m).map (fun l =>
      Acc.mk l (c.privAt l (c.stack l - 16)) 16 0 (natBytes 8 c.iss.next ++ natBytes 8 0) 0#64 (wide64 (c.stack l - 16)) 0) }]
  span : t.span? c.u = some (c.split (c.sp.modLanes m (fun _ y => { y with sp := y.sp - 16#32 })) m (fun l q => q.at_ (target l)))
  elsewhere : Elsewhere c.s { t with works := c.s.works, fresh := c.s.fresh } c.u
/-- A call's checks pass: each %sp is aligned to 16, a frame fits above %splim, and lies in the lane's private memory (05 R108). -/
def Ctx.callable (c : Ctx) (m : LaneSet) : Prop :=
  ∀ l ∈ lanesOf m, c.stack l % 16 = 0 ∧ (c.sp.lane l).splim.toNat + 16 ≤ c.stack l ∧ c.stack l ≤ c.launch.priv
/-- A target of brai, calli or ret: a word address below 2^57 (05 R107). -/
def goodTarget (v : DWord) : Prop := v.toNat % 4 = 0 ∧ v.toNat < 2 ^ 57

/-- An access passes the checks of 07 R145 and reaches a location of a memory type. -/
def Reaches (c : Ctx) (s : State) (maxType : Nat) (reads : Bool) (r : Req) (l : Loc) (mt : Nat) : Prop :=
  r.addr.toNat % r.size = 0 ∧ mt ≤ maxType ∧ (reads = true → stillPoisoned s c.u r.lane l r.size = false) ∧
  ∃ g, resolve c s r.sp r.lane r.addr r.size = some g ∧ translateTarget c s r.wr g = .ok l mt

/-- t is s with work w outstanding, for whose registers its slots have been acquired, and the executing span gone on; nothing else but counters
differs (01 R24). -/
structure Queued (c : Ctx) (t : State) (w : Work) (sp : Span) : Prop where
  works : t.works = c.s.works ++ [w]
  span : ∃ x, t.span? c.u = some x ∧ { x with used := sp.used, grant := sp.grant } = sp ∧
    x.used = sp.used + w.resv ∧ x.grant = sp.grant + (w.resv - c.sp.spare)
  pool : Drew c t w.resv
  elsewhere : Elsewhere c.s { t with works := c.s.works, fresh := c.s.fresh } c.u

/-- The access fails the check of 07 R145 that raises this cause: MISALIGNED, ILLEGAL_ADDRESS, PROTECTION, PAGE_NOT_PRESENT or POISON. `align`
is what its address has to be a multiple of, `maxType` the highest memory type that the instruction may reach. -/
def Ctx.fails (c : Ctx) (s : State) (align : Req → Nat) (maxType : Nat) (reads : Bool) (q : Req) (cause : Nat) : Prop :=
  let target := resolve c s q.sp q.lane q.addr q.size
  match cause with
  | 0x0008 => q.addr.toNat % align q ≠ 0
  | 0x0005 => target = none
  | 0x0006 => ∃ g, target = some g ∧ ((∃ mt, translateTarget c s q.wr g = .prot mt) ∨ ∃ l mt, translateTarget c s q.wr g = .ok l mt ∧ maxType < mt)
  | 0x0007 => ∃ g, target = some g ∧ translateTarget c s q.wr g = .absent
  | 0x000C => reads = true ∧ ∃ g l mt, target = some g ∧ translateTarget c s q.wr g = .ok l mt ∧ stillPoisoned s c.u q.lane l q.size = true
  | _ => False
/-- No translation of the accesses waits for the host or finds no memory. -/
def Ctx.translated (c : Ctx) (s : State) (reqs : List Req) : Prop :=
  ∀ q ∈ reqs, ∀ g, resolve c s q.sp q.lane q.addr q.size = some g →
    (∀ p, translateTarget c s q.wr g ≠ .ask p) ∧ translateTarget c s q.wr g ≠ .noMem

/-- An instruction whose accesses are reqs traps where they fail checks of 07 R145, from state b with `own` slots held: the first check that any
fails decides the cause, the record names the lanes that fail it, and `addr` gives ADDR from a failing access of the lowest of them. -/
def DeniedWith (addr : Nat → Req → DWord → Prop) (align : Req → Nat) (i : Instr) (s : State) (c : Ctx) (b : State) (own access maxType : Nat) (reads : Bool)
    (reqs : List Req) : Prop :=
  ∀ (before : List Nat) (k : Nat) (after : List Nat), [0x0008, 0x0005, 0x0006, 0x0007, 0x000C] = before ++ k :: after →
    let bad (k : Nat) (q : Req) : Prop := c.fails b align maxType reads q k
    (∀ j ∈ before, ∀ q ∈ reqs, ¬ bad j q) → (∃ q ∈ reqs, bad k q) → (2 ≤ before.length → c.translated b reqs) →
    ∃ t : TrapInfo, exec i s = takeTrapHolding own c.before b c.iss t ∧ t.cause = k ∧ t.access = access ∧
      (∀ l, hasLane t.lanes l = true ↔ ∃ q ∈ reqs, q.lane = l ∧ bad k q) ∧
      (∃ q ∈ reqs, bad k q ∧ addr k q t.addr ∧ ∀ x ∈ reqs, bad k x → q.lane ≤ x.lane) ∧
      t.complete = false ∧ t.past = false ∧ t.boundary = none
/-- The same where ADDR is the access's own address, aligned to its size. -/
def Denied (i : Instr) (s : State) (c : Ctx) (b : State) (own access maxType : Nat) (reads : Bool) (reqs : List Req) : Prop :=
  DeniedWith (fun _ q a => a = q.addr) (·.size) i s c b own access maxType reads reqs

/-- Instruction i traps from state b where a lane of m satisfies p: the record names all such lanes, and ADDR is that of the lowest. -/
def Rejects (i : Instr) (s : State) (c : Ctx) (b : State) (cause : Nat) (m : LaneSet) (p : Nat → Bool) (addr : Nat → DWord) : Prop :=
  ∀ l, hasLane m l = true → p l = true → (∀ k < l, hasLane m k = true → p k = false) →
    exec i s = takeTrapFrom c.before b c.iss (TrapInfo.at cause (addr l) (laneSetOf (fun k => hasLane m k && p k)))
/-- Instruction i tests the %sp of the lanes of m: one that is no multiple of 16 is MISALIGNED (05 R108, R109, R114). -/
def TestsStack (i : Instr) (s : State) (c : Ctx) (m : LaneSet) : Prop :=
  Rejects i s c c.s 0x0008 m (fun l => c.stack l % 16 != 0) (fun l => wide64 (c.stack l))
/-- With every %sp aligned, one with less than `size` bytes above %splim is STACK_EXHAUSTED, with the proposed %sp in ADDR (05 R108, R114). -/
def TestsRoom (i : Instr) (s : State) (c : Ctx) (m : LaneSet) (size : Nat) : Prop :=
  (∀ l ∈ lanesOf m, c.stack l % 16 = 0) → Rejects i s c c.s 0x0009 m (fun l => decide (c.stack l < (c.sp.lane l).splim.toNat + size))
    (fun l => ((c.sp.lane l).sp - BitVec.ofNat 32 size).zeroExtend 64)
/-- A target off its word is MISALIGNED; with none, one with bits [63:57] set is ILLEGAL_ADDRESS (05 R107). -/
def TestsTargets (i : Instr) (s : State) (c : Ctx) (b : State) (v : Nat → DWord) : Prop :=
  Rejects i s c b 0x0008 c.A (fun l => (v l).toNat % 4 != 0) v ∧
  ((∀ l ∈ c.lanes, (v l).toNat % 4 = 0) → Rejects i s c b 0x0005 c.A (fun l => decide (2 ^ 57 ≤ (v l).toNat)) v)
/-- The accesses of the lanes of m to n words of their private memory from base on. -/
def stackReqs (m : LaneSet) (wr : Bool) (base : Nat → Nat) (n : Nat) : List Req :=
  (lanesOf m).flatMap (fun l => (List.range n).map (fun i => ⟨l, wide64 (base l + 4 * i), 4, .priv, wr⟩))

/-! ## Accesses -/

/-- The work of a load of the lanes of A from addresses ea (07 R145, R147); it keeps the instruction, which a POISON at its data read
replays (15 R301). -/
def Ctx.loadWork (c : Ctx) (sz : BitVec 3) (d : Reg) (ea : Nat → DWord) (loc : Nat → Loc) (mt : Nat → Nat) (id : Nat) : Work :=
  { id := id, span := c.u, lanes := c.A, dsts := dataRegs sz d, resv := needAtIssue c (dataRegs sz d), kind := .load sz, iss := some c.entry,
    accs := c.lanes.map (fun l => Acc.mk l (loc l) (sizeBytes sz) (mt l) [] 0#64 (ea l) 0) }
/-- The work of a store of the lanes of A to addresses ea, with each lane's data and the scope it releases at (07 R147, R148, 10 R256). -/
def Ctx.storeWork (c : Ctx) (sz : BitVec 3) (d : Reg) (ea : Nat → DWord) (loc : Nat → Loc) (mt : Nat → Nat) (id : Nat) : Work :=
  { id := id, span := c.u, lanes := c.A, dsts := [], resv := 0, kind := .store, iss := none,
    accs := c.lanes.map (fun l => Acc.mk l (loc l) (sizeBytes sz) (mt l) (c.storeBytes sz d l) 0#64 (ea l) (c.fenceScope l)) }

/-- Instruction i loads: every lane's access reaches a location, and the load is outstanding; on device or strongly ordered pages, and where
the instruction orders (`now`), it is performed as it issues; without room, and where an access fails a check, it traps (07 R145, R147, R159,
10 R246). -/
def Loads (i : Instr) (now : Bool) (sp : Space) (sz : BitVec 3) (d : Reg) (ea : Ctx → Nat → DWord) (owner : Ctx → Nat → Nat) : Prop :=
  ∀ s c, Issues s i c → let req (l : Nat) : Req := ⟨owner c l, ea c (owner c l), sizeBytes sz, sp, false⟩
    (∀ (loc : Nat → Loc) (mt : Nat → Nat), Room c (needAtIssue c (dataRegs sz d)) →
      (∀ l ∈ c.lanes, Reaches c c.s 3 true (req l) (loc l) (mt l)) →
      (now = false → (∀ l ∈ c.lanes, mt l < 2) →
        ∃ t, exec i s = .next t ∧ Queued c t (c.loadWork sz d (fun l => ea c (owner c l)) loc mt c.s.fresh) c.advanced) ∧
      ((now = true ∨ ∃ l ∈ c.lanes, 2 ≤ mt l) → ∃ r n, c.reserve c.s (dataRegs sz d) = .ok (r, n) ∧
        exec i s = .next (goOn (performNow r c.u c.A (c.loadWork sz d (fun l => ea c (owner c l)) loc mt)) c.iss c.G))) ∧
    (¬ Room c (needAtIssue c (dataRegs sz d)) → exec i s = takeTrapFrom c.before c.s c.iss (storageTrap c (compactOf c (dataRegs sz d)))) ∧
    (∀ r n, c.reserve c.s (dataRegs sz d) = .ok (r, n) → Denied i s c r n 1 3 true (c.lanes.map req))

/-- Instruction i stores: every lane's access reaches a location, and the store is outstanding, or performed as it issues on device or
strongly ordered pages; where an access fails a check, it traps (07 R145, R147, R148, 10 R246). -/
def Stores (i : Instr) (sp : Space) (sz : BitVec 3) (d : Reg) (ea : Ctx → Nat → DWord) : Prop :=
  ∀ s c, Issues s i c → let req (l : Nat) : Req := ⟨l, ea c l, sizeBytes sz, sp, true⟩
    (∀ (loc : Nat → Loc) (mt : Nat → Nat), (∀ l ∈ c.lanes, Reaches c c.s 3 false (req l) (loc l) (mt l)) →
      ((∀ l ∈ c.lanes, mt l < 2) →
        ∃ t, exec i s = .next t ∧ Queued c t (c.storeWork sz d (ea c) loc mt c.s.fresh) c.advanced) ∧
      ((∃ l ∈ c.lanes, 2 ≤ mt l) → exec i s = .next (goOn (performNow c.s c.u c.A (c.storeWork sz d (ea c) loc mt)) c.iss c.G))) ∧
    Denied i s c c.s 0 2 3 false (c.lanes.map req)

/-- Every byte memory is in its canonical form. -/
structure Canon (s : State) : Prop where
  mem : s.mem.wf = true
  host : s.hostMem.wf = true
  decks : ∀ d ∈ s.decks, d.mem.wf = true ∧ d.priv.wf = true

/-- A location that names one byte: a private offset lies in its lane's 1 MiB (07 R146). -/
def Loc.good : Loc → Prop
  | .priv _ _ o => o < 2 ^ 20
  | _ => True
/-- A location a write reaches: its deck is there, its block is refreshed (21 R387). -/
def Loc.there (s : State) : Loc → Prop
  | .dev pa => declaredOff s pa = false
  | .host _ => True
  | .deck u _ | .priv u _ _ => (s.deck? u).isSome = true

/-! ## Engines and the matrix unit -/

/-- The issuing deck owns its pier's matrix unit, which has been cleared (08 R192). -/
def Ctx.owns (c : Ctx) : Prop := (c.s.pier c.deck.pier).owner = some c.deck.uid ∧ (c.s.pier c.deck.pier).clearing = false

/-- Instruction i issues an engine copy: with its slots taken, its descriptor read and every check passed it takes the next number of its
timeline and becomes outstanding (07 R178-R181). -/
def Copies (i : Instr) (op : Nat) (a b : Reg) : Prop :=
  ∀ s c r m (loc : Loc) (mt : Nat), Issues s i c → c.reserve (drain c.s c.u c.A) (one a) = .ok (r, m) →
    Reaches c r 3 true ⟨c.low, c.pair b c.low, 128, .global, false⟩ loc mt →
    let d : BitVec 1024 := BitVec.ofNat 1024 (bytesNat (readLocs r loc 128))
    let unit := r.pier c.deck.pier
    (op = 1 → descWs d = true → gradeOf c.deck.pier = .m ∧ unit.owner = some c.deck.uid ∧ unit.clearing = false) →
    descOk op d unit.unit.arr.isSome unit.unit.planes = true → c.launch.tlBound (descTl d) = true →
    c.launch.tlKind (descTl d) = engineKind op →
    (op ≠ 4 → (resolve c r .generic c.low (BitVec.ofNat 64 (descSrc d)) 1).isSome = true) →
    (resolve c r .generic c.low (BitVec.ofNat 64 (descDst d)) 1).isSome = true →
    let n := takeNumber r c.cx.num (descTl d)
    let girder : Prop := op = 5 ∧ bitsOf (descAux d) 4 4 = 0
    ∃ joined, (joined = false ↔ girder) ∧
      let t := n.1.addWork (fun id =>
        { id := id, span := c.u, lanes := c.A, dsts := one a, resv := m, accs := [], iss := none,
          kind := .copy { ctx := c.cx.num, launch := c.launch.uid, deck := c.deck.uid, op := op, desc := d, pc := c.iss.pc, tl := descTl d,
                          num := n.2, total := descPieces op d, next := 0, suspended := false, seed := n.1.fresh, joined := joined, cut := false,
                          dead := false,
                          bad := decide (op = 5) && joined && Config.peerMismatch (bitsOf (descAux d) 4 4) n.1.fresh,
                          wins := windowsOf r c.girder.uid, memo := [] } })
      exec i s = .next (goOn (if joined then t else joinColl t c.girder.uid c.girder.size) c.iss c.G)

/-- Instruction i waits for the matrix unit while its deck does not own it, and takes it where nobody does, with a clear (08 R192). -/
def WaitsForUnit (i : Instr) : Prop :=
  ∀ s c, Issues s i c →
    ((c.s.pier c.deck.pier).owner = none → exec i s = .next (holdAgain (c.s.modPier c.deck.pier (fun p =>
      { p with owner := some c.deck.uid, clearing := true, mtx := some .clear })) c.iss (.matrix 0 0))) ∧
    ((c.s.pier c.deck.pier).owner ≠ none → ¬ c.owns → exec i s = .next (holdAgain c.s c.iss (.matrix 0 0)))

/-- A piece of a copy may land: nothing stops the copy, no running operation holds it, and the indices or nibbles that the piece needs can be
read (07 R181-R186, 08 R197). -/
structure Piece (s : State) (w : Work) (c : CopyOp) (g : Agent) (d : Deck) (gd : Girder) (memo : List (Nat × Nat)) : Prop where
  work : s.work? w.id = some w
  kind : w.kind = .copy c
  goes : c.open_ = true
  free : fillHeld s w = false
  agent : agentOf s c.ctx c.launch c.deck c.wins = some g
  deck : s.deck? c.deck = some d
  girder : s.girder? d.girder = some gd
  keys : readKeys s g c (c.keys c.next) = .ok memo

/-- The copy after its piece: one piece further, the bytes credited to its barrier (07 R181). -/
def pieceDone (t : State) (w : Work) (c : CopyOp) (memo : List (Nat × Nat)) (bytes : Nat) : State :=
  creditPiece (t.modWork w.id (fun x => { x with kind := .copy { c with memo := memo, next := c.next + 1 } })) { c with memo := memo } bytes

/-- The piece writes bytes to a destination. -/
def Lands (s : State) (w : Work) (c : CopyOp) (g : Agent) (memo : List (Nat × Nat)) (dst : Nat) (bs : List Byte) : Prop :=
  ∀ t, engineWrite s g dst bs = .ok t → exec (.copyPieceLanding w.id) s = .next (pieceDone t w c memo (descBytes c.desc))

/-- The bytes that locations name, in order. -/
def locsOf (ls : List (Loc × Nat)) : List Loc := ls.flatMap (fun l => (List.range l.2).map l.1.plus)
/-- t holds bytes bs at these locations, the last value where a location is named twice, and every other byte as s does. -/
def Holds (s t : State) (ls : List Loc) (bs : List Byte) : Prop :=
  (∀ i (h : i < bs.length) (l : Loc), ls[i]? = some l → l.there s → (∀ j, i < j → ls[j]? ≠ some l) → readLoc t l = bs[i]) ∧
  (∀ l : Loc, l.good → l ∉ ls → readLoc t l = readLoc s l)

/-- No read of the device's outstanding work that later instructions of its span have overtaken reads one of these bytes: poisoning them performs none
(15 R300; log 67). -/
def Undisturbed (s : State) (p : Loc → Prop) : Prop :=
  ∀ w ∈ s.works, w.reads = true → w.overtaken s = true → ∀ a ∈ w.accs, ∀ i < a.size, ¬ p (a.loc.plus i)

/-- A mailbox command waits for its own row (20 R365). -/
def State.waiting (s : State) (op : Nat) : Prop := s.mail.busy = true ∧ s.mail.opcode = op ∧ s.mail.begun = false
/-- A mailbox command waits, and the state of the device serves it: in the recovery state only FW_DELIVER, GET_CERT and ATTEST (20 R366). -/
def State.awaits (s : State) (op : Nat) : Prop := s.waiting op ∧ (s.trust.recovery = false ∨ op = 9 ∨ op = 10 ∨ op = 11)

/-- The host-visible registers have their banks' sizes (20 R365, 21 R378). -/
structure Banked (s : State) : Prop where
  args : s.mail.args.length = 128
  result : s.mail.result.length = 128
  slopes : s.mgmt.tslope.length = 36
  device : s.mgmt.cnt.length = 32 ∧ s.mgmt.sel.length = 32
  segs : s.segs.length = 8 ∧ ∀ g ∈ s.segs, g.cnt.length = 16 ∧ g.sel.length = 16
  window : (s.pier s.mgmt.pierSel).cnt.length = 8 ∧ (s.pier s.mgmt.pierSel).sel.length = 8

/-- A select register after a host write: a listed source that the register's class takes, EN, and OVF, which a 1 clears (21 R390). -/
def selectAfter (listed : Nat → Bool) (v : Nat) (old : Word) : Word :=
  if listed (v % 256) then BitVec.ofNat 32 (v % 512) ||| (if old.getLsbD 9 && !v.testBit 9 then 0x200#32 else 0#32) else old

/-- Only the mailbox and its vector differ: the command is over with a code and a result (20 R365). -/
structure Finished (s t : State) (code result : Nat) : Prop where
  busy : t.mail.busy = false
  begun : t.mail.begun = false
  code : t.mail.code = code
  result : t.mail.result = natBytes 8 result ++ List.replicate 120 0#8
  rest : { t with mail := s.mail, msix := s.msix } = s

end Sys2Proof.Machine
end

