-- ==== Sys2Proof/Certificates/Slice0/Obligations.lean ====
section
/-! DEFINITION. The statements, from the manual's numbered rules. -/

open Sys2Proof Sys2Proof.Machine

/-! ## Results in general registers -/

/-- The 32-bit integer arithmetic and the moves (05 R84): every effect is on the lanes of A, modulo 2^32; a destination takes the shape that
its values need, with slots acquired or SHAPE_STORAGE raised, and its poison ends in the lanes written (01 R18, R20, R23, R25, 21 R382). -/
def Obligations.IntegerArithmeticResults : Prop :=
  (∀ f, Computes (.add f) (fun c => put f.d (fun l => c.src f.a l + c.srcB f.b l))) ∧
  (∀ f, Computes (.sub f) (fun c => put f.d (fun l => c.src f.a l - c.srcB f.b l))) ∧
  (∀ f, Computes (.mul f) (fun c => put f.d (fun l => c.src f.a l * c.srcB f.b l))) ∧
  (∀ f, Computes (.mulh f) (fun c => put f.d (fun l =>
    if f.x then BitVec.ofInt 32 ((c.src f.a l).toInt * (c.srcB f.b l).toInt / 2 ^ 32)
    else BitVec.ofNat 32 ((c.src f.a l).toNat * (c.srcB f.b l).toNat / 2 ^ 32)))) ∧
  (∀ f, Computes (.mad f) (fun c => put f.d (fun l => c.src f.a l * c.srcB f.b l + c.src f.d l))) ∧
  (∀ f, Computes (.madw f) (fun c => pairDst f.d (fun l =>
    if f.x then (c.src f.a l).signExtend 64 * (c.srcB f.b l).signExtend 64 + c.pair f.d l
    else (c.src f.a l).zeroExtend 64 * (c.srcB f.b l).zeroExtend 64 + c.pair f.d l))) ∧
  (∀ f, Computes (.abs f) (fun c => put f.d (fun l => if (c.src f.a l).toInt < 0 then -(c.src f.a l) else c.src f.a l))) ∧
  (∀ f, Computes (.min f) (fun c => put f.d (fun l =>
    if (if f.x then (c.src f.a l).toInt ≤ (c.srcB f.b l).toInt else (c.src f.a l).toNat ≤ (c.srcB f.b l).toNat)
    then c.src f.a l else c.srcB f.b l))) ∧
  (∀ f, Computes (.max f) (fun c => put f.d (fun l =>
    if (if f.x then (c.src f.a l).toInt ≤ (c.srcB f.b l).toInt else (c.src f.a l).toNat ≤ (c.srcB f.b l).toNat)
    then c.srcB f.b l else c.src f.a l))) ∧
  (∀ f, Computes (.mov f) (fun c => put f.d (fun l => c.src f.a l))) ∧
  (∀ d x lit, Computes (.movl d x lit) (fun _ => put d (fun _ => lit))) ∧
  (∀ f, Computes (.lea f) (fun c => put f.d (fun l => c.src f.a l + 4#32 * c.srcB f.b l)))

/-- The bitwise operations, shifts and rotates (05 R86): a shift by 32 or more leaves no bit, or the sign. -/
def Obligations.BitwiseAndShiftResults : Prop :=
  (∀ f, Computes (.and f) (fun c => put f.d (fun l => c.src f.a l &&& c.srcB f.b l))) ∧
  (∀ f, Computes (.or f) (fun c => put f.d (fun l => c.src f.a l ||| c.srcB f.b l))) ∧
  (∀ f, Computes (.xor f) (fun c => put f.d (fun l => c.src f.a l ^^^ c.srcB f.b l))) ∧
  (∀ f, Computes (.not f) (fun c => put f.d (fun l => ~~~(c.src f.a l)))) ∧
  (∀ f, Computes (.andn f) (fun c => put f.d (fun l => c.src f.a l &&& ~~~(c.srcB f.b l)))) ∧
  (∀ f, Computes (.shl f) (fun c => put f.d (fun l =>
    let n := (c.srcB f.b l).toNat
    if n < 32 then c.src f.a l <<< n else 0#32))) ∧
  (∀ f, Computes (.shr f) (fun c => put f.d (fun l =>
    let n := (c.srcB f.b l).toNat
    if n < 32 then c.src f.a l >>> n else 0#32))) ∧
  (∀ f, Computes (.sar f) (fun c => put f.d (fun l =>
    let n := (c.srcB f.b l).toNat
    if n < 32 then (c.src f.a l).sshiftRight n else if (c.src f.a l).msb then 0xFFFFFFFF#32 else 0#32))) ∧
  (∀ f, Computes (.rot f) (fun c => put f.d (fun l => (c.src f.a l).rotateLeft ((c.srcB f.b l).toNat % 32))))

/-- fshl (0x14) and fshr (0x15) shift a 64-bit concatenation of a and the old d, whatever x records; both give a when n = 0, and a rotate by n
is fshl with d equal to a (05 R87). -/
def Obligations.FunnelShiftResults : Prop :=
  (∀ f, Computes (.fshl f) (fun c => put f.d (fun l =>
    ((c.src f.a l ++ c.src f.d l : BitVec 64) <<< ((c.srcB f.b l).toNat % 32)).extractLsb' 32 32))) ∧
  (∀ f, Computes (.fshr f) (fun c => put f.d (fun l =>
    ((c.src f.d l ++ c.src f.a l : BitVec 64) >>> ((c.srcB f.b l).toNat % 32)).extractLsb' 0 32))) ∧
  (∀ f, (Instr.encodeWord (.fshl f)).extractLsb' 24 8 = 0x14#8 ∧ (Instr.encodeWord (.fshr f)).extractLsb' 24 8 = 0x15#8) ∧
  (∀ a d : Word, ((a ++ d : BitVec 64) <<< 0).extractLsb' 32 32 = a ∧ ((d ++ a : BitVec 64) >>> 0).extractLsb' 0 32 = a) ∧
  (∀ (a : Word) (n : Nat), n < 32 → ((a ++ a : BitVec 64) <<< n).extractLsb' 32 32 = a.rotateLeft n)

/-- Bit fields, counts, bit reversal and byte permutation, each result given by its bits or as a count (05 R88-R90). -/
def Obligations.BitFieldAndCountResults : Prop :=
  (∀ f, Computes (.bfx f) (fun c => put f.d (fun l =>
    let b := c.srcB f.b l
    let pos := (b.extractLsb' 0 5).toNat
    let len := min (b.extractLsb' 8 6).toNat (32 - pos)
    wordOfBits (fun i =>
      if i < len then (c.src f.a l).getLsbD (pos + i) else len != 0 && f.x && (c.src f.a l).getLsbD (pos + len - 1))))) ∧
  (∀ f, Computes (.bfi f) (fun c => put f.d (fun l =>
    let b := c.srcB f.b l
    let pos := (b.extractLsb' 0 5).toNat
    let len := min (b.extractLsb' 8 6).toNat (32 - pos)
    wordOfBits (fun i =>
      if pos ≤ i ∧ i < pos + len then (c.src f.a l).getLsbD (i - pos) else (c.src f.d l).getLsbD i)))) ∧
  (∀ f, Computes (.popc f) (fun c => put f.d (fun l =>
    BitVec.ofNat 32 ((List.range 32).countP (fun i => (c.src f.a l).getLsbD i))))) ∧
  (∀ f, Computes (.clz f) (fun c => put f.d (fun l =>
    BitVec.ofNat 32 ((List.range 32).takeWhile (fun i => !(c.src f.a l).getLsbD (31 - i))).length))) ∧
  (∀ f, Computes (.ctz f) (fun c => put f.d (fun l =>
    BitVec.ofNat 32 ((List.range 32).takeWhile (fun i => !(c.src f.a l).getLsbD i)).length))) ∧
  (∀ f, Computes (.brev f) (fun c => put f.d (fun l =>
    wordOfBits (fun i => (c.src f.a l).getLsbD (31 - i))))) ∧
  (∀ f, Computes (.permb f) (fun c => put f.d (fun l =>
    let q : BitVec 64 := c.src f.d l ++ c.src f.a l
    let byte (k : Nat) : BitVec 8 :=
      let sel := ((c.srcB f.b l).extractLsb' (4 * k) 4).toNat
      let y : BitVec 8 := q.extractLsb' (8 * (sel % 8)) 8
      if 8 ≤ sel then (if y.msb then 0xFF#8 else 0#8) else y
    (byte 3 ++ byte 2 ++ byte 1 ++ byte 0 : BitVec 32))))

/-- The 64-bit forms modulo 2^64, in whose shifts b is one register or the literal, and the immediate forms: the register form's effect with
the sign-extended immediate for b (05 R93, R94). -/
def Obligations.PairAndImmediateResults : Prop :=
  ((∀ f, Computes (.add64 f) (fun c => pairDst f.d (fun l => c.pair f.a l + c.pairB f.b f.x l))) ∧
  (∀ f, Computes (.sub64 f) (fun c => pairDst f.d (fun l => c.pair f.a l - c.pairB f.b f.x l))) ∧
  (∀ f, Computes (.shl64 f) (fun c => pairDst f.d (fun l =>
    BitVec.ofNat 64 (if (c.srcB f.b l).toNat < 64 then (c.pair f.a l).toNat * 2 ^ (c.srcB f.b l).toNat else 0)))) ∧
  (∀ f, Computes (.shr64 f) (fun c => pairDst f.d (fun l =>
    BitVec.ofNat 64 (if (c.srcB f.b l).toNat < 64 then (c.pair f.a l).toNat / 2 ^ (c.srcB f.b l).toNat else 0))))) ∧
  ((∀ f, Computes (.addImm f) (fun c => put f.d (fun l => c.src f.a l + f.imm.signExtend 32))) ∧
  (∀ f, Computes (.mulImm f) (fun c => put f.d (fun l => c.src f.a l * f.imm.signExtend 32))) ∧
  (∀ f, Computes (.andImm f) (fun c => put f.d (fun l => c.src f.a l &&& f.imm.signExtend 32))) ∧
  (∀ f, Computes (.orImm f) (fun c => put f.d (fun l => c.src f.a l ||| f.imm.signExtend 32))) ∧
  (∀ f, Computes (.xorImm f) (fun c => put f.d (fun l => c.src f.a l ^^^ f.imm.signExtend 32))) ∧
  (∀ f, Computes (.shlImm f) (fun c => put f.d (fun l => c.src f.a l <<< f.imm.toNat))) ∧
  (∀ f, Computes (.shrImm f) (fun c => put f.d (fun l => c.src f.a l >>> f.imm.toNat))) ∧
  (∀ f, Computes (.sarImm f) (fun c => put f.d (fun l => (c.src f.a l).sshiftRight f.imm.toNat))) ∧
  (∀ f, Computes (.rotImm f) (fun c => put f.d (fun l => (c.src f.a l).rotateLeft f.imm.toNat))) ∧
  (∀ f, Computes (.minI32Imm f) (fun c => put f.d (fun l =>
    if (c.src f.a l).toInt ≤ f.imm.toInt then c.src f.a l else f.imm.signExtend 32))) ∧
  (∀ f, Computes (.minN32Imm f) (fun c => put f.d (fun l =>
    if (c.src f.a l).toNat ≤ (f.imm.signExtend 32).toNat then c.src f.a l else f.imm.signExtend 32))) ∧
  (∀ f, Computes (.maxI32Imm f) (fun c => put f.d (fun l =>
    if (c.src f.a l).toInt ≤ f.imm.toInt then f.imm.signExtend 32 else c.src f.a l))) ∧
  (∀ f, Computes (.maxN32Imm f) (fun c => put f.d (fun l =>
    if (c.src f.a l).toNat ≤ (f.imm.signExtend 32).toNat then f.imm.signExtend 32 else c.src f.a l))))

/-- addc and subb: the exact sum or difference with the lane's bit of mK goes to d modulo 2^32 and its carry or borrow to the lane's bit of
mK, together; other lanes' bits and every other mask stay; without room it raises SHAPE_STORAGE and writes neither (05 R85, 01 R23, R25). -/
def Obligations.CarryChainResults : Prop :=
  (∀ k f s c, Issues s (.addc k f) c →
    let t (l : Nat) : Int := (c.src f.a l).toNat + (c.srcB f.b l).toNat + (if hasLane (c.sp.mask k.toNat) l then 1 else 0)
    let ds := put f.d (fun l => BitVec.ofInt 32 (t l))
    (Room c (needOf c ds) → ∃ u, exec (.addc k f) s = .next u ∧ Carried c u k.toNat f.d (fun l => BitVec.ofInt 32 (t l)) (fun l => decide (2 ^ 32 ≤ t l))) ∧
    (¬ Room c (needOf c ds) → exec (.addc k f) s = takeTrapFrom c.before c.s c.iss (storageTrap c (wideOf c ds)))) ∧
  (∀ k f s c, Issues s (.subb k f) c →
    let t (l : Nat) : Int := (c.src f.a l).toNat - (c.srcB f.b l).toNat - (if hasLane (c.sp.mask k.toNat) l then 1 else 0)
    let ds := put f.d (fun l => BitVec.ofInt 32 (t l))
    (Room c (needOf c ds) → ∃ u, exec (.subb k f) s = .next u ∧ Carried c u k.toNat f.d (fun l => BitVec.ofInt 32 (t l)) (fun l => decide (t l < 0))) ∧
    (¬ Room c (needOf c ds) → exec (.subb k f) s = takeTrapFrom c.before c.s c.iss (storageTrap c (wideOf c ds))))

/-- Reads of masks, shapes, the clock and the matrix unit's report, one value for every lane of A, and of each system register, a pair for the
64-bit ones (05 R92, R95, R104, 08 R203, R206, R211; that mpopc and mfind count bits past the width too is log 59, DEDUCED). -/
def Obligations.MachineStateReads : Prop :=
  ((∀ k f, Computes (.sel k f) (fun c => put f.d (fun l => if hasLane (c.sp.mask k.toNat) l then c.src f.a l else c.srcB f.b l))) ∧
  (∀ d k, Computes (.mpopc d k) (fun c => put d (fun _ => BitVec.ofNat 32 ((List.range 64).countP (hasLane (c.sp.mask k.toNat)))))) ∧
  (∀ d k, Computes (.mfind d k) (fun c => put d (fun _ =>
    match (List.range 64).find? (hasLane (c.sp.mask k.toNat)) with
    | some l => BitVec.ofNat 32 l
    | none => 0xFFFFFFFF#32))) ∧
  (∀ d k, Computes (.mskget d k) (fun c => pairDst d (fun _ => c.sp.mask k.toNat))) ∧
  (∀ d a, Computes (.shq d a) (fun c => put d (fun _ =>
    match c.sp.vreg a.toNat with
    | .uniform _ => 0#32
    | .affine _ e => BitVec.ofNat 32 (1 + 256 * e.toNat)
    | .vector _ _ => 2#32))) ∧
  (∀ d, Computes (.clock d) (fun c => pairDst d (fun _ => BitVec.ofNat 64 c.s.time))) ∧
  (∀ a k, Computes (.mxvalid a k) (fun c => pairDst a (fun _ => c.unitReport k.toNat)))) ∧
  ((∀ d num, Computes (.csrr d num) (fun c =>
    if csrWide num then pairDst d (c.csr num.toNat) else put d (fun l => loWord (c.csr num.toNat l)))) ∧
  (∀ (c : Ctx) (l : Nat),
    c.csr 0x000 l = BitVec.ofNat 64 l ∧ c.csr 0x001 l = BitVec.ofNat 64 c.sp.idx ∧ c.csr 0x002 l = BitVec.ofNat 64 c.deck.slot ∧
    c.csr 0x003 l = BitVec.ofNat 64 c.deck.member ∧ c.csr 0x004 l = BitVec.ofNat 64 c.deck.pier ∧
    c.csr 0x005 l = BitVec.ofNat 64 (segOf c.deck.pier + if gradeOf c.deck.pier = .v then 256 else 0) ∧
    c.csr 0x006 l = BitVec.ofNat 64 c.cx.num ∧ c.csr 0x008 l = (c.sp.lane l).sp.zeroExtend 64 ∧
    c.csr 0x009 l = (c.sp.lane l).splim.zeroExtend 64 ∧ c.csr 0x00A l = (c.sp.lane l).rsn.zeroExtend 64 ∧
    (∀ t, c.sp.trap = some t → c.csr 0x010 l = BitVec.ofNat 64 t.cause ∧ c.csr 0x011 l = t.faddr) ∧
    (c.sp.trap = none → c.csr 0x010 l = 0#64 ∧ c.csr 0x011 l = 0#64) ∧
    c.csr 0x018 l = BitVec.ofNat 64 (c.sp.grant % 65536 + c.sp.spare * 65536) ∧ c.csr 0x019 l = BitVec.ofNat 64 c.sp.ceil ∧
    c.csr 0x020 l = BitVec.ofNat 64 ((c.s.seg (segOf c.deck.pier)).level + c.sp.request * 256) ∧
    (∀ n < 8, c.csr (0x030 + n) l = (c.key n).word)))

/-- The float instructions: each element's exact result, by the special operands of 02 R41, rounded once in its type; minimum, maximum,
scaling, rounding to an integral value and the class word; fneg and fabs change the sign bit alone, whatever the value is; the seven
functions of 02 R42 give the special values of its table and stay within its errors (frcp and frsq one unit in the last place, fsqrt
correctly rounded, fexp2 and flog2 two, fsin and fcos 2^-21), where the value returned is the model's free choice (log 12, DESIGN CHOICE)
(02 R39-R41, R52, 06 R117-R124). -/
def Obligations.FloatResults : Prop :=
  ((∀ f, Computes (.fadd f) (fop2 f (fun m a b => m.pack 0 ((m.unpack a).add (m.unpack b))))) ∧
  (∀ f, Computes (.fsub f) (fop2 f (fun m a b => m.pack 0 ((m.unpack a).add (m.unpack b).neg)))) ∧
  (∀ f, Computes (.fmul f) (fop2 f (fun m a b => m.pack 0 ((m.unpack a).mul (m.unpack b))))) ∧
  (∀ f, Computes (.ffma f) (fop3 f (fun m a b d => m.pack 0 (((m.unpack a).mul (m.unpack b)).add (m.unpack d))))) ∧
  (∀ f, Computes (.fmin f) (fop2 f (fun m a b => m.pack 0 ((m.unpack a).minimum (m.unpack b))))) ∧
  (∀ f, Computes (.fmax f) (fop2 f (fun m a b => m.pack 0 ((m.unpack a).maximum (m.unpack b))))) ∧
  (∀ f, Computes (.fscale f) (fun c =>
    if f.ty == 3#2 then pairDst f.d (fun l => BitVec.ofNat 64 (scaleOf .f64 (c.pair f.a l).toNat (c.srcB f.b l).toInt))
    else put f.d (fun l => if f.ty == 0#2 then BitVec.ofNat 32 (scaleOf .f32 (c.src f.a l).toNat (c.srcB f.b l).toInt)
      else packed (fun a => scaleOf (fmtOf f.ty) a (c.srcB f.b l).toInt) (c.src f.a l)))) ∧
  (∀ f, Computes (.fdot2 f) (fun c => put f.d (fun l =>
    let p (i : Nat) : FVal := (dotIn (fmtOf f.ty) (bitsOf (c.src f.a l).toNat (16 * i) 16)).mul
      (dotIn (fmtOf f.ty) (bitsOf (c.srcB f.b l).toNat (16 * i) 16))
    BitVec.ofNat 32 (Fmt.f32.pack 0 (((p 0).add (p 1)).add (Fmt.f32.unpack (c.src f.d l).toNat))))))) ∧
  ((∀ f, Computes (.fneg f) (fun c =>
    if f.ty == 3#2 then pairDst f.d (fun l => c.pair f.a l ^^^ 0x8000000000000000#64)
    else put f.d (fun l => c.src f.a l ^^^ (if f.ty == 0#2 then 0x80000000#32 else 0x80008000#32)))) ∧
  (∀ f, Computes (.fabs f) (fun c =>
    if f.ty == 3#2 then pairDst f.d (fun l => c.pair f.a l &&& 0x7FFFFFFFFFFFFFFF#64)
    else put f.d (fun l => c.src f.a l &&& (if f.ty == 0#2 then 0x7FFFFFFF#32 else 0x7FFF7FFF#32)))) ∧
  (∀ f, Computes (.frcp f) (fop1 f (fun m a => m.unary .rcp a))) ∧
  (∀ f, Computes (.frsq f) (fop1 f (fun m a => m.unary .rsq a))) ∧
  (∀ f, Computes (.fsqrt f) (fop1 f (fun m a => m.unary .sqrt a))) ∧
  (∀ f, Computes (.fexp2 f) (fop1 f (fun m a => m.unary .exp2 a))) ∧
  (∀ f, Computes (.flog2 f) (fop1 f (fun m a => m.unary .log2 a))) ∧
  (∀ f, Computes (.fsin f) (fop1 f (fun m a => m.unary .sin a))) ∧
  (∀ f, Computes (.fcos f) (fop1 f (fun m a => m.unary .cos a))) ∧
  (∀ f rm, Computes (.frnd f rm) (fop1 f (fun m a => m.roundIntegral rm.toNat a))) ∧
  (∀ f, Computes (.fclass f) (fun c => put f.d (fun l =>
    if f.ty == 3#2 then BitVec.ofNat 32 (Fmt.f64.classOf (c.pair f.a l).toNat)
    else if f.ty == 0#2 then BitVec.ofNat 32 (Fmt.f32.classOf (c.src f.a l).toNat)
    else packed (fmtOf f.ty).classOf (c.src f.a l)))) ∧
  (∀ m ∈ [Fmt.f16, Fmt.bf16, Fmt.f32, Fmt.f64],
    let inf (neg : Bool) := m.signed neg m.infBits
    let zero (neg : Bool) := m.signed neg 0
    let one := m.pack 0 (.fin false 1 0)
    let row (op : Unary) (x : List Nat) : Prop := [m.nanBits, inf true, zero true, zero false, one, inf false].map (m.unary op) = x
    row .rcp [m.nanBits, zero true, inf true, inf false, one, zero false] ∧
    row .rsq [m.nanBits, m.nanBits, inf true, inf false, one, zero false] ∧
    row .sqrt [m.nanBits, m.nanBits, zero true, zero false, one, inf false] ∧
    (m ≠ Fmt.f64 →
      row .exp2 [m.nanBits, zero false, one, one, m.pack 0 (.fin false 2 0), inf false] ∧
      row .log2 [m.nanBits, m.nanBits, inf true, inf true, zero false, inf false] ∧
      [m.nanBits, inf true, zero true, zero false, inf false].map (m.unary .sin) = [m.nanBits, m.nanBits, zero true, zero false, m.nanBits] ∧
      [m.nanBits, inf true, zero true, zero false, inf false].map (m.unary .cos) = [m.nanBits, m.nanBits, one, one, m.nanBits])) ∧
  (∀ (op : Unary) b, (∀ m ∈ [Fmt.f16, Fmt.bf16], m.unary op b = m.pack 0 (Fmt.f32.unpack (Fmt.f32.unary op (Fmt.f32.pack 0 (m.unpack b))))) ∧
    ∀ m ∈ [Fmt.f32, Fmt.f64], ∀ neg, m.unpack b = .nan neg → m.unary op b = m.nanBits) ∧
  (∀ m ∈ [Fmt.f32, Fmt.f64], ∀ b n e, n ≠ 0 → m.unpack b = .fin true n e → m.unary .rsq b = m.nanBits ∧ m.unary .sqrt b = m.nanBits) ∧
  (∀ m ∈ [Fmt.f32, Fmt.f64], ∀ b neg n e, n ≠ 0 → m.unpack b = .fin neg n e →
    let lo := m.roundMag 1 neg 1 n (-e)
    let hi := m.roundMag (if neg then 2 else 3) neg 1 n (-e)
    ∃ r, m.unary .rcp b = m.signed neg r ∧ (min lo m.infBits ≤ r ∧ r ≤ hi ∨ lo = hi ∧ lo ≤ r + 1 ∧ r ≤ lo + 1)) ∧
  (∀ b n e, n ≠ 0 → Fmt.f32.unpack b = .fin true n e → Fmt.f32.unary .log2 b = Fmt.f32.nanBits) ∧
  (∀ b n e k, n ≠ 0 → Fmt.f32.unpack b = .fin false n e → powerOfTwo n e = some k →
    Fmt.f32.unary .log2 b = Fmt.f32.pack 0 (.fin (decide (k < 0)) k.natAbs 0)) ∧
  (∀ b n e, n ≠ 0 → Fmt.f32.unpack b = .fin false n e → powerOfTwo n e = none →
    let r := Fmt.f32.unary .log2 b
    let v := fxLog2 n e
    fxWithin (BitVec.ofNat 32 r) v (if v.natAbs ≤ fxOne.natAbs then 2 ^ 298 else 2 * fxUlp v) = true ∨ r = fxRound v) ∧
  (∀ b neg n e, n ≠ 0 → Fmt.f32.unpack b = .fin neg n e →
    let near (r : Nat) (v : Int) : Prop := fxWithin (BitVec.ofNat 32 r) v (2 ^ 299) = true ∨ r = fxRound v
    near (Fmt.f32.unary .sin b) (fxSin (fxAngle neg n e)) ∧ near (Fmt.f32.unary .cos b) (fxCos (fxAngle neg n e)) ∧
    let r := Fmt.f32.unary .exp2 b
    r ≤ Fmt.f32.infBits ∧ (neg = true → r < Fmt.f32.pack 0 (.fin false 1 0)) ∧
    (∀ k : Int, asInteger neg n e = some k →
      (-149 ≤ k → k < 128 → r = Fmt.f32.pack 0 (.fin false 1 k)) ∧ (128 ≤ k → r = Fmt.f32.infBits) ∧ (k < -149 → r ≤ 2)) ∧
    (asInteger neg n e = none →
      let x := fxFin 320 neg n e
      let v := fxExp2 x
      (128 * fxOne ≤ x → r = Fmt.f32.infBits) ∧ (x < -256 * fxOne → r ≤ 2) ∧
      (-256 * fxOne ≤ x → x < 128 * fxOne → fxWithin (BitVec.ofNat 32 r) v (2 * fxUlp v) = true ∨
        (r = Fmt.f32.infBits ∧ 2 ^ 448 ≤ v + 2 * fxUlp v) ∨
        r = min (fxRound v) (if neg then Fmt.f32.pack 0 (.fin false 1 0) - 1 else Fmt.f32.infBits)))) ∧
  (∀ m ∈ [Fmt.f32, Fmt.f64], ∀ b n e, n ≠ 0 → m.unpack b = .fin false n e →
    let x := (m.unpack b).rat
    let root := m.unary .sqrt b
    let r := m.unary .rsq b
    (0 < r ∧ r + 1 < m.infBits ∧ (m.unpack (r - 1)).rat ^ 2 * x ≤ 1 ∧ 1 ≤ (m.unpack (r + 1)).rat ^ 2 * x) ∧
    (0 < root ∧ root + 1 < m.infBits ∧ ((m.unpack (root - 1)).rat + (m.unpack root).rat) ^ 2 ≤ 4 * x ∧
      4 * x ≤ ((m.unpack root).rat + (m.unpack (root + 1)).rat) ^ 2))) ∧
  (let ieee := [Fmt.f16, Fmt.bf16, Fmt.f32, Fmt.f64]
  (ieee.map (fun m => (m.eb, m.fb, m.bias, m.width)) = [(5, 10, 15, 16), (8, 7, 127, 16), (8, 23, 127, 32), (11, 52, 1023, 64)] ∧
    ieee.map Fmt.nanBits = [0x7E00, 0x7FC0, 0x7FC00000, 0x7FF8000000000000] ∧
    ∀ m ∈ ieee, m.infBits = (2 ^ m.eb - 1) * 2 ^ m.fb ∧ ∀ neg g, m.signed neg g = g + if neg then 2 ^ (m.width - 1) else 0) ∧
  (∀ m ∈ ieee, ∀ neg, ∀ g < 2 ^ (m.width - 1), let b := m.signed neg g
    (g < m.infBits → ∃ n e, m.unpack b = .fin neg n e ∧ (FVal.fin false n e).rat = m.mag g) ∧
    (g = m.infBits → m.unpack b = .inf neg) ∧ (m.infBits < g → m.unpack b = .nan neg)) ∧
  (∀ m ∈ ieee ++ [Fmt.e4m3, Fmt.e2m1], ∀ rm < 4, ∀ neg (n d : Nat) (e : Int), d ≠ 0 →
    m.Rounds rm neg ((n : Rat) / d * 2 ^ e) (m.roundMag rm neg n d e)) ∧
  (∀ m ∈ ieee, ∀ rm < 4, ∀ neg n d e, let g := m.roundMag rm neg n d e
    m.round rm neg n d e = m.signed neg (if g < m.infBits then g
      else if rm = 0 ∨ (rm = 2 ∧ neg = true) ∨ (rm = 3 ∧ neg = false) then m.infBits else m.infBits - 1) ∧
    m.pack rm (.fin neg n e) = m.round rm neg n 1 e ∧ m.pack rm (.inf neg) = m.signed neg m.infBits ∧ m.pack rm (.nan neg) = m.nanBits) ∧
  (∀ a b : FVal, ((∃ neg, a = .nan neg ∨ b = .nan neg) → (a.add b).isNan = true ∧ (a.mul b).isNan = true) ∧
    (∀ neg, a.neg.rat = -a.rat ∧ (a = .inf neg → a.neg = .inf !neg) ∧ (a = .nan neg → a.neg.isNan = true))) ∧
  (∀ s t (m n : Nat) (e k : Int), let a := FVal.fin s m e
    let b := FVal.fin t n k
    (∃ neg i j, a.add b = .fin neg i j ∧ (FVal.fin neg i j).rat = a.rat + b.rat ∧ (i = 0 → neg = (s && t))) ∧
    (∃ i j, a.mul b = .fin (s != t) i j ∧ (FVal.fin (s != t) i j).rat = a.rat * b.rat) ∧
    a.add (.inf t) = .inf t ∧ (FVal.inf s).add b = .inf s ∧
    (FVal.inf s).add (.inf t) = (if s = t then .inf s else .nan false) ∧ (FVal.inf s).mul (.inf t) = .inf (s != t) ∧
    a.mul (.inf t) = (if m = 0 then .nan false else .inf (s != t)) ∧ (FVal.inf s).mul b = (if n = 0 then .nan false else .inf (s != t)) ∧
    (a.rat < b.rat → a.minimum b = a ∧ a.maximum b = b) ∧ (b.rat < a.rat → a.minimum b = b ∧ a.maximum b = a) ∧
    (a.rat = b.rat → (a.minimum b).rat = a.rat ∧ (a.maximum b).rat = a.rat ∧
      (a.minimum b).signBit = (s || t) ∧ (a.maximum b).signBit = (s && t))) ∧
  (∀ a b : FVal, (∀ neg, a = .nan neg → a.minimum b = b ∧ a.maximum b = b) ∧
    (a.isNan = false → ∀ neg, b = .nan neg → a.minimum b = a ∧ a.maximum b = a) ∧
    (a.isNan = false → b.isNan = false →
      (a = .inf true → a.minimum b = a ∧ a.maximum b = b) ∧ (a = .inf false → a.minimum b = b ∧ a.maximum b = a) ∧
      (b = .inf true → a.minimum b = b ∧ a.maximum b = a) ∧ (b = .inf false → a.minimum b = a ∧ a.maximum b = b))) ∧
  (∀ m ∈ ieee, ∀ a (n : Int), (∀ s k e, m.unpack a = .fin s k e → scaleOf m a n = if n = 0 then a else m.pack 0 (.fin s k (e + n))) ∧
    (∀ s, m.unpack a = .inf s → scaleOf m a n = m.signed s m.infBits) ∧ (∀ s, m.unpack a = .nan s → scaleOf m a n = m.nanBits)) ∧
  (∀ m ∈ ieee, ∀ rm < 4, ∀ b < 2 ^ m.width, let out := m.roundIntegral rm b
    (∀ s, m.unpack b = .nan s → out = m.nanBits) ∧ (∀ s, m.unpack b = .inf s → out = b) ∧
    (∀ s n e, m.unpack b = .fin s n e → let r := (FVal.fin s n e).rat
      ((r = 0 ∨ 2 ^ m.fb ≤ |r|) → out = b) ∧ ∃ i j, ∃ z : Int, m.unpack out = .fin s i j ∧ (FVal.fin s i j).rat = z ∧ RoundsTo rm r z)) ∧
  (∀ m ∈ ieee, ∀ b < 2 ^ m.width,
    (∀ s, m.unpack b = .nan s → m.classOf b = if b.testBit (m.fb - 1) then 2 ^ 8 else 2 ^ 9) ∧
    (∀ s, m.unpack b = .inf s → m.classOf b = if s then 2 ^ 0 else 2 ^ 7) ∧
    (∀ s n e, m.unpack b = .fin s n e → m.classOf b = if n = 0 then (if s then 2 ^ 3 else 2 ^ 4)
      else if (FVal.fin false n e).rat < 2 ^ (1 - (m.bias : Int)) then (if s then 2 ^ 2 else 2 ^ 5) else (if s then 2 ^ 1 else 2 ^ 6))) ∧
  (∀ m ∈ [Fmt.f16, Fmt.bf16], ∀ b,
    (∀ s n e, m.unpack b = .fin s n e → dotIn m b = if (FVal.fin false n e).rat < 2 ^ (1 - (m.bias : Int)) then .fin s 0 0 else .fin s n e) ∧
    ((∀ s n e, m.unpack b ≠ .fin s n e) → dotIn m b = m.unpack b)))

/-- Conversion, plane extraction, plane packing and quantisation: a value is read by its type code and written in the type of the destination,
an integer rounded by the mode and saturated, a float rounded once; qnt divides by one scale, the greatest magnitude over 127, rounds to
even and saturates (02 R37, R46, R52, 06 R125, R129-R131; that narrow sources count by their low bits, that an integer saturates in any
integer type, and the signs of NaN codes and zeros are logs 72, 71 and 73, DESIGN CHOICE). -/
def Obligations.ConversionAndPlaneResults : Prop :=
  (∀ d a src dst rm, Computes (.cvt d a src dst rm) (fun c =>
    let v (l : Nat) : DWord := writeType dst rm.toNat (toX (readType src (c.src a l) (if wideType src then c.pair a l else 0#64)))
    if wideType dst then pairDst d v else put d (fun l => loWord (v l)))) ∧
  (∀ f, Computes (.planex f) (fun c => put f.d (fun l =>
    let bit := (c.pair f.a l).getLsbD ((c.srcB f.b l).toNat % 64)
    if f.x then (if bit then 0xFFFFFFFF#32 else 0#32) else BitVec.ofNat 32 (2 * (c.src f.d l).toNat + bit.toNat)))) ∧
  (∀ f, Computes (.planep f) (fun c => pairDst f.d (fun _ => laneSetOf (fun j => hasLane c.A j &&
    (BitVec.ofInt 8 (clampInt (-128) 127 (c.src f.a j).toInt)).getLsbD ((c.srcB f.b c.low).toNat % 8))))) ∧
  (∀ f, Computes (.qnt f) (fun c => pairDst f.d (fun l =>
    pairOf (qntValue (qntScale c f) (c.src f.a l)) (BitVec.ofNat 32 (qntScale c f))))) ∧
  (∀ t lo wide, readType t lo wide = match t.toNat with
    | 0 => .inl (lo.extractLsb' 0 8).toInt
    | 1 => .inl (lo.extractLsb' 0 16).toInt
    | 2 => .inl lo.toInt
    | 3 => .inl wide.toInt
    | 4 => .inl (lo.extractLsb' 0 8).toNat
    | 5 => .inl (lo.extractLsb' 0 16).toNat
    | 6 => .inl lo.toNat
    | 7 => .inl wide.toNat
    | 8 => .inr (Fmt.f16.unpack (lo.extractLsb' 0 16).toNat)
    | 9 => .inr (Fmt.bf16.unpack (lo.extractLsb' 0 16).toNat)
    | 10 => .inr (Fmt.f32.unpack lo.toNat)
    | 11 => .inr (Fmt.f64.unpack wide.toNat)
    | _ => .inr (e4m3Val (lo.extractLsb' 0 8).toNat)) ∧
  ((List.range 8).map (fun k => typeRange (BitVec.ofNat 4 k)) = [(-128, 127), (-32768, 32767), (-(2 ^ 31), 2 ^ 31 - 1), (-(2 ^ 63), 2 ^ 63 - 1),
    (0, 255), (0, 65535), (0, 2 ^ 32 - 1), (0, 2 ^ 64 - 1)]) ∧
  (∀ (t : BitVec 4) (rm : BitVec 2), t.toNat < 8 →
    let put (z : Int) : DWord := BitVec.ofInt 64 (clampInt (typeRange t).1 (typeRange t).2 z)
    let write (v : Int ⊕ FVal) : DWord := writeType t rm.toNat (toX v)
    (∀ z, write (.inl z) = put z) ∧ (∀ neg, write (.inr (.nan neg)) = 0#64) ∧
    (∀ neg, write (.inr (.inf neg)) = BitVec.ofInt 64 (if neg then (typeRange t).1 else (typeRange t).2)) ∧
    ∀ neg m e, ∃ z, RoundsTo rm.toNat (FVal.fin neg m e).rat z ∧ write (.inr (.fin neg m e)) = put z) ∧
  (∀ (t : BitVec 4) (rm : BitVec 2), 8 ≤ t.toNat → t.toNat ≤ 11 →
    let m := [Fmt.f16, Fmt.bf16, Fmt.f32, Fmt.f64].getD (t.toNat - 8) .f32
    (∀ z : Int, writeType t rm.toNat (toX (.inl z)) = BitVec.ofNat 64 (m.pack rm.toNat (.fin (decide (z < 0)) z.natAbs 0))) ∧
    ∀ x, writeType t rm.toNat (toX (.inr x)) = BitVec.ofNat 64 (m.pack rm.toNat x)) ∧
  (∀ (rm : BitVec 2),
    let write (v : Int ⊕ FVal) : DWord := writeType 12#4 rm.toNat (toX v)
    let sat (neg : Bool) : DWord := if neg then 0xFE#64 else 0x7E#64
    (∀ neg, write (.inr (.nan neg)) = if neg then 0xFF#64 else 0x7F#64) ∧ (∀ neg, write (.inr (.inf neg)) = sat neg) ∧
    (∀ z : Int, write (.inl z) = write (.inr (.fin (decide (z < 0)) z.natAbs 0))) ∧
    ∀ neg m e, write (.inr (.fin neg m e)) = if 448 < (FVal.fin false m e).rat then sat neg
      else BitVec.ofNat 64 (Fmt.e4m3.signed neg (Fmt.e4m3.roundMag rm.toNat neg m 1 e))) ∧
  (∀ (c : Ctx) f, let read (w : Word) : FVal := Fmt.f32.unpack w.toNat
    let all := c.lanes.map (c.src f.a) ++ [c.srcB f.b c.low]
    ((∃ w ∈ all, ∃ neg, read w = .inf neg) → qntScale c f = Fmt.f32.infBits) ∧
    ((∀ w ∈ all, ∀ neg, read w ≠ .inf neg) → ∃ m e, qntScale c f = Fmt.f32.round 0 false m 127 e ∧
      (∀ w ∈ all, |(read w).rat| ≤ (FVal.fin false m e).rat) ∧ (m = 0 ∨ ∃ w ∈ all, ∃ neg, read w = .fin neg m e))) ∧
  (∀ sc w, ((Fmt.f32.unpack sc).rat = 0 ∨ (∃ neg, Fmt.f32.unpack w.toNat = .nan neg) → qntValue sc w = 0#32) ∧
    (∀ neg m e n k, n ≠ 0 → Fmt.f32.unpack w.toNat = .fin neg m e → Fmt.f32.unpack sc = .fin false n k →
      ∃ z, RoundsTo 0 ((FVal.fin neg m e).rat / (FVal.fin false n k).rat) z ∧ qntValue sc w = BitVec.ofInt 32 (clampInt (-128) 127 z)))

/-- Lane exchange, votes and matches: source lanes that do not execute are read all the same, lanes that do not execute are not written (06
R132-R135, R138). -/
def Obligations.LaneExchangeResults : Prop :=
  (∀ f, Computes (.shfl f) (fun c => put f.d (fun l =>
    let n := (c.srcB f.b l).toNat
    let from_ : Nat := match f.h.toNat with
      | 0 => n % c.W
      | 1 => if n ≤ l then l - n else l
      | 2 => if l + n < c.W then l + n else l
      | _ => l ^^^ (n % c.W)
    c.src f.a from_))) ∧
  (∀ f, Computes (.bcast f) (fun c => put f.d (fun _ => c.src f.a ((c.srcB f.b c.low).toNat % c.W)))) ∧
  (∀ d a, Computes (.vote d a 0#2) (fun c => put d (fun _ => if ∃ j ∈ c.lanes, c.src a j ≠ 0#32 then 1#32 else 0#32))) ∧
  (∀ d a, Computes (.vote d a 1#2) (fun c => put d (fun _ => if ∀ j ∈ c.lanes, c.src a j ≠ 0#32 then 1#32 else 0#32))) ∧
  (∀ d a, Computes (.vote d a 2#2) (fun c => pairDst d (fun _ => laneSetOf (fun j => hasLane c.A j && c.src a j != 0#32)))) ∧
  (∀ d a, Computes (.vote d a 3#2) (fun c => put d (fun _ => if ∀ j ∈ c.lanes, c.src a j = c.src a c.low then 1#32 else 0#32))) ∧
  (∀ f, Computes (.laneMatch f) (fun c => pairDst f.d (fun l => laneSetOf (fun j => hasLane c.A j &&
    (if f.x then c.pair f.a j == c.pair f.a l else c.src f.a j == c.src f.a l)))))

/-- Reductions and scans of the lanes of A in the fixed pairwise tree, with each operation's node and identity, indexed extremes with the
lowest index among equals, and set intersection, union and prefix counts with each lane's event index in d modulo 64 (02 R53, 06 R136,
R137, R139-R141; that modulo is log 30, DEDUCED). -/
def Obligations.LaneReductionAndIntersectionResults : Prop :=
  (let wide (ty : BitVec 4) : Bool := ty == 3#4 || ty == 7#4
  let leaf (c : Ctx) (f : FormLane) (p : Nat → Bool) (j : Nat) : DWord :=
    if hasLane c.A j && p j then (if wide f.ty then c.pair f.a j else (c.src f.a j).zeroExtend 64) else laneIdentity f.op f.ty
  let tree (c : Ctx) (f : FormLane) (p : Nat → Bool) : DWord := treeOf (laneOp f.op f.ty) 6 ((List.range c.W).map (leaf c f p))
  (∀ f, Computes (.lred f) (fun c =>
    let v := tree c f (fun _ => true)
    if wide f.ty then pairDst f.d (fun _ => v) else put f.d (fun _ => loWord v))) ∧
  (∀ f, Computes (.lscan f) (fun c =>
    let v (l : Nat) := tree c f (fun j => if f.x then decide (j < l) else decide (j ≤ l))
    if wide f.ty then pairDst f.d v else put f.d (fun l => loWord (v l)))) ∧
  (∀ (op : DWord → DWord → DWord) x, treeOf op 6 [x] = x) ∧
  (∀ (op : DWord → DWord → DWord) k (leaves : List DWord), k < 6 → leaves.length = 2 ^ (k + 1) →
    treeOf op 6 leaves = op (treeOf op 6 (leaves.take (2 ^ k))) (treeOf op 6 (leaves.drop (2 ^ k)))) ∧
  (∀ (op : DWord → DWord → DWord) (l : List DWord) j (h : 2 * j + 1 < l.length), (pairUp op l)[j]? = some (op l[2 * j] l[2 * j + 1])) ∧
  (∀ ty ∈ [2#4, 6#4], ∀ a b : Word,
    let val (w : Word) : Int := if ty = 2#4 then w.toInt else w.toNat
    let node (op : BitVec 3) : DWord := laneOp op ty (a.zeroExtend 64) (b.zeroExtend 64)
    [0#3, 1#3, 2#3, 3#3, 4#3, 5#3].map node = ([a + b, if val a ≤ val b then a else b, if val a ≤ val b then b else a,
      a &&& b, a ||| b, a ^^^ b] : List Word).map (·.zeroExtend 64)) ∧
  (∀ ty ∈ [3#4, 7#4], ∀ a b : DWord,
    let val (w : DWord) : Int := if ty = 3#4 then w.toInt else w.toNat
    [0#3, 1#3, 2#3, 3#3, 4#3, 5#3].map (fun op => laneOp op ty a b) =
      [a + b, if val a ≤ val b then a else b, if val a ≤ val b then b else a, a &&& b, a ||| b, a ^^^ b]) ∧
  (∀ a b : Word, let x := Fmt.f32.unpack a.toNat
    let y := Fmt.f32.unpack b.toNat
    [0#3, 1#3, 2#3].map (fun op => laneOp op 10#4 (a.zeroExtend 64) (b.zeroExtend 64)) =
      [x.add y, x.minimum y, x.maximum y].map (fun v => BitVec.ofNat 64 (Fmt.f32.pack 0 v))) ∧
  (∀ ty ∈ [2#4, 3#4, 6#4, 7#4], [0#3, 1#3, 2#3, 3#3, 4#3, 5#3].map (fun op => laneIdentity op ty) =
    [0, (typeRange ty).2, (typeRange ty).1, -1, 0, 0].map (fun z => if wide ty then BitVec.ofInt 64 z else (BitVec.ofInt 32 z).zeroExtend 64)) ∧
  ([0#3, 1#3, 2#3].map (fun op => Fmt.f32.unpack (laneIdentity op 10#4).toNat) = [.fin true 0 (-149), .inf false, .inf true]) ∧
  (∀ f, Computes (.lminx f) (fun c => pairDst f.d (fun _ =>
    c.winner f.a (fun x y => if f.x then x.slt y else x.ult y) (if f.x then 0x7FFFFFFF#32 else 0xFFFFFFFF#32)))) ∧
  (∀ f, Computes (.lmaxx f) (fun c => pairDst f.d (fun _ =>
    c.winner f.a (fun x y => if f.x then y.slt x else y.ult x) (if f.x then 0x80000000#32 else 0#32)))) ∧
  (∀ (c : Ctx) (a : Reg) (x most : Bool),
    let val (p : DWord) : Int := (if x then (loWord p).toInt else (loWord p).toNat) * (if most then -1 else 1)
    let none_ : Word := if most then (if x then 0x80000000#32 else 0#32) else if x then 0x7FFFFFFF#32 else 0xFFFFFFFF#32
    let all := pairOf none_ 0xFFFFFFFF#32 :: c.lanes.map (c.pair a)
    let w := c.winner a (fun p q => if most then (if x then q.slt p else q.ult p) else if x then p.slt q else p.ult q) none_
    w ∈ all ∧ ∀ p ∈ all, val w < val p ∨ (val w = val p ∧ (hiWord w).toNat ≤ (hiWord p).toNat))) ∧
  ((∀ f, Computes (.isect f) (fun c => pairDst f.d (fun l =>
    let e := (c.src f.d l).toNat % 64
    let below (m : DWord) : Word := BitVec.ofNat 32 ((List.range e).countP m.getLsbD)
    if (c.pair f.a l).getLsbD e && (c.pair f.b l).getLsbD e then below (c.pair f.b l) ++ below (c.pair f.a l)
    else 0xFFFFFFFFFFFFFFFF#64))) ∧
  (∀ f, Computes (.union f) (fun c => pairDst f.d (fun l =>
    let e := (c.src f.d l).toNat % 64
    let below (m : DWord) : Nat := (List.range e).countP m.getLsbD
    let half (m : DWord) : Nat := if m.getLsbD e then below m else 0xFFFF
    let both := c.pair f.a l ||| c.pair f.b l
    BitVec.ofNat 32 (half (c.pair f.a l) + 65536 * half (c.pair f.b l)) ++
      (if both.getLsbD e then BitVec.ofNat 32 (below both) else 0xFFFFFFFF#32)))) ∧
  (∀ f, Computes (.bpfx f) (fun c => put f.d (fun l =>
    BitVec.ofNat 32 ((List.range (min (c.src f.b l).toNat 64)).countP (c.pair f.a l).getLsbD)))))

/-- The instructions that acquire their slots as they issue and write at once: generic pointers into the private and deck windows, the class
of a generic address, tag counts, timelines and what is outstanding on them; slots for compact destinations are taken all or none,
SHAPE_STORAGE naming how many are needed, the lowest of the registers and whether the ceiling allows them (01 R23-R25, 07 R163, R164,
R174, R177, R189; which address ILLEGAL_ADDRESS of p2g reports is log 86, and the kind bits of an unbound timeline log 93, both DESIGN
CHOICE). -/
def Obligations.IssueTimeResults : Prop :=
  (∀ (c : Ctx) b sp d ds, b.span? c.u = some sp → b.deck? sp.deck = some d → let k : Ctx := { c with s := b, sp := sp, deck := d }
    let n := needAtIssue k ds
    (Room k n → ∃ r x, c.reserve b ds = .ok (r, n) ∧ r.span? c.u = some x ∧ { x with used := sp.used, grant := sp.grant } = sp ∧
      x.used = sp.used + n ∧ x.grant = sp.grant + (n - sp.spare) ∧ Drew k r n ∧ Elsewhere b r c.u) ∧
    (¬ Room k n → c.reserve b ds = .error (.trap b (storageTrap k (compactOf k ds))))) ∧
  (∀ d a b x s c, Issues s (.p2g d a b x) c → let rs := two d
    let p (l : Nat) := c.pointer x (c.src a l) (c.srcB b l) l
    (Room c (needAtIssue c rs) → (∀ l ∈ c.lanes, (p l).isSome = true) →
      ∃ t, exec (.p2g d a b x) s = .next t ∧ Wrote c t (pairDst d (fun l => (p l).getD 0#64)) (needAtIssue c rs)) ∧
    (¬ Room c (needAtIssue c rs) → exec (.p2g d a b x) s = takeTrapFrom c.before c.s c.iss (storageTrap c (compactOf c rs))) ∧
    (∀ r n, c.reserve c.s rs = .ok (r, n) → ∀ l ∈ c.lanes, p l = none → (∀ k ∈ c.lanes, k < l → p k ≠ none) →
      exec (.p2g d a b x) s = takeTrapHolding n c.before r c.iss
        (TrapInfo.at 0x0005 ((c.src a l).zeroExtend 64) (laneSetOf (fun k => hasLane c.A k && (p k).isNone))))) ∧
  (∀ (c : Ctx) a b l, (c.launch.priv ≤ a.toNat → c.pointer false a b l = none) ∧
    (a.toNat < c.launch.priv → c.launch.priv ≤ 2 ^ 20 → c.deck.pier < 2 ^ 9 → c.deck.slot < 2 ^ 4 → c.sp.idx * c.W + l < 2 ^ 11 →
      ∃ v, c.pointer false a b l = some v ∧ v.extractLsb' 44 20 = 0x01FFF#20 ∧ (v.extractLsb' 35 9).toNat = c.deck.pier ∧
        (v.extractLsb' 31 4).toNat = c.deck.slot ∧ (v.extractLsb' 20 11).toNat = c.sp.idx * c.W + l ∧ (v.extractLsb' 0 20).toNat = a.toNat)) ∧
  (∀ (c : Ctx) a b l, (c.girder.size ≤ b.toNat → c.pointer true a b l = none) ∧
    ∀ d, (c.s.decksOf c.girder.uid).find? (fun d => d.member == b.toNat) = some d → b.toNat < c.girder.size →
      (d.memSize ≤ a.toNat → c.pointer true a b l = none) ∧
      (a.toNat < d.memSize → d.memSize ≤ 2 ^ 19 → d.pier < 2 ^ 9 → d.slot < 2 ^ 4 →
        ∃ v, c.pointer true a b l = some v ∧ v.extractLsb' 44 20 = 0x01FFE#20 ∧ (v.extractLsb' 35 9).toNat = d.pier ∧
          (v.extractLsb' 31 4).toNat = d.slot ∧ v.extractLsb' 19 12 = 0#12 ∧ (v.extractLsb' 0 19).toNat = a.toNat)) ∧
  (∀ d a, ComputesAtIssue (.qspace d a) (fun c => put d (fun l => c.spaceClass (c.pair a l) l))) ∧
  (∀ (c : Ctx) (a : DWord) l, let pier := (a.extractLsb' 35 9).toNat
    let slot := (a.extractLsb' 31 4).toNat
    (2 ^ 57 ≤ a.toNat → c.spaceClass a l = 5#32) ∧ (a.toNat < 0x01FFE00000000000 → c.spaceClass a l = 0#32) ∧
    (a.extractLsb' 44 20 = 0x01FFE#20 → let off := (a.extractLsb' 0 19).toNat
      (∀ d, (c.s.decksOf c.girder.uid).find? (fun d => d.pier == pier && d.slot == slot) = some d → a.extractLsb' 19 12 = 0#12 →
        off < d.memSize → c.spaceClass a l = if d.uid = c.deck.uid then 1#32 else 2#32) ∧
      ((a.extractLsb' 19 12 ≠ 0#12 ∨ ∀ d ∈ c.s.decksOf c.girder.uid, d.pier = pier → d.slot = slot → d.memSize ≤ off) →
        c.spaceClass a l = 5#32)) ∧
    (a.extractLsb' 44 20 = 0x01FFF#20 → let n := (a.extractLsb' 20 11).toNat
      let legal : Prop := pier = c.deck.pier ∧ slot = c.deck.slot ∧ (a.extractLsb' 0 20).toNat < c.launch.priv ∧
        ∃ x ∈ c.s.spansOf c.deck.uid, x.idx = n / c.W ∧ hasLane x.live (n % c.W) = true
      (legal → c.spaceClass a l = if n = c.sp.idx * c.W + l then 3#32 else 4#32) ∧ (¬ legal → c.spaceClass a l = 5#32))) ∧
  (∀ a t, ComputesAtIssue (.tagcnt a t) (fun c => put a (fun _ => BitVec.ofNat 32 (c.sp.tag t.toNat)))) ∧
  (∀ d n, ComputesAtIssue (.tlread d n) (fun c => pairDst d (fun _ =>
    if c.launch.tlBound n.toNat then BitVec.ofNat 64 (c.timeline n.toNat) else 0#64))) ∧
  (∀ a n, ComputesAtIssue (.tstat a n) (fun c => pairDst a (fun _ => c.tlStat n.toNat))) ∧
  (∀ (c : Ctx) k, let v := hiWord (c.tlStat k)
    (∀ t, c.cx.tl[k]? = some t → (loWord (c.tlStat k)).toNat = min (t.issued - t.value - t.early.length) 0xFFFFFFFF) ∧
    (v.getLsbD 0 = true ↔ ∃ w ∈ c.s.works, ∃ x, w.kind = .copy x ∧ x.ctx = c.cx.num ∧ x.tl = k ∧ x.suspended = true) ∧
    v.getLsbD 1 = c.launch.tlBound k ∧ v.extractLsb' 2 2 = 0#2 ∧ v.extractLsb' 8 24 = 0#24 ∧
    (v.extractLsb' 4 4).toNat = if c.launch.tlBound k then c.launch.tlKind k else 0)

/-! ## Results in mask registers -/

/-- The compares write one bit of mask MASK for each lane of A by the condition on the exact values; join, mskop and mskput write masks; leave
clears its lanes after their earlier accesses (05 R91, R93, R94, R101, R104, R105, 06 R119). -/
def Obligations.MaskResults : Prop :=
  ((∀ f, Marks (.cmp f) f.mask.toNat (fun c => c.bits f.mask.toNat (fun l =>
    if f.x then holdsOn f.cond (c.src f.a l).toInt (c.srcB f.b l).toInt else holdsOn f.cond (c.src f.a l).toNat (c.srcB f.b l).toNat))) ∧
  (∀ f, Marks (.cmp64 f) f.mask.toNat (fun c => c.bits f.mask.toNat (fun l =>
    if f.x then holdsOn f.cond (c.pair f.a l).toInt (c.pairB f.b true l).toInt
    else holdsOn f.cond (c.pair f.a l).toNat (c.pairB f.b false l).toNat))) ∧
  (∀ f, Marks (.cmpI32Imm f) f.mask.toNat (fun c => c.bits f.mask.toNat (fun l => holdsOn f.cond (c.src f.a l).toInt f.imm.toInt))) ∧
  (∀ f, Marks (.cmpN32Imm f) f.mask.toNat (fun c => c.bits f.mask.toNat (fun l =>
    holdsOn f.cond (c.src f.a l).toNat (f.imm.signExtend 32).toNat))) ∧
  (∀ f, Marks (.fcmp f) f.mask.toNat (fun c => c.bits f.mask.toNat (fun l =>
    if f.ty == 3#2 then FVal.cond f.cond (Fmt.f64.unpack (c.pair f.a l).toNat) (Fmt.f64.unpack (c.f64B f.b l))
    else FVal.cond f.cond ((fmtOf f.ty).unpack ((c.src f.a l).toNat % 2 ^ (fmtOf f.ty).width))
      ((fmtOf f.ty).unpack ((c.srcB f.b l).toNat % 2 ^ (fmtOf f.ty).width)))))) ∧
  ((∀ k, Marks (.join k) (k.toNat - 1) (fun c => c.sp.mask (k.toNat - 1) ||| c.A)) ∧
  (∀ op k a b, Marks (.mskop op k a b) k.toNat (fun c => c.bits k.toNat (fun l =>
    let x := hasLane (c.sp.mask a.toNat) l
    let y := hasLane (c.sp.mask b.toNat) l
    match op.toNat with
    | 0 => x && y
    | 1 => x || y
    | 2 => x != y
    | 3 => x && !y
    | 4 => !x
    | 5 => x
    | 6 => false
    | _ => true))) ∧
  (∀ k a h, Marks (.mskput k a h) k.toNat (fun c => c.pair a c.low)) ∧
  (∀ k s c, Issues s (.leave k) c → ∃ x t, (drain c.s c.u c.A).span? c.u = some x ∧ exec (.leave k) s = .next t ∧
    Masked c (drain c.s c.u c.A) x t (k.toNat - 1) (x.mask (k.toNat - 1) &&& ~~~c.A)))

/-! ## Where lanes go -/

/-- Branches: the chosen lanes of A stand at the header they branch to, the rest of the group goes on, and brai tests its targets; exit ends
the chosen lanes: they leave every mask for good, their %rsn is 0, every waitm set and every barrier is tested again, and nothing else of
the span or the machine changes; an exit by the run lane is its endser; an exit of the last lane of a trap handler ends trap mode, once
the host has been asked for the pages of the frame that this reads (05 R106, R107, R111, R112, R115, 15 R309, 17 R348, 20 R370, R371; what
is read of a frame that cannot be read is log 80, DESIGN CHOICE; the asking is log 90, the clause after a section log 16, and that a lane
which ends in read-side sections leaves them as rdexit does log 105, all DEDUCED). -/
def Obligations.BranchesAndExits : Prop :=
  ((∀ k off s c, Issues s (.bra k off) c → ∃ t, exec (.bra k off) s = .next t ∧
    let m := if k.toNat = 0 then c.A else c.A &&& c.sp.mask (k.toNat - 1)
    Becomes c.s t c.u (c.split c.sp m (fun _ q => q.at_ ((((c.iss.pc : Int) + 4 * off.toInt) % 2 ^ 64).toNat)))) ∧
  (∀ a h s c, Issues s (.brai a h) c → (∀ l ∈ c.lanes, goodTarget (c.pair a l)) → ∃ t, exec (.brai a h) s = .next t ∧
    Becomes c.s t c.u (c.split c.sp c.A (fun l q => q.at_ (c.pair a l).toNat))) ∧
  (∀ a h s c, Issues s (.brai a h) c → TestsTargets (.brai a h) s c c.s (c.pair a))) ∧
  ((∀ k s c, Issues s (.exit k) c →
    let e := c.chosen k
    let r : Run State := match c.sp.serial with
      | some z => if hasLane e z.run = true
          then (c.settleResume (endLanes (goOn (drain c.s c.u (oneLane z.run)) c.iss (c.G &&& ~~~e)) c.u e)).map (fun t => endPass t c.u)
          else .ok (endLanes (goOn c.s c.iss (c.G &&& ~~~e)) c.u e)
      | none => .ok (endLanes (goOn c.s c.iss (c.G &&& ~~~e)) c.u e)
    (∀ t, r = .ok t → (exitAsks t c.cx c.u = none → exec (.exit k) s = .next (endTrapByExit t c.u)) ∧
      (∀ page, exitAsks t c.cx c.u = some page → exec (.exit k) s = .next (askFor (putBack c.before c.iss) c.iss page))) ∧
    (∀ h, r = .error h → exec (.exit k) s = settleRun c (.error h))) ∧
  (∀ s cx u, (∀ sp, s.span? u = some sp → sp.trap = none) → exitAsks s cx u = none) ∧
  (∀ s u, (∀ sp, s.span? u = some sp → sp.trap = none) → endTrapByExit s u = s) ∧
  (∀ s u m sp d, s.span? u = some sp → s.deck? sp.deck = some d → sp.lanes.length = sp.width → sp.width ≤ 64 → ∃ z b,
    endLanes s u m = barCheckAll b sp.deck d.girder ∧ Becomes s b u (settleSets z) ∧
    z.live = sp.live &&& ~~~m ∧ z.ended = sp.ended ||| m ∧ (∀ k, z.mask k = sp.mask k &&& z.maskable) ∧
    { z with masks := sp.masks, lanes := sp.lanes, ended := sp.ended } = sp ∧
    ∀ l < sp.width, z.lane l = if hasLane m l = true
      then { sp.lane l with pos := { (sp.lane l).pos with st := .exited }, held := none, rsn := 0#4, plvl := none,
                            exitAt := if (sp.lane l).rsn = 0#4 then (sp.lane l).exitAt else s.fresh } else sp.lane l) ∧
  (∀ z : Span, { settleSets z with lanes := z.lanes } = z ∧ (settleSets z).lanes.length = z.lanes.length ∧ ∀ l < z.lanes.length,
    (∀ j, (z.lane l).pos.st = .waiting (.setOpen j) →
      ((∀ i ∈ lanesOf (z.mask j), inSet z (z.lane l).pos.pc j i = true) → ((settleSets z).lane l).pos = (z.lane l).pos.step 1) ∧
      ((∃ i ∈ lanesOf (z.mask j), inSet z (z.lane l).pos.pc j i = false) → ((settleSets z).lane l).pos = (z.lane l).pos)) ∧
    ((∀ j, (z.lane l).pos.st ≠ .waiting (.setOpen j)) → ((settleSets z).lane l).pos = (z.lane l).pos)) ∧
  (∀ s u m sp, s.span? u = some sp → sp.lanes.length = sp.width → sp.width ≤ 64 → ∃ x, (endLanes s u m).span? u = some x ∧
    x.live = sp.live &&& ~~~m ∧ x.maskable = sp.maskable &&& ~~~m ∧ (∀ k, x.mask k = sp.mask k &&& x.maskable) ∧ x.regs = sp.regs ∧
    (∀ l < sp.width, hasLane m l = true → (x.lane l).rsn = 0#4 ∧ (x.lane l).pos.st = .exited)))

/-- Calls put a return address on its way to the stack of each calling lane, whose %sp moves by 16, and go to the target; ret reads it back
after the lanes' own earlier accesses; pushv and popv move %sp by 16 bytes for every four registers. Each tests every %sp first, then its
room, its targets and its private accesses, in the order of its rule, and traps on the first that fails (05 R107-R109, R114, R115, 01 R24,
R25, 07 R145; that the check of every lane comes first and exact room is enough is log 31, DEDUCED). -/
def Obligations.StackInstructions : Prop :=
  ((∀ k off s c, Issues s (.call k off) c → c.chosen k ≠ 0#64 → c.callable (c.chosen k) →
    ∃ t, exec (.call k off) s = .next t ∧ Called c t (c.chosen k) (fun _ => c.target off)) ∧
  (∀ k off s c, Issues s (.call k off) c → c.chosen k = 0#64 → exec (.call k off) s = .next (goOn c.s c.iss c.G)) ∧
  (∀ a h s c, Issues s (.calli a h) c → c.callable c.A → (∀ l ∈ c.lanes, goodTarget (c.pair a l)) →
    ∃ t, exec (.calli a h) s = .next t ∧ Called c t c.A (fun l => (c.pair a l).toNat)) ∧
  (∀ i s c, Issues s i c → ∀ (m : LaneSet) (v : Nat → DWord),
    ((∃ k off, i = .call k off ∧ m = c.chosen k ∧ m ≠ 0#64 ∧ v = fun _ => 0#64) ∨ (∃ a h, i = .calli a h ∧ m = c.A ∧ v = c.pair a)) →
    TestsStack i s c m ∧ TestsRoom i s c m 16 ∧
    ((∀ l ∈ lanesOf m, c.stack l % 16 = 0 ∧ (c.sp.lane l).splim.toNat + 16 ≤ c.stack l) →
      ((∃ a h, i = .calli a h) → TestsTargets i s c c.s v) ∧
      ((∀ l ∈ lanesOf m, goodTarget (v l)) → Denied i s c c.s 0 9 0 false (stackReqs m true (fun l => c.stack l - 16) 4))))) ∧
  ((∀ s c, Issues s .ret c → TestsStack .ret s c c.A ∧ ((∀ l ∈ c.lanes, c.stack l % 16 = 0) →
    Denied .ret s c c.s 0 9 0 true (stackReqs c.A false c.stack 2) ∧
    ((∀ l ∈ c.lanes, c.stack l + 8 ≤ c.launch.priv ∧ stillPoisoned c.s c.u l (c.privAt l (c.stack l)) 8 = false) →
      TestsTargets .ret s c (drain c.s c.u c.A) (fun l => valueAt (drain c.s c.u c.A) (c.privAt l (c.stack l)) 8)))) ∧
  ∀ s c, Issues s .ret c → (∀ l ∈ c.lanes, c.stack l % 16 = 0 ∧ c.stack l + 8 ≤ c.launch.priv) →
    let b := drain c.s c.u c.A
    let target (l : Nat) : DWord := valueAt b (c.privAt l (c.stack l)) 8
    (∀ l ∈ c.lanes, goodTarget (target l)) → (∀ l ∈ c.lanes, stillPoisoned c.s c.u l (c.privAt l (c.stack l)) 8 = false) →
    ∃ x t, b.span? c.u = some x ∧ exec .ret s = .next t ∧
      Becomes b t c.u (c.split (x.modLanes c.A (fun _ y => { y with sp := y.sp + 16#32 })) c.A (fun l q => q.at_ (target l).toNat))) ∧
  ((∀ d n s c, Issues s (.pushv d n) c → TestsStack (.pushv d n) s c c.A ∧ TestsRoom (.pushv d n) s c c.A (stackSize n.toNat) ∧
    ((∀ l ∈ c.lanes, c.stack l % 16 = 0 ∧ (c.sp.lane l).splim.toNat + stackSize n.toNat ≤ c.stack l) →
      Denied (.pushv d n) s c c.s 0 9 0 false (stackReqs c.A true (fun l => c.stack l - stackSize n.toNat) n.toNat))) ∧
  (∀ d n s c, Issues s (.popv d n) c → let ds := regRange d.toNat n.toNat
    TestsStack (.popv d n) s c c.A ∧ ((∀ l ∈ c.lanes, c.stack l % 16 = 0) →
      (¬ Room c (needAtIssue c ds) → exec (.popv d n) s = takeTrapFrom c.before c.s c.iss (storageTrap c (compactOf c ds))) ∧
      (∀ r k, c.reserve c.s ds = .ok (r, k) → Denied (.popv d n) s c r k 9 0 true (stackReqs c.A false c.stack n.toNat)))) ∧
  (∀ d n s c, Issues s (.pushv d n) c →
    (∀ l ∈ c.lanes, c.stack l % 16 = 0 ∧ (c.sp.lane l).splim.toNat + stackSize n.toNat ≤ c.stack l ∧ c.stack l ≤ c.launch.priv) →
    ∃ t, exec (.pushv d n) s = .next t ∧ Queued c t
      { id := c.s.fresh, span := c.u, lanes := c.A, dsts := [], resv := 0, kind := .store,
        iss := none, accs := c.lanes.map (fun l => Acc.mk l (c.privAt l (c.stack l - stackSize n.toNat)) (4 * n.toNat) 0
          ((regRange d.toNat n.toNat).flatMap (fun r => natBytes 4 (c.regVal r l).toNat)) 0#64 (wide64 (c.stack l - stackSize n.toNat)) 0) }
      (c.onward (c.sp.modLanes c.A (fun _ y => { y with sp := y.sp - BitVec.ofNat 32 (stackSize n.toNat) })))) ∧
  (∀ d n s c, Issues s (.popv d n) c → Room c (needAtIssue c (regRange d.toNat n.toNat)) →
    (∀ l ∈ c.lanes, c.stack l % 16 = 0 ∧ c.stack l + 4 * n.toNat ≤ c.launch.priv) →
    (∀ l ∈ c.lanes, stillPoisoned c.s c.u l (c.privAt l (c.stack l)) (4 * n.toNat) = false) →
    ∃ t, exec (.popv d n) s = .next t ∧ Queued c t
      { id := c.s.fresh, span := c.u, lanes := c.A, dsts := regRange d.toNat n.toNat, resv := needAtIssue c (regRange d.toNat n.toNat),
        kind := .load 4#3, iss := some c.entry,
        accs := c.lanes.map (fun l => Acc.mk l (c.privAt l (c.stack l)) (4 * n.toNat) 0 [] 0#64 (wide64 (c.stack l)) 0) }
      (c.onward (c.sp.modLanes c.A (fun _ y => { y with sp := y.sp + BitVec.ofNat 32 (stackSize n.toNat) })))))

/-- waitm: after their earlier accesses the lanes of A wait in the set of mK, and every set that this completes opens at once; ser opens a
serial section for the lanes of A, of which the lowest goes on alone to the next word; endser passes to the next lane, which issues from
the word after ser, or closes it: every lane of the group stands at the resume address, with its P bit only where it is of the section (05
R102, R111; how the clause is found where the run lane issues no endser, which is free past a word that is no header or cannot be fetched,
is log 16, DEDUCED; that P = 0 does not keep a waitm of the run lane from being its own is log 99, DESIGN CHOICE; that lanes beside the
run lane pass its endser is log 33, DEDUCED; the lanes that these traps name are log 6, DEDUCED). -/
def Obligations.WaitSetsAndSerialSections : Prop :=
  ((∀ k s c, Issues s (.waitm k) c → c.byRunLane = false → ∃ x t, (drain c.s c.u c.A).span? c.u = some x ∧ exec (.waitm k) s = .next t ∧
    Becomes (drain c.s c.u c.A) t c.u (settleSets (c.split x c.A (fun _ q => c.waiting q (.setOpen (k.toNat - 1)))))) ∧
  (∀ k s c, Issues s (.waitm k) c → c.byRunLane = true → exec (.waitm k) s = takeTrapFrom c.before c.s c.iss (TrapInfo.at 0x0001 0#64 c.A))) ∧
  ((∀ off s c, Issues s (.ser off) c → c.sp.serial = none → ∃ x t, exec (.ser off) s = .next t ∧
    Becomes c.s t c.u x ∧
    (∃ z, x.serial = some z ∧ z.handler = c.sp.trap.isSome ∧ z.set = c.A ∧ z.run = c.low ∧ z.done = 0#64 ∧ z.group = c.G ∧
      z.resume = c.iss.pc + 4 * off.toNat + 4 ∧ z.clause = some ⟨c.iss.cls, c.iss.next⟩ ∧ z.known = false) ∧
    { x with lanes := c.sp.lanes, serial := none } = c.sp ∧
    (∀ l < c.sp.lanes.length, x.lane l = if hasLane (c.G &&& c.sp.live) l = true
      then { c.sp.lane l with pos := if l = c.low then c.iss.after (c.sp.lane l).pos
        else { c.iss.after (c.sp.lane l).pos with st := .waiting .serial } }
      else c.sp.lane l)) ∧
  (∀ off s c, PassesBy s (.ser off) c → c.sp.serial = none →
    let e := c.iss.pc + 4 * off.toNat + 4
    (∀ k, c.walkTo e ⟨c.iss.cls, c.iss.next⟩ = .ok k → ∃ x t, exec (.ser off) s = .next t ∧ Becomes c.s t c.u x ∧
      { x with lanes := c.sp.lanes } = c.sp ∧ (∀ l < c.sp.lanes.length, x.lane l = if hasLane (c.G &&& c.sp.live) l = true
        then { c.sp.lane l with pos := { (c.sp.lane l).pos with pc := e, clause := k, st := .standing } } else c.sp.lane l)) ∧
    (∀ h, c.walkTo e ⟨c.iss.cls, c.iss.next⟩ = .error h → exec (.ser off) s = settleRun c (.error h))) ∧
  (∀ (c : Ctx) e q, let r := clauseAt c.s c.cx c.launch.uid c.G e ((e - q.next) / 4 + 2) q
    (∀ k, r = .ok k → c.walkTo e q = .ok k) ∧ (∀ p, r = .error p → c.walkTo e q = .error (.retry c.before (some p)))) ∧
  (∀ s cx u g e n (q : Clause), let r := clauseAt s cx u g e (n + 1) q
    (e < q.next → r = .ok (some q)) ∧ (e = q.next → r = .ok none) ∧
    (q.next < e → (∀ w h, fetchWord s cx u q.next g = .word w → decodeHeader w = some h →
        r = clauseAt s cx u g e n ⟨h.cls, q.next + 4 * (h.count + 1)⟩) ∧
      (∀ w, fetchWord s cx u q.next g = .word w → decodeHeader w = none → r = .ok (freeClause s e)) ∧
      (∀ t, fetchWord s cx u q.next g = .trap t → r = .ok (freeClause s e)) ∧
      (fetchWord s cx u q.next g = .noMem → r = .ok (freeClause s e)) ∧
      (∀ p, fetchWord s cx u q.next g = .ask p → r = .error p))) ∧
  (∀ s e k, freeClause s e = some k → e < k.next ∧ k.next < e + 60 ∧ k.next % 4 = e % 4) ∧
  (∀ off s c z, (Issues s (.ser off) c ∨ PassesBy s (.ser off) c) → c.sp.serial = some z →
    (hasLane c.G z.run = false → ∃ t, exec (.ser off) s = .next t ∧ Becomes c.s t c.u (c.split c.sp c.G (fun _ q => c.waiting q .serBusy))) ∧
    (hasLane c.G z.run = true → exec (.ser off) s = takeTrapFrom c.before c.s c.iss (TrapInfo.at 0x0001 0#64 c.G))) ∧
  (∀ s c, PassesBy s .endser c → (∀ z, c.sp.serial = some z → hasLane c.G z.run = false) →
    ∃ t, exec .endser s = .next t ∧ Becomes c.s t c.u c.advanced) ∧
  (∀ s c, Issues s .endser c → (∀ z, c.sp.serial = some z → c.A &&& ~~~(oneLane z.run) ≠ 0#64) →
    exec .endser s = takeTrapFrom c.before c.s c.iss (TrapInfo.at 0x0001 0#64 c.A)) ∧
  (∀ s c z, (Issues s .endser c ∨ PassesBy s .endser c) → c.sp.serial = some z → hasLane c.G z.run = true → c.A &&& ~~~(oneLane z.run) = 0#64 →
    let b := hold (goOn (resumeIn (drain c.s c.u (oneLane z.run)) c.iss) c.iss (c.G &&& ~~~(oneLane z.run))) c.iss (oneLane z.run) (fun _ => .serial)
    (∀ t, c.settleResume b = .ok t → exec .endser s = .next (endPass t c.u)) ∧
    (∀ h, c.settleResume b = .error h → exec .endser s = settleRun c (.error h))) ∧
  (∀ (c : Ctx) s sp, s.span? c.u = some sp → (sp.serial = none → c.settleResume s = .ok s) ∧ ∀ z, sp.serial = some z →
    ((z.known = true ∨ z.group &&& sp.live = 0#64 ∨ z.set &&& ~~~(z.done ||| oneLane z.run) &&& sp.live ≠ 0#64) → c.settleResume s = .ok s) ∧
    (z.known = false → z.group &&& sp.live ≠ 0#64 → z.set &&& ~~~(z.done ||| oneLane z.run) &&& sp.live = 0#64 → ∀ q, z.clause = some q →
      (∀ k, c.walkTo z.resume q = .ok k →
        c.settleResume s = .ok (s.modSpan c.u (fun x => { x with serial := some { z with clause := k, known := true } }))) ∧
      (∀ h, c.walkTo z.resume q = .error h → c.settleResume s = .error h))) ∧
  (∀ s iss sp z, s.span? iss.span = some sp → sp.serial = some z → Becomes s (resumeIn s iss) iss.span
    { sp with serial := some (if iss.nextPc = z.resume then { z with clause := iss.nextClause, known := true } else z) }) ∧
  (∀ s u sp z, s.span? u = some sp → sp.serial = some z → z.set &&& ~~~(z.done ||| oneLane z.run) &&& sp.live ≠ 0#64 →
    ∃ x y, (endPass s u).span? u = some x ∧ x.serial = some y ∧
      y = { z with done := z.done ||| oneLane z.run, run := lowestLane (z.set &&& ~~~(z.done ||| oneLane z.run) &&& sp.live) } ∧
      { x with lanes := sp.lanes, serial := sp.serial } = sp ∧
      (∀ l < sp.lanes.length, x.lane l = if l = y.run then Lane.inSection z.handler (fun q => { q with st := .standing }) (sp.lane l)
        else sp.lane l) ∧
      Elsewhere s (endPass s u) u) ∧
  (∀ s u sp z, s.span? u = some sp → sp.serial = some z → z.set &&& ~~~(z.done ||| oneLane z.run) &&& sp.live = 0#64 →
    ∃ x, (endPass s u).span? u = some x ∧ x.serial = none ∧ { x with lanes := sp.lanes, serial := sp.serial } = sp ∧
      (∀ l < sp.lanes.length, x.lane l = if hasLane (z.group &&& sp.live) l = true
        then Lane.inSection z.handler (fun q =>
          { pc := z.resume, clause := z.clause, st := .standing, p := if hasLane z.set l then q.p else false }) (sp.lane l)
        else sp.lane l) ∧
      Elsewhere s (endPass s u) u))

/-- Instructions that change no value: nop, pref, cctl, and yield but for its hold on the picker, whose 16 cycles the model counts as 16 of
its steps (log 1, DESIGN CHOICE); fence performs the lanes' earlier accesses and sets the scope that their later stores release at, which
a fence of deck scope leaves as it was (log 37, DEDUCED); shassert where the shape holds, and SHAPE_ASSERT with the shapes where it does
not (05 R96, R113, 07 R151, R161, R162, 10 R256; the lanes that SHAPE_ASSERT names are log 6, DEDUCED). -/
def Obligations.InstructionsThatOnlyGoOn : Prop :=
  (∀ s c, Issues s .nop c → ∃ t, exec .nop s = .next t ∧ Becomes c.s t c.u c.advanced) ∧
  (∀ a off s c, Issues s (.pref a off) c → ∃ t, exec (.pref a off) s = .next t ∧ Becomes c.s t c.u c.advanced) ∧
  (∀ a op sp s c, Issues s (.cctl a op sp) c → ∃ t, exec (.cctl a op sp) s = .next t ∧ Becomes c.s t c.u c.advanced) ∧
  (∀ s c, Issues s .yield c → ∃ t, exec .yield s = .next t ∧
    Becomes c.s t c.u (c.onward (c.sp.modLanes c.G (fun _ l => { l with yieldTill := some (c.s.steps + 16) })))) ∧
  (∀ scope s c, Issues s (.fence scope) c → ∃ x t, (drain c.s c.u c.A).span? c.u = some x ∧ exec (.fence scope) s = .next t ∧
    Becomes (drain c.s c.u c.A) t c.u (c.onward (x.modLanes c.A (fun _ l =>
      { l with rel := if 2 ≤ scope.toNat then scope.toNat else l.rel })))) ∧
  (∀ a b s c, Issues s (.shassert a b) c →
    (match c.sp.vreg a.toNat with
     | .uniform _ => b = 0#7 ∨ b = 3#7
     | .affine _ _ => b = 1#7 ∨ b = 3#7
     | .vector _ _ => b = 2#7) →
    ∃ t, exec (.shassert a b) s = .next t ∧ Becomes c.s t c.u c.advanced) ∧
  (∀ a b s c, Issues s (.shassert a b) c → ∀ code : Nat,
    (match c.sp.vreg a.toNat with
     | .uniform _ => code = 0 ∧ b ≠ 0#7 ∧ b ≠ 3#7
     | .affine _ _ => code = 1 ∧ b ≠ 1#7 ∧ b ≠ 3#7
     | .vector _ _ => code = 2 ∧ b ≠ 2#7) →
    exec (.shassert a b) s = takeTrapFrom c.before c.s c.iss
      (TrapInfo.at 0x000B (BitVec.ofNat 64 (a.toNat + code * 2 ^ 8 + b.toNat * 2 ^ 12)) c.A))

/-! ## Memory -/

/-- Loads become outstanding with their lanes' locations: EA = register + offset x size, the uniform forms use the lowest lane's address;
acquiring loads are performed as they issue; an acqr of deck or pier scope raises ILLEGAL_INSTRUCTION. Without room for the destinations a
load raises SHAPE_STORAGE; the first check that an access fails decides its cause: MISALIGNED, ILLEGAL_ADDRESS, PROTECTION,
PAGE_NOT_PRESENT, POISON (01 R24, R25, 07 R144-R149, R159, R160, 10 R246; where an effective address wraps is log 32, DEDUCED; that this
comes before the causes of R145, and the lanes that it names, are logs 82, DESIGN CHOICE, and 6, DEDUCED). -/
def Obligations.LoadsAreQueued : Prop :=
  (∀ f, Loads (.ld f) false (spaceOf f.sp) f.sz f.d (fun c => c.ea f.sp f.a (fun _ => f.off.toInt * sizeBytes f.sz)) (fun _ l => l)) ∧
  (∀ f, Loads (.lduC f) false .const f.sz f.d (fun c => c.ea 2#2 f.a (fun _ => f.off.toInt * sizeBytes f.sz)) (fun c _ => c.low)) ∧
  (∀ f, Loads (.lduG f) false .global f.sz f.d (fun c => c.ea 1#2 f.a (fun _ => f.off.toInt * sizeBytes f.sz)) (fun c _ => c.low)) ∧
  (∀ f, Loads (.ldxG f) false .global f.sz f.d (fun c => c.ea 1#2 f.a (c.index f)) (fun _ l => l)) ∧
  (∀ f, Loads (.ldxD f) false .deck f.sz f.d (fun c => c.ea 2#2 f.a (c.index f)) (fun _ l => l)) ∧
  (∀ f, Loads (.acq f) true (spaceOf f.sp) f.size f.d (fun c => c.ea f.sp f.a (fun _ => 0)) (fun _ l => l)) ∧
  (∀ f : FormOrd, 3 ≤ f.scope.toNat →
    Loads (.acqr f) true (spaceOf f.sp) f.size f.d (fun c => c.ea f.sp f.a (fun _ => 0)) (fun _ l => l)) ∧
  (∀ (f : FormOrd) s c, Issues s (.acqr f) c → f.scope.toNat < 3 →
    exec (.acqr f) s = takeTrapFrom c.before c.s c.iss (TrapInfo.at 0x0001 0#64 c.A))

/-- Stores become outstanding at the lanes' computed addresses with the lanes' data, and change no byte as they issue; a release is performed
after the lanes' earlier accesses and names its pier as the lines' owner; the first check that an access fails decides the cause of the
trap (07 R145, R148, R160, 10 R256; where an effective address wraps and which scope a later store has are logs 32 and 37, DEDUCED). -/
def Obligations.StoresAreQueued : Prop :=
  (∀ f, Stores (.st f) (spaceOf f.sp) f.sz f.d (fun c => c.ea f.sp f.a (fun _ => f.off.toInt * sizeBytes f.sz))) ∧
  (∀ f, Stores (.stxG f) .global f.sz f.d (fun c => c.ea 1#2 f.a (c.index f))) ∧
  (∀ f, Stores (.stxD f) .deck f.sz f.d (fun c => c.ea 2#2 f.a (c.index f))) ∧
  (∀ f s c (loc : Nat → Loc) (mt : Nat → Nat), Issues s (.rel f) c →
    (∀ l ∈ c.lanes, Reaches c c.s 3 false ⟨l, c.ea f.sp f.a (fun _ => 0) l, sizeBytes f.size, spaceOf f.sp, true⟩ (loc l) (mt l)) →
    exec (.rel f) s = .next (goOn (performNow c.s c.u c.A (fun id => { c.storeWork f.size f.d (c.ea f.sp f.a (fun _ => 0)) loc mt id with
      accs := c.lanes.map (fun l => Acc.mk l (loc l) (sizeBytes f.size) (mt l) (c.storeBytes f.size f.d l) 0#64
        (c.ea f.sp f.a (fun _ => 0) l) f.scope.toNat) })) c.iss c.G)) ∧
  (∀ f s c, Issues s (.rel f) c → Denied (.rel f) s c c.s 0 2 3 false
    (c.lanes.map (fun l => ⟨l, c.ea f.sp f.a (fun _ => 0) l, sizeBytes f.size, spaceOf f.sp, true⟩))) ∧
  (∀ s pier scope (l : Loc) k, lineOf l = some k →
    (scope = 2 → (setOwner s l pier scope).owners.find? (fun x => x.1 == k) = some (k, pier)) ∧
    (3 ≤ scope → ∀ x ∈ (setOwner s l pier scope).owners, x.1 ≠ k) ∧
    (∀ x, x.1 ≠ k → (x ∈ (setOwner s l pier scope).owners ↔ x ∈ s.owners)) ∧ { setOwner s l pier scope with owners := s.owners } = s)

/-- A performed load writes its registers in its lanes, extended by the size code; a performed store leaves each lane's bytes at its location;
every other register and every other byte of every memory is as it was; a load with a poisoned byte at its data read writes nothing and
waits to be replayed (07 R144, R147, R148, 03 R64, 05 R114, 15 R301, R311; that its lanes stay where they are is log 67, DEDUCED). -/
def Obligations.PerformedAccesses : Prop :=
  ((∀ s w sz sp, w.kind = .load sz → s.span? w.span = some sp → w.lanes ≠ 0#64 → w.dsts.Nodup → (∀ d ∈ w.dsts, d < sp.regs.length) →
    (∀ a ∈ w.accs, poisoned s a.loc a.size = false) →
    let bytes (l : Nat) : List Byte := (w.accs.find? (fun a => a.lane == l)).elim [] (fun a => readLocs s a.loc a.size)
    let word (l i : Nat) : Word :=
      let n := bytesNat ((bytes l).drop (4 * i) |>.take 4)
      match sz.toNat with
      | 1 => (BitVec.ofNat 8 n).signExtend 32
      | 3 => (BitVec.ofNat 16 n).signExtend 32
      | _ => BitVec.ofNat 32 n
    ∃ x, (performWork s w).span? w.span = some x ∧
      (∀ i d, w.dsts[i]? = some d → ∀ l < sp.width, x.reg d l = if hasLane w.lanes l then word l i else sp.reg d l) ∧
      (∀ r, r ∉ w.dsts → x.vreg r = sp.vreg r) ∧
      (∀ v ∈ (performWork s w).works, v.id ≠ w.id) ∧ Elsewhere s { performWork s w with works := s.works } w.span) ∧
  (∀ s w sz sp, w.kind = .load sz → s.span? w.span = some sp → sp.pending = none → (∃ a ∈ w.accs, poisoned s a.loc a.size = true) →
    let back : Word := BitVec.ofNat 32 ((w.iss.bind Issue.popped).getD 0)
    ∃ x p, (performWork s w).span? w.span = some x ∧ x.pending = some p ∧ p.cause = 0x000C ∧ p.access = (if w.isPop = true then 9 else 1) ∧
      p.time = some s.time ∧ p.entry = w.iss.toList.map (fun i => (w.id, { i with late := true })) ∧
      { x with pending := none, used := sp.used } = sp.modLanes w.lanes (fun _ y => { y with sp := y.sp - back }) ∧ (∀ v ∈ (performWork s w).works, v.id ≠ w.id) ∧
      Elsewhere s { performWork s w with works := s.works } w.span)) ∧
  (∀ s w, w.kind = .store → Canon s → (∀ a ∈ w.accs, ∀ i < a.data.length, (a.loc.plus i).good) →
    let t := performWork s w
    (∀ l : Loc, l.good → (∀ a ∈ w.accs, ∀ i < a.data.length, a.loc.plus i ≠ l) → readLoc t l = readLoc s l) ∧
    (∀ (k : Nat) (a : Acc) (i : Nat) (h : i < a.data.length), w.accs[k]? = some a → (a.loc.plus i).there s →
      (∀ (m : Nat) (b : Acc), k < m → w.accs[m]? = some b → ∀ j < b.data.length, b.loc.plus j ≠ a.loc.plus i) → readLoc t (a.loc.plus i) = a.data[i]) ∧
    { t with mem := s.mem, hostMem := s.hostMem, poison := s.poison, decks := s.decks, works := s.works, owners := s.owners,
             writers := s.writers, code := s.code } = s ∧
    (∀ v, v ∈ t.works ↔ v ∈ s.works ∧ v.id ≠ w.id))

/-- Atomics and reductions become outstanding with operand and comparand of each lane, on normal memory only; redx with a binary point above
62 raises ILLEGAL_INSTRUCTION. Without room for its destinations an atomic raises SHAPE_STORAGE, and the first check that an access fails
decides the cause of the trap (01 R24, R25, 07 R145, R152-R156, R190, 10 R246; the lanes that an illegal redx names are log 6, DEDUCED). -/
def Obligations.AtomicsAreQueued : Prop :=
  (∀ i f wide s c, Issues s i c → ((∃ op, i = .atom op f ∧ wide = wideAtomic op) ∨ (i = .atomcasN32 f ∧ wide = false) ∨ (i = .atomcasN64 f ∧ wide = true)) →
    let ds := oneOrTwo wide f.d
    (¬ Room c (needAtIssue c ds) → exec i s = takeTrapFrom c.before c.s c.iss (storageTrap c (compactOf c ds))) ∧
    (∀ r n, c.reserve c.s ds = .ok (r, n) → Denied i s c r n 3 0 true
      (c.lanes.map (fun l => atomicReq f.sp false (if wide then 8 else 4) l (c.ea f.sp f.a (fun _ => 0) l))))) ∧
  (∀ op f s c, Issues s (.red op f) c → Denied (.red op f) s c c.s 0 4 0 false
    (c.lanes.map (fun l => atomicReq f.sp false (if wideAtomic op then 8 else 4) l (c.ea f.sp f.a (fun _ => 0) l)))) ∧
  (∀ f s c, Issues s (.redx f) c → f.d.toNat ≤ 62 → Denied (.redx f) s c c.s 0 4 0 false
    (c.lanes.map (fun l => atomicReq f.sp true 8 l (c.ea f.sp f.a (fun _ => 0) l)))) ∧
  (∀ op f s c (loc : Nat → Loc), Issues s (.atom op f) c → Room c (needAtIssue c (oneOrTwo (wideAtomic op) f.d)) →
    let n := if wideAtomic op then 8 else 4
    (∀ l ∈ c.lanes, Reaches c c.s 0 true (atomicReq f.sp false n l (c.ea f.sp f.a (fun _ => 0) l)) (loc l) 0) →
    ∃ t, exec (.atom op f) s = .next t ∧ Queued c t
      { id := c.s.fresh, span := c.u, lanes := c.A, dsts := oneOrTwo (wideAtomic op) f.d,
        resv := needAtIssue c (oneOrTwo (wideAtomic op) f.d),
        accs := c.lanes.map (fun l => Acc.mk l (loc l) n 0 (natBytes n (c.atomB op f.b l).toNat) 0#64 (c.ea f.sp f.a (fun _ => 0) l) 0),
        kind := .atomic op false (wideAtomic op), iss := some c.entry } c.advanced) ∧
  (∀ f s c (loc : Nat → Loc), Issues s (.atomcasN32 f) c → Room c (needAtIssue c (one f.d)) →
    (∀ l ∈ c.lanes, Reaches c c.s 0 true (atomicReq f.sp false 4 l (c.ea f.sp f.a (fun _ => 0) l)) (loc l) 0) →
    ∃ t, exec (.atomcasN32 f) s = .next t ∧ Queued c t
      { id := c.s.fresh, span := c.u, lanes := c.A, dsts := one f.d, resv := needAtIssue c (one f.d),
        accs := c.lanes.map (fun l => Acc.mk l (loc l) 4 0 (natBytes 4 (c.srcB f.b l).toNat) ((c.src f.d l).zeroExtend 64)
          (c.ea f.sp f.a (fun _ => 0) l) 0),
        kind := .atomic 0#4 true false, iss := some c.entry } c.advanced) ∧
  (∀ f s c (loc : Nat → Loc), Issues s (.atomcasN64 f) c → Room c (needAtIssue c (two f.d)) →
    (∀ l ∈ c.lanes, Reaches c c.s 0 true (atomicReq f.sp false 8 l (c.ea f.sp f.a (fun _ => 0) l)) (loc l) 0) →
    ∃ t, exec (.atomcasN64 f) s = .next t ∧ Queued c t
      { id := c.s.fresh, span := c.u, lanes := c.A, dsts := two f.d, resv := needAtIssue c (two f.d),
        accs := c.lanes.map (fun l => Acc.mk l (loc l) 8 0 (natBytes 8 (c.pairB f.b false l).toNat) (c.pair f.d l)
          (c.ea f.sp f.a (fun _ => 0) l) 0),
        kind := .atomic 0#4 true true, iss := some c.entry } c.advanced) ∧
  (∀ op f s c (loc : Nat → Loc), Issues s (.red op f) c →
    let n := if wideAtomic op then 8 else 4
    (∀ l ∈ c.lanes, Reaches c c.s 0 false (atomicReq f.sp false n l (c.ea f.sp f.a (fun _ => 0) l)) (loc l) 0) →
    ∃ t, exec (.red op f) s = .next t ∧ Queued c t
      { id := c.s.fresh, span := c.u, lanes := c.A, dsts := [], resv := 0,
        accs := c.lanes.map (fun l => Acc.mk l (loc l) n 0 (natBytes n (c.atomB op f.b l).toNat) 0#64 (c.ea f.sp f.a (fun _ => 0) l) 0),
        kind := .red op, iss := none } c.advanced) ∧
  (∀ f s c, Issues s (.redx f) c → 62 < f.d.toNat → exec (.redx f) s = takeTrapFrom c.before c.s c.iss (TrapInfo.at 0x0001 0#64 c.A)) ∧
  (∀ f s c (loc : Nat → Loc), Issues s (.redx f) c → f.d.toNat ≤ 62 →
    (∀ l ∈ c.lanes, Reaches c c.s 0 false (atomicReq f.sp true 8 l (c.ea f.sp f.a (fun _ => 0) l)) (loc l) 0) →
    ∃ t, exec (.redx f) s = .next t ∧ Queued c t
      { id := c.s.fresh, span := c.u, lanes := c.A, dsts := [], resv := 0,
        accs := c.lanes.map (fun l => Acc.mk l (loc l) 8 0 (natBytes 8 (toFx64 f.d.toNat (c.srcB f.b l)).toNat) 0#64
          (c.ea f.sp f.a (fun _ => 0) l) 0),
        kind := .redx f.d.toNat, iss := none } c.advanced)

/-- What atomics and reductions do: the operation on the old value, which is an atomic's reply; a compare-and-swap stores where the old value
is the comparand; lanes are performed in ascending order, equal addresses of a reduction merge first; a reply lands in the registers (07
R152-R156). -/
def Obligations.AtomicsUpdateMemory : Prop :=
  (∀ (o b : Word) (p q : DWord), let a := atomicValue
    a 0#4 (o.zeroExtend 64) (b.zeroExtend 64) = (o + b).zeroExtend 64 ∧ a 1#4 p q = p + q ∧
    a 2#4 (o.zeroExtend 64) (b.zeroExtend 64) =
      (BitVec.ofNat 32 (Fmt.f32.pack 0 ((Fmt.f32.unpack o.toNat).add (Fmt.f32.unpack b.toNat)))).zeroExtend 64 ∧
    a 3#4 (o.zeroExtend 64) (b.zeroExtend 64) = (if o.toInt ≤ b.toInt then o else b).zeroExtend 64 ∧
    a 4#4 (o.zeroExtend 64) (b.zeroExtend 64) = (if o.toNat ≤ b.toNat then o else b).zeroExtend 64 ∧
    a 5#4 (o.zeroExtend 64) (b.zeroExtend 64) = (if o.toInt ≤ b.toInt then b else o).zeroExtend 64 ∧
    a 6#4 (o.zeroExtend 64) (b.zeroExtend 64) = (if o.toNat ≤ b.toNat then b else o).zeroExtend 64 ∧
    a 7#4 (o.zeroExtend 64) (b.zeroExtend 64) = (o &&& b).zeroExtend 64 ∧ a 8#4 (o.zeroExtend 64) (b.zeroExtend 64) = (o ||| b).zeroExtend 64 ∧
    a 9#4 (o.zeroExtend 64) (b.zeroExtend 64) = (o ^^^ b).zeroExtend 64 ∧ a 10#4 (o.zeroExtend 64) (b.zeroExtend 64) = b.zeroExtend 64 ∧
    a 11#4 p q = q ∧ a 12#4 p q = (if p.toInt ≤ q.toInt then p else q) ∧ a 13#4 p q = (if p.toInt ≤ q.toInt then q else p) ∧
    a 14#4 p q = (if p.toNat ≤ q.toNat then p else q) ∧ a 15#4 p q = (if p.toNat ≤ q.toNat then q else p)) ∧
  (∀ s w op wide a, w ∈ s.works → (∀ v ∈ s.works, v.id = w.id → v = w) → w.kind = .atomic op false wide → w.accs = [a] →
    poisoned s a.loc a.size = false →
    ∃ x, (performWork s w).work? w.id = some x ∧ x.kind = .reply [(a.lane, valueAt s a.loc a.size)] wide ∧
      (∀ l, readLoc (performWork s w) l =
        readLoc (writeLocs s a.loc (natBytes a.size (atomicValue op (valueAt s a.loc a.size) (BitVec.ofNat 64 (bytesNat a.data))).toNat)) l)) ∧
  (∀ s w op wide a, w ∈ s.works → (∀ v ∈ s.works, v.id = w.id → v = w) → w.kind = .atomic op true wide → w.accs = [a] →
    poisoned s a.loc a.size = false →
    ∃ x, (performWork s w).work? w.id = some x ∧ x.kind = .reply [(a.lane, valueAt s a.loc a.size)] wide ∧
      (valueAt s a.loc a.size ≠ a.cmp → ∀ l, readLoc (performWork s w) l = readLoc s l) ∧
      (valueAt s a.loc a.size = a.cmp → ∀ l, readLoc (performWork s w) l =
        readLoc (writeLocs s a.loc (natBytes a.size (bytesNat a.data % 2 ^ 64))) l)) ∧
  (∀ s w op cas wide, w ∈ s.works → (∀ v ∈ s.works, v.id = w.id → v = w) → w.kind = .atomic op cas wide →
    (∀ a ∈ w.accs, poisoned s a.loc a.size = false) →
    let r := atomicLanes op cas w.accs s []
    ∃ x, (performWork s w).work? w.id = some x ∧ x.kind = .reply r.2 wide ∧ ∀ l, readLoc (performWork s w) l = readLoc r.1 l) ∧
  (∀ op cas a rest s out, let old := valueAt s a.loc a.size
    let b := BitVec.ofNat 64 (bytesNat a.data)
    atomicLanes op cas (a :: rest) s out = atomicLanes op cas rest (if cas = true ∧ old ≠ a.cmp then s
      else writeLocs s a.loc (natBytes a.size (if cas = true then b else atomicValue op old b).toNat)) (out ++ [(a.lane, old)])) ∧
  (∀ s w vals wide sp, w.kind = .reply vals wide → s.span? w.span = some sp → w.lanes ≠ 0#64 → w.dsts.Nodup → (∀ d ∈ w.dsts, d < sp.regs.length) →
    let val (l : Nat) : DWord := ((vals.find? (fun x => x.1 == l)).map (·.2)).getD 0#64
    ∃ x, (performWork s w).span? w.span = some x ∧
      (∀ i d, w.dsts[i]? = some d → ∀ l < sp.width, x.reg d l =
        if hasLane w.lanes l then (if i = 0 then loWord (val l) else hiWord (val l)) else sp.reg d l) ∧
      (∀ r, r ∉ w.dsts → x.vreg r = sp.vreg r) ∧ (∀ v ∈ (performWork s w).works, v.id ≠ w.id) ∧
      Elsewhere s { performWork s w with works := s.works } w.span) ∧
  (∀ s w f, (∃ op, w.kind = .red op ∧ f = atomicValue op) ∨ (∃ k, w.kind = .redx k ∧ f = fun p q => p + q) →
    (∀ l, readLoc (performWork s w) l = readLoc ((combine f w.accs []).foldl (fun s x =>
      writeLocs s x.1 (natBytes x.2.1 (f (valueAt s x.1 x.2.1) x.2.2).toNat)) s) l) ∧
    (∀ v, v ∈ (performWork s w).works ↔ v ∈ s.works ∧ v.id ≠ w.id) ∧ (performWork s w).spans = s.spans) ∧
  (∀ (f : DWord → DWord → DWord) (accs : List Acc) l, let val (a : Acc) : DWord := BitVec.ofNat 64 (bytesNat a.data)
    (combine f accs []).find? (fun x => x.1 == l) = match accs.filter (fun a => a.loc == l) with
      | [] => none
      | a :: rest => some (l, a.size, rest.foldl (fun v b => f v (val b)) (val a)))

/-! ## Shapes, grants and stored formats -/

/-- shforce and shpack change shapes and no value, and a shforce that cannot hold raises SHAPE_ASSERT, one without room SHAPE_STORAGE; grow
and grow.try move slots from the pier's pool to the span, or wait in line, or mark their lanes; shrink gives spare slots back and writes
their number (05 R97-R100, 01 R18, R23, R25, R27; that a grow waits behind others and what ADDR of its trap holds are logs 68 and 86,
DESIGN CHOICE; the lanes that SHAPE_STORAGE names and the order in a shrink of its own span are logs 6 and 17, DEDUCED). -/
def Obligations.ShapeAndGrantChanges : Prop :=
  ((∀ d n s c, Issues s (.shforce d n 0#7) c → Room c (needAtIssue c (regRange d.toNat n.toNat)) →
    ∃ t x, exec (.shforce d n 0#7) s = .next t ∧ t.span? c.u = some x ∧ Elsewhere c.s t c.u ∧
      (∀ r ∈ regRange d.toNat n.toNat, (x.vreg r).isVector = true ∧ ∀ l < c.W, x.reg r l = c.sp.reg r l) ∧
      (∀ r, r ∉ regRange d.toNat n.toNat → x.vreg r = c.sp.vreg r) ∧ x.used = c.sp.used + needAtIssue c (regRange d.toNat n.toNat) ∧
      x.grant = c.sp.grant + (needAtIssue c (regRange d.toNat n.toNat) - c.sp.spare) ∧ Drew c t (needAtIssue c (regRange d.toNat n.toNat)) ∧
      { x with regs := c.sp.regs, used := c.sp.used, grant := c.sp.grant } = c.advanced) ∧
  (∀ d n s c, Issues s (.shforce d n 0#7) c → let rs := regRange d.toNat n.toNat
    ¬ Room c (needAtIssue c rs) → exec (.shforce d n 0#7) s = takeTrapFrom c.before c.s c.iss (storageTrap c (compactOf c rs))) ∧
  (∀ d n b s c, Issues s (.shforce d n b) c → b ≠ 0#7 →
    (∀ r ∈ regRange d.toNat n.toNat, (c.sp.vreg r).isVector = true → (checker (c.sp.vals r)).isSome = true) →
    ∃ t x, exec (.shforce d n b) s = .next t ∧ t.span? c.u = some x ∧ Elsewhere c.s t c.u ∧
      (∀ r ∈ regRange d.toNat n.toNat, (x.vreg r).isVector = false ∧ ∀ l < c.W, x.reg r l = c.sp.reg r l) ∧
      (∀ r, r ∉ regRange d.toNat n.toNat → x.vreg r = c.sp.vreg r) ∧
      x.used = c.sp.used - ((regRange d.toNat n.toNat).filter (fun r => (c.sp.vreg r).isVector)).length * c.sp.octets ∧
      { x with regs := c.sp.regs, used := c.sp.used } = c.advanced) ∧
  (∀ d n b s c r, Issues s (.shforce d n b) c → b ≠ 0#7 →
    (regRange d.toNat n.toNat).find? (fun r => (c.sp.vreg r).isVector && (checker (c.sp.vals r)).isNone) = some r →
    exec (.shforce d n b) s = takeTrapFrom c.before c.s c.iss (TrapInfo.at 0x000B (BitVec.ofNat 64 (r + 2 * 2 ^ 8 + 3 * 2 ^ 12)) c.A)) ∧
  (∀ d n s c, Issues s (.shpack d n) c →
    ∃ t x, exec (.shpack d n) s = .next t ∧ t.span? c.u = some x ∧ Elsewhere c.s t c.u ∧
      (∀ r ∈ regRange d.toNat n.toNat, ∀ l < c.W, x.reg r l = c.sp.reg r l) ∧
      (∀ r ∈ regRange d.toNat n.toNat, (checker (c.sp.vals r)).isSome = true → (x.vreg r).isVector = false) ∧
      (∀ r, r ∉ regRange d.toNat n.toNat → x.vreg r = c.sp.vreg r) ∧ { x with regs := c.sp.regs, used := c.sp.used } = c.advanced)) ∧
  ((∀ n s c, Issues s (.grow n) c → n ≠ 0#9 → c.sp.grant + n.toNat ≤ c.sp.ceil → (c.s.pier c.deck.pier).growQ = [] →
    n.toNat ≤ (c.s.pier c.deck.pier).pool → ∃ t, exec (.grow n) s = .next t ∧
      Becomes c.s t c.u (c.onward { c.sp with grant := c.sp.grant + n.toNat }) ∧
      (c.deck.pier < c.s.piers.length → (t.pier c.deck.pier).pool = (c.s.pier c.deck.pier).pool - n.toNat)) ∧
  (∀ n s c, Issues s (.grow n) c → n ≠ 0#9 → c.sp.grant + n.toNat ≤ c.sp.ceil →
    ((c.s.pier c.deck.pier).growQ ≠ [] ∨ (c.s.pier c.deck.pier).pool < n.toNat) →
    exec (.grow n) s = .next (hold ({ c.s with fresh := c.s.fresh + 1 }.modPier c.deck.pier (fun x =>
      { x with growQ := x.growQ ++ [(c.u, c.s.fresh)] })) c.iss c.G (fun _ => .grow n.toNat c.s.fresh))) ∧
  (∀ s c, Issues s (.grow 0#9) c → exec (.grow 0#9) s = .next (goOn c.s c.iss c.G)) ∧
  (∀ n s c, Issues s (.grow n) c → n ≠ 0#9 → c.sp.ceil < c.sp.grant + n.toNat →
    exec (.grow n) s = takeTrapFrom c.before c.s c.iss (TrapInfo.at 0x000A (BitVec.ofNat 64 n.toNat) c.A)) ∧
  (∀ k n s c, Issues s (.growTry k n) c →
    let p := c.s.pier c.deck.pier
    let fails : Prop := n ≠ 0#9 ∧ (c.sp.ceil < c.sp.grant + n.toNat ∨ p.pool < n.toNat ∨ p.growQ ≠ [])
    (fails → ∃ t, exec (.growTry k n) s = .next t ∧ Masked c c.s c.sp t k.toNat (c.sp.mask k.toNat ||| c.A)) ∧
    (¬ fails → ∃ t, exec (.growTry k n) s = .next t ∧
      Masked c (grantSlots c.s c.u c.deck.pier n.toNat) { c.sp with grant := c.sp.grant + n.toNat } t k.toNat (c.sp.mask k.toNat &&& ~~~c.A))) ∧
  (∀ f s c, Issues s (.shrink f) c → (∀ x ∈ c.s.spansOf c.deck.uid, x.idx ≠ (c.src f.a c.low).toNat) →
    let ds := put f.d (fun _ => 0#32)
    (Room c (needOf c ds) → ∃ t, exec (.shrink f) s = .next t ∧ Wrote c t ds (needOf c ds)) ∧
    (¬ Room c (needOf c ds) → exec (.shrink f) s = takeTrapFrom c.before c.s c.iss (storageTrap c (wideOf c ds)))) ∧
  (∀ f s c x, Issues s (.shrink f) c → (c.s.spansOf c.deck.uid).find? (fun y => y.idx == (c.src f.a c.low).toNat) = some x →
    c.s.span? x.uid = some x →
    let k := min (c.src f.b c.low).toNat x.spare
    widens c.sp f.d.toNat (fun _ => BitVec.ofNat 32 k) c.A = false →
    exec (.shrink f) s = .next (goOn (landReg ((c.s.modSpan x.uid (fun y => { y with grant := y.grant - k })).modPier c.deck.pier
      (fun p => { p with pool := p.pool + k })) c.u f.d.toNat (fun _ => BitVec.ofNat 32 k) c.A false) c.iss c.G)) ∧
  (∀ f s c x, Issues s (.shrink f) c → (c.s.spansOf c.deck.uid).find? (fun y => y.idx == (c.src f.a c.low).toNat) = some x →
    c.s.span? x.uid = some x →
    let n := (c.src f.b c.low).toNat
    widens c.sp f.d.toNat (fun _ => BitVec.ofNat 32 (min n x.spare)) c.A = true →
    (¬ Room c c.sp.octets → exec (.shrink f) s = takeTrapFrom c.before c.s c.iss (storageTrap c [f.d.toNat])) ∧
    (Room c c.sp.octets → let k := min n (if x.uid = c.u then x.spare - c.sp.octets else x.spare)
      let drawn := c.sp.octets - c.sp.spare
      ∃ t y z, exec (.shrink f) s = .next t ∧ t.span? c.u = some y ∧ t.span? x.uid = some z ∧ Elsewhere (c.s.modSpan x.uid (fun _ => z)) t c.u ∧
        (∀ l < c.W, y.reg f.d.toNat l = if hasLane c.A l then BitVec.ofNat 32 k else c.sp.reg f.d.toNat l) ∧
        (∀ r, r ≠ f.d.toNat → y.vreg r = c.sp.vreg r) ∧
        z.grant + k = x.grant + (if x.uid = c.u then drawn else 0) ∧ (x.uid ≠ c.u → y.grant = c.sp.grant + drawn ∧ { z with grant := x.grant } = x) ∧
        (c.deck.pier < c.s.piers.length → (t.pier c.deck.pier).pool + drawn = (c.s.pier c.deck.pier).pool + k))))

/-- cvts decodes a stored value as (q - z) * s * v * 2^k and encodes x / (s * v * 2^k) + z, each exact and rounded once, with the saturation
of 02 R46 and R52; in row and block mode each lane's scale is read by a plain load of the lane, which becomes outstanding, and the result
lands when it is performed; ACC64 encoded, or decoded from an odd register, is illegal, and a scale that cannot be read traps (02 R50,
R51, R52, 06 R126-R128, R393, 01 R23, R25; that a value counts by its low bits and the signs of NaN codes and zeros are logs 72 and 73,
DESIGN CHOICE; the lanes that the illegal cvts names are log 6, DEDUCED). -/
def Obligations.StoredFormatConversions : Prop :=
  (∀ f s c, Issues s (.cvts f) c →
    let v := c.launch.slots.getD f.slot.toNat 0#256
    let wide := !f.enc && f.ftype == 11#4
    let ds : List (Nat × (Nat → Word)) :=
      if f.enc then put f.d (fun l => cvtsEncode v (.fin false 1 0) f.rm.toNat
        (match readType f.ftype (c.src f.a l) (c.pair f.a l) with
         | .inr y => y
         | .inl _ => .nan false))
      else if f.ftype == 11#4 then pairDst f.d (fun l => cvtsDecode v (.fin false 1 0) f.ftype f.rm.toNat (c.src f.a l) (c.pair f.a l))
      else put f.d (fun l => loWord (cvtsDecode v (.fin false 1 0) f.ftype f.rm.toNat (c.src f.a l) (c.pair f.a l)))
    let rs := oneOrTwo wide f.d
    let ea (l : Nat) : DWord := BitVec.ofNat 64 (slotAddr v + 4 * (if slotMode v = 1 then (c.src (cvtsI f) l).toNat
      else (c.src (cvtsI f) l).toNat * cvtsNb f + (c.src (cvtsJ f) l).toNat / 64))
    let req (l : Nat) : Req := ⟨l, ea l, 4, .global, false⟩
    let bad : Prop := slotFmt v = 9 ∧ (f.enc = true ∨ f.a.getLsbD 0 = true)
    (bad → exec (.cvts f) s = takeTrapFrom c.before c.s c.iss (TrapInfo.at 0x0001 0#64 c.A)) ∧
    (¬ bad → slotMode v = 0 → (Room c (needOf c ds) → ∃ t, exec (.cvts f) s = .next t ∧ Wrote c t ds (needOf c ds)) ∧
      (¬ Room c (needOf c ds) → exec (.cvts f) s = takeTrapFrom c.before c.s c.iss (storageTrap c (wideOf c ds)))) ∧
    (¬ bad → slotMode v ≠ 0 →
      (∀ (loc : Nat → Loc) (mt : Nat → Nat), Room c (needAtIssue c rs) → (∀ l ∈ c.lanes, Reaches c c.s 1 true (req l) (loc l) (mt l)) →
        ∃ t, exec (.cvts f) s = .next t ∧ Queued c t
          { id := c.s.fresh, span := c.u, lanes := c.A, dsts := rs, resv := needAtIssue c rs, iss := some c.entry,
            accs := c.lanes.map (fun l => Acc.mk l (loc l) 4 (mt l) [] 0#64 (ea l) 0),
            kind := .scale f v (c.lanes.map (fun l => (l, c.src f.a l, c.pair f.a l))) } c.advanced) ∧
      (¬ Room c (needAtIssue c rs) → exec (.cvts f) s = takeTrapFrom c.before c.s c.iss (storageTrap c (compactOf c rs))) ∧
      (∀ r n, c.reserve c.s rs = .ok (r, n) → Denied (.cvts f) s c r n 8 1 true (c.lanes.map req)))) ∧
  (∀ v : BitVec 256, slotFmt v = (v.extractLsb' 80 4).toNat ∧ slotMode v = (v.extractLsb' 88 2).toNat ∧ slotAddr v = (v.extractLsb' 128 57).toNat) ∧
  (∀ (v : BitVec 256) (sv : FVal) (t : BitVec 4) (rm : BitVec 2) lo wide, 8 ≤ t.toNat → t.toNat ≤ 11 →
    let q := slotValue v lo wide
    let s := Fmt.f32.unpack (v.extractLsb' 0 32).toNat
    let k := (v.extractLsb' 90 6).toInt + if slotFmt v = 8 then 8 - ((v.extractLsb' 84 4).toNat : Int) else 0
    let m := [Fmt.f16, Fmt.bf16, Fmt.f32, Fmt.f64].getD (t.toNat - 8) .f32
    let out := cvtsDecode v sv t rm.toNat lo wide
    let neg := q.signBit ^^ (s.signBit ^^ sv.signBit)
    let fs := [q, s, sv]
    ((∃ x ∈ fs, x.isNan = true) → out = BitVec.ofNat 64 m.nanBits) ∧
    ((∀ x ∈ fs, x.isNan = false) → (∃ x ∈ fs, x.isInf = true) →
      out = BitVec.ofNat 64 (if fs.any FVal.isZero then m.nanBits else m.signed neg m.infBits)) ∧
    ((∀ x ∈ fs, x.isNan = false ∧ x.isInf = false) → ∃ n e, (FVal.fin neg n e).rat = q.rat * s.rat * sv.rat * 2 ^ k ∧
      out = BitVec.ofNat 64 (m.pack rm.toNat (.fin neg n e)))) ∧
  (∀ (v : BitVec 256) lo wide, let z := (v.extractLsb' 32 32).toInt
    let extra := Fmt.f16.unpack (v.extractLsb' 64 16).toNat
    let code (x : Rat) : Prop := ∃ neg n e, slotValue v lo wide = .fin neg n e ∧ (FVal.fin neg n e).rat = x
    match slotFmt v with
    | 0 => code ((lo.extractLsb' 0 8).toInt - z)
    | 1 => code ((lo.extractLsb' 0 8).toNat - z)
    | 2 => code ((lo.extractLsb' 0 16).toInt - z)
    | 3 => slotValue v lo wide = Fmt.f16.unpack (lo.extractLsb' 0 16).toNat
    | 4 => slotValue v lo wide = Fmt.bf16.unpack (lo.extractLsb' 0 16).toNat
    | 5 => slotValue v lo wide = Fmt.f32.unpack lo.toNat
    | 6 => slotValue v lo wide = e4m3Val (lo.extractLsb' 0 8).toNat
    | 7 => let g := (lo.extractLsb' 0 4).toNat
      extra.isNan = false → extra.isInf = false → code ((if g = 8 then extra.rat
        else [0, 1 / 2, 1, 3 / 2, 2, 3, 4, 6].getD (g % 8) 0 * if 8 ≤ g then -1 else 1) - z)
    | 8 => code lo.toInt
    | _ => code (wide.toInt - z)) ∧
  (∀ g < 256, (g % 128 = 127 → e4m3Val g = .nan (decide (128 ≤ g))) ∧ (g % 128 ≠ 127 →
    ∃ n e, e4m3Val g = .fin (decide (128 ≤ g)) n e ∧ (FVal.fin false n e).rat = Fmt.e4m3.mag (g % 128))) ∧
  (∀ (v : BitVec 256) (sv : FVal) (rm : BitVec 2) (x : FVal),
    let z := (v.extractLsb' 32 32).toInt
    let extra := Fmt.f16.unpack (v.extractLsb' 64 16).toNat
    extra.isNan = false → extra.isInf = false → (slotFmt v ∈ [3, 4, 5, 6, 8] → z = 0) →
    ∃ u, Divides (Fmt.f32.unpack (v.extractLsb' 0 32).toNat) sv (v.extractLsb' 90 6).toInt z x u ∧
      Encoded (slotFmt v) rm.toNat extra u (cvtsEncode v sv rm.toNat x)) ∧
  (∀ s w f v vals sp, w.kind = .scale f v vals → s.span? w.span = some sp → w.lanes ≠ 0#64 → w.dsts.Nodup → (∀ d ∈ w.dsts, d < sp.regs.length) →
    (∀ a ∈ w.accs, poisoned s a.loc a.size = false) →
    let scale (l : Nat) : FVal := Fmt.f32.unpack ((w.accs.find? (fun a => a.lane == l)).elim 0 (fun a => bytesNat (readLocs s a.loc 4)))
    let out (l : Nat) : DWord := ((vals.find? (fun x => x.1 == l)).elim 0#64 (fun x =>
      if f.enc then (cvtsEncode v (scale l) f.rm.toNat (match readType f.ftype x.2.1 x.2.2 with
        | .inr y => y
        | .inl _ => .nan false)).zeroExtend 64
      else cvtsDecode v (scale l) f.ftype f.rm.toNat x.2.1 x.2.2))
    ∃ x, (performWork s w).span? w.span = some x ∧
      (∀ i d, w.dsts[i]? = some d → ∀ l < sp.width, x.reg d l =
        if hasLane w.lanes l then (if i = 0 then loWord (out l) else hiWord (out l)) else sp.reg d l) ∧
      (∀ r, r ∉ w.dsts → x.vreg r = sp.vreg r) ∧ (∀ u ∈ (performWork s w).works, u.id ≠ w.id) ∧
      Elsewhere s { performWork s w with works := s.works } w.span)

/-! ## Barriers, rings, waits -/

/-- The barrier instructions on a barrier that is not broken: an arrival that has already been made waits to be made again, the others mark
the span with a release; barwait holds the lanes whose phase is not over; barexp adds to BAL; barset changes MEMBERS at once or with the
phase; a span that is no member does not arrive; bararr without room raises SHAPE_STORAGE (01 R24, R25, 07 R165-R170; the lanes that
BARRIER_OVERFLOW names are log 6, DEDUCED, and that it comes before SHAPE_STORAGE is log 82, DESIGN CHOICE). -/
def Obligations.BarrierInstructions : Prop :=
  ((∀ d n s c b, Issues s (.bararr d n) c → (c.bar n.toNat).broken = false →
    let again := c.marked n.toNat
    let go := c.A &&& ~~~again
    (if go = 0#64 then b = c.s else (c.only go).issueWrite c.s [(d.toNat, fun _ => (c.bar n.toNat).gen)] = .ok b) →
    exec (.bararr d n) s = .next (c.barCheck (hold (goOn (c.arrive b n.toNat go) c.iss (c.G &&& ~~~again)) c.iss again
      (fun _ => .barAgain n.toNat (c.bar n.toNat).gen)) n.toNat)) ∧
  (∀ d n s c, Issues s (.bararr d n) c → (c.bar n.toNat).broken = false → let go := c.A &&& ~~~(c.marked n.toNat)
    go ≠ 0#64 → ¬ Room c (needAtIssue c (one d)) →
    exec (.bararr d n) s = takeTrapFrom c.before c.s c.iss { storageTrap c (compactOf c (one d)) with lanes := go }) ∧
  (∀ n b s c, Issues s (.barwait n b) c → (c.bar n.toNat).broken = false →
    let stay := laneSetOf (fun l => hasLane c.A l && decide (((c.bar n.toNat).gen - c.srcB b l - 1#32).toInt < 0))
    ∃ t, exec (.barwait n b) s = .next t ∧
      Becomes c.s t c.u (c.split c.sp stay (fun l q => c.waiting q (.barPhase n.toNat (c.srcB b l) c.iss.lit.isSome)))) ∧
  (∀ n s c, Issues s (.barsync n) c → (c.bar n.toNat).broken = false →
    let again := c.marked n.toNat
    let go := c.A &&& ~~~again
    exec (.barsync n) s = .next (c.barCheck (hold (hold (goOn (c.arrive c.s n.toNat go) c.iss (c.G &&& ~~~c.A)) c.iss go
      (fun _ => .barPhase n.toNat (c.bar n.toNat).gen false)) c.iss again (fun _ => .barAgain n.toNat (c.bar n.toNat).gen)) n.toNat)) ∧
  (∀ n b s c, Issues s (.barexp n b) c → (c.bar n.toNat).broken = false →
    let v := (c.bar n.toNat).bal + (c.srcB b c.low).toInt
    (-(2 ^ 31) ≤ v → v < 2 ^ 31 →
      exec (.barexp n b) s = .next (goOn (c.barCheck (c.modBar c.s n.toNat (fun x => { x with bal := v })) n.toNat) c.iss c.G)) ∧
    ((v < -(2 ^ 31) ∨ 2 ^ 31 ≤ v) → exec (.barexp n b) s = takeTrapFrom c.before c.s c.iss (TrapInfo.at 0x0015 (BitVec.ofNat 64 n.toNat) c.A))) ∧
  (∀ n b s c, Issues s (.barset n b) c → (c.bar n.toNat).broken = false →
    let v := c.srcB b c.low
    ((c.bar n.toNat).any = false → exec (.barset n b) s = .next (goOn (c.modBar c.s n.toNat (fun x =>
      { x with members := memberValue c.s c.deck.uid c.girder.uid n.toNat v })) c.iss c.G)) ∧
    ((c.bar n.toNat).any = true → exec (.barset n b) s = .next (hold (c.modBar c.s n.toNat (fun x => { x with sets := x.sets ++ [v] })) c.iss c.G
      (fun _ => .barSet n.toNat (c.bar n.toNat).gen c.iss.lit.isSome)))) ∧
  (∀ (c : Ctx) s n m, ((c.isMember n = false ∨ m = 0#64) → c.arrive s n m = s) ∧
    (c.isMember n = true → m ≠ 0#64 → c.arrive s n m = (drain s c.u m).modBar c.deck.uid c.girder.uid n (fun b => b.addMark c.u m))) ∧
  (∀ (c : Ctx) n, c.isMember n = (c.bar n).members.getLsbD (if n < 16 then c.sp.idx else c.deck.member)) ∧
  (∀ (b : Bar) u m, m ≠ 0#64 → (b.addMark u m).mark u = b.mark u ||| m ∧ (∀ v, v ≠ u → (b.addMark u m).mark v = b.mark v) ∧
    (b.addMark u m).any = true ∧ { b.addMark u m with marks := b.marks, any := b.any } = b)) ∧
  (∀ (n d : Reg) (b : SrcB) s c, (c.bar n.toNat).broken = true →
    let t := TrapInfo.at 0x0015 (BitVec.ofNat 64 (n.toNat + 256)) c.A
    (Issues s (.bararr d n) c → exec (.bararr d n) s = takeTrapFrom c.before c.s c.iss t) ∧
    (Issues s (.barwait n b) c → exec (.barwait n b) s = takeTrapFrom c.before c.s c.iss t) ∧
    (Issues s (.barsync n) c → exec (.barsync n) s = takeTrapFrom c.before c.s c.iss t) ∧
    (Issues s (.barexp n b) c → exec (.barexp n b) s = takeTrapFrom c.before c.s c.iss t) ∧
    (Issues s (.barset n b) c → exec (.barset n b) s = takeTrapFrom c.before c.s c.iss t))

/-- A barrier's phase completes exactly when somebody has arrived, every member has, BAL is zero and it is not broken: GEN rises by one and
the marks clear; otherwise nothing changes. The spans that leave phases completed in one cycle on a truss leave together, in pier and slot
order, WAVE of them a wave, or at once with GAP 0 (07 R166, R167, 21 R381). -/
def Obligations.BarrierPhasesComplete : Prop :=
  (∀ s deck girder n d g, s.deck? deck = some d → s.girder? girder = some g → d.bars.length = 16 → g.bars.length = 4 → n < 20 →
    let b := barOf s deck girder n
    let full : Prop := b.any = true ∧ b.broken = false ∧ b.bal = 0 ∧
      (if n < 16 then ∀ x ∈ s.spansOf deck, b.members.getLsbD x.idx = true → x.live &&& ~~~(b.mark x.uid) = 0#64
       else ∀ e ∈ s.decksOf girder, b.members.getLsbD e.member = true → ∀ x ∈ s.spansOf e.uid, x.live &&& ~~~(b.mark x.uid) = 0#64)
    (¬ full → barCheck s deck girder n = s) ∧
    (full → ∃ b', barOf (barCheck s deck girder n) deck girder n = b' ∧ b'.gen = b.gen + 1#32 ∧ b'.marks = [] ∧ b'.any = false ∧
      b'.sets = [] ∧ b'.bal = b.bal ∧ b'.members = ((b.sets.getLast?).map (memberValue s deck girder n)).getD b.members) ∧
    (¬ full → barComplete s deck girder n = (s, [])) ∧
    (full → (barComplete s deck girder n).2 = ((if n < 16 then s.spansOf deck else (s.decksOf girder).flatMap (fun e => s.spansOf e.uid)).filter
      (fun x => x.lanes.any (Lane.waits (fun _ w => match w with
        | .barPhase k v _ => k == n && decide (0 ≤ (b.gen + 1#32 - v - 1#32).toInt)
        | _ => false)))).map (fun x => (x.uid, n))) ∧
    ∀ ns, barCheckList s deck girder ns = let r := ns.foldl (fun (x : State × List (Nat × Nat)) k =>
        ((barComplete x.1 deck girder k).1, x.2 ++ (barComplete x.1 deck girder k).2)) (s, [])
      releaseWaves r.1 deck r.2) ∧
  (∀ s deck d (out : List (Nat × Nat)), s.deck? deck = some d → out ≠ [] → (∀ x ∈ out, (s.span? x.1).isSome = true) →
    let truss := trussOf d.pier
    let reg := (s.mgmt.tslope.getD truss 0x0410#16).toNat
    let t := releaseWaves s deck out
    (reg / 256 = 0 → t = out.foldl (fun s x => s.modSpan x.1 (Span.leaveIf (fun _ v => match v with
      | .barWave n _ => n == x.2
      | _ => false))) s) ∧
    (reg / 256 ≠ 0 → truss < s.waves.length → ∃ (ws : List Wave) (order : List Span), t = { s with waves := s.waves.set truss (s.waves.getD truss [] ++ ws) } ∧
      (ws.flatMap (·.spans)).Perm out ∧ (order.map (·.uid)).Perm (out.map (·.1)).dedup ∧
      order.Pairwise (fun x y => let p (z : Span) : Nat := (s.deck? z.deck).elim 0 (·.pier)
        p x < p y ∨ (p x = p y ∧ x.rslot ≤ y.rslot)) ∧
      ws.flatMap (·.spans) = order.flatMap (fun x => out.filter (fun y => y.1 == x.uid)) ∧
      (∀ w ∈ ws, ((w.spans.map (·.1)).dedup).length ≤ max (reg % 256) 1) ∧
      ∀ w ∈ ws.dropLast, ((w.spans.map (·.1)).dedup).length = max (reg % 256) 1))

/-- Stage rings: stgacq takes the side's next slot, moves its cursor and waits for the slot's turn; stgrel hands a held slot to the other side
after a release; a role that the ring does not name traps WRONG_ROLE, and a stgacq without room SHAPE_STORAGE (01 R24, R25, 07 R171, R172,
09 R234, R235; the lanes that the trap names are log 6, DEDUCED, and that it comes before SHAPE_STORAGE is log 82, DESIGN CHOICE). -/
def Obligations.StageRings : Prop :=
  (∀ d n s c side r m, Issues s (.stgacq d n) c → ringSide (c.launch.rings.getD n.toNat 0#64) c.sp.role = some side →
    c.reserve c.s (one d) = .ok (r, m) →
    let v := c.launch.rings.getD n.toNat 0#64
    let ring := c.deck.rings.getD n.toNat ⟨0, 0, 0#32, 0#32⟩
    let slot := if side then ring.prod else ring.cons
    let next := if slot + 1 < ringCount v then slot + 1 else 0
    let b := r.modDeck c.deck.uid (fun x => { x with rings := x.rings.modify n.toNat (fun y =>
      if side then { y with prod := next } else { y with cons := next }) })
    exec (.stgacq d n) s = .next (ringTurn ((hold b c.iss c.G (fun _ => .ring b.fresh)).addWork (fun id =>
      { id := id, span := c.u, lanes := c.A, dsts := one d, resv := m, accs := [], iss := none,
        kind := .ring n.toNat slot side (BitVec.ofNat 32 (ringOffset v slot)) })) c.deck.uid n.toNat)) ∧
  (∀ n a s c side i, Issues s (.stgrel n a) c → ringSide (c.launch.rings.getD n.toNat 0#64) c.sp.role = some side →
    let v := c.launch.rings.getD n.toNat 0#64
    let ring := c.deck.rings.getD n.toNat ⟨0, 0, 0#32, 0#32⟩
    (List.range (ringCount v)).find? (fun i =>
      ringOffset v i == (c.src a.reg c.low).toNat && (ring.phase.getLsbD i == !side) && ring.held.getLsbD i) = some i →
    exec (.stgrel n a) s = .next (goOn ((drain c.s c.u c.A).modDeck c.deck.uid (fun x =>
      { x with rings := x.rings.modify n.toNat (fun y =>
        { y with held := y.held &&& ~~~(BitVec.ofNat 32 (2 ^ i)), phase := y.phase ^^^ BitVec.ofNat 32 (2 ^ i) }) })) c.iss c.G)) ∧
  (∀ d n a s c, ringSide (c.launch.rings.getD n.toNat 0#64) c.sp.role = none →
    let t := TrapInfo.at 0x0003 (BitVec.ofNat 64 (c.sp.role.toNat + 16 * 7 + n.toNat * 256)) c.A
    (Issues s (.stgacq d n) c → exec (.stgacq d n) s = takeTrapFrom c.before c.s c.iss t) ∧
    (Issues s (.stgrel n a) c → exec (.stgrel n a) s = takeTrapFrom c.before c.s c.iss t)) ∧
  (∀ d n s c side, Issues s (.stgacq d n) c → ringSide (c.launch.rings.getD n.toNat 0#64) c.sp.role = some side →
    ¬ Room c (needAtIssue c (one d)) → exec (.stgacq d n) s = takeTrapFrom c.before c.s c.iss (storageTrap c (compactOf c (one d))))

/-- Waits on timelines, tags, matrix work, grace periods and words of memory: what has come lets the lanes go on, what has not holds them at
the instruction (07 R174, R177, 08 R204, R212, R216; that mxwait takes the unit, and waits for armed operations, is logs 34 and 35,
DEDUCED). -/
def Obligations.WaitsHoldOrGoOn : Prop :=
  (∀ n b s c, Issues s (.tlwait n b) c → c.launch.tlBound n.toNat = true →
    let stay := laneSetOf (fun l => hasLane c.A l && decide (c.timeline n.toNat < (c.pairB b.src false l).toNat))
    ∃ t, exec (.tlwait n b) s = .next t ∧
      Becomes c.s t c.u (c.split c.sp stay (fun l q => c.waiting q (.timeline n.toNat (c.pairB b.src false l).toNat c.iss.lit.isSome)))) ∧
  (∀ t s c, Issues s (.tagwait t) c → ∃ r, exec (.tagwait t) s = .next r ∧
    Becomes c.s r c.u (if c.sp.tag t.toNat = 0 then c.advanced else c.split c.sp c.G (fun _ q => c.waiting q (.tag t.toNat)))) ∧
  (∀ m s c, Issues s (.mxwait m) c → (c.s.pier c.deck.pier).owner = some c.deck.uid → (c.s.pier c.deck.pier).clearing = false →
    ∃ r, exec (.mxwait m) s = .next r ∧ Becomes c.s r c.u
      (if (m.toNat ≠ 2 ∧ fillOutstanding c.s c.sp.deck c.s.fresh = true) ∨ (m.toNat ≠ 1 ∧ opOutstanding c.s c.sp.deck c.s.fresh = true)
       then c.split c.sp c.G (fun _ q => c.waiting q (.mxwait m.toNat c.s.fresh)) else c.advanced)) ∧
  (∀ a s c, Issues s (.waitgp a) c → (∀ l ∈ c.lanes, (c.sp.lane l).rsn = 0#4) →
    let g := (c.pair a c.low).toNat
    g ≤ c.cx.gp.started + (if c.cx.gp.pend then 1 else 0) →
    ∃ r, exec (.waitgp a) s = .next r ∧
      Becomes c.s r c.u (if g ≤ c.cx.gp.completed then c.advanced else c.split c.sp c.G (fun _ q => c.waiting q (.gp g)))) ∧
  (∀ a b s c (loc : Loc) (mt : Nat), Issues s (.entw a b) c → Reaches c c.s 3 true ⟨c.low, c.pair a c.low, 8, .global, false⟩ loc mt →
    let w := drain c.s c.u (oneLane c.low)
    exec (.entw a b) s = .next (if valueAt w loc 8 = c.pair b c.low
      then hold w c.iss c.G (fun _ => .entw (c.pair a c.low).toNat (c.pair b c.low)) else goOn w c.iss c.G))

/-! ## Copies -/

/-- cpl: with room in its tag and every check passed, each lane of A has a 32-byte copy outstanding and the tag counts them, else the group
waits; a landed copy leaves v source bytes and then zeros in its 32 bytes of deck memory, all poisoned where one of them was, and changes
no other byte; where that poisons bytes which an older read has still to read, the read is performed first; the first check that a source
or a destination of any lane fails decides the cause of its trap (07 R145, R175, R176, 15 R300, that order being log 67, DEDUCED; that the
group waits for room whatever its addresses are is log 38, DEDUCED). -/
def Obligations.PerLaneCopies : Prop :=
  ((∀ a b n t s c hits, Issues s (.cpl a b n t) c → c.sp.tag t.toNat + laneCount c.A ≤ 255 →
    let v (l : Nat) : Nat := min (c.src n l).toNat 32
    cplCheck c (c.src a) (c.pair b) v = .ok hits →
    exec (.cpl a b n t) s = .next (goOn (c.lanes.foldl (fun s l => s.addWork (fun id =>
      { id := id, span := c.u, lanes := oneLane l, dsts := [], resv := 0, iss := none, kind := .cpl t.toNat (c.src a l).toNat (v l) none,
        accs := (hits.filter (fun h => h.req.lane == l && !h.req.wr)).map (fun h => Acc.mk l h.loc h.req.size h.mtype [] 0#64 h.req.addr 0) }))
      (c.s.modSpan c.u (fun x => { x with tags := x.tags.modify t.toNat (· + laneCount c.A) }))) c.iss c.G)) ∧
  (∀ a b n t s c, Issues s (.cpl a b n t) c → 255 < c.sp.tag t.toNat + laneCount c.A →
    exec (.cpl a b n t) s = .next (holdAgain c.s c.iss (.tagRoom t.toNat (laneCount c.A)))) ∧
  (∀ a b n t s c, Issues s (.cpl a b n t) c → c.sp.tag t.toNat + laneCount c.A ≤ 255 →
    let sources (l : Nat) : List Req := cplSources l (c.pair b l) (min (c.src n l).toNat 32)
    let align (q : Req) : Nat := if q.wr then 32 else 1
    DeniedWith (fun k q addr => (q.wr = false ∧ addr = c.pair b q.lane) ∨
        (q.wr = true ∧ addr = (c.src a q.lane).zeroExtend 64 ∧ ∀ x ∈ sources q.lane, ¬ c.fails c.s align 1 false x k)) align
      (.cpl a b n t) s c c.s 0 7 1 false (c.lanes.flatMap (fun l => sources l ++ [⟨l, (c.src a l).zeroExtend 64, 32, .deck, true⟩]))) ∧
  (∀ l (a : DWord) v, (v = 0 → cplSources l a v = []) ∧ (v ≤ 32 → (cplSources l a v).flatMap (fun q =>
    (List.range q.size).map (fun i => q.addr + BitVec.ofNat 64 i)) = (List.range v).map (fun i => a + BitVec.ofNat 64 i)) ∧
    ∀ q ∈ cplSources l a v, q.lane = l ∧ q.sp = .global ∧ q.wr = false ∧ 0 < q.size ∧ (v ≤ 32 → q.addr.toNat % 4096 + q.size ≤ 4096))) ∧
  (∀ s w tag dst v d data, w.kind = .cpl tag dst v data → Canon s → s.deck? (workDeck s w) = some d → v ≤ 32 →
    let src : List Byte := data.elim (w.accs.flatMap (fun a => readLocs s a.loc a.size)) (·.1)
    let bad : Bool := data.elim (w.accs.any (fun a => poisoned s a.loc a.size)) (·.2)
    src.length = v → (bad = true → Undisturbed s (fun l => ∃ i < 32, l = .deck (workDeck s w) (dst + i))) →
    let t := performWork s w
    (∀ i < 32, readLoc t (.deck (workDeck s w) (dst + i)) = src.getD i 0#8 ∧ poisonedAt t (.deck (workDeck s w) (dst + i)) = bad) ∧
    (∀ l : Loc, l.good → (∀ i < 32, l ≠ .deck (workDeck s w) (dst + i)) → readLoc t l = readLoc s l ∧ poisonedAt t l = poisonedAt s l) ∧
    (∀ sp, s.span? w.span = some sp → t.span? w.span = some { sp with tags := sp.tags.modify tag (· - 1) }) ∧
    (∀ u, u ≠ w.span → t.span? u = s.span? u) ∧ (∀ x, x ∈ t.works ↔ x ∈ s.works ∧ x.id ≠ w.id) ∧
    { t with spans := s.spans, works := s.works, decks := s.decks } = s)

/-- The engine copies issue with every check passed, or trap without room for the token or where the descriptor cannot be read; a timeline's
numbers are given in order, and its value is the highest number up to which all have completed (07 R145, R173, R178-R188; that the members
of a collective over a peer group disagree by a free value and what the engine knows of its peers are logs 13 and 18, and which words of a
descriptor it checks is log 83, DESIGN CHOICE). -/
def Obligations.EngineCopiesAndTimelines : Prop :=
  ((∀ a b, Copies (.tcopy a b) 0 a b) ∧ (∀ a b, Copies (.tsparse a b) 1 a b) ∧ (∀ a b, Copies (.tgather a b) 2 a b) ∧
  (∀ a b, Copies (.tscatter a b) 3 a b) ∧ (∀ a b, Copies (.tfill a b) 4 a b) ∧ (∀ a b, Copies (.tcoll a b) 5 a b) ∧
  (∀ a b s i c, i ∈ [Instr.tcopy a b, .tsparse a b, .tgather a b, .tscatter a b, .tfill a b, .tcoll a b] → Issues s i c →
    (∀ t x, c.reserve (drain c.s c.u c.A) (one a) = .error (.trap t x) → exec i s = takeTrapFrom c.before t c.iss x) ∧
    (∀ r m, c.reserve (drain c.s c.u c.A) (one a) = .ok (r, m) → Denied i s c r m 11 3 true [⟨c.low, c.pair b c.low, 128, .global, false⟩]))) ∧
  ((∀ s k n cx (t : Timeline), s.ctx? k = some cx → cx.tl[n]? = some t → (takeNumber s k n).2 = t.issued + 1 ∧
    ∃ cy, (takeNumber s k n).1.ctx? k = some cy ∧ cy.tl[n]? = some { t with issued := t.issued + 1 }) ∧
  (∀ (t : Timeline) (m : Nat), t.early.Nodup → (∀ x ∈ t.early, t.value < x) → t.value < m → m ∉ t.early →
    let u := advanceTl (t.early.length + 1) { t with early := t.early ++ [m] }
    t.value ≤ u.value ∧ (∀ x, t.value < x → x ≤ u.value → x ∈ t.early ∨ x = m) ∧ u.value + 1 ∉ u.early ∧
    (∀ x, x ∈ u.early ↔ u.value < x ∧ (x ∈ t.early ∨ x = m)) ∧ u.issued = t.issued))

/-! ## The matrix unit -/

/-- Every instruction of the MTX class but mxvalid waits for the unit or takes it; mxarr sets the arrangement of an idle unit and drops every
K-row where the plane count changes; mxload and mxarow become outstanding after a release by the lanes of A (08 R192-R197; which
instructions take the unit and what mxarr waits for are logs 34 and 35, DEDUCED). -/
def Obligations.MatrixUnitSetup : Prop :=
  ((∀ p code, WaitsForUnit (.mxarr p code)) ∧ (∀ a b, WaitsForUnit (.mxload a b)) ∧ (∀ a b, WaitsForUnit (.mxarow a b)) ∧
  (∀ a b c n, WaitsForUnit (.mxsign a b c n)) ∧ (∀ a n, WaitsForUnit (.mxmma a n)) ∧ (∀ m, WaitsForUnit (.mxwait m)) ∧
  (∀ a r t, WaitsForUnit (.mxsave a r t))) ∧
  ((∀ p code s c, Issues s (.mxarr p code) c → c.owns → unitBusy c.s c.deck.uid = false →
    let unit (m : Matrix) : Matrix :=
      { m with arr := some code.toNat, planes := p.toNat, valid := if m.planes = p.toNat then m.valid else List.replicate 32 0#64 }
    exec (.mxarr p code) s = .next (goOn (c.s.modPier c.deck.pier (fun x => { x with mtx := x.mtx.map unit })) c.iss c.G)) ∧
  (∀ p code s c, Issues s (.mxarr p code) c → c.owns → unitBusy c.s c.deck.uid = true →
    exec (.mxarr p code) s = .next (holdAgain c.s c.iss (.matrix 1 0))) ∧
  (∀ a b s c, Issues s (.mxload a b) c → c.owns →
    let va := (c.pair a c.low).toNat
    let w := c.src b c.low
    fillCheck c va (8 * wordP w * wordRows w) = .ok () → c.unit.arr ≠ none → weightWordOk w (packing c.unit.planes) = true →
    exec (.mxload a b) s = .next (goOn ((drain c.s c.u c.A).addWork (fun id =>
      { id := id, span := c.u, lanes := c.A, dsts := [], resv := 0, accs := [], iss := none, kind := .load8 {
          ctx := c.cx.num, launch := c.launch.uid, deck := c.deck.uid, pc := c.iss.pc, word := w, va := va, total := wordRows w, next := 0,
          suspended := false, planes := c.unit.planes, kblocks := 0, wins := windowsOf (drain c.s c.u c.A) c.girder.uid } })) c.iss c.G)) ∧
  (∀ a b s c code, Issues s (.mxarow a b) c → c.owns → c.unit.arr = some code →
    let va := (c.pair a c.low).toNat
    let w := c.src b c.low
    let kb := (arrShape code).1
    fillCheck c va (rowCount w * kb * 8 * rowPa w) = .ok () → rowWordOk w = true → membOk c (rowMemb w) = true →
    exec (.mxarow a b) s = .next (goOn ((drain c.s c.u c.A).addWork (fun id =>
      { id := id, span := c.u, lanes := c.A, dsts := [], resv := 0, accs := [], iss := none, kind := .rows {
          ctx := c.cx.num, launch := c.launch.uid, deck := c.deck.uid, pc := c.iss.pc, word := w, va := va, total := rowCount w, next := 0,
          suspended := false, planes := c.unit.planes, kblocks := kb, wins := windowsOf (drain c.s c.u c.A) c.girder.uid } })) c.iss c.G)))

/-- mxsign and mxmma sign and arm a keystone that does not run, which starts when it is full and its parts agree, each signer with the
accumulators it needs; the elements that a slice computes are inner products of row-buffer rows and arrangement columns, for the signer
its column falls to; as slices land their results are in the signers' registers, and with the last one GEN rises by one and the keystone
is idle (08 R193, R198-R201, 21 R382; that a keystone with nothing declared does not start and the lanes that its causes name are logs 19
and 6, and that a sum of poison is poisoned is log 91, DEDUCED). -/
def Obligations.KeystonesAndSlices : Prop :=
  ((∀ a b np n s c, Issues s (.mxsign a b np n) c → c.owns →
    let k := c.key n.toNat
    let count := (c.src a c.low).toNat
    let decl := if k.signers = [] then count else k.decl
    1 ≤ count → count ≤ 2048 → k.st ≠ 2 → (∀ r ∈ regRange b.toNat (2 * np.toNat), (c.sp.vreg r).isVector = true) →
    count = decl → k.signers.length + laneCount c.A ≤ decl →
    let new := c.lanes.map (fun l => Signer.mk c.deck.uid c.u l b.toNat np.toNat)
    let step := keyStep c n.toNat { k with st := 1, decl := decl, signers := k.signers ++ new } c.A
    (∀ t, step = .ok t → exec (.mxsign a b np n) s = .next (goOn t c.iss c.G)) ∧
    (∀ t i, step = .error (.trap t i) → exec (.mxsign a b np n) s = takeTrapFrom c.before t c.iss i)) ∧
  (∀ a n s c code, Issues s (.mxmma a n) c → c.owns → c.unit.arr = some code →
    let k := c.key n.toNat
    let v := c.pair a c.low
    k.st ≠ 2 → opOk v code c.unit.planes = true → c.rowsOk v = true → c.bankOk v code = true →
    (k.armed ≠ [] → opArms v = k.arms ∧ k.armed.length ≠ k.arms + 1 ∧ ∀ x ∈ k.armed, x.deck ≠ c.deck.uid) →
    (opTlen v = true → c.launch.tlBound (opTl v) = true ∧ c.launch.tlKind (opTl v) = 3) →
    let arms := if k.armed = [] then opArms v else k.arms
    let step := keyStep { c with s := { c.s with fresh := c.s.fresh + 1 } } n.toNat
      { k with st := 1, arms := arms, armed := k.armed ++ [⟨c.deck.uid, v, c.s.fresh, false, false, false, [], []⟩] } c.A
    (∀ t, step = .ok t → exec (.mxmma a n) s = .next (goOn t c.iss c.G)) ∧
    (∀ t i, step = .error (.trap t i) → exec (.mxmma a n) s = takeTrapFrom c.before t c.iss i)) ∧
  (∀ (c : Ctx) n k lanes,
    let full : Prop := 0 < k.decl ∧ k.signers.length = k.decl ∧ k.armed.length = k.arms + 1
    let agree : Prop := (∀ x ∈ k.signers, ∃ a ∈ k.armed, a.deck = x.deck) ∧
      ∀ a ∈ k.armed, ∀ x ∈ k.signers, x.deck = a.deck →
        let l := (k.signers.filter (fun y => y.deck == a.deck)).length
        x.np = opM a.desc * ((opN a.desc + l - 1) / l)
    (¬ full → keyStep c n k lanes = .ok (setKey c.s c.girder.uid n k)) ∧
    (full → ¬ agree → keyStep c n k lanes = .error (.trap c.s (TrapInfo.at 0x0001 0#64 lanes))) ∧
    (full → agree → ∀ g, c.s.girder? c.girder.uid = some g → n < g.keys.length → c.s.ctx? c.cx.num = some c.cx → c.cx.tl.length = 16 →
      let named := (List.range 16).filter (fun q => k.armed.any (fun a => opTlen a.desc && opTl a.desc == q))
      ∃ t h y, keyStep c n k lanes = .ok t ∧ t.girder? c.girder.uid = some h ∧ t.ctx? c.cx.num = some y ∧
        h = { g with keys := g.keys.set n { k with
          st := 2, numbers := named.map (fun q => (q, (c.cx.tl.getD q ⟨0, 0, []⟩).issued + 1)),
          armed := k.armed.map (fun a => if k.signers.any (fun x => x.deck == a.deck) then a else { a with started := true, landed := true }) } } ∧
        y.tl.length = 16 ∧
        (∀ q (x : Timeline), c.cx.tl[q]? = some x → y.tl[q]? = some (if q ∈ named then { x with issued := x.issued + 1 } else x)) ∧
        { t with girders := c.s.girders, ctxs := c.s.ctxs } = c.s)) ∧
  (∀ a b np n s c, Issues s (.mxsign a b np n) c → c.owns → 1 ≤ (c.src a c.low).toNat → (c.src a c.low).toNat ≤ 2048 →
    (c.key n.toNat).st = 2 → exec (.mxsign a b np n) s = .next (holdAgain c.s c.iss (.matrix 2 n.toNat)))) ∧
  (∀ s u (a : Arm) signers code, u.arr = some code →
    let v := a.desc
    let mine := (signers.filter (fun x => x.deck == a.deck)).insertionSort (fun x y => signerLe s x y = true)
    mine ≠ [] →
    ∀ sp lane reg val, (sp, lane, reg, val) ∈ sliceResults s u a signers ↔
      ∃ i < opMV v, ∃ j < opNV v, ∃ x, mine[j % mine.length]? = some x ∧ sp = x.span ∧ lane = x.lane ∧
        reg = x.base + 2 * (i + opM v * (j / mine.length)) ∧
        val = (if opZero v then 0#64 else
            (s.span? x.span).elim 0#64 (fun p => pairOf (p.reg reg x.lane) (p.reg (reg + 1) x.lane))) +
          BitVec.ofInt 64 (((List.range (64 * (arrShape code).1)).map (fun k =>
            rowElem u (opRowB v + i) k (u.pa.getD (opRowB v) 0) * columnElem u code (opBank v) (opCol v + j) k)).sum)) ∧
  (∀ s (g : Girder) ctx n (k : Key) (a : Arm), g.keys[n]? = some k → s.girder? g.uid = some g →
    k.armed.find? (fun x => x.started && !x.landed) = some a → (k.armed.map (·.deck)).Nodup → a.poisoned = false →
    (a.results.map (fun r => (r.1, r.2.1, r.2.2.1))).Nodup →
    (∀ u l p v, (u, l, p, v) ∈ a.results → p % 2 = 0 ∧ p < 127 ∧ ∀ sp, s.span? u = some sp → sp.Shaped ∧ l < sp.width) →
    let t := landSlice s g ctx n
    (∀ u sp, s.span? u = some sp → ∃ x, t.span? u = some x ∧ x.masks = sp.masks ∧ x.tags = sp.tags ∧
      (∀ l p v, (u, l, p, v) ∈ a.results → hasLane sp.live l = true → x.reg p l = loWord v ∧ x.reg (p + 1) l = hiWord v) ∧
      (∀ l r, (hasLane sp.live l = false ∨ ∀ v, (u, l, r - r % 2, v) ∉ a.results) → l < sp.width → x.reg r l = sp.reg r l) ∧
      (∀ l p v, (u, l, p, v) ∈ a.results → hasLane sp.live l = true → l < 64 →
        x.poisonedReg p l = a.dirty.contains (u, l, p) ∧ x.poisonedReg (p + 1) l = a.dirty.contains (u, l, p))) ∧
    (∀ l, readLoc t l = readLoc s l) ∧
    ∃ h, t.girder? g.uid = some h ∧
      ((∀ x ∈ k.armed, x.deck = a.deck ∨ x.landed = true) →
        h = { g with keys := g.keys.set n ⟨0, 0, 0, (k.gen + 1) % 2 ^ 31, [], [], []⟩ } ∧
        t.ctx? ctx = (k.numbers.foldl (fun s q => completeNumber s ctx q.1 q.2) s).ctx? ctx) ∧
      ((∃ x ∈ k.armed, x.deck ≠ a.deck ∧ x.landed = false) → h = { g with keys := g.keys.set n { k with
        armed := k.armed.map (fun x => if x.deck == a.deck then { a with landed := true, results := [], dirty := [] } else x) } } ∧
        t.ctxs = s.ctxs))

/-- mxsave writes the unit's image to 57 pages, or takes the unit from a well-formed image, after the lowest lane's older accesses; a unit
with a poisoned byte is not saved: POISON; the image of a unit restores its arrangement, its rows, its weights and the banks that are
valid (08 R205, 21 R382; what mxsave waits for is log 35, DEDUCED, and the record of that POISON log 92, DESIGN CHOICE). -/
def Obligations.MatrixSaveAndRestore : Prop :=
  (∀ a rel s c (loc : Nat → Loc) (mt : Nat → Nat), Issues s (.mxsave a rel false) c → c.owns → unitBusy c.s c.deck.uid = false →
    (∀ i < 57, Reaches c c.s 1 false ⟨c.low, BitVec.ofNat 64 ((c.pair a c.low).toNat + 4096 * i), 4096, .global, true⟩ (loc i) (mt i)) →
    ((c.unit.poisonW ≠ [] ∨ c.unit.poisonR ≠ []) →
      exec (.mxsave a rel false) s = takeTrapFrom c.before c.s c.iss (TrapInfo.at 0x000C 0#64 (oneLane c.low))) ∧
    (c.unit.poisonW = [] → c.unit.poisonR = [] →
    let b := (List.range 57).foldl (fun s i => (imagePage c.unit i).foldl (fun s x => writeLoc s ((loc i).plus x.1) x.2)
      (notePage (zeroPage s (loc i)) c.cx.num (loc i))) (drain c.s c.u (oneLane c.low))
    exec (.mxsave a rel false) s = .next (goOn (if rel then b.modPier c.deck.pier (fun p => { p with owner := none }) else b) c.iss c.G))) ∧
  (∀ a rel s c m (loc : Nat → Loc) (mt : Nat → Nat), Issues s (.mxsave a rel true) c → c.owns → unitBusy c.s c.deck.uid = false →
    (∀ i < 57, Reaches c c.s 1 true ⟨c.low, BitVec.ofNat 64 ((c.pair a c.low).toNat + 4096 * i), 4096, .global, false⟩ (loc i) (mt i)) →
    let b := drain c.s c.u (oneLane c.low)
    unitOfImage (fun i => if i < 57 then pageCells b (loc i) else []) = some m →
    exec (.mxsave a rel true) s = .next (goOn (b.modPier c.deck.pier (fun p => { p with mtx := some m })) c.iss c.G)) ∧
  (∀ u : Matrix, u.weights.wf = true → u.rows.wf = true → (∀ k, u.arr = some k → k < 6) → (u.planes = 0 ∨ (2 ≤ u.planes ∧ u.planes ≤ 8)) →
    u.pa.length = 96 → (∀ p ∈ u.pa, p = 0 ∨ (2 ≤ p ∧ p ≤ 8)) →
    ∃ m, unitOfImage (fun i => if i < 57 then imagePage u i else []) = some m ∧ m.arr = u.arr ∧ m.planes = u.planes ∧ m.pa = u.pa ∧
      (∀ o < 131072, m.weights.read o = u.weights.read o) ∧ (∀ o < 98304, m.rows.read o = u.rows.read o) ∧
      (∀ i < 32, m.valid.getD i 0#64 = if u.valid.getD i 0#64 = BitVec.allOnes 64 then BitVec.allOnes 64 else 0#64) ∧
      m.poisonW = [] ∧ m.poisonR = [])

/-! ## The SYS class -/

/-- spawn and spawn.try offer one item for each lane in ascending order, after a release: spawn waits for the lanes not accepted, spawn.try
marks them; an item names the lane's entry and payload; once one fails, those of all higher lanes fail; an item goes to the segment's
queue while that has room, else to the context's overflow ring (08 R207, 14 R286; that a ring which cannot be written counts as full is
log 41, DEDUCED). -/
def Obligations.SpawnsOfferItems : Prop :=
  (∀ e p s c, Issues s (.spawn e p) c → (∀ l ∈ c.lanes, goodTarget (c.pair e l)) → ringAsks c.s (segOf c.deck.pier) c.cx c.lanes.length = none →
    let r := c.offerAll e p c.s.fresh c.lanes { drain c.s c.u c.A with fresh := c.s.fresh + 1 }
    exec (.spawn e p) s = .next (if r.2 = [] then goOn r.1 c.iss c.G else hold r.1 c.iss c.G (fun l =>
      .spawn (c.pair e l).toNat ((four p).map (fun q => c.regVal q l)) c.s.fresh (!r.2.contains l)))) ∧
  (∀ e p k s c, Issues s (.spawnTry e p k) c → (∀ l ∈ c.lanes, goodTarget (c.pair e l)) →
    ringAsks c.s (segOf c.deck.pier) c.cx c.lanes.length = none →
    let r := c.offerAll e p c.s.fresh c.lanes { drain c.s c.u c.A with fresh := c.s.fresh + 1 }
    exec (.spawnTry e p k) s = .next (goOn (c.setBits r.1 k.toNat (fun l => r.2.contains l)) c.iss c.G)) ∧
  (∀ (c : Ctx) e p issue lanes s,
    let item (l : Nat) : Item :=
      ⟨c.cx.num, c.launch.uid, (c.pair e l).toNat, (four p).map (fun q => c.regVal q l), issue, l, c.deck.uid⟩
    let k := segOf c.deck.pier
    let r := c.offerAll e p issue lanes s
    (∃ n ≤ lanes.length, r.2 = lanes.drop n ∧
      (∀ h : n < lanes.length, offerItem r.1 k c.cx.num (item lanes[n]) = none) ∧
      (lanes.take n).foldlM (fun s l => offerItem s k c.cx.num (item l)) s = some r.1) ∧
    (k < s.segs.length → (s.seg k).spawnQ.length + lanes.length ≤ 4096 →
      r.2 = [] ∧ (r.1.seg k).spawnQ = (s.seg k).spawnQ ++ lanes.map item)) ∧
  (∀ s k ctx it, k < s.segs.length → (s.seg k).spawnQ.length < 4096 →
    ∃ t, offerItem s k ctx it = some t ∧ (t.seg k).spawnQ = (s.seg k).spawnQ ++ [it]) ∧
  (∀ s k ctx it cx l, 4096 ≤ (s.seg k).spawnQ.length → s.ctx? ctx = some cx → s.launch? it.launch = some l →
    (cx.d.ovfCount ≤ cx.ovfTail - cx.ovfHead → offerItem s k ctx it = none) ∧
    (cx.ovfTail - cx.ovfHead < cx.d.ovfCount →
      let w := ctxWrite s cx (cx.d.ovfBase + 32 * (cx.ovfTail % cx.d.ovfCount)) (natBytes 8 it.entry ++
        it.payload.flatMap (fun w => natBytes 4 w.toNat) ++ natBytes 2 l.queue ++ natBytes 4 l.rdidx ++ natBytes 2 0)
      (w = none → offerItem s k ctx it = none) ∧
      (∀ b, w = some b → ∃ t, offerItem s k ctx it = some t ∧ (∀ o, readLoc t o = readLoc b o) ∧ (∀ j, (t.seg j).spawnQ = (s.seg j).spawnQ) ∧
        t.ctx? ctx = some { cx with ovfTail := cx.ovfTail + 1, ovfIssue := cx.ovfIssue ++ [⟨it.issue, it.lane, it.deck, it.launch, k⟩] })))

/-- plvl records each lane's request; csrw writes %sp, and %splim in trap mode only; rdenter and rdexit count %rsn between 0 and 15 and trap
at the ends; migr moves the girder where a capable pier set of another grade exists now, which stops its decks to be saved (08 R206, R208,
R213, R214, 15 R316, R317; the lanes that the trap of csrw names are log 6, DEDUCED). -/
def Obligations.PerLaneSystemEffects : Prop :=
  ((∀ a s c, Issues s (.plvl a) c → ∃ t, exec (.plvl a) s = .next t ∧ Becomes c.s t c.u
    (c.onward (c.sp.modLanes c.A (fun l y => { y with plvl := some (BitVec.ofNat 3 (min (c.src a l).toNat 7)) })))) ∧
  (∀ a s c, Issues s (.csrw a 0x008#10) c → ∃ t, exec (.csrw a 0x008#10) s = .next t ∧ Becomes c.s t c.u
    (c.onward (c.sp.modLanes c.A (fun l y => { y with sp := c.src a l })))) ∧
  (∀ a s c, Issues s (.csrw a 0x009#10) c → c.sp.trap ≠ none → ∃ t, exec (.csrw a 0x009#10) s = .next t ∧ Becomes c.s t c.u
    (c.onward (c.sp.modLanes c.A (fun l y => { y with splim := c.src a l })))) ∧
  (∀ a s c, Issues s (.csrw a 0x009#10) c → c.sp.trap = none →
    exec (.csrw a 0x009#10) s = takeTrapFrom c.before c.s c.iss (TrapInfo.at 0x0001 0#64 c.A))) ∧
  ((∀ s c, Issues s .rdenter c → (∀ l ∈ c.lanes, (c.sp.lane l).rsn ≠ 15#4) → (c.sp.quiet = true ∨ ∃ l ∈ c.sp.lanes, l.rsn ≠ 0#4) →
    ∃ t, exec .rdenter s = .next t ∧
      Becomes c.s t c.u (c.onward (Span.modLanes { c.sp with quiet := false } c.A (fun _ y => { y with rsn := y.rsn + 1#4 })))) ∧
  (∀ s c, Issues s .rdenter c → c.sp.quiet = false → (∀ l ∈ c.sp.lanes, l.rsn = 0#4) →
    exec .rdenter s = .next (goOn ((observeQuiet (drain c.s c.u (BitVec.allOnes 64)) c.u).modSpan c.u (fun x =>
      Span.modLanes { x with quiet := false } c.A (fun _ y => { y with rsn := y.rsn + 1#4 }))) c.iss c.G)) ∧
  (∀ s u sp, s.span? u = some sp → sp.quiet = false → isQuiescent s sp = true →
    let t := observeQuiet s u
    t.span? u = some { sp with quiet := true } ∧ (∀ v, v ≠ u → t.span? v = s.span? v) ∧ { t with spans := s.spans, ctxs := s.ctxs } = s ∧
    ∀ k cx, s.ctx? k = some cx → t.ctx? k = some { cx with gp := { cx.gp with holders := cx.gp.holders.filter (fun h => h != u) } }) ∧
  (∀ s c, Issues s .rdexit c → (∀ l ∈ c.lanes, (c.sp.lane l).rsn ≠ 0#4) → ∃ t, exec .rdexit s = .next t ∧
    Becomes c.s t c.u (c.onward (c.sp.modLanes c.A (fun _ y => { y with rsn := y.rsn - 1#4, exitAt := c.s.fresh })))) ∧
  (∀ s c, Issues s .rdenter c → (∃ l ∈ c.lanes, (c.sp.lane l).rsn = 15#4) → exec .rdenter s = takeTrapFrom c.before c.s c.iss
    (TrapInfo.at 0x0001 0#64 (laneSetOf (fun l => hasLane c.A l && (c.sp.lane l).rsn == 15#4)))) ∧
  (∀ s c, Issues s .rdexit c → (∃ l ∈ c.lanes, (c.sp.lane l).rsn = 0#4) → exec .rdexit s = takeTrapFrom c.before c.s c.iss
    (TrapInfo.at 0x0016 0#64 (laneSetOf (fun l => hasLane c.A l && (c.sp.lane l).rsn == 0#4))))) ∧
  (∀ g s c, Issues s (.migr g) c →
    let target : Grade := if g = 1#2 then .m else .v
    (g ≠ 0#2 → gradeOf c.deck.pier ≠ target → capableSet c.s c.cx c.launch c.girder target false ≠ none →
      exec (.migr g) s = .next (startMigration (goOn c.s c.iss c.G) c.girder target)) ∧
    ((g = 0#2 ∨ gradeOf c.deck.pier = target ∨ capableSet c.s c.cx c.launch c.girder target false = none) →
      ∃ t, exec (.migr g) s = .next t ∧ Becomes c.s t c.u c.advanced)) ∧
  (∀ s (g : Girder) target d, d ∈ s.decksOf g.uid → ((s.decksOf g.uid).map (·.uid)).Nodup → s.deck? d.uid = some d →
    let t := startMigration s g target
    (d.status ∈ [.running, .clearing, .parking, .retired] → t.deck? d.uid = some { d with status := .migrating target } ∧
      ∀ i ∈ t.issuing, ∀ sp ∈ s.spansOf d.uid, i.span ≠ sp.uid) ∧
    (d.status ∉ [.running, .clearing, .parking, .retired] → t.deck? d.uid = some d))

/-- gpstart asks for the next period and dfree defers blocks with it, marking the first lane with a length that finds no room and all after
it; the engine observes a quiescent span, completes a period that nothing holds and starts a pending one, reports a stall once with the
spans unobserved and the first of them, and moves due entries to the ring (08 R215, R217, 17 R345-R351, R354). -/
def Obligations.GracePeriods : Prop :=
  ((∀ d s c t, Issues s (.gpstart d) c →
    c.write (drain c.s c.u c.A) (pairDst d (fun _ => BitVec.ofNat 64 (c.cx.gp.started + 1))) = .ok t →
    exec (.gpstart d) s = .next (goOn (gpRequest t c.cx.num) c.iss c.G)) ∧
  (∀ k a b s c, Issues s (.dfree k a b) c →
    (∀ l ∈ c.lanes, (c.pair a l).toNat < 2 ^ 57 ∧ deckWindow (c.pair a l).toNat = false ∧ privWindow (c.pair a l).toNat = false) →
    let r := c.defer a b (c.cx.gp.started + 1) c.lanes c.cx.deferred
    exec (.dfree k a b) s = .next (goOn (c.setBits ((gpRequest (drain c.s c.u c.A) c.cx.num).modCtx c.cx.num (fun x =>
      { x with deferred := r.1 })) k.toNat (fun l => r.2.contains l)) c.iss c.G)) ∧
  (∀ (c : Ctx) a b g lanes q, q.length ≤ 1024 →
    let long : List Nat → List Nat := fun ls => ls.filter (fun l => c.src b l != 0#32)
    let room := 1024 - q.length
    (c.defer a b g lanes q).1 = q ++ ((long lanes).take room).map (fun l => (c.pair a l, c.src b l, g)) ∧
    ∃ n ≤ lanes.length, (c.defer a b g lanes q).2 = lanes.drop n ∧ (long (lanes.take n)).length ≤ room ∧
      ∀ h : n < lanes.length, c.src b lanes[n] ≠ 0#32 ∧ (long (lanes.take n)).length = room) ∧
  (∀ s k cx, s.ctx? k = some cx → ∃ cy, (gpRequest s k).ctx? k = some cy ∧
    (cx.gp.started = cx.gp.completed → cy.gp.started = cx.gp.started + 1 ∧ cy.gp.holders = readers s k) ∧
    (cx.gp.started ≠ cx.gp.completed → cy.gp.started = cx.gp.started ∧ cy.gp.pend = true))) ∧
  ((∀ s u sp, s.span? u = some sp → sp.quiet = false →
    (isQuiescent s sp = true → ∃ t x, exec (.gpQuiescenceChange u) s = .next t ∧ t.span? u = some x ∧ x.quiet = true ∧
      ∀ c ∈ t.ctxs, u ∉ c.gp.holders) ∧
    (isQuiescent s sp = false → exec (.gpQuiescenceChange u) s = .next s)) ∧
  (∀ s n c, s.ctx? n = some c → c.gp.completed < c.gp.started → holdersLeft s c.gp = [] → ∃ t cy, exec (.gpComplete n) s = .next t ∧
    t.ctx? n = some cy ∧ cy.gp.completed = c.gp.completed + 1 ∧
    (c.gp.pend = true → cy.gp.started = c.gp.completed + 2 ∧ cy.gp.pend = false ∧ cy.gp.holders = readers s n) ∧
    (c.gp.pend = false → cy.gp.started = c.gp.started)) ∧
  (∀ s n c, s.ctx? n = some c → (c.gp.started ≤ c.gp.completed ∨ holdersLeft s c.gp ≠ []) → exec (.gpComplete n) s = .next s) ∧
  (∀ s n c, s.ctx? n = some c → c.gp.completed < c.gp.started → c.gp.stalled = false → c.d.gpLimit ≠ 0 →
    c.gp.since + 1000 * c.d.gpLimit ≤ s.time → ∃ t cy, exec (.gpStall n) s = .next t ∧ t.ctx? n = some cy ∧ cy.gp.stalled = true ∧
      t = (postEvent s 3 n (natBytes 8 (c.gp.completed + 1) ++ stallBytes s ((holdersLeft s c.gp).filterMap s.span?))).modCtx n
        (fun x => { x with gp := { x.gp with stalled := true } }) ∧
      { t with events := s.events, hostMem := s.hostMem, msix := s.msix, ctxs := s.ctxs, mgmt := s.mgmt } = s) ∧
  (∀ s (left : List Span), left ≠ [] → (∀ x ∈ left, (s.deck? x.deck).isSome = true) → let pier (x : Span) : Nat := (s.deck? x.deck).elim 0 (·.pier)
    ∃ x ∈ left, ∃ d, s.deck? x.deck = some d ∧ (∀ y ∈ left, pier x * 64 + x.rslot ≤ pier y * 64 + y.rslot) ∧ ∃ away : Bool,
      (away = true ↔ d.status = .parked ∨ (∃ x, d.status = .migrating x) ∨ (∃ x, d.status = .saving (some x)) ∨ ∃ x, d.status = .moving x) ∧
      stallBytes s left = natBytes 4 left.length ++ natBytes 2 d.pier ++ natBytes 1 d.slot ++ natBytes 1 x.idx ++ natBytes 1 away.toNat) ∧
  (∀ s n c, s.ctx? n = some c → (c.gp.stalled = true ∨ c.d.gpLimit = 0 ∨ s.time < c.gp.since + 1000 * c.d.gpLimit) →
    exec (.gpStall n) s = .next s) ∧
  (∀ s n c, s.ctx? n = some c → c.relFault = false → exec (.dfreeRelease n) s = .next (moveAllDue s n)) ∧
  (∀ s n, exec (.relringRetry n) s = .next (moveAllDue s.forgetAbsent n)) ∧
  (∀ s n c a len g rest loc, s.ctx? n = some c → c.deferred = (a, len, g) :: rest → g ≤ c.gp.completed → ringFull s c = false →
    translate s c false .write (relAddr s c) = .ok loc 0 → ∀ k, moveDue (k + 1) s n = moveDue k ((writeLocs (writeLocs s loc
      (natBytes 8 a.toNat ++ natBytes 4 len.toNat ++ natBytes 4 g)) (.dev (c.desc + 0x070)) (natBytes 4 ((relWr s c + 1) % 2 ^ 32))).modCtx n
      (fun c => { c with deferred := rest, relFault := false })) n))

/-! ## Traps -/

/-- trap and brk take their traps complete, with the code in ADDR and the group past the word: the span's frame is written and its handler
starts, or the debugger holds it; tret returns once what the handler issued is complete: trap mode ends, masks, v124 to v127 and the
replay queue are those of the frame, and the lanes stand where they stood; outside trap mode it is illegal whatever its executing set (08
R209, R210, 01 R29, 15 R300, R308, 07 R182; the lanes that the illegal tret names are log 6, DEDUCED; bytes of the frame that cannot be
read are free, log 80). -/
def Obligations.TrapInstructions : Prop :=
  ((∀ code s c, Issues s (.trap code) c →
    let i : TrapInfo := { TrapInfo.at 0x000F (code.zeroExtend 64) c.A with complete := true, past := true }
    let b := completeOlder c.s c.u
    exec (.trap code) s = takeTrapFrom c.before c.s c.iss i ∧
    ∀ k, b.pendingOf c.u = false → Delivers b c.iss i k → exec (.trap code) s = .next (delivered b c.iss i k)) ∧
  (∀ code s c, Issues s (.brk code) c →
    let i : TrapInfo := { TrapInfo.at 0x000E (code.zeroExtend 64) c.A with complete := true, past := true }
    let b := completeOlder c.s c.u
    exec (.brk code) s = takeTrapFrom c.before c.s c.iss i ∧
    ∀ k, b.pendingOf c.u = false → Delivers b c.iss i k → exec (.brk code) s = .next (delivered b c.iss i k)) ∧
  (∀ s c m, Issues s .tret c ∨ PassesBy s .tret c → c.sp.trap = some m →
    let t := completeOlder c.s c.u
    let b := completeOlder c.before c.u
    (t.pendingOf c.u = false → frameReadAsks t c.cx m.frame = none → exec .tret s = .next (returnFromTrap t c.u)) ∧
    (t.pendingOf c.u = true → exec .tret s = .next (putBack b c.iss)) ∧
    (∀ page, t.pendingOf c.u = false → frameReadAsks t c.cx m.frame = some page → exec .tret s = .next (askFor (putBack b c.iss) c.iss page))) ∧
  (∀ s c, Issues s .tret c ∨ PassesBy s .tret c → c.sp.trap = none → exec .tret s = takeTrapFrom c.before c.s c.iss (TrapInfo.at 0x0001 0#64 c.G)) ∧
  (∀ b s iss t, ∃ r, takeTrapFrom b s iss t = .next r)) ∧
  ((∀ s u sp (m : TrapMode) cx, s.span? u = some sp → sp.Shaped → sp.trap = some m → spanContext s sp = some cx → m.entry.length = 4 →
    let r := returnFromTrap s u
    let back (n k : Nat) : Nat := frameNat s cx m.frame n k
    let vals (i : Nat) : List Word := (List.range sp.width).map (fun l => BitVec.ofNat 32 (back (0x400 + 256 * i + 4 * l) 4))
    ∃ b x, r = (if m.lanes &&& sp.ended = 0#64 then b else barCheckAll b sp.deck ((s.deck? sp.deck).elim 0 (·.girder))) ∧
      b.span? u = some x ∧ x.trap = none ∧
      (∀ k < 12, x.mask k = BitVec.ofNat 64 (back (0x100 + 8 * k) 8) &&& x.maskable) ∧
      (∀ i e, m.entry[i]? = some e → (e.isVector = true ∨ (checker (vals i)).isSome = true) → ∀ l < sp.width,
        x.reg (124 + i) l = BitVec.ofNat 32 (back (0x400 + 256 * i + 4 * l) 4)) ∧
      (∀ n < 124, x.vreg n = sp.vreg n) ∧ x.tags = sp.tags ∧ x.grant = sp.grant ∧ x.heldSlots = 0 ∧
      (∀ l < sp.width, hasLane m.lanes l = false → (sp.lane l).held = none → (∀ k, (sp.lane l).pos.st ≠ .waiting (.setOpen k)) →
        x.lane l = sp.lane l) ∧
      (∀ l < sp.width, hasLane m.lanes l = true → ∀ q, (sp.lane l).held = some q → (∀ k, q.st ≠ .waiting (.setOpen k)) →
        x.lane l = { sp.lane l with pos := q, held := none }) ∧
      x.reinj = readQueue s cx m.frame m.queue ∧ x.replay = sp.replay ∧
      (∀ w ∈ b.works, w.span = u → w.suspended = false) ∧ (∀ v, v ≠ u → b.span? v = s.span? v) ∧ (∀ l, readLoc b l = readLoc s l)) ∧
  (∀ s cx frame queue i (e : Issue), queue[i]? = some e →
    let at_ := 0x800 + 0x640 * i
    (readQueue s cx frame queue)[i]? = some { e with
      valid := e.valid && decide (frameNat s cx frame (at_ + 0x28) 4 % 2 = 1),
      aset := e.aset &&& BitVec.ofNat 64 (frameNat s cx frame (at_ + 0x18) 8),
      cols := e.cols.map (fun cs => cs.zipIdx.map (fun c => (c.1.1, (List.range c.1.2.length).map (fun l =>
        BitVec.ofNat 32 (frameNat s cx frame (at_ + 0x40 + 256 * c.2 + 4 * l) 4))))) }))

/-- Entering the handler: trap mode holds the cause, the address, the lanes and v124 to v127; the lanes stand at HANDLER with P set and keep
their own positions; v124 and v125 hold the frame's address, v126 the cause, v127 the lane number (15 R304-R306). -/
def Obligations.TrapEntryStartsTheHandler : Prop :=
  ∀ s c t pc lanes q w, s.span? c.u = some c.sp → c.sp.Shaped → (∀ l, hasLane lanes l = true → l < c.sp.width) →
    let frame := c.cx.d.frameBase + 16384 * (64 * c.deck.pier + c.sp.rslot)
    writeFrame s c.cx frame (framePieces c.sp (recordBytes s c.sp c.deck c.girder t pc q.length false) q.length lanes q) = some w →
    let r := enterTrap s c t pc lanes q false
    { r with spans := w.spans } = w ∧ (∀ v, v ≠ c.u → r.span? v = s.span? v) ∧ ∃ x m, r.span? c.u = some x ∧ x.trap = some m ∧
      m.cause = t.cause ∧ m.faddr = t.addr ∧ m.lanes = lanes ∧ m.frame = frame ∧ m.queue = q ∧
      m.entry = [c.sp.vreg 124, c.sp.vreg 125, c.sp.vreg 126, c.sp.vreg 127] ∧ m.outer = c.sp.steps ∧ x.replay = [] ∧
      x.poison = c.sp.poison.filter (fun q => decide (q.1 < 124)) ∧
      (∀ l < c.sp.width, hasLane lanes l = true → (x.lane l).held = some (c.sp.lane l).pos ∧
        (x.lane l).pos = { pc := c.cx.d.handler, clause := none, p := true, st := .standing }) ∧
      (∀ l < c.sp.width, hasLane lanes l = false → x.lane l = c.sp.lane l) ∧
      (∀ l < c.sp.width, x.reg 124 l = BitVec.ofNat 32 frame ∧ x.reg 125 l = BitVec.ofNat 32 (frame / 2 ^ 32) ∧
        x.reg 126 l = BitVec.ofNat 32 t.cause ∧ x.reg 127 l = BitVec.ofNat 32 l) ∧
      (∀ r < 124, x.vreg r = c.sp.vreg r) ∧ x.masks = c.sp.masks ∧ x.tags = c.sp.tags ∧ x.grant = c.sp.grant

/-! ## The device's own rows -/

/-- Outstanding loads, scale reads, atomics, reductions and stores are performed when no older access of the span to the same bytes is left, a
per-lane copy being read before later accesses of its bytes; write-combining lanes stay buffered until their line is flushed; a row whose
work is not there changes nothing (07 R144, R147, R152-R156, R175, R176, 10 R246, R255-R257; that an eviction forgets a line's last writer
is log 25, and that it changes no byte is log 4, both DESIGN CHOICE). -/
def Obligations.OutstandingWorkIsPerformed : Prop :=
  (∀ s w, s.work? w.id = some w → workReady s w = true →
    (w.isLoad = true → exec (.loadReturn w.id) s = .next (performReady s w)) ∧
    (w.isAtomic = true → exec (.atomicPerform w.id) s = .next (performReady s w)) ∧
    (w.isRed = true → exec (.reductionPerform w.id) s = .next (performReady s w)) ∧
    (w.isStore = true → (∀ a ∈ w.accs, a.mtype ≠ 1) → exec (.storePerformed w.id) s = .next (performReady s w)) ∧
    (w.isCpl = true → exec (.cplLaneComplete w.id) s =
      .next (settleSpan (passHeaders (performReady s w) w.span (BitVec.allOnes 64)) w.span)) ∧
    (olderNeeds s w = [] → performReady s w = performWork s w)) ∧
  (∀ s w, s.work? w.id = some w → w.isStore = true → (∃ a ∈ w.accs, a.mtype = 1) →
    let now := w.part (fun a => a.mtype != 1)
    let b := performNeeds s (olderNeeds s now)
    workReady s now = true → ∃ t, exec (.storePerformed w.id) s = .next t ∧
      ∃ x, t.work? w.id = some x ∧ x.accs = w.accs.filter (fun a => a.mtype == 1) ∧
        ∀ l, readLoc t l = readLoc (now.accs.foldl (fun s a => writeLocs s a.loc a.data) b) l) ∧
  (∀ s w, s.work? w.id = some w → w.isReply = true → exec (.atomicReply w.id) s = .next (performWork s w)) ∧
  (∀ s w, s.work? w.id = some w → workReady s w = false →
    exec (.loadReturn w.id) s = .next s ∧ exec (.atomicPerform w.id) s = .next s ∧ exec (.reductionPerform w.id) s = .next s ∧
    exec (.cplLaneComplete w.id) s = .next s ∧ ((∀ a ∈ w.accs, a.mtype ≠ 1) → exec (.storePerformed w.id) s = .next s)) ∧
  (∀ s v w, v ∈ s.works → v.span = w.span → v.id < w.id → v.isReply = false → v.isCpl = false →
    (∃ a ∈ v.accs, ∃ b ∈ w.accs, a.meets b = true) → workReady s w = false) ∧
  (∀ s v w, v ∈ s.works → v.span = w.span → v.id < w.id → v.isAccess = true → v.isReply = false → w.isCpl = true → w.accs ≠ [] →
    v.lanes &&& w.lanes ≠ 0#64 → workReady s w = false) ∧
  (∀ s w tag dst v, s.work? w.id = some w → w.kind = .cpl tag dst v none → ∃ x, (readCpl s w).work? w.id = some x ∧ x.accs = [] ∧
    x.kind = .cpl tag dst v (some (w.accs.flatMap (fun a => readLocs s a.loc a.size), w.accs.any (fun a => poisoned s a.loc a.size))) ∧
    { readCpl s w with works := s.works } = s) ∧
  (∀ s id, s.work? id = none → exec (.loadReturn id) s = .next s ∧ exec (.atomicPerform id) s = .next s ∧ exec (.atomicReply id) s = .next s ∧
    exec (.reductionPerform id) s = .next s ∧ exec (.storePerformed id) s = .next s ∧ exec (.cplLaneComplete id) s = .next s ∧
    exec (.copyPieceLanding id) s = .next s ∧ exec (.copyCompletion id) s = .next s ∧ exec (.engineCopyFault id) s = .next s ∧
    exec (.fillRowLanding id) s = .next s ∧ exec (.broadcastRowLanding id) s = .next s) ∧
  (∀ s pier line, ∃ t, exec (.wcFlush pier line) s = .next t) ∧
  (∀ s pier line w, (s.works.map (·.id)).Nodup → w ∈ s.works → w.isStore = true →
    (s.deck? (workDeck s w)).elim false (fun d => d.pier == pier) = true →
    let at_ (a : Acc) : Bool := a.mtype == 1 && lineOf a.loc == some line
    w.accs.any at_ = true → (∀ v ∈ s.works, v.id ≠ w.id → v.isStore = true → v.accs.any at_ = false) → workReady s (w.part at_) = true →
    let b := performNeeds s (olderNeeds s (w.part at_))
    ∃ t, exec (.wcFlush pier line) s = .next t ∧ (∀ x ∈ t.works, x.id = w.id → x.accs = w.accs.filter (fun a => !at_ a)) ∧
      ∀ l, readLoc t l = readLoc ((w.accs.filter at_).foldl (fun s a => writeLocs s a.loc a.data) b) l) ∧
  (∀ s line, ∃ t, exec (.l2EvictionPromote line) s = .next t ∧ (∀ x, x ∈ t.owners ↔ x ∈ s.owners ∧ x.1 ≠ line) ∧
    (∀ x, x ∈ t.writers ↔ x ∈ s.writers ∧ x.1 ≠ line) ∧ { t with owners := s.owners, writers := s.writers } = s)

/-- A piece of an engine copy lands by its operation: tcopy, tsparse, tgather, tscatter, tfill and tcoll each write their element, or its
reduction, and no other byte; rows of fills stand in the weight store or in the row buffer of every member named; a copy whose pieces have
all landed writes its token and completes its number, the members of a girder's collective together, where a deck that is away keeps the
token for a live lane; a fault suspends it and waits on the span (07 R181-R188, 08 R195-R197, 09 R237, 20 R371; the places of elements,
the parts of an all-gather and a reduce-scatter, the bytes of peers and the address of a cut collective are log 13, mixed widths log 18,
and the order of elements that overlap, which copies of a girder go first and what OP store reduces to log 93, all DESIGN CHOICE; a token
kept or discarded and what an aborted span leaves are logs 81 and 29, DEDUCED). -/
def Obligations.EnginePiecesLand : Prop :=
  ((∀ s w (c : CopyOp) g d gd memo, Piece s w c g d gd memo →
    let x := c.desc
    let j := c.next
    let n := descBytes x
    let off (stride : Nat → Int) : Int := ((List.range (descNdim x)).map (fun k =>
      ((j / ((List.range k).map (descExt x)).prod % descExt x k : Nat) : Int) * stride k)).sum
    let row := j / descExt x 0
    let col := j % descExt x 0
    let dense (r : Nat) : Nat := addr64 (descSrc x) ((r : Int) * descSS x 0 + (col * n : Nat))
    let out (r : Nat) : Nat := addr64 (descDst x) ((r : Int) * descDS x 0 + (col * n : Nat))
    (c.op = 0 → ∀ bs, engineRead s g (addr64 (descSrc x) (off (descSS x))) n = .ok bs →
      Lands s w c g memo (addr64 (descDst x) (off (descDS x))) bs) ∧
    (c.op = 1 → descWs x = false → descExt x 0 % 4 = 0 → ∀ v, memo = [(j / 4, v)] →
      let src (k : Nat) : Nat := addr64 (descSrc x) ((row : Int) * descSS x 1 + ((2 * (col / 4) + k) * n : Nat))
      let dst := addr64 (descDst x) ((row : Int) * descDS x 1 + (col * n : Nat))
      (v / 4 = col % 4 → ∀ bs, engineRead s g (src 1) n = .ok bs → Lands s w c g memo dst bs) ∧
      (v / 4 ≠ col % 4 → v % 4 = col % 4 → ∀ bs, engineRead s g (src 0) n = .ok bs → Lands s w c g memo dst bs) ∧
      (v / 4 ≠ col % 4 → v % 4 ≠ col % 4 → Lands s w c g memo dst (List.replicate n 0#8))) ∧
    (c.op = 1 → descWs x = true → ∀ els : List (List Byte), els.length = 64 →
      (∀ e (h : e < 64), sparseElem s g { c with memo := memo } j e = .ok (els.getD e [])) →
      exec (.copyPieceLanding w.id) s = .next (pieceDone (modUnit s c.deck (fun m => landKRow m (BitVec.ofNat 32 (descAux x))
        (s.pier d.pier).unit.planes j (planeWord els))) w c memo 64)) ∧
    (c.op = 2 → ∀ v, memo = [(row, v)] → ∀ bs, engineRead s g (dense v) n = .ok bs → Lands s w c g memo (out row) bs) ∧
    (c.op = 3 → descOp x = 0 → ∀ v, memo = [(row, v)] → ∀ bs, engineRead s g (dense row) n = .ok bs → Lands s w c g memo (out v) bs) ∧
    (c.op = 3 → descOp x ≠ 0 → ∀ ix : Nat → Nat, memo = (List.range (descAux x)).map (fun r => (r, ix r)) → row < descAux x →
      let same := (List.range (descAux x)).filter (fun r => ix r == ix row)
      (same.getLast? ≠ some row → exec (.copyPieceLanding w.id) s = .next (pieceDone s w c memo 0)) ∧
      (same.getLast? = some row → ∀ (els : List (List Byte)) ls, els.length = same.length →
        (∀ i (h : i < same.length), engineRead s g (dense same[i]) n = .ok (els.getD i [])) → privWindow (out (ix row)) = false →
        (combineAll (descOp x) (descEsz x) els).length = n → engineLocsTop 0 s g .write (out (ix row)) n = .ok ls → Canon s →
        let old := (locsOf ls).map (readLoc s)
        let new := combineBytes (descOp x) (descEsz x) old (combineAll (descOp x) (descEsz x) els)
        ∃ t, exec (.copyPieceLanding w.id) s = .next (pieceDone t w c memo (same.length * n)) ∧ Holds s t (locsOf ls) new)) ∧
    (c.op = 4 → Lands s w c g memo (addr64 (descDst x) (off (descDS x)))
      ((List.range n).map (fun i => BitVec.ofNat 8 (descAux x / 256 ^ (i % 4))))) ∧
    (c.op = 5 →
      let r := ranksOf s c gd.size d.member
      let el (q e : Nat) : Except Stuck (List Byte) := collElem s { c with memo := memo } g gd.uid r.2 q e
      let dst := addr64 (descDst x) (off (descDS x))
      (descAux x % 16 = 0 → ∀ bs, el 0 j = .ok bs → Lands s w c g memo dst bs) ∧
      (descAux x % 16 = 1 → ∀ q e, gatherFrom r.1 c.total j = some (q, e) → ∀ bs, el q e = .ok bs → Lands s w c g memo dst bs) ∧
      (descAux x % 16 = 2 → (scatterFrom r.1 c.total r.2 j = none → exec (.copyPieceLanding w.id) s = .next (pieceDone s w c memo 0)) ∧
        ∀ e els, scatterFrom r.1 c.total r.2 j = some e → els.length = r.1 → (∀ q < r.1, el q e = .ok (els.getD q [])) →
          Lands s w c g memo dst (combineAll (descOp x) (descEsz x) els)) ∧
      (descAux x % 16 = 3 → ∀ els, els.length = r.1 → (∀ q < r.1, el q j = .ok (els.getD q [])) →
        Lands s w c g memo dst (combineAll (descOp x) (descEsz x) els)))) ∧
  (∀ ranks n, 0 < ranks → let len (r : Nat) : Nat := partStart ranks n (partOf ranks n r + 1) - partStart ranks n (partOf ranks n r)
    (∀ p, partStart ranks n p = p * n / ranks) ∧ ((List.range ranks).map (partOf ranks n)).Perm (List.range ranks) ∧
    (∀ r, partBase ranks n r + len r ≤ n) ∧
    (∀ r < ranks, ∀ i < len r, gatherFrom ranks n (partStart ranks n (partOf ranks n r) + i) = some (r, partBase ranks n r + i) ∧
      scatterFrom ranks n r (partBase ranks n r + i) = some (partStart ranks n (partOf ranks n r) + i)) ∧
    (∀ j < n, ∃ r < ranks, ∃ i < len r, j = partStart ranks n (partOf ranks n r) + i) ∧
    (∀ r < ranks, ∀ j, (∀ i < len r, j ≠ partBase ranks n r + i) → scatterFrom ranks n r j = none)) ∧
  (∀ s (c : CopyOp) g girder rank r e,
    let off (d : BitVec 1024) : Int := ((List.range (descNdim d)).map (fun k =>
      ((e / ((List.range k).map (descExt d)).prod % descExt d k : Nat) : Int) * descSS d k)).sum
    let source (g : Agent) (d : BitVec 1024) : Except Stuck (List Byte) := engineRead s g (addr64 (descSrc d) (off d)) (descBytes d)
    (bitsOf (descAux c.desc) 4 4 = 0 → ∀ x m h, collMate s girder r true = some (x, m) → agentOf s m.ctx m.launch m.deck m.wins = some h →
      collElem s c g girder rank r e = source h m.desc) ∧
    (bitsOf (descAux c.desc) 4 4 ≠ 0 → collElem s c g girder rank r e = if r = rank then source g c.desc
      else .ok ((List.range (descBytes c.desc)).map (fun i => Config.peerByte c.seed r (descBytes c.desc * e + i))))) ∧
  (∀ s g (c : CopyOp) k, c.memo.find? (fun x => x.1 == k) = none →
    (c.op ≠ 1 → ∀ bs, engineRead s g (addr64 (descAux2 c.desc) (4 * k)) 4 = .ok bs → readKeys s g c [k] = .ok [(k, bytesNat bs)]) ∧
    (c.op = 1 → let grp := k % (descExt c.desc 0 / 4)
      ∀ b, engineRead s g (addr64 (descAux2 c.desc) ((k / (descExt c.desc 0 / 4) * ((descExt c.desc 0 + 7) / 8) + grp / 2 : Nat))) 1 = .ok [b] →
        readKeys s g c [k] = .ok [(k, if grp % 2 = 0 then b.toNat % 16 else b.toNat / 16)])) ∧
  (∀ s g (c : CopyOp) k v, c.memo.find? (fun x => x.1 == k) = some (k, v) → readKeys s g c [k] = .ok [(k, v)]) ∧
  (∀ s g va n ls, engineLocs s g .read va n = .ok ls → engineRead s g va n = .ok ((locsOf ls).map (readLoc s))) ∧
  (∀ s g va bs ls, engineLocs s g .write va bs.length = .ok ls → Canon s →
    ∃ t, engineWrite s g va bs = .ok t ∧ Holds s t (locsOf ls) bs ∧ t.works = s.works ∧ t.spans = s.spans) ∧
  (∀ s w c memo k l, readLoc (pieceDone s w c memo k) l = readLoc s l) ∧
  (∀ op esz (a b : List Byte), let word (l : List Byte) : DWord := BitVec.ofNat 64 (bytesNat l)
    combineBytes 0 esz a b = b ∧
    (op ≠ 0 → esz < 4 → combineBytes op esz a b = natBytes (2 ^ esz) (copyCombine op esz (word a) (word b)).toNat) ∧
    (op ≠ 0 → 4 ≤ esz → combineBytes op esz a b = natBytes 8 (Config.mixedWidth op esz (word (a.take 8)) (word (b.take 8))).toNat ++
      natBytes 8 (Config.mixedWidth (op + 8) esz (word (a.drop 8)) (word (b.drop 8))).toNat)) ∧
  (∀ op esz (a : List Byte) els, combineAll op esz (a :: els) = els.foldl (combineBytes op esz) a) ∧
  (∀ (els : List (List Byte)) k e, els.length = 64 → (∀ b ∈ els, b.length = 1) → k < 8 → e < 64 →
    (bytesNat (planeWord els k)).testBit e = (bytesNat (els.getD e [])).testBit (7 - k))) ∧
  ((∀ s w (f : FillOp) g (words : List (List Byte)), s.work? w.id = some w → w.kind = .load8 f → f.suspended = false → fillHeld s w = false →
    agentOf s f.ctx f.launch f.deck f.wins = some g → words.length = min (wordP f.word) f.planes →
    (∀ k (h : k < words.length), engineRead s g (addr64 f.va ((8 * wordP f.word * f.next + 8 * k : Nat))) 8 = .ok words[k]) →
    let t := modUnit s f.deck (fun m => landKRow m f.word f.planes f.next (fun k => words.getD k []))
    exec (.fillRowLanding w.id) s = .next (if f.next + 1 < f.total
      then t.modWork w.id (fun x => { x with kind := .load8 { f with next := f.next + 1 } }) else settleAll (t.dropWork w.id))) ∧
  (∀ s w (f : FillOp) d g (words : List (List Byte)), s.work? w.id = some w → w.kind = .rows f → s.deck? f.deck = some d → busTurn s (trussOf d.pier) = some d.pier →
    oldestRow s d.pier = some w.id → agentOf s f.ctx f.launch f.deck f.wins = some g → words.length = f.kblocks * rowPa f.word →
    (∀ k (h : k < words.length), engineRead s g (addr64 f.va ((f.next * f.kblocks * 8 * rowPa f.word + 8 * k : Nat))) 8 = .ok words[k]) →
    let b := { s with bus := s.bus.set (trussOf d.pier) (d.pier % 8 + 1) }
    let t := ((s.decksOf d.girder).filter (fun e => e.uid == f.deck || (rowMemb f.word).getLsbD e.member)).foldl (fun s e =>
      modUnit s e.uid (fun m => landARow m (rowFirst f.word + f.next) (rowPa f.word) f.kblocks (fun kb k => words.getD (kb * rowPa f.word + k) []))) b
    exec (.broadcastRowLanding w.id) s = .next (if f.next + 1 < f.total
      then t.modWork w.id (fun x => { x with kind := .rows { f with next := f.next + 1 } }) else settleAll (t.dropWork w.id))) ∧
  (∀ s w f, s.work? w.id = some w → w.kind = .load8 f → (f.suspended = true ∨ fillHeld s w = true) → exec (.fillRowLanding w.id) s = .next s) ∧
  (∀ s w f d, s.work? w.id = some w → w.kind = .rows f → s.deck? f.deck = some d →
    (f.suspended = true ∨ fillHeld s w = true ∨ (rowReady s w = true ∧ (busTurn s (trussOf d.pier) ≠ some d.pier ∨ oldestRow s d.pier ≠ some w.id))) →
    exec (.broadcastRowLanding w.id) s = .next s) ∧
  (∀ s w f d g n page, s.work? w.id = some w → w.kind = .rows f → s.deck? f.deck = some d → f.suspended = false → fillHeld s w = false →
    agentOf s f.ctx f.launch f.deck f.wins = some g → n < f.kblocks * rowPa f.word →
    let read (k : Nat) := engineRead s g (addr64 f.va ((f.next * f.kblocks * 8 * rowPa f.word + 8 * k : Nat))) 8
    (∀ k < n, ∃ bs, read k = .ok bs) → read n = .error (.ask page) → exec (.broadcastRowLanding w.id) s = .next (askPage s page)) ∧
  (∀ (m : Matrix) (w : Word) planes r (plane : Nat → List Byte), m.weights.wf = true →
    (∀ k, (plane k).length = 8) → ∀ k < planes, ∀ i < 8,
    (landKRow m w planes r plane).weights.read (weightOff (wordBank w) (wordMacro w) (wordKrow w + r) (wordSub w * planes + k) + i) =
      if k < wordP w then (plane k).getD i 0#8 else 0#8) ∧
  (∀ (m : Matrix) (w : Word) planes r (plane : Nat → List Byte), m.weights.wf = true → (∀ k, (plane k).length = 8) →
    let t := landKRow m w planes r plane
    (∀ o, (∀ k < planes, ∀ i < 8, o ≠ weightOff (wordBank w) (wordMacro w) (wordKrow w + r) (wordSub w * planes + k) + i) →
      t.weights.read o = m.weights.read o) ∧ t.rows = m.rows ∧ t.pa = m.pa ∧ t.arr = m.arr ∧ t.planes = m.planes ∧
    t.valid = m.valid.modify (16 * wordBank w + wordMacro w) (fun v => v ||| BitVec.ofNat 64 (2 ^ (wordKrow w + r)))) ∧
  (∀ (m : Matrix) row pa kblocks (plane : Nat → Nat → List Byte), m.rows.wf = true → pa ≤ 8 → kblocks ≤ 16 → (∀ kb k, (plane kb k).length = 8) →
    let t := landARow m row pa kblocks plane
    (∀ kb < 16, ∀ k < 8, ∀ i < 8, t.rows.read (rowOff row kb k + i) = if kb < kblocks ∧ k < pa then (plane kb k).getD i 0#8 else 0#8) ∧
    (∀ o, (o < 1024 * row ∨ 1024 * row + 1024 ≤ o) → t.rows.read o = m.rows.read o) ∧
    t.pa = m.pa.set row pa ∧ t.weights = m.weights ∧ t.valid = m.valid ∧ t.arr = m.arr ∧ t.planes = m.planes)) ∧
  ((∀ s w c, s.work? w.id = some w → w.kind = .copy c → (c.suspended = true ∨ c.cut = true ∨ c.joined = false ∨ c.bad = true ∨ c.dead = true ∨ c.total ≤ c.next) →
    exec (.copyPieceLanding w.id) s = .next s) ∧
  (∀ s w c, s.work? w.id = some w → w.kind = .copy c → c.suspended = false → c.cut = false → c.bad = false → c.dead = false → c.joined = true →
    c.total ≤ c.next →
    (¬ (c.op = 5 ∧ bitsOf (descAux c.desc) 4 4 = 0) → exec (.copyCompletion w.id) s = .next (if tokenHeld s w c = true then s else finishCopy s w c)) ∧
    (∀ d g, c.op = 5 → bitsOf (descAux c.desc) 4 4 = 0 → s.deck? c.deck = some d → s.girder? d.girder = some g →
      let mates := (List.range g.size).filterMap (fun m => collMate s g.uid m true)
      let ended (x : Work × CopyOp) : Prop := x.2.dead = true ∨
        (x.2.total ≤ x.2.next ∧ x.2.suspended = false ∧ x.2.cut = false ∧ tokenHeld s x.1 x.2 = false)
      ((∀ x ∈ mates, ended x) → exec (.copyCompletion w.id) s =
        .next (joinColl (mates.foldl (fun s x => finishCopy s x.1 x.2) s) g.uid g.size)) ∧
      ((∃ x ∈ mates, ¬ ended x) → exec (.copyCompletion w.id) s = .next s))) ∧
  (∀ s (w : Work) (c : CopyOp), (c.dead = true → finishCopy s w c = s.dropWork w.id) ∧
    (c.dead = false → imageShut s c.deck = false →
      finishCopy s w c = completeNumber ((landRegs s w (fun _ _ => BitVec.ofNat 32 c.num)).dropWork w.id) c.ctx c.tl c.num) ∧
    (c.dead = false → imageShut s c.deck = true → ∀ sp, s.span? w.span = some sp → finishCopy s w c = completeNumber
      (if sp.live = 0#64 then s.dropWork w.id else s.modWork w.id (fun x => { x with kind := .token c.num })) c.ctx c.tl c.num)) ∧
  (∀ s w sp k a m page pc acc, s.work? w.id = some w → s.span? w.span = some sp → sp.pending = none →
    nextFault s w = some (k, a, m, page, pc, acc) → exec (.engineCopyFault w.id) s = .next (raisePending (suspend s w.id) w.span pc acc k a m page)) ∧
  (∀ s w c, w.kind = .copy c → c.suspended = false → c.dead = false →
    (c.cut = true → nextFault s w = some (0x0006, c.elementAddr, 0, c.elementAddr / 4096 * 4096, c.pc, 5)) ∧
    (c.cut = false → c.joined = true → c.bad = true → nextFault s w = some (0x0001, 0, 0, 0, c.pc, 5)) ∧
    (c.open_ = true → ∀ k a m p, tryPiece s w c = .error (.fault k a m p) → nextFault s w = some (k, a, m, p, c.pc, 5))) ∧
  (∀ s g el va n l, n ≠ 0 → engineLoc s g .read el va n = .ok l → poisoned s l n = false))

/-- Barrier waves, membership sets, ring turns and grows in line are served, and a lane in a set that is open goes on (05 R99, R102, 07 R167,
R172, 01 R27, 21 R381), a grow past the ceiling traps (01 R27; what ADDR then holds is log 86, DESIGN CHOICE); nothing is served into the
image of a deck that is being saved or is away (14 R292); a yield's hold on its group ends after its steps (05 R113; that they are steps
of the model is log 1, DESIGN CHOICE). -/
def Obligations.WaitingLanesAreServed : Prop :=
  (∀ s d n, s.deck? d.uid = some d → n < 16 → exec (.barrierPhaseComplete d.uid n) s = .next (barCheck s d.uid d.girder n)) ∧
  (∀ s g d ds n, s.decksOf g = d :: ds → 16 ≤ n → n < 20 → exec (.barrierPhaseComplete g n) s = .next (barCheck s d.uid g n)) ∧
  (∀ s truss w rest, s.waves.getD truss [] = w :: rest → exec (.barrierReleaseWave truss) s = .next (w.spans.foldl (fun s x =>
    s.modSpan x.1 (Span.leaveIf (fun _ v => match v with
      | .barWave n _ => n == x.2
      | _ => false))) { s with waves := s.waves.set truss rest })) ∧
  (∀ s u k sp, s.span? u = some sp → k < 12 → ∃ t x, exec (.waitmOpen u k) s = .next t ∧ Becomes s t u x ∧
    { x with lanes := sp.lanes } = sp ∧ x.lanes.length = sp.lanes.length ∧
    (∀ l < sp.lanes.length, ∀ j, (sp.lane l).pos.st = .waiting (.setOpen j) →
      ((∀ i ∈ lanesOf (sp.mask j), inSet sp (sp.lane l).pos.pc j i = true) → (x.lane l).pos = (sp.lane l).pos.step 1) ∧
      ((∃ i ∈ lanesOf (sp.mask j), inSet sp (sp.lane l).pos.pc j i = false) → (x.lane l).pos = (sp.lane l).pos)) ∧
    (∀ l < sp.lanes.length, (∀ j, (sp.lane l).pos.st ≠ .waiting (.setOpen j)) → (x.lane l).pos = (sp.lane l).pos)) ∧
  (∀ s deck ring w slot off, ringReady s deck ring = some (w, slot, off) →
    exec (.stageSlotTurn deck ring) s = .next (ringLand s w ring slot off)) ∧
  (∀ s deck ring, imageShut s deck = true → exec (.stageSlotTurn deck ring) s = .next s) ∧
  (∀ s pier, (s.pier pier).growQ = [] → exec (.growServed pier) s = .next s) ∧
  (∀ s pier u req rest sp e n, (s.pier pier).growQ = (u, req) :: rest → s.span? u = some sp → growWait sp req = some (e, n) →
    (n ≤ (s.pier pier).pool → sp.grant + n ≤ sp.ceil →
      exec (.growServed pier) s = .next ((grantSlots (s.modPier pier (fun p => { p with growQ := rest })) u pier n).modSpan u
        (Span.leaveIf (fun _ v => v == .grow n req)))) ∧
    (n ≤ (s.pier pier).pool → sp.ceil < sp.grant + n → exec (.growServed pier) s =
      takeTrap ((s.modPier pier (fun p => { p with growQ := rest })).modSpan u (fun x => x.modLanes (0#64 ||| e.gset) (fun _ l =>
        { l with pos := { l.pos with st := .standing } }))) e (TrapInfo.at 0x000A (BitVec.ofNat 64 n) e.aset)) ∧
    ((s.pier pier).pool < n → exec (.growServed pier) s = .next s)) ∧
  (∀ s span lane sp, s.span? span = some sp → ∃ t x, exec (.yieldExpiry span lane) s = .next t ∧ Becomes s t span x ∧
    (∀ l < sp.lanes.length, (x.lane l).yieldTill =
      if (sp.lane l).yieldTill = (sp.lane lane).yieldTill then none else (sp.lane l).yieldTill) ∧
    (∀ l < sp.lanes.length, { x.lane l with yieldTill := (sp.lane l).yieldTill } = sp.lane l))

/-- The matrix unit's rows and the wake of an entry wait: a waiting deck takes a free unit, the first in the order of placement (log 93,
DESIGN CHOICE), its clear ends, a running keystone's slices start and land, poisoned where a summand was (log 91, DEDUCED), and a lane
whose watched word differs leaves (08 R192, R201, R212, 21 R382). -/
def Obligations.UnitRowsAndEntryWakes : Prop :=
  (∀ s pier u, (s.pier pier).owner = some u → exec (.matrixOwnershipChange pier) s = .next s) ∧
  (∀ s pier, (s.pier pier).mtx = none → exec (.matrixOwnershipChange pier) s = .next s) ∧
  (∀ s pier d, pier < s.piers.length → (s.pier pier).owner = none → (s.pier pier).mtx ≠ none → (s.decks.filter (fun d => d.pier == pier && d.status == .running)).find? (fun d =>
      (s.spansOf d.uid).any (fun x => (x.lanes).any (Lane.waits (fun _ v => v == .matrix 0 0)))) = some d →
    ∃ t, exec (.matrixOwnershipChange pier) s = .next t ∧ (t.pier pier).owner = some d.uid ∧ (t.pier pier).clearing = true ∧
      (t.pier pier).mtx = some .clear ∧ ∀ p, p ≠ pier → t.pier p = s.pier p) ∧
  (∀ s pier, pier < s.piers.length → ∃ t, exec (.matrixClearDone pier) s = .next t ∧ t.pier pier = { s.pier pier with clearing := false } ∧
    ∀ p, p ≠ pier → t.pier p = s.pier p) ∧
  (∀ s g n k a, s.girder? g.uid = some g → g.keys[n]? = some k → k.st = 2 →
    k.armed.find? (fun a => !a.started && !fillOutstanding s a.deck a.before) = some a →
    let u := (s.pier ((s.deck? a.deck).elim 0 (·.pier))).unit
    let done := { a with started := true, poisoned := slicePoisoned u a, results := sliceResults s u a k.signers,
                         dirty := sliceDirty s a (sliceResults s u a k.signers) }
    exec (.sliceStart g.uid n) s = .next (setKey s g.uid n { k with armed := replaceWhere (fun x => x.deck == a.deck) done k.armed })) ∧
  (∀ s g l n, s.girder? g.uid = some g → s.launch? g.launch = some l → exec (.sliceLanding g.uid n) s = .next (landSlice s g l.ctx n)) ∧
  (∀ s span lane sp cx va expected c loc mt, s.span? span = some sp → (sp.lane lane).pos.st = .waiting (.entw va expected) →
    spanCtx s sp = some c → s.ctx? c = some cx → translate s cx true .read va = .ok loc mt →
    exec (.entwWake span lane) s = .next (if valueAt s loc 8 = expected then s else
      s.modSpan span (Span.leaveIf (fun pc v => pc == (sp.lane lane).pos.pc && v == .entw va expected))))

/-- An issue slot picks ready groups of its own spans only, and picks where one is ready, behind what has been picked already; of a span with
picked instructions still to be checked only another group, or the next word of a group in flight, is ready, with its sources captured and
nothing that it names on the scoreboard of those in flight (01 R33, 15 R300; log 67, DEDUCED); the groups that a yield keeps back are
picked only where no other is ready, and then every yield of the slot is over (05 R113); a group at a header goes through the five steps
of 03 R58, the handler's lanes and those it stopped alike, or takes ILLEGAL_HEADER or WRONG_ROLE (03 R57-R60, 09 R223-R230; which lanes
group, the lanes that these traps name and the scope that a header's fence leaves to later stores are logs 69, DESIGN CHOICE, 6 and 37,
DEDUCED). -/
def Obligations.PicksAndHeaders : Prop :=
  (∀ s pier q, q < 4 → pier < 288 →
    let flies (s : State) (x : Span) : Prop := ∃ i ∈ s.issuing, i.span = x.uid
    let b := (slotSpans s pier q).foldl (fun s x => if spanActs s x && flying s x == [] then s.modSpan x.uid (fun y => dropHeads y.reinj y) else s) s
    let ready (x : Span) (e : Issue) : Prop := (¬ flies b x ∧ e ∈ readyIssues b x) ∨ (flies b x ∧ e ∈ aheadIssues b x)
    let kept (x : Span) (e : Issue) : Prop := ∃ l, hasLane e.gset l = true ∧ ∃ t, (x.lane l).yieldTill = some t ∧ b.steps < t
    ∃ t new, exec (.issuePick pier q) s = .next t ∧ t.issuing = s.issuing ++ new ∧ t.mem = s.mem ∧ t.works = s.works ∧
      (∀ e ∈ new, ∃ x ∈ slotSpans b pier q, ready x e) ∧
      ((∃ x ∈ slotSpans b pier q, ∃ e, ready x e) → new ≠ []) ∧
      ((∃ x ∈ slotSpans b pier q, ∃ e, ready x e ∧ ¬ kept x e) → ∀ e ∈ new, ∃ x ∈ slotSpans b pier q, ready x e ∧ ¬ kept x e) ∧
      ((∀ x ∈ slotSpans b pier q, ∀ e, ready x e → kept x e) → ∀ x ∈ slotSpans b pier q, ∀ y, t.span? x.uid = some y →
        ∀ l ∈ y.lanes, l.yieldTill = none)) ∧
  (∀ s pier q, (288 ≤ pier ∨ 4 ≤ q) → exec (.issuePick pier q) s = .next s) ∧
  (∀ s sp e l cx, e ∈ aheadIssues s sp → spanEnv s sp = some (l, cx) → e.fetched = true ∧ e.cols.isSome = true ∧ sp.trap = none ∧ sp.steps = none ∧
    ((∀ i ∈ s.issuing, i.span = sp.uid → e.gset &&& i.gset = 0#64) ∨
      ∃ i ∈ s.issuing, ∃ w lit, i.span = sp.uid ∧ issueWords s cx i = .words w lit ∧ e.gset = i.gset ∧
        e.cls = i.cls ∧ e.pc = i.pc + 4 * (1 + lit.toList.length) ∧ e.pc ≠ i.next) ∧
    ∃ f, decode e.cls e.word e.lit = some f ∧ heldBack s l sp.uid f = false ∧ ∀ i ∈ s.issuing, i.span = sp.uid → ∃ w lit g,
      issueWords s cx i = .words w lit ∧ decode i.cls w lit = some g ∧ ∀ r ∈ namedRegs l.slots f ++ resReads f ++ resWrites f, r ∉ dstRegs g ++ resWrites g) ∧
  (∀ (f : Instr), let mask (k : Nat) : Nat := 128 + k
    (∀ k g, f = .sel k g → mask k.toNat ∈ resReads f) ∧ (∀ g, f = .cmp g → mask g.mask.toNat ∈ resWrites f) ∧
    (∀ k g, f = .addc k g → mask k.toNat ∈ resReads f ∧ mask k.toNat ∈ resWrites f)) ∧
  (∀ s span lane sp l cx w, s.span? span = some sp → spanActs s sp = true → sp.reinj = [] → hasLane sp.movable lane = true →
    (sp.lane lane).pos.clause = none → (sp.lane lane).pos.st = .standing → spanEnv s sp = some (l, cx) →
    let g := sameGroup sp lane
    let pc := (sp.lane lane).pos.pc
    let at_ := Issue.plain span g g pc .alu pc
    fetchWord s cx l.uid pc g = .word w →
    (∀ h, decodeHeader w = some h → (sp.trap = none → roleForbids sp.role h.cls = false) →
      exec (.clauseHeaderEntry span lane) s = .next (s.modSpan span (fun x => x.modLanes g (fun _ l =>
        { l with pos := { l.pos with st := .waiting (.header w) } })))) ∧
    (∀ h, decodeHeader w = some h → sp.trap = none → roleForbids sp.role h.cls = true → exec (.clauseHeaderEntry span lane) s =
      takeTrap s at_ { TrapInfo.at 0x0003 (BitVec.ofNat 64 (sp.role.toNat + 16 * Cls.num h.cls)) g with complete := true }) ∧
    (decodeHeader w = none → exec (.clauseHeaderEntry span lane) s =
      takeTrap s at_ { TrapInfo.at 0x0002 (BitVec.ofNat 64 w.toNat) g with complete := true })) ∧
  (∀ s span lane sp w h, s.span? span = some sp → sp.Shaped → (∀ l ∈ sp.lanes, l.held = none) → lane < sp.width →
    (sp.lane lane).pos.st = .waiting (.header w) → decodeHeader w = some h →
    let m := laneSetOf (fun i => decide (i < sp.width) && (sp.lane i).pos.pc == (sp.lane lane).pos.pc && (sp.lane i).pos.st == (sp.lane lane).pos.st)
    (tagsClear sp h.tagwait = false → exec (.clauseHeaderPass span lane) s = .next s) ∧
    (tagsClear sp h.tagwait = true →
      let b := if h.fence = 0 then s else drain s span m
      exec (.clauseHeaderPass span lane) s = .next (b.modSpan span (fun x => x.modLanes m (fun i l =>
        { l with rel := if 2 ≤ h.fence then h.fence else l.rel,
                 pos := { pc := l.pos.pc + 4, clause := some ⟨h.cls, l.pos.pc + 4 + 4 * h.count⟩, st := .standing,
                          p := h.msel == 0 || (hasLane (sp.mask (h.msel - 1)) i ^^ h.minv) } }))))) ∧
  (∀ s span lane sp (q : Pos) w h, s.span? span = some sp → sp.Shaped → lane < sp.width → (q = (sp.lane lane).pos ∨ (sp.lane lane).held = some q) →
    q.st = .waiting (.header w) → decodeHeader w = some h → tagsClear sp h.tagwait = true →
    let at_ (r : Pos) : Bool := r.pc == q.pc && r.st == q.st
    let m := laneSetOf (fun i => decide (i < sp.width) && (at_ (sp.lane i).pos || (sp.lane i).held.any at_))
    (∀ i, hasLane m i = true → ∀ r, (r = (sp.lane i).pos ∨ (sp.lane i).held = some r) → at_ r = true ∨ headerReady sp r = none) →
    let b := if h.fence = 0 then s else drain s span m
    let pass (i : Nat) (r : Pos) : Pos := if at_ r then
      { pc := r.pc + 4, clause := some ⟨h.cls, r.pc + 4 + 4 * h.count⟩, st := .standing,
        p := h.msel == 0 || (hasLane (sp.mask (h.msel - 1)) i ^^ h.minv) } else r
    exec (.clauseHeaderPass span lane) s = .next (b.modSpan span (fun x => x.modLanes m (fun i l =>
      { l with rel := if 2 ≤ h.fence then h.fence else l.rel, pos := pass i l.pos, held := l.held.map (pass i) }))))

/-- Traps at issue boundaries, the watchdog and answers to page requests; spans retire when no lane is left and nothing of theirs is
outstanding but stores, reductions and ring turns, the former of which retirement performs (log 49, DEDUCED), and decks become ready when
their memory has been cleared (15 R300, R306, R314, R315, 09 R239-R241, R394, 07 R166, 01 R31; that the handler starts a new watchdog
period is log 40, that suspended copies go on where page requests are answered is log 90, and that the first answer shows page requests to
be on is log 61, all DEDUCED). -/
def Obligations.BoundaryTrapsAndRetirement : Prop :=
  ((∀ s u sp t, s.span? u = some sp → sp.stop = .running → beforeSave s sp.deck = true → sp.pending = some t →
    let b := completeOlder s u
    ∀ x i, b.span? u = some x → x.pending = some i → (∃ r, exec (.trapEntry u) s = .next r) ∧
      ∀ k, Delivers b (pendingIssue x i) i k → exec (.trapEntry u) s = .next (delivered b (pendingIssue x i) i k)) ∧
  (∀ s u sp l cx, s.span? u = some sp → spanEnv s sp = some (l, cx) → watchdogDue s sp cx = true →
    let pc := (sp.lane (lowestLane sp.live)).pos.pc
    let b := completeOlder s u
    let iss := boundaryIssue u pc sp.live
    let t := { TrapInfo.at 0x0010 (BitVec.ofNat 64 cx.d.wdog) sp.live with boundary := some pc }
    (∃ r, exec (.watchdogExpiry u) s = .next r) ∧
    (b.pendingOf u = false → ∀ k, Delivers b iss t k → exec (.watchdogExpiry u) s = .next (delivered b iss t k))) ∧
  (∀ s u sp l cx, s.span? u = some sp → spanEnv s sp = some (l, cx) →
    (cx.d.wdog = 0 ∨ s.time < sp.lastIssue + 1000 * cx.d.wdog ∨ sp.live = 0#64) → exec (.watchdogExpiry u) s = .next s) ∧
  (∀ s u ok, s.prgLoose.contains u = true → exec (.pageRequestResponse u ok) s =
    .next (sendAllPages { s with prgLoose := s.prgLoose.erase u, trust := { s.trust with pri := true } })) ∧
  (∀ s u sp t n p rest, s.span? u = some sp → s.prgLoose.contains u = false → sp.stop = .pages t (n + 1) (p :: rest) →
    let b := { s with trust := { s.trust with pri := true } }
    (rest ≠ [] → exec (.pageRequestResponse u true) s = .next (sendAllPages (b.modSpan u (fun x => { x with stop := .pages t n rest })))) ∧
    (rest = [] → ∃ r x, exec (.pageRequestResponse u true) s = .next r ∧ r.span? u = some x ∧ x.stop = .running ∧ x.reinj = sp.replay ∧
      x.replay = [] ∧ (∀ q ∈ r.ats, q.2 ≠ none) ∧ ∀ w ∈ r.works, w.span = u → w.suspended = false) ∧
    (∃ r x, exec (.pageRequestResponse u false) s = .next r ∧ r.span? u = some x ∧ x.stop = .running ∧ x.reinj = sp.replay ∧
      x.pending = some { t with entry := [], served := true } ∧ r.prgLoose = s.prgLoose ++ List.replicate n u)) ∧
  (∀ s u sp t sent waiting, s.span? u = some sp → sp.stop = .pages t sent waiting →
    let n := min (waiting.length - sent) (Config.priAllocation - sentPages s)
    n ≠ 0 → ∃ r, sendPages s u = r ∧ r.span? u = some { sp with stop := .pages t (sent + n) waiting })) ∧
  ((∀ s sp, spanDone s sp = true ↔ sp.live = 0#64 ∧ sp.stop = .running ∧ sp.pending = none ∧ sp.trap = none ∧
    (∀ w ∈ s.works, w.span = sp.uid → w.kind = .store ∨ (∃ op, w.kind = .red op) ∨ (∃ k, w.kind = .redx k) ∨
      (∃ ring slot prod off, w.kind = .ring ring slot prod off) ∨ ∃ c, w.kind = .copy c ∧ c.dead = true) ∧
    ∀ g ∈ s.girders, ∀ k ∈ g.keys, ∀ x ∈ k.signers, x.span = sp.uid → ∃ a ∈ k.armed, a.deck = x.deck ∧ a.landed = true) ∧
  (∀ s sp d, let a := drain s sp.uid (BitVec.allOnes 64)
    ∃ b, retireSpan s sp d = retireDeck (barCheckAll b d.uid d.girder) d ∧
    { b with spans := a.spans, works := a.works, piers := a.piers, decks := a.decks } = a ∧
    b.span? sp.uid = none ∧ (∀ v, v ≠ sp.uid → b.span? v = a.span? v) ∧
    (∀ w, w ∈ b.works ↔ w ∈ a.works ∧ (w.span = sp.uid → ∃ c, w.kind = .copy c ∧ c.dead = true)) ∧
    (∀ p, p ≠ d.pier → b.pier p = a.pier p) ∧ (∀ v, v ≠ d.uid → b.deck? v = a.deck? v) ∧
    (d.resident = true → b.decks = a.decks ∧ (d.pier < a.piers.length → let p := a.pier d.pier
      { b.pier d.pier with latch := p.latch } = { p with pool := p.pool + sp.grant } ∧
      ∀ (z : Nat) (e : Latch), (∃ y, (b.pier d.pier).latch[z]? = some y ∧ e ∈ y) ↔ (∃ y, p.latch[z]? = some y ∧ e ∈ y) ∧ e.span ≠ sp.uid)) ∧
    (d.resident = false → b.piers = a.piers ∧ ∀ e, a.deck? d.uid = some e →
      b.deck? d.uid = some { e with imageBytes := e.imageBytes - (4096 + 32 * sp.used + 16 * sp.width) })) ∧
  (∀ s u sp d, s.span? u = some sp → s.deck? sp.deck = some d → spanDone s sp = true →
    (d.resident = true → exec (.spanRetire u) s = .next (retireSpan s sp d) ∧ exec (.parkedSpanRetire u) s = .next s) ∧
    (d.resident = false → exec (.parkedSpanRetire u) s = .next (retireSpan s sp d) ∧ exec (.spanRetire u) s = .next s)) ∧
  (∀ s u sp, s.span? u = some sp → sp.live ≠ 0#64 → exec (.spanRetire u) s = .next s ∧ exec (.parkedSpanRetire u) s = .next s) ∧
  (∀ s u sp d, s.span? u = some sp → s.deck? sp.deck = some d → (retireSpan s sp d).span? u = none) ∧
  (∀ s d, s.deck? d.uid = some d → ∃ t x, exec (.deckMemoryCleared d.uid) s = .next t ∧ t.deck? d.uid = some x ∧
    x.status = (if d.status = .clearing then .running else d.status) ∧ { x with status := d.status } = d ∧ { t with decks := s.decks } = s))

/-- A queue's next record is read, checked in order, and runs or ends with the status of its first failing check; girders are placed where a
pier set takes them and start clean, with preloaded registers; a launch that is done ends with its status; a doorbell moves WRIDX or stops
the queue; a slice that is over vacates the piers that others wait for; a queue takes a free or idle slot or one of lower priority, and a
slot pre-empts at once what its next placement needs of lower ones (14 R274-R276, R280-R285, R289, 20 R367, 01 R30, 09 R220-R222; which of
equal queues and slots comes first is log 22, DESIGN CHOICE; which addresses of a record are refused, that a queue out of state 1 places
nothing, what a slot waits to place, and that a slot which has pre-empted a set pre-empts no other until it is vacated, are logs 46, 45,
79 and 89, DEDUCED). -/
def Obligations.LaunchRows : Prop :=
  ((∀ s n q c cx l mt, s.queue? n = some q → queueCtx s n = some c → s.ctx? c = some cx → q.launch = none → q.destroying = false →
    (slotOf s n).isSome = true → qState s n = 1 → rdIdx s n ≠ wrIdx s n →
    translate s cx false .read (queueField s n 0x00 8 + 512 * (rdIdx s n % queueField s n 0x08 4)) = .ok l mt → poisoned s l 512 = false →
    let x := recordLaunch (readLocs s l 512) s.fresh n cx.num (rdIdx s n)
    (recordFault s cx x (readLocs s l 512) = none → exec (.launchStart n) s = .next (preemptHigher
      (({ s with launches := s.launches ++ [x], fresh := s.fresh + 1 } : State).modQueue n (fun y => { y with launch := some x.uid })))) ∧
    (∀ status off, recordFault s cx x (readLocs s l 512) = some (status, off) → asksFor s cx x.compl = none →
      exec (.launchStart n) s = .next (advanceQueue (writeCompletion s cx n x.rdidx x.compl (status + 65536 * off)) n))) ∧
  (∀ s (l : Launch) cx w piers, s.launch? l.uid = some l → s.ctx? l.ctx = some cx → newWant s l = some w →
    (w.allowed s cx l piers = true → exec (.deckPlace l.uid piers) s =
      .next (preemptHigher (forgetChosen (placeGirder s l piers) l.queue))) ∧
    (w.allowed s cx l piers = false → exec (.deckPlace l.uid piers) s = .next s)) ∧
  (∀ s n q u l c cx, s.queue? n = some q → q.launch = some u → s.launch? u = some l → queueCtx s n = some c → s.ctx? c = some cx →
    launchDone s l = true → asksFor s cx l.compl = none →
    let t := endLaunch s l (if l.discarded then 0x0300 else if l.aborted then 0x0200 else 0)
    exec (.launchComplete n) s = .next (preemptHigher (mapWaiting (if l.aborted then setQueueField t n 0x18 4 2 else t)))) ∧
  (∀ s n q u l, s.queue? n = some q → q.launch = some u → s.launch? u = some l → launchDone s l = false →
    exec (.launchComplete n) s = .next s) ∧
  (∀ s n q val, n < 65536 → s.trust.recovery = false → s.queue? n = some q →
    let v := val % 2 ^ 32
    let ahead := (v + 2 ^ 32 - wrIdx s n) % 2 ^ 32
    let posted := (v + 2 ^ 32 - rdIdx s n) % 2 ^ 32
    (2 ^ 31 ≤ ahead → exec (.doorbell (0x80000 + 8 * n) 8 val) s = .next s) ∧
    (ahead < 2 ^ 31 → queueField s n 0x08 4 < posted →
      exec (.doorbell (0x80000 + 8 * n) 8 val) s = .next (setQueueField s n 0x18 4 2)) ∧
    (ahead < 2 ^ 31 → posted ≤ queueField s n 0x08 4 →
      let t := setQueueField s n 0x10 4 v
      exec (.doorbell (0x80000 + 8 * n) 8 val) s = .next (if qState t n = 1 ∧ q.destroying = false then preemptHigher (mapQueue t n) else t))) ∧
  (∀ s slot h q, s.hw[slot]? = some h → h.queue = some q →
    (h.slice ≠ 0 → exec (.sliceExpiry slot) s = .next s) ∧
    (h.slice = 0 →
      let others := s.hw.zipIdx.filter (fun x => x.2 != slot && x.1.queue.isSome && decide (slotPrio s h ≤ slotPrio s x.1))
      let v := (((queueDecks s q).map (·.pier)).filter (fun p => others.any (fun x => waitsFor s x.1 p))).dedup
      exec (.sliceExpiry slot) s = .next (if v = [] then s else
        startPreempt (modHw s slot (fun x => { x with slice := fullSlice s q })) slot v)))) ∧
  ((∀ s n, (∀ i, slotOf s n = some i → mapQueue s n = s) ∧ (slotOf s n = none →
    let free := s.hw.findIdx? (fun h => h.queue.isNone)
    (∀ i, free = some i → mapQueue s n = takeSlot s n i) ∧
    (free = none → ∀ i, idleSlot s = some i → mapQueue s n = takeSlot s n i) ∧
    (free = none → idleSlot s = none → ∀ i h, s.hw[i]? = some h →
      (∀ j k, s.hw[j]? = some k → slotPrio s h ≤ slotPrio s k ∧ (j < i → slotPrio s h < slotPrio s k)) →
      (slotPrio s h < prio s n → mapQueue s n = startPreempt (modHw s i (fun x => { x with leaving := true })) i
        ((h.queue.elim [] (fun u => (queueDecks s u).map (·.pier))).dedup)) ∧
      (prio s n ≤ slotPrio s h → mapQueue s n = s)))) ∧
  (∀ s i, idleSlot s = some i → ∃ h, s.hw[i]? = some h ∧ slotIdle s h = true ∧
    ∀ j k, s.hw[j]? = some k → slotIdle s k = true → h.active ≤ k.active ∧ (j < i → h.active < k.active)) ∧
  (∀ s, idleSlot s = none → ∀ h ∈ s.hw, slotIdle s h = false) ∧
  (∀ s n i, i < s.hw.length → let t := takeSlot s n i
    t.hw = s.hw.set i ⟨some n, fullSlice s n, s.time, [], [], false⟩ ∧ { t with hw := s.hw, ctxs := s.ctxs } = s ∧
    ∀ k cx, queueCtx s n = some k → s.ctx? k = some cx →
      t.ctx? k = some (if cx.loaded then cx else { cx with loaded := true, d := readDesc s cx.desc })) ∧
  (∀ s t, mapOne s = some t → ∃ q ∈ s.queues, wantsSlot s q = true ∧ (∀ x ∈ s.queues, wantsSlot s x = true → prio s x.num ≤ prio s q.num) ∧
    ∃ i, (s.hw.findIdx? (fun h => h.queue.isNone)).or (idleSlot s) = some i ∧ t = takeSlot s q.num i) ∧
  (∀ s, mapOne s = none → (∀ q ∈ s.queues, wantsSlot s q = false) ∨ (s.hw.findIdx? (fun h => h.queue.isNone)).or (idleSlot s) = none) ∧
  (∀ s, (mapOne s = none → mapWaiting s = s) ∧
    ((s.queues.map (·.num)).Nodup → mapOne (mapWaiting s) = none ∧ ∀ t, mapOne s = some t → mapWaiting s = mapWaiting t)) ∧
  (∀ s, preemptHigher s = (List.range s.hw.length).foldl preemptFor s) ∧
  (∀ s i h, s.hw[i]? = some h →
    (slotChoice s h = none → preemptFor s i = modHw s i (fun x => { x with chosen := [] })) ∧
    ∀ v, slotChoice s h = some v →
      let todo (x : HwSlot) : List Nat := (((x.queue.elim [] (fun u => (queueDecks s u).map (·.pier))).filter (fun p => v.contains p)).dedup).filter
        (fun p => !x.vacating.contains p)
      preemptFor s i = (s.hw.zipIdx.filter (fun x => todo x.1 != [] && decide (slotPrio s x.1 < slotPrio s h))).foldl
        (fun t x => startPreempt t x.2 (todo x.1)) (modHw s i (fun x => { x with chosen := v }))) ∧
  (∀ s h v, slotChoice s h = some v → ∃ l cx w, h.env s = some (l, cx) ∧ w ∈ wants s l ∧ w.place s cx l h.barred = none ∧
    lowerHeld s (slotPrio s h) ≠ [] ∧ chosenSet s (slotPrio s h) h l cx w = some v) ∧
  (∀ s pr (h : HwSlot) l cx w,
    let t := withoutLower s pr
    let serves (u : List Nat) : Prop := w.fits t cx l u = true ∧
      u ∈ servingSets w.size ((List.range 288).filter (fun p => !h.barred.contains p && w.takes t cx l false p))
    (chosenSet s pr h l cx w = none → ∀ u, ¬ serves u) ∧
    ∀ v, chosenSet s pr h l cx w = some v → serves v ∧ (v = h.chosen ∨ ∀ u, serves u →
      (setRank s pr v).1 < (setRank s pr u).1 ∨ ((setRank s pr v).1 = (setRank s pr u).1 ∧ (setRank s pr v).2 ≤ (setRank s pr u).2)))) ∧
  ((∀ s cx (l : Launch) r, recordFault s cx l r = match badEntry l with
    | some o => some (0x0006, o)
    | none => match badField l r with
      | some o => some (0x0001, o)
      | none => match l.slots.findIdx? slotBad with
        | some k => some (0x0002, 0x100 + 32 * k)
        | none => match l.rings.findIdx? (fun v => ringBad v l.deckmem) with
          | some k => some (0x0003, 0x080 + 8 * k)
          | none => if tlConflict s l then some (0x0005, 0x048) else if noFit s cx l then some (0x0004, 0x01C) else none) ∧
  (∀ l : Launch, let bad (v m : Nat) : Prop := v % m ≠ 0 ∨ 0x01FFE00000000000 ≤ v
    (bad l.entry 4 → badEntry l = some 0x000) ∧ (¬ bad l.entry 4 → bad l.compl 8 → badEntry l = some 0x050) ∧
    (¬ bad l.entry 4 → ¬ bad l.compl 8 → bad l.constBase 16 → badEntry l = some 0x038) ∧
    (¬ bad l.entry 4 → ¬ bad l.compl 8 → ¬ bad l.constBase 16 → badEntry l = none)) ∧
  (∀ (l : Launch) r, badField l r = none ↔ l.shapew.toNat < 2 ^ 21 ∧ l.grade ≠ 3 ∧
    (∀ i < 32, l.spans ≤ i → l.roles.extractLsb' (2 * i) 2 = 0#2) ∧ l.ceil ≤ 16 * l.width ∧
    (fieldOf r 0x02C 4 = 0 ∨ fieldOf r 0x02C 4 = 256) ∧ l.deckmem ≤ 393216 ∧ l.deckmem % 1024 = 0 ∧ l.priv ≤ 1048576 ∧ l.priv % 16 = 0 ∧
    l.constSize ≤ 65536 ∧ l.constSize % 4 = 0 ∧ fieldOf r 0x044 4 = 0 ∧ l.tlbind.toNat < 2 ^ 48 ∧ fieldOf r 0x058 40 = 0 ∧
    fieldOf r 0x0C0 64 = 0) ∧
  (∀ v : BitVec 256, slotBad v = false ↔ slotFmt v ≤ 9 ∧ slotMode v ≠ 3 ∧
    (if slotFmt v = 8 then 2 ≤ slotPlanes v ∧ slotPlanes v ≤ 8 else slotPlanes v = 0) ∧
    (slotScale v).toNat / 2 ^ 23 % 256 ≠ 255 ∧ slotExtra v / 1024 % 32 ≠ 31 ∧
    (slotFmt v ∈ [3, 4, 5, 6, 8] → slotZero v = 0) ∧ v.extractLsb' 96 32 = 0#32 ∧ v.extractLsb' 185 71 = 0#71) ∧
  (∀ (v : DWord) deckmem, ringBad v deckmem = false ↔ v = 0#64 ∨ (v.getLsbD 63 = true ∧
    let base := (v.extractLsb' 18 14).toNat
    let size := (v.extractLsb' 6 12).toNat
    ringProd v ≠ ringCons v ∧ 1 ≤ size ∧ size ≤ 2048 ∧ 1 ≤ ringCount v ∧ ringCount v ≤ 32 ∧ 32 * (base + size * ringCount v) ≤ deckmem ∧
    v.extractLsb' 32 27 = 0#27)) ∧
  (∀ s (l : Launch), tlConflict s l = true ↔ ∃ k < 16, l.tlBound k = true ∧ ∃ x ∈ s.launches, x.ctx = l.ctx ∧ x.uid ≠ l.uid ∧ 0 < x.nextGirder ∧
    x.tlBound k = true ∧ x.tlKind k ≠ l.tlKind k)) ∧
  ((∀ s n mask free p, pierFits s n mask free false none p = true ↔ mask.testBit p = true ∧ p < 288 ∧ gradeAllows n p = true ∧
    n.deckmem ≤ deckMemOf p ∧ n.spans ≤ 64 ∧ (∃ k, lowestFree 16 ((decksAt s p).map (·.slot)) = some k) ∧
    (spansAt s p).length + n.spans ≤ 64 ∧ (∃ b, freeRun s p n.deckmem = some b) ∧ n.spans * (n.width / 8) ≤ (s.pier p).pool ∧
    privBytes n.priv ≤ free) ∧
  (∀ (w : Want) s cx (l : Launch) piers, w.decks = [] → w.allowed s cx l piers = true → piers.length = w.size ∧ piers.Pairwise (· < ·) ∧
    w.size * privBytes l.priv ≤ privFree s cx ∧ ∀ p ∈ piers, trussOf p = trussOf (piers.headD 0) ∧ p ∉ barredPiers s l.queue ∧
      pierFits s w.need (coreMask s l.queue) (privFree s cx) false none p = true) ∧
  (∀ s (l : Launch) piers, piers ≠ [] → piers.Pairwise (· < ·) →
    (∀ p ∈ piers, ∃ k b, lowestFree 16 ((decksAt s p).map (·.slot)) = some k ∧ freeRun s p l.deckmem = some b) →
    (∀ d ∈ s.decks, d.uid < s.fresh ∧ d.girder < s.fresh) → (∀ x ∈ s.spans, x.deck < s.fresh) →
    let t := placeGirder s l piers
    let i := l.nextGirder
    ∃ g ds xs, t.girders = s.girders ++ [g] ∧ t.decks = s.decks ++ ds ∧ t.spans = s.spans ++ xs ∧ ds.length = piers.length ∧
      g.launch = l.uid ∧ g.x = i % (l.gx + 1) ∧ g.y = i / (l.gx + 1) % (l.gy + 1) ∧ g.z = i / ((l.gx + 1) * (l.gy + 1)) ∧
      g.size = l.girderSize ∧ g.truss = trussOf (piers.headD 0) ∧ g.bars = List.replicate 4 (Bar.initial (BitVec.ofNat 32 (2 ^ l.girderSize - 1))) ∧
      (∀ k ∈ g.keys, k.st = 0 ∧ k.gen = 0 ∧ k.signers = [] ∧ k.armed = []) ∧ g.keys.length = 8 ∧
      (∀ m d, ds[m]? = some d → some d.pier = piers[m]? ∧ d.member = m ∧ d.girder = g.uid ∧ d.status = .clearing ∧
        some d.slot = lowestFree 16 ((decksAt s d.pier).map (·.slot)) ∧ some d.memBase = freeRun s d.pier l.deckmem ∧ d.memSize = l.deckmem ∧
        d.mem = Memory.empty ∧ d.priv = Memory.empty ∧ d.bars = List.replicate 16 (Bar.initial (BitVec.ofNat 32 (2 ^ l.spans - 1))) ∧
        (xs.filter (fun x => x.deck == d.uid)).map (·.idx) = List.range l.spans ∧
        ∀ x ∈ xs, x.deck = d.uid → x.width = l.width ∧ x.role = l.roles.extractLsb' (2 * x.idx) 2 ∧ x.regs = preloadRegs l g d x.idx l.width ∧
          x.masks = List.replicate 12 0#64 ∧ x.tags = List.replicate 8 0 ∧ x.ceil = l.ceil ∧ x.grant = 0 ∧ x.used = 0 ∧
          x.trap = none ∧ x.replay = [] ∧ x.lanes = List.replicate l.width
            { pos := { pc := l.entry, clause := none, p := true, st := .standing }, held := none, sp := BitVec.ofNat 32 l.priv, splim := 0#32,
              rsn := 0#4, exitAt := 0, rel := 0, plvl := none, starve := 0, yieldTill := none }) ∧
      (∀ y, t.launch? l.uid = some y → y.nextGirder = i + 1)) ∧
  (∀ (l : Launch) g d k w, let regs := preloadRegs l g d k w
    let n (b : Nat) : Nat := ((List.range b).filter (fun i => l.preload.testBit i)).length
    let e := (n 5 + 1) / 2 * 2
    let f := if l.preload.testBit 5 then e + 2 else n 5
    regs.length = 128 ∧ (l.preload.testBit 0 = true → regs[n 0]? = some (.affine (BitVec.ofNat 32 (k * w)) 0#3)) ∧
    (l.preload.testBit 1 = true → regs[n 1]? = some (.uniform (BitVec.ofNat 32 g.x))) ∧
    (l.preload.testBit 2 = true → regs[n 2]? = some (.uniform (BitVec.ofNat 32 g.y))) ∧
    (l.preload.testBit 3 = true → regs[n 3]? = some (.uniform (BitVec.ofNat 32 g.z))) ∧
    (l.preload.testBit 4 = true → regs[n 4]? = some (.uniform (BitVec.ofNat 32 d.member))) ∧
    (l.preload.testBit 5 = true → regs[e]? = some (.uniform (loWord l.args)) ∧ regs[e + 1]? = some (.uniform (hiWord l.args))) ∧
    (l.preload.testBit 6 = true → regs[f]? = some (.affine 0#32 0#3)) ∧
    (∀ r < 128, (f + if l.preload.testBit 6 then 1 else 0) ≤ r → regs[r]? = some (.uniform 0#32))))

/-- The spawn unit: a waiting item is accepted in lane order, the oldest overflow entry moves to the queue of the segment that issued it, 32
items form a span at once and fewer after the time-out; with DETERM all items of one spawn, once they have arrived, form spans of 32 by
lane, wherever they lie; and a spawned span is placed with its items' entries (08 R207, 14 R286-R288; what an overflow entry that cannot
be read does is log 41, which segment's queue an entry moves to and where the items of one spawn are looked for are log 51, all DEDUCED,
and what is open of a spawned deck is log 21, DESIGN CHOICE). -/
def Obligations.SpawnUnitRows : Prop :=
  (∀ s u lane sp e p i l cx d t, s.span? u = some sp → waitingItem (sp.lane lane) = some (e, p, i) → spanEnv s sp = some (l, cx) →
    s.deck? sp.deck = some d → spanActs s sp = true → (unaccepted sp i).head? = some lane → hasLane sp.movable lane = true →
    offerItem s (segOf d.pier) cx.num ⟨cx.num, l.uid, e, p, i, lane, d.uid⟩ = some t →
    let r := t.modSpan u (fun x => x.modLane lane (Lane.mapPos (markAccepted i)))
    exec (.spawnOfferAccept u lane) s = .next (if (unaccepted sp i).length ≤ 1 then r.modSpan u (Span.leaveIf (fun _ w => match w with
      | .spawn _ _ j _ => j == i
      | _ => false)) else r)) ∧
  (∀ s seg n cx x, s.ctx? n = some cx → cx.ovfHead ≠ cx.ovfTail → (∀ p, translate s cx false .read cx.ovfAddr ≠ .ask p) → seg < 8 →
    (s.seg seg).spawnQ.length < 4096 → nextServed s seg = some n → oldestItem s cx = some x →
    exec (.overflowDrain seg n) s = .next ((s.modCtx n (fun c => trimRing c.ovfIssue.tail { c with ovfHead := c.ovfHead + 1 })).modSeg seg
      (fun g => { g with spawnQ := g.spawnQ ++ [x.2], served := n }))) ∧
  (∀ s cx id rest bs l, cx.ovfIssue = id :: rest → ctxRead s cx (cx.d.ovfBase + 32 * (cx.ovfHead % cx.d.ovfCount)) 32 = some bs →
    entryLaunch s cx.num bs = some l → oldestItem s cx = some (l, ⟨cx.num, l.uid, fieldOf bs 0 8,
      (List.range 4).map (fun i => BitVec.ofNat 32 (fieldOf bs (8 + 4 * i) 4)), id.issue, id.lane, id.deck⟩)) ∧
  (∀ s seg n, nextServed s seg = some n → (∃ cx ∈ s.ctxs, cx.num = n ∧ mayDrain s seg cx = true) ∧
    ∀ cy ∈ s.ctxs, mayDrain s seg cy = true → ((s.seg seg).served < n → (s.seg seg).served < cy.num → n ≤ cy.num) ∧
      (n ≤ (s.seg seg).served → cy.num ≤ (s.seg seg).served ∧ n ≤ cy.num)) ∧
  (∀ s seg (cx : Context), mayDrain s seg cx = true → cx.ovfHead ≠ cx.ovfTail ∧ ∃ id rest, cx.ovfIssue = id :: rest ∧ id.seg = seg) ∧
  (∀ s seg n cx, s.ctx? n = some cx → (cx.ovfHead = cx.ovfTail ∨ ((∀ p, translate s cx false .read cx.ovfAddr ≠ .ask p) ∧
      (4096 ≤ (s.seg seg).spawnQ.length ∨ nextServed s seg ≠ some n))) → exec (.overflowDrain seg n) s = .next s) ∧
  (∀ s seg l entry, s.launch? l.uid = some l → l.determ = false → seg < s.segs.length →
    let items := sameItems s seg l.uid entry
    (items.length < 32 → exec (.spawnSpanEmit seg l.uid entry) s = .next s) ∧
    (32 ≤ items.length → ∃ t, exec (.spawnSpanEmit seg l.uid entry) s = .next t ∧ (t.seg seg).emitted = (s.seg seg).emitted ++ [items.take 32] ∧
      (∀ x, x ∈ (t.seg seg).spawnQ ↔ x ∈ (s.seg seg).spawnQ ∧ x ∉ items.take 32)) ∧
    (items ≠ [] → ∃ t, exec (.spawnPackTimeout seg l.uid entry) s = .next t ∧ (t.seg seg).emitted = (s.seg seg).emitted ++ [items.take 32] ∧
      (∀ x, x ∈ (t.seg seg).spawnQ ↔ x ∈ (s.seg seg).spawnQ ∧ x ∉ items.take 32))) ∧
  (∀ s seg l entry, s.launch? l.uid = some l → l.determ = true → seg < s.segs.length →
    let here (x : Item) : Bool := allArrivedItems s x.ctx x.issue
    exec (.spawnPackTimeout seg l.uid entry) s = .next s ∧
    ((∀ x ∈ sameItems s seg l.uid entry, here x = false) → exec (.spawnSpanEmit seg l.uid entry) s = .next s) ∧
    (∀ x, (sameItems s seg l.uid entry).find? here = some x → ∃ t mine spans, exec (.spawnSpanEmit seg l.uid entry) s = .next t ∧
      (t.seg seg).emitted = (s.seg seg).emitted ++ spans ∧ spans.flatten = mine ∧ (∀ c ∈ spans, c ≠ [] ∧ c.length ≤ 32) ∧
      (∀ c ∈ spans.dropLast, c.length = 32) ∧ mine.Pairwise (fun a b => a.lane ≤ b.lane) ∧
      mine.Perm ((s.segs.flatMap (·.spawnQ)).filter (fun y => y.issue == x.issue)) ∧
      ∀ k < s.segs.length, (t.seg k).spawnQ = (s.seg k).spawnQ.filter (fun y => y.issue != x.issue))) ∧
  (∀ s seg idx pier items it l cx q, (s.seg seg).emitted[idx]? = some items → items.head? = some it → items.length ≤ 32 →
    s.launch? it.launch = some l → s.ctx? l.ctx = some cx → segOf pier = seg → s.queue? l.queue = some q → q.destroying = false →
    (Want.mk 1 [] none l.childNeed (some seg) (childSlots items)).allowed s cx l [pier] = true → seg < s.segs.length →
    (∀ d ∈ s.decks, d.uid < s.fresh ∧ d.girder < s.fresh) → (∀ x ∈ s.spans, x.uid < s.fresh ∧ x.deck < s.fresh) →
    ∃ t d x, exec (.spawnedSpanPlace seg idx pier) s = .next t ∧ (t.seg seg).emitted = (s.seg seg).emitted.eraseIdx idx ∧
      t.decks = s.decks ++ [d] ∧ d.pier = pier ∧ d.status = .clearing ∧ t.spans = s.spans ++ [x] ∧ x.deck = d.uid ∧ x.width = 32 ∧
      x.regs = childRegs items (Config.freeSlot s.free) ∧ x.grant = childSlots items ∧ x.used = childSlots items ∧
      (∀ i < 32, (x.lane i).pos.st = if i < items.length then .standing else .exited) ∧
      (∀ i (h : i < items.length), (x.lane i).pos.pc = items[i].entry))

/-- Parking, resuming, migrating and the forced reset: a deck that has quiesced is saved, a saved one leaves its pier, one that is placed
again resumes as it was, with the frames of its handlers, and an expired deadline resets the context, whose launches, spans and timelines
are gone (14 R290-R296, 15 R304, R316-R321, 17 R353; the room of a park, the order of what is placed and what is in flight at a reset are
logs 47, 79 and 26, and which frames of a girder are read first is log 76, all DEDUCED). -/
def Obligations.ParkingAndResetRows : Prop :=
  ((∀ s n cx t, s.ctx? n = some cx → cx.timer = some t → t ≤ s.time + 1000 * cx.d.parklead → exec (.parkleadReached n) s = .next
    ((s.girders.filter (fun g => (s.launch? g.launch).elim false (fun l => l.ctx == n && l.parkable) &&
      (s.decksOf g.uid).all mayPark && (s.decksOf g.uid).any (fun d => cx.vacating.contains d.pier))).foldl (fun s g => parkGirder s cx g) s)) ∧
  (∀ s n cx, s.ctx? n = some cx → (cx.timer = none ∨ ∃ t, cx.timer = some t ∧ s.time + 1000 * cx.d.parklead < t) →
    exec (.parkleadReached n) s = .next s) ∧
  (∀ s d, s.deck? d.uid = some d → quiesced s d.uid = true → (∀ x ∈ s.spansOf d.uid, x.pending = none) →
    (d.status = .parking ∨ saveRoom s d = true) →
    ∃ t x, exec (.deckQuiesced d.uid) s = .next t ∧ t.deck? d.uid = some x ∧
      x.status = (match d.status with
        | .parking => .saving none
        | .migrating g => .saving (some g)
        | st => st) ∧ { x with status := d.status } = d ∧ { t with decks := s.decks } = s) ∧
  (∀ s d target l q, s.deck? d.uid = some d → d.status = .saving target → d.pier < s.piers.length → deckLaunch s d = some l →
    s.queue? l.queue = some q → q.destroying = false →
    ∃ t x, exec (.parkSaveDone d.uid) s = .next t ∧ t.deck? d.uid = some x ∧
      x.status = (match target with
        | none => .parked
        | some g => .moving g) ∧ x.mem = d.mem ∧ x.priv = d.priv ∧ x.imageBytes = imageBytes s d ∧
      x.image = (if (s.pier d.pier).owner = some d.uid then (s.pier d.pier).mtx.map (fun m =>
        { m with valid := m.valid.map (fun v => if v == BitVec.allOnes 64 then v else 0#64) }) else d.image) ∧
      (t.pier d.pier).owner ≠ some d.uid ∧ (t.pier d.pier).pool = (s.pier d.pier).pool + ((s.spansOf d.uid).map (·.grant)).sum) ∧
  (∀ s (g : Girder) w l cx q piers, savedWant s g.uid = some (w, l, cx) → s.queue? l.queue = some q → q.destroying = false →
    w.allowed s cx l piers = true →
    let t := if w.decks.any (·.tampered) = true then mapWaiting (resetContext s l.ctx) else arriveGirder s cx l.queue g.uid piers
    (w.parked = true → exec (.deckResume g.uid piers) s = .next t ∧ exec (.migrationPlace g.uid piers) s = .next s) ∧
    (w.parked = false → exec (.migrationPlace g.uid piers) s = .next t ∧ exec (.deckResume g.uid piers) s = .next s)) ∧
  (∀ s (g : Girder) l cx, s.girder? g.uid = some g → s.launch? g.launch = some l → s.ctx? l.ctx = some cx → l.uid = g.launch →
    s.decksOf g.uid ≠ [] → (∀ d ∈ s.decksOf g.uid, d.status = .parked) →
    savedWant s g.uid = some (⟨g.size, s.decksOf g.uid, resumeGrade l (s.decksOf g.uid), l.need, none, 0⟩, l, cx)) ∧
  (∀ s n cx t, s.ctx? n = some cx → cx.timer = some t →
    (t ≤ s.time → (ctxDecks s n).any (fun d => cx.vacating.contains d.pier) = true →
      exec (.deadlineExpiry n) s = .next (mapWaiting (resetContext s n))) ∧
    (s.time < t → exec (.deadlineExpiry n) s = .next s)) ∧
  (∀ s n cx, s.ctx? n = some cx → ∃ cy, (resetContext s n).ctx? n = some cy ∧ cy.tl = List.replicate 16 ⟨0, 0, []⟩ ∧
    cy.resets = cx.resets + 1 ∧ cy.gp.started = cy.gp.completed ∧ cy.timer = none ∧ cy.vacate = [] ∧ cy.ovfHead = cy.ovfTail ∧
    (∀ l ∈ (resetContext s n).launches, l.ctx ≠ n) ∧
    (∀ x ∈ (resetContext s n).spans, ∀ d, s.deck? x.deck = some d → (deckLaunch s d).elim true (fun l => l.ctx != n) = true) ∧
    (∀ q ∈ (resetContext s n).queues, q.ctx = n → q.launch = none))) ∧
  ((∀ s cx (g : Girder) d, d ∈ s.decksOf g.uid → s.deck? d.uid = some d →
    let room : Prop := pledgedBytes s cx.num - ((s.decksOf g.uid).map (·.imageBytes)).sum + ((s.decksOf g.uid).map (imageBytes s)).sum ≤ cx.d.saveSize
    let t := parkGirder s cx g
    (room → ∃ x, t.deck? d.uid = some x ∧ x = { d with status := .parking } ∧ ∀ i ∈ t.issuing, ∀ sp ∈ s.spansOf d.uid, i.span ≠ sp.uid) ∧
    (¬ room → ∃ x, t.deck? d.uid = some x ∧ x = { d with noPark := true } ∧ t.spans = s.spans)) ∧
  (∀ s deck pier d slot base, s.deck? deck = some d → lowestFree 16 ((decksAt s pier).map (·.slot)) = some slot →
    freeRun s pier d.memSize = some base → (∀ x ∈ s.spansOf deck, s.span? x.uid = some x) → ((s.spansOf deck).map (·.uid)).Nodup →
    let t := arriveDeck s deck pier
    ∃ e, t.deck? deck = some e ∧ e.pier = pier ∧ e.slot = slot ∧ e.memBase = base ∧ e.mem = d.mem ∧ e.priv = d.priv ∧ e.bars = d.bars ∧
      e.rings = d.rings ∧ e.poison = d.poison ∧ e.noPark = false ∧ e.status = (if s.spansOf deck = [] then .retired else .running) ∧
      (pier < s.piers.length → (t.pier pier).pool = (s.pier pier).pool - ((s.spansOf deck).map (·.grant)).sum ∧
        (gradeOf pier = .m → ∀ m, d.image = some m → (t.pier pier).mtx = some m ∧ (t.pier pier).owner = some deck ∧ e.image = none) ∧
        ((gradeOf pier = .v ∨ d.image = none) → (t.pier pier).mtx = (s.pier pier).mtx ∧ (t.pier pier).owner = (s.pier pier).owner ∧
          e.image = d.image)) ∧
      (∀ x ∈ s.spansOf deck, ∃ y, t.span? x.uid = some y ∧ y.lanes = x.lanes ∧ y.masks = x.masks ∧ y.tags = x.tags ∧ y.grant = x.grant ∧
        y.used = x.used ∧ y.serial = x.serial ∧ (∀ r l, y.reg r l = x.reg r l ∧ (y.vreg r).code = (x.vreg r).code) ∧
        (x.stop = .running → y.reinj = x.reinj ++ x.replay ∧ y.replay = []))) ∧
  (∀ s cx queue girder piers, let pairs := (s.decksOf girder).zip piers
    (pairs.findSome? (fun x => arriveAsks s cx x.1.uid x.2) = none →
      let moves := pairs.flatMap (fun x => frameMoves s cx x.2 (placedSpans s x.1.uid x.2))
      arriveGirder s cx queue girder piers = preemptHigher (forgetChosen (applyHeld
        (moves.foldl (fun s m => moveFrame s cx m) (pairs.foldl (fun s x => arriveDeck s x.1.uid x.2) s))) queue)) ∧
    (∀ page, pairs.findSome? (fun x => arriveAsks s cx x.1.uid x.2) = some page → arriveGirder s cx queue girder piers = askPage s page)) ∧
  (∀ s cx (m : FrameMove) sp w, s.span? m.span = some sp → sp.regs.length = 128 → writeFrame s cx m.to_ [(0, m.bytes)] = some w →
    w.span? m.span = some sp → ∃ x, (moveFrame s cx m).span? m.span = some x ∧ x.trap = sp.trap.map (fun t => { t with frame := m.to_ }) ∧
      (∀ l < sp.width, x.reg 124 l = BitVec.ofNat 32 m.to_ ∧ x.reg 125 l = BitVec.ofNat 32 (m.to_ / 2 ^ 32)) ∧
      (∀ r < 128, (x.vreg r).isVector = (sp.vreg r).isVector) ∧ (∀ r < 124, x.vreg r = sp.vreg r) ∧ x.used = sp.used))

/-! ## The mailbox, the registers, the host -/

/-- The mailbox commands with good arguments: contexts and queues come and go, queues are pre-empted, translations invalidated, peer groups
set, spans debugged, reports written and firmware delivered; each ends with its code (20 R365-R375, 14 R395, 15 R325-R327, 21 R388; the
codes in corners, the reach of INVALIDATE, the list of SET_PEER_GROUP and what a device reset keeps are logs 54, 57, 58 and 56, DEDUCED;
digests are those of log 8). -/
def Obligations.MailboxCommands : Prop :=
  (∀ s, s.awaits 1 → arg s 0 % 4096 = 0 → arg s 0 < 2 ^ 39 → argsEnd s 8 = true → devNat s (arg s 0) 2 ≤ 4095 →
    (s.ctx? (devNat s (arg s 0) 2) = none → ∃ t c, exec .createContext s = .next t ∧
      Finished { s with ctxs := s.ctxs ++ [c] } t 0 0 ∧ c.num = devNat s (arg s 0) 2 ∧ c.d = readDesc s (arg s 0) ∧ c.desc = arg s 0 ∧
      c.tl = List.replicate 16 ⟨0, 0, []⟩ ∧ c.debug = none ∧ c.peers = [] ∧ c.deferred = []) ∧
    (s.ctx? (devNat s (arg s 0) 2) ≠ none → ∃ t, exec .createContext s = .next t ∧ Finished s t 3 0)) ∧
  (∀ s c, s.awaits 2 → arg s 0 ≤ 4095 → argsEnd s 8 = true → s.ctx? (arg s 0) = some c →
    (∀ l ∈ s.launches, l.ctx = arg s 0 → asksFor s c l.compl = none) → ∃ t, exec .destroyContext s = .next t ∧
    t.ctx? (arg s 0) = none ∧ (∀ q ∈ t.queues, q.ctx ≠ arg s 0) ∧ (∀ l ∈ t.launches, l.ctx ≠ arg s 0) ∧ (∀ o ∈ t.owed, o.ctx ≠ arg s 0) ∧ t.mail.busy = false ∧ t.mail.code = 0) ∧
  (∀ s, s.awaits 3 → arg s 0 ≤ 65535 → arg s 1 % 128 = 0 → arg s 1 < 2 ^ 39 → argsEnd s 16 = true → s.queue? (arg s 0) = none →
    s.ctx? (devNat s (arg s 1 + 0x14) 2) ≠ none → ∃ t, exec .createQueue s = .next t ∧
      Finished { s with queues := s.queues ++ [⟨arg s 0, devNat s (arg s 1 + 0x14) 2, arg s 1, none, false⟩] } t 0 0) ∧
  (∀ s q, s.awaits 4 → arg s 0 ≤ 65535 → argsEnd s 8 = true → s.queue? (arg s 0) = some q →
    (q.launch = none → exec .destroyQueue s = .next (finish (mapWaiting (removeQueue s (arg s 0))) 0 0)) ∧
    (q.launch ≠ none → ∃ t, exec .destroyQueue s = .next t ∧ t.mail.begun = true ∧ t.mail.busy = true)) ∧
  (∀ s n q, s.mail.busy = true → s.mail.begun = true → s.mail.opcode = 4 → arg s 0 = n → s.queue? n = some q → q.launch = none →
    ∃ t, exec (.destroyQueueDone n) s = .next t ∧ t.queue? n = none ∧ t.mail.busy = false ∧ t.mail.code = 0) ∧
  (∀ s i, s.awaits 5 → arg s 0 ≤ 65535 → argsEnd s 0x2C = true → s.queue? (arg s 0) ≠ none → slotOf s (arg s 0) = some i →
    let v := (List.range 288).filter (fun p => (bytesNat (argBytes s 8 36)).testBit p)
    exec .preempt s = .next (finish (if v = [] then s else startPreempt s i v) 0 0)) ∧
  (∀ s, s.awaits 6 → arg s 0 ≤ 4095 → argsEnd s 24 = true → s.ctx? (arg s 0) ≠ none → ∃ t, exec .invalidate s = .next t ∧
    t.mail.begun = true ∧ t.mail.busy = true ∧ { t with mail := s.mail } = s) ∧
  (∀ s, s.mail.busy = true → s.mail.begun = true → s.mail.opcode = 6 → ∃ t, exec .invalidateDone s = .next t ∧ t.ats = [] ∧
    t.mail.busy = false ∧ t.mail.code = 0 ∧
    ((s.works.map (·.id)).Nodup → ∀ sp ∈ s.spans, spanCtx s sp = some (arg s 0) → ∀ w ∈ t.works, w.span = sp.uid → w.lanes ≠ 0#64 →
      w.isAccess = false ∧ ∀ tag dst v, w.kind ≠ .cpl tag dst v none)) ∧
  (∀ s c, s.awaits 7 → arg s 0 ≤ 4095 → 1 ≤ arg s 1 → arg s 1 ≤ 15 → arg s 3 ≤ 256 → arg s 3 % 16 = 0 → argsEnd s 32 = true →
    s.ctx? (arg s 0) = some c → ∃ t cy, exec .setPeerGroup s = .next t ∧ t.ctx? (arg s 0) = some cy ∧
      cy.peers = c.peers.filter (fun g => g.group != arg s 1) ++ (if arg s 3 = 0 then [] else
        [⟨arg s 1, (List.range (arg s 3 / 16)).map (peerEntry (s.hostMem.readBytes (arg s 2) (arg s 3)))⟩]) ∧ t.mail.code = 0) ∧
  (∀ s, s.awaits 9 → argsEnd s 40 = true →
    let body := reportBody s (argBytes s 0 32)
    let report := body ++ padTo 3309 (Config.sign (shake256 body))
    ∃ t, exec .attest s = .next t ∧ Finished { s with hostMem := s.hostMem.writeBytes (arg s 4) report } t 0 0) ∧
  (∀ s, s.awaits 10 → argsEnd s 16 = true → ∃ t, exec .getCert s = .next t ∧ t.mail.busy = false ∧
    (Config.certChain.length ≤ arg s 1 →
      Finished { s with hostMem := s.hostMem.writeBytes (arg s 0) Config.certChain } t 0 Config.certChain.length)) ∧
  (∀ s, s.awaits 11 → argsEnd s 16 = true → ∃ t, exec .fwDeliver s = .next t ∧
    (imageOk (s.hostMem.readBytes (arg s 0) (arg s 1)) = false → Finished s t 5 0) ∧
    (imageOk (s.hostMem.readBytes (arg s 0) (arg s 1)) = true →
      t.trust.flash = s.hostMem.readBytes (arg s 0) (arg s 1) ∧ t.trust.booted = false ∧ t.spans = [] ∧ t.ctxs = [] ∧ t.mem = s.mem)) ∧
  (∀ s, s.awaits 12 → arg s 0 % 4096 = 0 → argsEnd s 8 = true → ∃ t, exec .resync s = .next t ∧
    Finished { s with hostMem := s.hostMem.writeBytes (arg s 0) (summaryBytes s) } t 0 0) ∧
  (∀ (s : State) (op : Nat) (i : Instr), (op, i) ∈ [(1, .createContext), (2, .destroyContext), (3, .createQueue), (4, .destroyQueue), (5, .preempt),
      (6, .invalidate), (7, .setPeerGroup), (8, .debugAttach), (8, .debugDetach), (8, .debugStop), (8, .debugStep), (8, .debugStepSpan),
      (8, .debugContinue), (12, .resync)] →
    s.waiting op → s.trust.recovery = true → ∃ t, exec i s = .next t ∧ Finished s t 6 0) ∧
  (∀ (s : State) (op n : Nat) (i : Instr), (op, n, i) ∈ [(1, 8, .createContext), (2, 8, .destroyContext), (3, 16, .createQueue), (4, 8, .destroyQueue),
      (5, 0x2C, .preempt), (6, 24, .invalidate), (7, 32, .setPeerGroup), (9, 40, .attest), (10, 16, .getCert), (11, 16, .fwDeliver),
      (12, 8, .resync)] →
    s.awaits op → argsEnd s n = false → ∃ t, exec i s = .next t ∧ Finished s t 2 0)

/-- DEBUG: attach and detach, a stop at the span's next boundary, steps, and continuing a stopped span, once its frame can be read; the device
stays marked as debugged (15 R325-R327, 20 R366; a stop in trap mode, steps of a span with entries to re-inject and the codes of spans not
stopped are logs 20, 50 and 54, DEDUCED). -/
def Obligations.DebuggerCommands : Prop :=
  (∀ s c, s.awaits 8 → arg s 1 = 0 → debugArgsBad s = false → s.ctx? (arg s 0) = some c → ∃ t cy, exec .debugAttach s = .next t ∧
    t.ctx? (arg s 0) = some cy ∧ cy.debug = some (BitVec.ofNat 32 (arg s 4)) ∧ t.trust.debugged = true ∧ t.mail.code = 0) ∧
  (∀ s c, s.awaits 8 → arg s 1 = 1 → debugArgsBad s = false → s.ctx? (arg s 0) = some c →
    (∀ x ∈ s.spans, spanCtx s x = some c.num → resumeAsks s c x = none) → ∃ t cy, exec .debugDetach s = .next t ∧
    t.ctx? (arg s 0) = some cy ∧ cy.debug = none ∧ t.mail.code = 0 ∧
    ∀ x ∈ s.spans, spanCtx s x = some c.num → x.debugged = true → (s.spans.map (·.uid)).Nodup → ∃ y, t.span? x.uid = some y ∧ y.stop = .running) ∧
  (∀ s sp cx, s.awaits 8 → debugArgsBad s = false → debugSpan s = some (sp, cx) → s.span? sp.uid = some sp →
    (arg s 1 = 2 → sp.debugged = true → ∃ t, exec .debugStop s = .next t ∧ Finished s t 0 0) ∧
    (arg s 1 = 2 → sp.debugged = false → (sp.stop ≠ .running ∨ beforeSave s sp.deck = false) → ∃ t, exec .debugStop s = .next t ∧
      Finished (s.modSpan sp.uid (fun x => { x with steps := some [] })) t 0 0) ∧
    (arg s 1 = 2 → sp.stop = .running → beforeSave s sp.deck = true → sp.pending = none →
      let b := completeOlder s sp.uid
      let pc := (sp.lane (lowestLane sp.live)).pos.pc
      let iss := boundaryIssue sp.uid pc sp.live
      let t := { TrapInfo.at 0 0#64 sp.live with boundary := some pc }
      b.pendingOf sp.uid = false →
      (sp.trap ≠ none → exec .debugStop s = .next (finish
        ((holdSpan (slotsOf b sp.deck) b sp.uid).modSpan sp.uid Span.debugStopped) 0 0)) ∧
      (sp.trap = none → ∀ k, Delivers b iss t k →
        (((delivered b iss t k).span? sp.uid).any (fun x => x.debugged) = true →
          exec .debugStop s = .next (finish (delivered b iss t k) 0 0)))) ∧
    (∀ page, sp.debugged = true → resumeAsks s cx sp = some page → (arg s 1 = 3 → exec .debugStep s = .next (askPage s page)) ∧
      (arg s 1 = 4 → exec .debugStepSpan s = .next (askPage s page)) ∧ (arg s 1 = 5 → exec .debugContinue s = .next (askPage s page))) ∧
    (arg s 1 = 3 → sp.debugged = true → resumeAsks s cx sp = none → ∃ t x, exec .debugStep s = .next t ∧ t.span? sp.uid = some x ∧ x.stop = .running ∧
      x.steps = some (if sp.replay ≠ [] ∨ sp.reinj ≠ [] then [] else [BitVec.allOnes 64]) ∧ t.mail.code = 0) ∧
    (arg s 1 = 4 → sp.debugged = true → resumeAsks s cx sp = none → ∃ t x, exec .debugStepSpan s = .next t ∧ t.span? sp.uid = some x ∧
      x.stop = .running ∧ x.steps ≠ none ∧ t.mail.code = 0) ∧
    (arg s 1 = 5 → sp.debugged = true → resumeAsks s cx sp = none → ∃ t x, exec .debugContinue s = .next t ∧ t.span? sp.uid = some x ∧ x.stop = .running ∧
      x.steps = none ∧ t.mail.code = 0))

/-- Management registers, the power limit, currents, levels, voltages, errors, temperatures and refresh: a telemetry tick lowers the segment
of the highest power above its floor or raises the first capped one; a corrected error is counted, unless it lies in a block declared free
of refresh; an uncorrectable error poisons bytes, register lanes, deck memory, weights or rows, ends its segment's undervolting and writes
its event, where no older read has still to read the bytes, which would be performed first (log 67, DEDUCED) (14 R298, 20 R365, R368, 21
R376-R387; partial writes and the event of a reverted segment are logs 52 and 53, DEDUCED; the currents are log 24 and what an error of
the private pool poisons is log 25, DESIGN CHOICE). -/
def Obligations.RegisterAndPowerRows : Prop :=
  (∀ s off size v, s.mail.busy = false → off < 0x1000 →
    (off = 0 → size = 4 → exec (.registerWrite off size v) s = .next (writeCmd s v)) ∧
    (0 < off → size ≤ 8 → exec (.registerWrite off size v) s = .next (writeMailBytes s off (natBytes size v)))) ∧
  (∀ s off size v, s.mail.busy = true → off < 0x1000 → exec (.registerWrite off size v) s = .next s) ∧
  (∀ s v, s.trust.recovery = false → v < 2 ^ 64 →
    exec (.registerWrite 0x2000 8 v) s = .next (if 500 ≤ v % 65536 ∧ v % 65536 ≤ 2000
      then { s with mgmt := { s.mgmt with plimit := v % 65536 } } else s) ∧
    exec (.registerWrite 0x2010 8 v) s = .next { s with mgmt := { s.mgmt with floor := (List.range 8).map (fun k => v / 2 ^ (3 * k) % 8) } }) ∧
  (∀ s v, (v % 2 = 1 → s.trust.recovery = false → ∃ t, exec (.refsync v) s = .next t ∧ t.mgmt.refsync = true ∧ t.mgmt.nextOff = readRefmap s) ∧
    (v % 2 = 0 → exec (.refsync v) s = .next s)) ∧
  (∀ s, s.mgmt.refsync = true → ∃ t, exec .refmapApplied s = .next t ∧ t.refreshOff = s.mgmt.nextOff ∧ t.mgmt.refsync = false ∧
    (s.mem.wf = true → ∀ pa, s.refreshOff.contains (pa / 65536) ≠ s.mgmt.nextOff.contains (pa / 65536) → t.mem.read pa = 0#8 ∧ pa ∉ t.poison) ∧
    (s.mem.wf = true → ∀ pa, s.refreshOff.contains (pa / 65536) = s.mgmt.nextOff.contains (pa / 65536) → t.mem.read pa = s.mem.read pa ∧
      (pa ∈ t.poison ↔ pa ∈ s.poison))) ∧
  (∀ s seg bank, ∃ t, exec (.hbmRefresh seg bank) s = .next t ∧ t.mem = s.mem ∧ { t with mgmt := s.mgmt, segs := s.segs } = s ∧
    ((∀ b ∈ s.refreshOff, b / 2 ^ 20 ≠ seg) → t = s)) ∧
  (∀ s a ps, s.segs.length = 8 → ∃ t, exec (.powerLimitTick a ps) s = .next t ∧ t.mgmt.pkgpwr = a % 65536 ∧
    (∀ k < 8, (t.seg k).power = ps.getD k (s.seg k).power % 65536 ∧ (t.seg k).current ≤ 500) ∧
    let cap (k : Nat) : Nat := (s.seg k).powerCap
    let above (k : Nat) : Prop := s.mgmt.floor.getD k 4 < effectiveLevel s k
    let same (k : Nat) : Prop := (t.seg k).powerCap = cap k
    (s.mgmt.plimit < a → ((∀ k < 8, ¬ above k) → ∀ k < 8, same k) ∧
      ∀ k < 8, above k → (∀ j < 8, above j → (t.seg j).power < (t.seg k).power ∨ ((t.seg j).power = (t.seg k).power ∧ k ≤ j)) →
        (t.seg k).powerCap = effectiveLevel s k - 1 ∧ ∀ j < 8, j ≠ k → same j) ∧
    (a + 50 < s.mgmt.plimit → ((∀ k < 8, chosenLevel s k ≤ cap k) → ∀ k < 8, same k) ∧
      ∀ k < 8, cap k < chosenLevel s k → (∀ j < k, chosenLevel s j ≤ cap j) →
        (t.seg k).powerCap = (if cap k + 1 < chosenLevel s k then cap k + 1 else 7) ∧ ∀ j < 8, j ≠ k → same j) ∧
    (a ≤ s.mgmt.plimit → s.mgmt.plimit ≤ a + 50 → ∀ k < 8, same k)) ∧
  (∀ s k, effectiveLevel s k = min (min (chosenLevel s k) (s.seg k).powerCap) (min (s.seg k).currentCap (s.seg k).thermalCap)) ∧
  (∀ s seg amps, seg < s.segs.length → seg < 8 → ∃ t, exec (.currentLimitSkip seg amps) s = .next t ∧ (t.seg seg).current = min amps 500 ∧
    (amps ≤ 500 → (t.seg seg).currentCap = 7)) ∧
  (∀ s seg, seg < s.segs.length → ∃ t, exec (.levelChange seg) s = .next t ∧ (t.seg seg).chosen = chosenLevel s seg ∧
    ((s.seg seg).restoring = false → (t.seg seg).level = effectiveLevel s seg ∧
      (t.seg seg).volt = voltOf (effectiveLevel s seg) (s.seg seg).uvoff) ∧
    ((s.seg seg).restoring = true → (t.seg seg).level = (s.seg seg).level)) ∧
  (∀ s seg, seg < s.segs.length → seg < 8 → s.mgmt.uven.getLsbD seg = true → (s.seg seg).restoring = false →
    let off := if sramRate s seg < s.mgmt.uvthr then min ((s.seg seg).uvoff + 5) 75 else (s.seg seg).uvoff - 10
    ∃ t, exec (.undervoltAdjust seg) s = .next t ∧ t.seg seg = { s.seg seg with uvoff := off, volt := voltOf (s.seg seg).level off }) ∧
  (∀ s seg (hbm : Option Nat), seg < s.segs.length → seg < 8 →
    ((∀ addr, hbm = some addr → addr / 2 ^ 36 = seg ∧ declaredOff s addr = false) → ∃ t, exec (.eccCorrected seg hbm) s = .next t ∧
      (t.seg seg).corrected = (s.seg seg).corrected ++ [(s.time, hbm.isSome)] ∧ t.mem = s.mem ∧ t.spans = s.spans) ∧
    (∀ addr, hbm = some addr → (addr / 2 ^ 36 ≠ seg ∨ declaredOff s addr = true) → exec (.eccCorrected seg hbm) s = .next s)) ∧
  (∀ s seg struc pier addr slot reg, seg < s.segs.length → struc ≤ 2 → eccPlace seg struc pier addr = true →
    (struc = 0 → declaredOff s addr = false) → (∀ c ∈ s.ctxs, inArea s c c.d.privBase c.d.privSize (addr / 32 * 32) = false) →
    Undisturbed s (fun l => ∃ a, a / 32 = addr / 32 ∧ l = .dev a) →
    ∃ t, exec (.eccUe seg struc pier addr slot reg) s = .next t ∧ (∀ a, a / 32 = addr / 32 → a ∈ t.poison) ∧
    (∀ a, a / 32 ≠ addr / 32 → (a ∈ t.poison ↔ a ∈ s.poison)) ∧ t.mem = s.mem) ∧
  (∀ s seg struc pier addr slot reg x, (struc = 3 ∨ struc = 4) → eccPlace seg struc pier addr = true →
    (spansAt s pier).find? (fun x => x.rslot == slot) = some x → s.span? x.uid = some x → ∃ t, exec (.eccUe seg struc pier addr slot reg) s = .next t ∧
    t.span? x.uid = some { x with poison := x.poison ++ [(reg.toNat, BitVec.ofNat 64 addr &&& lanesBelow x.width)] } ∧
    (∀ u, u ≠ x.uid → t.span? u = s.span? u) ∧ t.poison = s.poison) ∧
  (∀ s seg pier addr slot reg d, eccPlace seg 5 pier addr = true → (decksAt s pier).find? (fun d => d.slot == slot) = some d →
    s.deck? d.uid = some d → addr / 32 * 32 + 32 ≤ d.memSize → Undisturbed s (fun l => ∃ o, o / 32 = addr / 32 ∧ l = .deck d.uid o) →
    ∃ t, exec (.eccUe seg 5 pier addr slot reg) s = .next t ∧
    (∀ o, poisonedAt t (.deck d.uid o) = (o / 32 == addr / 32 || poisonedAt s (.deck d.uid o))) ∧
    ∀ o, readLoc t (.deck d.uid o) = readLoc s (.deck d.uid o)) ∧
  (∀ s seg pier addr slot reg, pier < s.piers.length →
    let bytes := (List.range 32).map (addr / 32 * 32 + ·)
    (eccPlace seg 6 pier addr = true → ∃ t, exec (.eccUe seg 6 pier addr slot reg) s = .next t ∧
      (t.pier pier).mtx = (s.pier pier).mtx.map (fun m => { m with poisonW := m.poisonW ++ bytes })) ∧
    (eccPlace seg 7 pier addr = true → ∃ t, exec (.eccUe seg 7 pier addr slot reg) s = .next t ∧
      (t.pier pier).mtx = (s.pier pier).mtx.map (fun m => { m with poisonR := m.poisonR ++ bytes }))) ∧
  (∀ s seg struc pier addr slot reg, seg < s.segs.length → eccPlace seg struc pier addr = true → (struc = 0 → declaredOff s addr = false) →
    (struc ≤ 2 ∨ struc = 5 → Undisturbed s (fun _ => True)) →
    let g := s.seg seg
    let e := s.events
    let writer := if struc = 1 then ((s.writers.find? (fun x => x.1 == addr / 128)).map (·.2)).getD 0xFFFF else 0xFFFF
    let body := natBytes 1 seg ++ natBytes 1 struc ++ natBytes 2 (if struc ≤ 1 then 0xFFFF else pier) ++
      natBytes 8 (if struc ≤ 2 then addr else 0) ++ natBytes 2 writer
    let reverts : Prop := struc ≠ 0 ∧ g.uvoff ≠ 0
    ∃ t, exec (.eccUe seg struc pier addr slot reg) s = .next t ∧ (t.seg seg).uncorrected = g.uncorrected + 1 ∧
      (reverts → (t.seg seg).uvoff = 0 ∧ (t.seg seg).restoring = true ∧ t.mgmt.uven = s.mgmt.uven &&& ~~~(BitVec.ofNat 8 (2 ^ seg))) ∧
      (¬ reverts → (t.seg seg).uvoff = g.uvoff ∧ (t.seg seg).restoring = g.restoring ∧ t.mgmt.uven = s.mgmt.uven) ∧
      ((e.base = 0#64 ∨ e.count = 0#32 ∨ e.wr - e.rd = e.count) → t.events = { e with lost := e.lost + 1#32 } ∧ t.hostMem = s.hostMem) ∧
      (e.base ≠ 0#64 → e.count ≠ 0#32 → e.wr - e.rd ≠ e.count → t.events.wr = e.wr + 1#32 ∧ t.events.lost = 0#32 ∧
        (reverts → t.hostMem = s.hostMem.writeBytes (e.base.toNat + 128 * (e.wr.toNat % e.count.toNat))
          (eventBytes 0x0011 writer e.lost.toNat s.time (body ++ natBytes 1 g.uvoff))) ∧
        (¬ reverts → t.hostMem = s.hostMem.writeBytes (e.base.toNat + 128 * (e.wr.toNat % e.count.toNat))
          (eventBytes 0x0010 writer e.lost.toNat s.time body)))) ∧
  (∀ s seg struc pier addr slot reg, (8 ≤ seg ∨ (struc ≤ 1 ∧ addr / 2 ^ 36 ≠ seg) ∨ (2 ≤ struc ∧ (288 ≤ pier ∨ segOf pier ≠ seg)) ∨
      (6 ≤ struc ∧ gradeOf pier = .v) ∨ (struc = 6 ∧ 131072 ≤ addr) ∨ (struc = 5 ∧ deckMemOf pier ≤ addr)) →
    exec (.eccUe seg struc pier addr slot reg) s = .next s) ∧
  (∀ s seg temp, seg < s.segs.length → seg < 8 → 105 ≤ temp → ∃ t, exec (.thermal seg temp) s = .next t ∧ (t.seg seg).thermalCap = 3 ∧
    let e := s.events
    ((s.seg seg).thermalCap ≠ 3 → e.base ≠ 0#64 → e.count ≠ 0#32 → e.wr - e.rd ≠ e.count → t.events.wr = e.wr + 1#32 ∧
      t.hostMem = s.hostMem.writeBytes (e.base.toNat + 128 * (e.wr.toNat % e.count.toNat))
        (eventBytes 0x0012 0xFFFF e.lost.toNat s.time (natBytes 1 seg ++ natBytes 2 temp)))) ∧
  (∀ s seg temp, seg < s.segs.length → (temp < 95 → ∃ t, exec (.thermalRelease seg temp) s = .next t ∧ (t.seg seg).thermalCap = 7) ∧
    (95 ≤ temp → exec (.thermalRelease seg temp) s = .next s)) ∧
  (∀ s seg, seg < s.segs.length → (s.seg seg).restoring = true → ∃ t, exec (.uvRestoreDone seg) s = .next t ∧ (t.seg seg).restoring = false ∧
    (t.seg seg).level = effectiveLevel s seg ∧ ((s.seg seg).uvoff = 0 → (t.seg seg).volt = guardVolt (effectiveLevel s seg)))

/-- Boot, host accesses, the link and translations: verified firmware runs, a host write reaches memory and a host read changes nothing, a
link reset ends its configuration, and the host's answers are kept (10 R259, 20 R362, R363, R371-R373; when ATS is on and the width after
a link reset are log 61, DEDUCED). -/
def Obligations.BootHostAndLinkRows : Prop :=
  (∀ s, s.trust.booted = false → ∃ t, exec .deviceBoot s = .next t ∧ t.trust.booted = true ∧
    (imageOk s.trust.flash = true → t.trust.running = s.trust.flash ∧ t.trust.recovery = false ∧ t.trust.boots = s.trust.boots + 1) ∧
    (imageOk s.trust.flash = false → t.trust.running = [] ∧ t.trust.recovery = true) ∧ { t with trust := s.trust } = s) ∧
  (∀ s addr bytes, exec (.hostMemAccess false addr bytes) s = .next s) ∧
  (∀ s addr bytes, s.trust.recovery = false → s.mem.wf = true → addr + bytes.length ≤ 2 ^ 39 → ∃ t, exec (.hostMemAccess true addr bytes) s = .next t ∧
    (∀ i (h : i < bytes.length), declaredOff s (addr + i) = false → devByte t (addr + i) = bytes[i]) ∧
    (∀ pa, pa < addr ∨ addr + bytes.length ≤ pa → devByte t pa = devByte s pa) ∧ t.hostMem = s.hostMem) ∧
  (∀ s page, ∃ t, exec (.atsInvalidation page) s = .next t ∧ ∀ x ∈ t.ats, x.1 ≠ page) ∧
  (∀ s page target ok, s.atsAsked.contains page = true → ∃ t, exec (.atsTranslationCompletion page target ok) s = .next t ∧
    t.ats.find? (fun x => x.1 == page) = some (page, if ok then some target else none) ∧ t.trust.ats = true ∧
    (s.owed = [] → page ∉ t.atsAsked)) ∧
  (∀ s page target ok, s.atsAsked.contains page = false → exec (.atsTranslationCompletion page target ok) s = .next s) ∧
  (∀ s bdf, ∃ t, exec (.peerFailure bdf) s = .next t ∧ { t with works := s.works } = s ∧
    (∀ c ∈ s.ctxs, ∀ g ∈ c.peers, (∃ r ∈ g.ranks, r.1 = bdf) → ∀ w ∈ t.works, ∀ x, w.kind = .copy x → x.ctx = c.num → x.op = 5 →
      bitsOf (descAux x.desc) 4 4 = g.group → x.cut = true)) ∧
  (∀ s, ∃ w, (w = 8 ∨ w = 16) ∧
    exec .linkReset s = .next { s with trust := { s.trust with linkWidth := w, ide := [], ats := false, pri := false } }) ∧
  (∀ s key, exec (.ideKm key) s = .next { s with trust := { s.trust with ide := key } })

/-! ## One rule, one instruction -/

/-- mset (0x13) sets mask bits from a register: d holds the mask number, b and x must be zero, and for each lane l in A, m[K][l] becomes 1
exactly where V[a][l] is not 0 (05 R103). -/
def Obligations.MsetSetsMaskBits : Prop :=
  (∀ k a h, Marks (.mset k a h) k.toNat (fun c => c.bits k.toNat (fun l => c.src a l != 0#32))) ∧
  (∀ k a h, maskReg k = true → decode .ctrl (Instr.encodeWord (.mset k a h)) none = some (.mset k a h)) ∧
  (∀ (w : Word) lit, fOp w = 0x13#8 → (fB w ≠ 0#7 ∨ fX w = true ∨ 11 < (fD w).toNat) → decode .ctrl w lit = none) ∧
  (∀ (w : Word) lit i, fOp w = 0x13#8 → decode .ctrl w lit = some i → i = .mset (fD w) (fA w) (fHa w))

/-! ## Issue -/

/-- What every instruction meets before its own meaning: on a pier of the wrong grade it does not run; with no lane executing it only passes,
but for ser, endser and tret, which act for the span; a poisoned source of an executing lane raises POISON (01 R29, 03 R73, 15 R316, 21
R382; that POISON comes before the instruction's own part of check 5 is log 82, DESIGN CHOICE). -/
def Obligations.IssueRules : Prop :=
  ∀ i s c, i.cls.isSome = true → startCtx i s = some c →
    (∀ g, i.grade = some g → g ≠ gradeOf c.deck.pier → exec i s = wrongGrade c 0 c.s g) ∧
    ((∀ g, i.grade = some g → g = gradeOf c.deck.pier) →
      (c.A = 0#64 → (∀ off, i ≠ .ser off) → i ≠ .endser → i ≠ .tret → exec i s = .next (goOn c.s c.iss c.iss.gset)) ∧
      (c.A ≠ 0#64 → poisonLanes c i ≠ 0#64 → exec i s = takeTrapFrom c.before c.s c.iss (TrapInfo.at 0x000C 0#64 (poisonLanes c i))))

/-- A step runs the decoded instruction: an issue that has been picked has its words fetched; where they decode to i, which is not held back,
the step is exec of i with the issue picked; its issue writes its pier's latch, the counters and the time of its span's last issue and
nothing else of the machine; where i waits for a register, for the stack pointer of a popv that is outstanding (log 88, DESIGN CHOICE),
for a read of its span that may yet raise POISON (15 R300; log 67, DEDUCED), or, a tret, for the registers that it restores (01 R33; log
95, DEDUCED), the issue is put back; where the words do not decode, ILLEGAL_INSTRUCTION is taken, which names the PC group (log 6,
DEDUCED). Where the agenda lets another issue of the span come ahead, that is picked first (log 67, DEDUCED). With nothing picked, the
next entry of the agenda runs (03 R56, R59, R73, 01 R33, R34, 15 R315; log 1, DESIGN CHOICE). -/
def Obligations.StepsRunTheDecodedInstruction : Prop :=
  (∀ s iss rest c w lit, s.issuing = iss :: rest → iss.cols = none → picksAhead (advance s) = none →
    let b := { advance s with issuing := rest }
    let e := { iss with word := w, lit := lit }
    ctxOf b iss = some c → c.reached = true → fetchIssue b c.cx iss = .words w lit → (iss.bound = true ∨ bindCause c.cx iss.pc = none) →
    let held (i : Instr) : Prop := (∃ r ∈ namedRegs c.launch.slots i, regPending b iss.span r = true) ∨
      (usesStack i = true ∧ ∃ x ∈ b.works, x.span = iss.span ∧ x.isPop = true) ∨
      (∃ x ∈ b.works, x.span = iss.span ∧ x.doubtful b = true) ∨
      (i = .tret ∧ (∀ x ∈ b.works, x.span = iss.span → x.suspended = false) ∧ ∃ r ∈ [124, 125, 126, 127], regPending b iss.span r = true)
    (∀ i, decode iss.cls w lit = some i → callMisplaced e i = false → ¬held i →
      step s = exec i { b with cur := some e } ∧
      ∃ k, startCtx i { b with cur := some e } = some k ∧ k.iss = e ∧ k.before = { b with cur := none } ∧ Elsewhere k.before k.s iss.span ∧
        k.sp = { c.sp with lastIssue := b.time, front := b.fresh } ∧ k.s.span? iss.span = some k.sp ∧ ∀ p, (k.s.pier p).pool = (b.pier p).pool) ∧
    (∀ i, decode iss.cls w lit = some i → callMisplaced e i = false → held i → step s = .next (putBack b e)) ∧
    ((decode iss.cls w lit = none ∨ ∃ i, decode iss.cls w lit = some i ∧ callMisplaced e i = true) →
      step s = takeTrap b e (TrapInfo.at 0x0001 0#64 iss.gset))) ∧
  (∀ s (w : Work), w.doubtful s = true ↔ ((∃ sz, w.kind = .load sz) ∨ (∃ op cas wide, w.kind = .atomic op cas wide) ∨ (∃ f v x, w.kind = .scale f v x)) ∧
    ((∃ a ∈ w.accs, ∃ i < a.size, poisonMark s (a.loc.plus i) = true) ∨ ∃ x ∈ olderNeeds s w, x.1.isCpl = true ∧ x.2 = true)) ∧
  (∀ s iss rest i, s.issuing = iss :: rest → picksAhead (advance s) = some i → step s = exec i { advance s with agenda := s.agenda.tail }) ∧
  (∀ s i rest, s.issuing = [] → s.agenda = i :: rest → step s = exec i { advance s with agenda := rest }) ∧
  (∀ s, { advance s with time := s.time, steps := s.steps, hw := s.hw, mgmt := s.mgmt } = s ∧ (advance s).time = s.time + Config.elapsed s.steps)

/-! ## Encodings -/

/-- Words of the manual's own encoding tables, one or more of each family, decode to the instructions they stand for (03 R61-R72; 05, 06, 07,
08, 11 "Encodings"). -/
def Obligations.TabledWordsDecode : Prop :=
  decode .alu 0x33281040#32 none = some (.addc 3#4 ⟨20#7, 4#7, .reg 8#7, 0#2, false⟩) ∧
  decode .alu 0x160A1839#32 none = some (.bfx ⟨5#7, 6#7, .reg 7#7, 0#2, true⟩) ∧
  decode .alu 0x6D242800#32 none = some (.cmpI32Imm ⟨2#4, 2#3, 10#7, 0#10⟩) ∧
  decode .alu 0x0F7003F8#32 (some 0xFFFFFFFF#32) = some (.movl 56#7 false 0xFFFFFFFF#32) ∧
  decode .alu 0x8C4044A0#32 none = some (.ffma ⟨0#2, 32#7, 17#7, .reg 20#7, 0#2⟩) ∧
  decode .alu 0xD00A1AB0#32 none = some (.cvt 5#7 6#7 10#4 12#4 0#2) ∧
  decode .alu 0xF0281030#32 none = some (.isect ⟨20#7, 4#7, 6#7, 0#2⟩) ∧
  decode .ctrl 0x050A0018#32 none = some (.growTry 5#7 24#9) ∧
  decode .ctrl 0x10500000#32 none = some (.join 5#4) ∧
  decode .ctrl 0x2020000C#32 none = some (.bra 2#4 12#20) ∧
  decode .mem 0x54141800#32 none = some (.st ⟨1#2, false, 4#3, 10#7, 6#7, 0#10⟩) ∧
  decode .mem 0xB00A403A#32 none = some (.atom 0#4 ⟨5#7, 16#7, .reg 7#7, 1#2⟩) ∧
  decode .mem 0xDA407AD2#32 none = some (.rel ⟨32#7, 30#7, 5#3, 5#3, 1#2⟩) ∧
  decode .cpy 0x002858C0#32 none = some (.cpl 20#7 22#7 24#7 0#3) ∧
  decode .mtx 0x0304A030#32 none = some (.mxsign 2#7 40#7 6#7 0#3) ∧
  decode .sys 0x24508920#32 none = some (.dfree 5#4 34#7 36#7) ∧
  decodeHeader 0x24400000#32 = some ⟨2, .mem, 2, false, 0#8, 0⟩

/-- Decode and encode agree: every well-formed instruction of every class decodes from its own words with every operand at every value the
encoding admits, and a word that decodes is the word of a well-formed instruction of the class (03 R61-R73). -/
def Obligations.DecodeInvertsEncode : Prop :=
  (∀ i c, i.wf = true → i.cls = some c → decode c i.encodeWord i.literal = some i) ∧
  (∀ c w lit i, decode c w lit = some i → i.wf = true ∧ i.encodeWord = w ∧ i.cls = some c ∧
    (i.literal = none ∨ i.literal = lit))

/-! ## Reset and every step -/

/-- What reset leaves: the management, counter and event registers at the values the manual gives, every segment at level 4 and 620 mV, the
telemetry fields at zero, every pier with its pool of 24,576 slots free (01, the text before R23), and nothing resident or outstanding (21
R378, R381, R390, 20 R368); that every matrix unit is as after a clear and unowned, and what the manual gives no reset value for, is the
model's choice (log 5, DESIGN CHOICE). -/
def Obligations.ResetValues : Prop :=
  let s := State.reset
  s.mgmt.plimit = 2000 ∧ s.mgmt.quantum = 100 ∧ s.mgmt.floor = [4, 4, 4, 4, 4, 4, 4, 4] ∧ s.mgmt.uven = 0#8 ∧ s.mgmt.uvthr = 16 ∧
  s.mgmt.refmap = 0#64 ∧ s.mgmt.refsync = false ∧ s.mgmt.pierSel = 0 ∧ (∀ t < 36, s.mgmt.tslope[t]? = some 0x0410#16) ∧
  (∀ i < 32, s.mgmt.cnt[i]? = some 0#64 ∧ s.mgmt.sel[i]? = some 0#32) ∧
  (∀ k < 8, (s.seg k).level = 4 ∧ (s.seg k).chosen = 4 ∧ (s.seg k).volt = 620 ∧ (s.seg k).uvoff = 0 ∧ (s.seg k).power = 0 ∧
    (s.seg k).current = 0 ∧ ∀ i < 16, (s.seg k).cnt[i]? = some 0#64 ∧ (s.seg k).sel[i]? = some 0#32) ∧
  (∀ p < 288, (s.pier p).pool = 24576 ∧ (s.pier p).owner = none ∧ (s.pier p).mtx = (if p < 160 then some .clear else none) ∧
    ∀ i < 8, (s.pier p).cnt[i]? = some 0#64 ∧ (s.pier p).sel[i]? = some 0#32) ∧
  s.events.base = 0#64 ∧ s.events.count = 0#32 ∧ s.events.wr = 0#32 ∧ s.events.rd = 0#32 ∧
  s.spans = [] ∧ s.decks = [] ∧ s.girders = [] ∧ s.launches = [] ∧ s.queues = [] ∧ s.ctxs = [] ∧ s.works = [] ∧ s.issuing = []

/-- Every byte memory is canonical right after reset: nothing is listed, which is the model's choice for memory that nothing has written (log
2, DESIGN CHOICE); the memories are those of file 10, "Spaces". -/
def Obligations.ResetMemoryIsCanonical : Prop :=
  Canon State.reset

/-- Every step keeps device memory, host memory and every deck's and private memory in canonical form, from every state (02 R37, 10 R242; log
2). -/
def Obligations.StepsKeepMemoryCanonical : Prop :=
  ∀ s t, Canon s → step s = .next t → Canon t

/-- Host writes to the event ring's and the management registers: a value outside a register's limits is ignored, an undervolting bit that is
cleared ends its segment's offset, a select takes a listed source of its class, and what is not listed is ignored; a host read returns the
registers, and zero from reserved offsets, GO and the doorbells (20 R364, R365, R367, R368, 21 R378, R381, R390, 00 R8; writes of part of
a register are log 52, DEDUCED). -/
def Obligations.HostRegisterWritesAndReads : Prop :=
  (∀ s v, s.trust.recovery = false → v < 2 ^ 64 →
    (v % 128 = 0 → exec (.registerWrite 0x1000 8 v) s = .next { s with events := { s.events with base := BitVec.ofNat 64 v } }) ∧
    (v % 128 ≠ 0 → exec (.registerWrite 0x1000 8 v) s = .next s) ∧
    (v % 2 ^ 20 = 0 ∧ v < 2 ^ 39 → exec (.registerWrite 0x2300 8 v) s = .next { s with mgmt := { s.mgmt with refmap := BitVec.ofNat 64 v } }) ∧
    (v % 2 ^ 20 ≠ 0 ∨ 2 ^ 39 ≤ v → exec (.registerWrite 0x2300 8 v) s = .next s) ∧
    (∀ t < 36, (v % 256 = 0 → exec (.registerWrite (0x2100 + 8 * t) 8 v) s = .next s) ∧
      (v % 256 ≠ 0 → exec (.registerWrite (0x2100 + 8 * t) 8 v) s =
        .next { s with mgmt := { s.mgmt with tslope := s.mgmt.tslope.set t (BitVec.ofNat 16 v) } })) ∧
    (∀ i < 32, exec (.registerWrite (0x2400 + 8 * i) 8 v) s =
      .next { s with mgmt := { s.mgmt with cnt := s.mgmt.cnt.set i (BitVec.ofNat 64 (v % 2 ^ 48)) } }) ∧
    (∀ k < 8, ∀ i < 16, exec (.registerWrite (0x2600 + 128 * k + 8 * i) 8 v) s =
      .next (s.modSeg k (fun g => { g with cnt := g.cnt.set i (BitVec.ofNat 64 (v % 2 ^ 48)) }))) ∧
    (∀ i < 8, exec (.registerWrite (0x2C40 + 8 * i) 8 v) s =
      .next (s.modPier s.mgmt.pierSel (fun p => { p with cnt := p.cnt.set i (BitVec.ofNat 64 (v % 2 ^ 48)) })))) ∧
  (∀ s v, s.trust.recovery = false → v < 2 ^ 32 →
    ((∃ k, 4 ≤ k ∧ k ≤ 16 ∧ v = 2 ^ k) → exec (.registerWrite 0x1008 4 v) s = .next { s with events := { s.events with count := BitVec.ofNat 32 v } }) ∧
    ((∀ k, 4 ≤ k → k ≤ 16 → v ≠ 2 ^ k) → exec (.registerWrite 0x1008 4 v) s = .next s) ∧
    exec (.registerWrite 0x100C 4 v) s = .next s ∧
    exec (.registerWrite 0x1010 4 v) s = .next { s with events := { s.events with rd := BitVec.ofNat 32 v } } ∧
    (1 ≤ v ∧ v ≤ 1000 → exec (.registerWrite 0x2008 4 v) s = .next { s with mgmt := { s.mgmt with quantum := v } }) ∧
    (v = 0 ∨ 1000 < v → exec (.registerWrite 0x2008 4 v) s = .next s) ∧
    (1 ≤ v ∧ v ≤ 65535 → exec (.registerWrite 0x201C 4 v) s = .next { s with mgmt := { s.mgmt with uvthr := v } }) ∧
    (v = 0 ∨ 65535 < v → exec (.registerWrite 0x201C 4 v) s = .next s) ∧
    (v < 288 → exec (.registerWrite 0x2C00 4 v) s = .next { s with mgmt := { s.mgmt with pierSel := v } }) ∧
    (288 ≤ v → exec (.registerWrite 0x2C00 4 v) s = .next s) ∧
    (∃ t, exec (.registerWrite 0x2018 4 v) s = .next t ∧ t.mgmt = { s.mgmt with uven := BitVec.ofNat 8 v } ∧
      { t with mgmt := s.mgmt, segs := s.segs } = s ∧ ∀ k < s.segs.length, t.seg k =
        if v.testBit k = true ∨ (s.seg k).restoring = true then s.seg k
        else { s.seg k with uvoff := 0, volt := max (guardVolt (s.seg k).level) 450 }) ∧
    (let pier (c : Nat) : Bool := decide (0x01 ≤ c) && decide (c ≤ 0x0E)
     let seg (c : Nat) : Bool := pier c || (decide (0x20 ≤ c) && decide (c ≤ 0x28))
     let dev (c : Nat) : Bool := seg c || (decide (0x40 ≤ c) && decide (c ≤ 0x47))
     (∀ i < 32, exec (.registerWrite (0x2500 + 4 * i) 4 v) s =
       .next { s with mgmt := { s.mgmt with sel := s.mgmt.sel.modify i (selectAfter dev v) } }) ∧
     (∀ k < 8, ∀ i < 16, exec (.registerWrite (0x2A00 + 64 * k + 4 * i) 4 v) s =
       .next (s.modSeg k (fun g => { g with sel := g.sel.modify i (selectAfter seg v) }))) ∧
     (∀ i < 8, exec (.registerWrite (0x2C80 + 4 * i) 4 v) s =
       .next (s.modPier s.mgmt.pierSel (fun p => { p with sel := p.sel.modify i (selectAfter pier v) }))))) ∧
  (∀ s off size v, (0x1014 ≤ off ∧ off < 0x2000) ∨ (0x2040 ≤ off ∧ off < 0x2080) ∨ (0x2CA0 ≤ off) →
    exec (.registerWrite off size v) s = .next s) ∧
  (∀ s, Banked s →
    (∀ off, 0x8000 ≤ off → barByte s off = 0#8) ∧
    (s.mail.opcode < 65536 → barRead s 0x0000 8 = s.mail.opcode) ∧
    (s.mail.code < 65536 → barRead s 0x0008 8 = s.mail.code + (if s.mail.busy then 2 ^ 31 else 0)) ∧
    (∀ i < 128, barByte s (0x0040 + i) = s.mail.args.getD i 0#8 ∧ barByte s (0x00C0 + i) = s.mail.result.getD i 0#8) ∧
    (s.trust.recovery = false →
      barRead s 0x1000 8 = s.events.base.toNat ∧ barRead s 0x1008 4 = s.events.count.toNat ∧ barRead s 0x100C 4 = s.events.wr.toNat ∧
      barRead s 0x1010 4 = s.events.rd.toNat ∧
      (s.mgmt.plimit < 65536 → s.mgmt.pkgpwr < 65536 → barRead s 0x2000 8 = s.mgmt.plimit + 65536 * s.mgmt.pkgpwr) ∧
      (s.mgmt.quantum < 2 ^ 32 → barRead s 0x2008 4 = s.mgmt.quantum) ∧ barRead s 0x2018 4 = s.mgmt.uven.toNat ∧
      (∀ k < 8, barRead s (0x2040 + 8 * k) 8 = segStat s k) ∧ (∀ t < 36, barRead s (0x2100 + 8 * t) 8 = (s.mgmt.tslope.getD t 0#16).toNat) ∧
      barRead s 0x2300 8 = s.mgmt.refmap.toNat ∧ barRead s 0x2308 4 = (if s.mgmt.refsync then 1 else 0) ∧
      (∀ i < 32, barRead s (0x2400 + 8 * i) 8 = (s.mgmt.cnt.getD i 0#64).toNat ∧ barRead s (0x2500 + 4 * i) 4 = (s.mgmt.sel.getD i 0#32).toNat) ∧
      (∀ i < 8, barRead s (0x2C40 + 8 * i) 8 = ((s.pier s.mgmt.pierSel).cnt.getD i 0#64).toNat)))
end

