-- ==== Sys2Proof/Laws/State.lean ====
section
/-! SUPPORT. One lemma for each field of the state and each update of a named part: what the update leaves alone. -/

namespace Sys2Proof.Machine.State

variable (s : State)

@[simp] theorem modSpan_agenda (u : Nat) (f : Span → Span) : (s.modSpan u f).agenda = s.agenda := rfl
@[simp] theorem modSpan_issuing (u : Nat) (f : Span → Span) : (s.modSpan u f).issuing = s.issuing := rfl
@[simp] theorem modSpan_cur (u : Nat) (f : Span → Span) : (s.modSpan u f).cur = s.cur := rfl
@[simp] theorem modSpan_steps (u : Nat) (f : Span → Span) : (s.modSpan u f).steps = s.steps := rfl
@[simp] theorem modSpan_free (u : Nat) (f : Span → Span) : (s.modSpan u f).free = s.free := rfl
@[simp] theorem modSpan_fresh (u : Nat) (f : Span → Span) : (s.modSpan u f).fresh = s.fresh := rfl
@[simp] theorem modSpan_time (u : Nat) (f : Span → Span) : (s.modSpan u f).time = s.time := rfl
@[simp] theorem modSpan_mem (u : Nat) (f : Span → Span) : (s.modSpan u f).mem = s.mem := rfl
@[simp] theorem modSpan_hostMem (u : Nat) (f : Span → Span) : (s.modSpan u f).hostMem = s.hostMem := rfl
@[simp] theorem modSpan_poison (u : Nat) (f : Span → Span) : (s.modSpan u f).poison = s.poison := rfl
@[simp] theorem modSpan_owners (u : Nat) (f : Span → Span) : (s.modSpan u f).owners = s.owners := rfl
@[simp] theorem modSpan_writers (u : Nat) (f : Span → Span) : (s.modSpan u f).writers = s.writers := rfl
@[simp] theorem modSpan_code (u : Nat) (f : Span → Span) : (s.modSpan u f).code = s.code := rfl
@[simp] theorem modSpan_decks (u : Nat) (f : Span → Span) : (s.modSpan u f).decks = s.decks := rfl
@[simp] theorem modSpan_girders (u : Nat) (f : Span → Span) : (s.modSpan u f).girders = s.girders := rfl
@[simp] theorem modSpan_launches (u : Nat) (f : Span → Span) : (s.modSpan u f).launches = s.launches := rfl
@[simp] theorem modSpan_ctxs (u : Nat) (f : Span → Span) : (s.modSpan u f).ctxs = s.ctxs := rfl
@[simp] theorem modSpan_queues (u : Nat) (f : Span → Span) : (s.modSpan u f).queues = s.queues := rfl
@[simp] theorem modSpan_hw (u : Nat) (f : Span → Span) : (s.modSpan u f).hw = s.hw := rfl
@[simp] theorem modSpan_piers (u : Nat) (f : Span → Span) : (s.modSpan u f).piers = s.piers := rfl
@[simp] theorem modSpan_segs (u : Nat) (f : Span → Span) : (s.modSpan u f).segs = s.segs := rfl
@[simp] theorem modSpan_waves (u : Nat) (f : Span → Span) : (s.modSpan u f).waves = s.waves := rfl
@[simp] theorem modSpan_bus (u : Nat) (f : Span → Span) : (s.modSpan u f).bus = s.bus := rfl
@[simp] theorem modSpan_works (u : Nat) (f : Span → Span) : (s.modSpan u f).works = s.works := rfl
@[simp] theorem modSpan_owed (u : Nat) (f : Span → Span) : (s.modSpan u f).owed = s.owed := rfl
@[simp] theorem modSpan_mail (u : Nat) (f : Span → Span) : (s.modSpan u f).mail = s.mail := rfl
@[simp] theorem modSpan_events (u : Nat) (f : Span → Span) : (s.modSpan u f).events = s.events := rfl
@[simp] theorem modSpan_msix (u : Nat) (f : Span → Span) : (s.modSpan u f).msix = s.msix := rfl
@[simp] theorem modSpan_mgmt (u : Nat) (f : Span → Span) : (s.modSpan u f).mgmt = s.mgmt := rfl
@[simp] theorem modSpan_trust (u : Nat) (f : Span → Span) : (s.modSpan u f).trust = s.trust := rfl
@[simp] theorem modSpan_refreshOff (u : Nat) (f : Span → Span) : (s.modSpan u f).refreshOff = s.refreshOff := rfl
@[simp] theorem modSpan_ats (u : Nat) (f : Span → Span) : (s.modSpan u f).ats = s.ats := rfl
@[simp] theorem modSpan_atsAsked (u : Nat) (f : Span → Span) : (s.modSpan u f).atsAsked = s.atsAsked := rfl
@[simp] theorem modSpan_prgLoose (u : Nat) (f : Span → Span) : (s.modSpan u f).prgLoose = s.prgLoose := rfl

@[simp] theorem modDeck_agenda (u : Nat) (f : Deck → Deck) : (s.modDeck u f).agenda = s.agenda := rfl
@[simp] theorem modDeck_issuing (u : Nat) (f : Deck → Deck) : (s.modDeck u f).issuing = s.issuing := rfl
@[simp] theorem modDeck_cur (u : Nat) (f : Deck → Deck) : (s.modDeck u f).cur = s.cur := rfl
@[simp] theorem modDeck_steps (u : Nat) (f : Deck → Deck) : (s.modDeck u f).steps = s.steps := rfl
@[simp] theorem modDeck_free (u : Nat) (f : Deck → Deck) : (s.modDeck u f).free = s.free := rfl
@[simp] theorem modDeck_fresh (u : Nat) (f : Deck → Deck) : (s.modDeck u f).fresh = s.fresh := rfl
@[simp] theorem modDeck_time (u : Nat) (f : Deck → Deck) : (s.modDeck u f).time = s.time := rfl
@[simp] theorem modDeck_mem (u : Nat) (f : Deck → Deck) : (s.modDeck u f).mem = s.mem := rfl
@[simp] theorem modDeck_hostMem (u : Nat) (f : Deck → Deck) : (s.modDeck u f).hostMem = s.hostMem := rfl
@[simp] theorem modDeck_poison (u : Nat) (f : Deck → Deck) : (s.modDeck u f).poison = s.poison := rfl
@[simp] theorem modDeck_owners (u : Nat) (f : Deck → Deck) : (s.modDeck u f).owners = s.owners := rfl
@[simp] theorem modDeck_writers (u : Nat) (f : Deck → Deck) : (s.modDeck u f).writers = s.writers := rfl
@[simp] theorem modDeck_code (u : Nat) (f : Deck → Deck) : (s.modDeck u f).code = s.code := rfl
@[simp] theorem modDeck_spans (u : Nat) (f : Deck → Deck) : (s.modDeck u f).spans = s.spans := rfl
@[simp] theorem modDeck_girders (u : Nat) (f : Deck → Deck) : (s.modDeck u f).girders = s.girders := rfl
@[simp] theorem modDeck_launches (u : Nat) (f : Deck → Deck) : (s.modDeck u f).launches = s.launches := rfl
@[simp] theorem modDeck_ctxs (u : Nat) (f : Deck → Deck) : (s.modDeck u f).ctxs = s.ctxs := rfl
@[simp] theorem modDeck_queues (u : Nat) (f : Deck → Deck) : (s.modDeck u f).queues = s.queues := rfl
@[simp] theorem modDeck_hw (u : Nat) (f : Deck → Deck) : (s.modDeck u f).hw = s.hw := rfl
@[simp] theorem modDeck_piers (u : Nat) (f : Deck → Deck) : (s.modDeck u f).piers = s.piers := rfl
@[simp] theorem modDeck_segs (u : Nat) (f : Deck → Deck) : (s.modDeck u f).segs = s.segs := rfl
@[simp] theorem modDeck_waves (u : Nat) (f : Deck → Deck) : (s.modDeck u f).waves = s.waves := rfl
@[simp] theorem modDeck_bus (u : Nat) (f : Deck → Deck) : (s.modDeck u f).bus = s.bus := rfl
@[simp] theorem modDeck_works (u : Nat) (f : Deck → Deck) : (s.modDeck u f).works = s.works := rfl
@[simp] theorem modDeck_owed (u : Nat) (f : Deck → Deck) : (s.modDeck u f).owed = s.owed := rfl
@[simp] theorem modDeck_mail (u : Nat) (f : Deck → Deck) : (s.modDeck u f).mail = s.mail := rfl
@[simp] theorem modDeck_events (u : Nat) (f : Deck → Deck) : (s.modDeck u f).events = s.events := rfl
@[simp] theorem modDeck_msix (u : Nat) (f : Deck → Deck) : (s.modDeck u f).msix = s.msix := rfl
@[simp] theorem modDeck_mgmt (u : Nat) (f : Deck → Deck) : (s.modDeck u f).mgmt = s.mgmt := rfl
@[simp] theorem modDeck_trust (u : Nat) (f : Deck → Deck) : (s.modDeck u f).trust = s.trust := rfl
@[simp] theorem modDeck_refreshOff (u : Nat) (f : Deck → Deck) : (s.modDeck u f).refreshOff = s.refreshOff := rfl
@[simp] theorem modDeck_ats (u : Nat) (f : Deck → Deck) : (s.modDeck u f).ats = s.ats := rfl
@[simp] theorem modDeck_atsAsked (u : Nat) (f : Deck → Deck) : (s.modDeck u f).atsAsked = s.atsAsked := rfl
@[simp] theorem modDeck_prgLoose (u : Nat) (f : Deck → Deck) : (s.modDeck u f).prgLoose = s.prgLoose := rfl

@[simp] theorem modGirder_agenda (u : Nat) (f : Girder → Girder) : (s.modGirder u f).agenda = s.agenda := rfl
@[simp] theorem modGirder_issuing (u : Nat) (f : Girder → Girder) : (s.modGirder u f).issuing = s.issuing := rfl
@[simp] theorem modGirder_cur (u : Nat) (f : Girder → Girder) : (s.modGirder u f).cur = s.cur := rfl
@[simp] theorem modGirder_steps (u : Nat) (f : Girder → Girder) : (s.modGirder u f).steps = s.steps := rfl
@[simp] theorem modGirder_free (u : Nat) (f : Girder → Girder) : (s.modGirder u f).free = s.free := rfl
@[simp] theorem modGirder_fresh (u : Nat) (f : Girder → Girder) : (s.modGirder u f).fresh = s.fresh := rfl
@[simp] theorem modGirder_time (u : Nat) (f : Girder → Girder) : (s.modGirder u f).time = s.time := rfl
@[simp] theorem modGirder_mem (u : Nat) (f : Girder → Girder) : (s.modGirder u f).mem = s.mem := rfl
@[simp] theorem modGirder_hostMem (u : Nat) (f : Girder → Girder) : (s.modGirder u f).hostMem = s.hostMem := rfl
@[simp] theorem modGirder_poison (u : Nat) (f : Girder → Girder) : (s.modGirder u f).poison = s.poison := rfl
@[simp] theorem modGirder_owners (u : Nat) (f : Girder → Girder) : (s.modGirder u f).owners = s.owners := rfl
@[simp] theorem modGirder_writers (u : Nat) (f : Girder → Girder) : (s.modGirder u f).writers = s.writers := rfl
@[simp] theorem modGirder_code (u : Nat) (f : Girder → Girder) : (s.modGirder u f).code = s.code := rfl
@[simp] theorem modGirder_spans (u : Nat) (f : Girder → Girder) : (s.modGirder u f).spans = s.spans := rfl
@[simp] theorem modGirder_decks (u : Nat) (f : Girder → Girder) : (s.modGirder u f).decks = s.decks := rfl
@[simp] theorem modGirder_launches (u : Nat) (f : Girder → Girder) : (s.modGirder u f).launches = s.launches := rfl
@[simp] theorem modGirder_ctxs (u : Nat) (f : Girder → Girder) : (s.modGirder u f).ctxs = s.ctxs := rfl
@[simp] theorem modGirder_queues (u : Nat) (f : Girder → Girder) : (s.modGirder u f).queues = s.queues := rfl
@[simp] theorem modGirder_hw (u : Nat) (f : Girder → Girder) : (s.modGirder u f).hw = s.hw := rfl
@[simp] theorem modGirder_piers (u : Nat) (f : Girder → Girder) : (s.modGirder u f).piers = s.piers := rfl
@[simp] theorem modGirder_segs (u : Nat) (f : Girder → Girder) : (s.modGirder u f).segs = s.segs := rfl
@[simp] theorem modGirder_waves (u : Nat) (f : Girder → Girder) : (s.modGirder u f).waves = s.waves := rfl
@[simp] theorem modGirder_bus (u : Nat) (f : Girder → Girder) : (s.modGirder u f).bus = s.bus := rfl
@[simp] theorem modGirder_works (u : Nat) (f : Girder → Girder) : (s.modGirder u f).works = s.works := rfl
@[simp] theorem modGirder_owed (u : Nat) (f : Girder → Girder) : (s.modGirder u f).owed = s.owed := rfl
@[simp] theorem modGirder_mail (u : Nat) (f : Girder → Girder) : (s.modGirder u f).mail = s.mail := rfl
@[simp] theorem modGirder_events (u : Nat) (f : Girder → Girder) : (s.modGirder u f).events = s.events := rfl
@[simp] theorem modGirder_msix (u : Nat) (f : Girder → Girder) : (s.modGirder u f).msix = s.msix := rfl
@[simp] theorem modGirder_mgmt (u : Nat) (f : Girder → Girder) : (s.modGirder u f).mgmt = s.mgmt := rfl
@[simp] theorem modGirder_trust (u : Nat) (f : Girder → Girder) : (s.modGirder u f).trust = s.trust := rfl
@[simp] theorem modGirder_refreshOff (u : Nat) (f : Girder → Girder) : (s.modGirder u f).refreshOff = s.refreshOff := rfl
@[simp] theorem modGirder_ats (u : Nat) (f : Girder → Girder) : (s.modGirder u f).ats = s.ats := rfl
@[simp] theorem modGirder_atsAsked (u : Nat) (f : Girder → Girder) : (s.modGirder u f).atsAsked = s.atsAsked := rfl
@[simp] theorem modGirder_prgLoose (u : Nat) (f : Girder → Girder) : (s.modGirder u f).prgLoose = s.prgLoose := rfl

@[simp] theorem modLaunch_agenda (u : Nat) (f : Launch → Launch) : (s.modLaunch u f).agenda = s.agenda := rfl
@[simp] theorem modLaunch_issuing (u : Nat) (f : Launch → Launch) : (s.modLaunch u f).issuing = s.issuing := rfl
@[simp] theorem modLaunch_cur (u : Nat) (f : Launch → Launch) : (s.modLaunch u f).cur = s.cur := rfl
@[simp] theorem modLaunch_steps (u : Nat) (f : Launch → Launch) : (s.modLaunch u f).steps = s.steps := rfl
@[simp] theorem modLaunch_free (u : Nat) (f : Launch → Launch) : (s.modLaunch u f).free = s.free := rfl
@[simp] theorem modLaunch_fresh (u : Nat) (f : Launch → Launch) : (s.modLaunch u f).fresh = s.fresh := rfl
@[simp] theorem modLaunch_time (u : Nat) (f : Launch → Launch) : (s.modLaunch u f).time = s.time := rfl
@[simp] theorem modLaunch_mem (u : Nat) (f : Launch → Launch) : (s.modLaunch u f).mem = s.mem := rfl
@[simp] theorem modLaunch_hostMem (u : Nat) (f : Launch → Launch) : (s.modLaunch u f).hostMem = s.hostMem := rfl
@[simp] theorem modLaunch_poison (u : Nat) (f : Launch → Launch) : (s.modLaunch u f).poison = s.poison := rfl
@[simp] theorem modLaunch_owners (u : Nat) (f : Launch → Launch) : (s.modLaunch u f).owners = s.owners := rfl
@[simp] theorem modLaunch_writers (u : Nat) (f : Launch → Launch) : (s.modLaunch u f).writers = s.writers := rfl
@[simp] theorem modLaunch_code (u : Nat) (f : Launch → Launch) : (s.modLaunch u f).code = s.code := rfl
@[simp] theorem modLaunch_spans (u : Nat) (f : Launch → Launch) : (s.modLaunch u f).spans = s.spans := rfl
@[simp] theorem modLaunch_decks (u : Nat) (f : Launch → Launch) : (s.modLaunch u f).decks = s.decks := rfl
@[simp] theorem modLaunch_girders (u : Nat) (f : Launch → Launch) : (s.modLaunch u f).girders = s.girders := rfl
@[simp] theorem modLaunch_ctxs (u : Nat) (f : Launch → Launch) : (s.modLaunch u f).ctxs = s.ctxs := rfl
@[simp] theorem modLaunch_queues (u : Nat) (f : Launch → Launch) : (s.modLaunch u f).queues = s.queues := rfl
@[simp] theorem modLaunch_hw (u : Nat) (f : Launch → Launch) : (s.modLaunch u f).hw = s.hw := rfl
@[simp] theorem modLaunch_piers (u : Nat) (f : Launch → Launch) : (s.modLaunch u f).piers = s.piers := rfl
@[simp] theorem modLaunch_segs (u : Nat) (f : Launch → Launch) : (s.modLaunch u f).segs = s.segs := rfl
@[simp] theorem modLaunch_waves (u : Nat) (f : Launch → Launch) : (s.modLaunch u f).waves = s.waves := rfl
@[simp] theorem modLaunch_bus (u : Nat) (f : Launch → Launch) : (s.modLaunch u f).bus = s.bus := rfl
@[simp] theorem modLaunch_works (u : Nat) (f : Launch → Launch) : (s.modLaunch u f).works = s.works := rfl
@[simp] theorem modLaunch_owed (u : Nat) (f : Launch → Launch) : (s.modLaunch u f).owed = s.owed := rfl
@[simp] theorem modLaunch_mail (u : Nat) (f : Launch → Launch) : (s.modLaunch u f).mail = s.mail := rfl
@[simp] theorem modLaunch_events (u : Nat) (f : Launch → Launch) : (s.modLaunch u f).events = s.events := rfl
@[simp] theorem modLaunch_msix (u : Nat) (f : Launch → Launch) : (s.modLaunch u f).msix = s.msix := rfl
@[simp] theorem modLaunch_mgmt (u : Nat) (f : Launch → Launch) : (s.modLaunch u f).mgmt = s.mgmt := rfl
@[simp] theorem modLaunch_trust (u : Nat) (f : Launch → Launch) : (s.modLaunch u f).trust = s.trust := rfl
@[simp] theorem modLaunch_refreshOff (u : Nat) (f : Launch → Launch) : (s.modLaunch u f).refreshOff = s.refreshOff := rfl
@[simp] theorem modLaunch_ats (u : Nat) (f : Launch → Launch) : (s.modLaunch u f).ats = s.ats := rfl
@[simp] theorem modLaunch_atsAsked (u : Nat) (f : Launch → Launch) : (s.modLaunch u f).atsAsked = s.atsAsked := rfl
@[simp] theorem modLaunch_prgLoose (u : Nat) (f : Launch → Launch) : (s.modLaunch u f).prgLoose = s.prgLoose := rfl

@[simp] theorem modCtx_agenda (u : Nat) (f : Context → Context) : (s.modCtx u f).agenda = s.agenda := rfl
@[simp] theorem modCtx_issuing (u : Nat) (f : Context → Context) : (s.modCtx u f).issuing = s.issuing := rfl
@[simp] theorem modCtx_cur (u : Nat) (f : Context → Context) : (s.modCtx u f).cur = s.cur := rfl
@[simp] theorem modCtx_steps (u : Nat) (f : Context → Context) : (s.modCtx u f).steps = s.steps := rfl
@[simp] theorem modCtx_free (u : Nat) (f : Context → Context) : (s.modCtx u f).free = s.free := rfl
@[simp] theorem modCtx_fresh (u : Nat) (f : Context → Context) : (s.modCtx u f).fresh = s.fresh := rfl
@[simp] theorem modCtx_time (u : Nat) (f : Context → Context) : (s.modCtx u f).time = s.time := rfl
@[simp] theorem modCtx_mem (u : Nat) (f : Context → Context) : (s.modCtx u f).mem = s.mem := rfl
@[simp] theorem modCtx_hostMem (u : Nat) (f : Context → Context) : (s.modCtx u f).hostMem = s.hostMem := rfl
@[simp] theorem modCtx_poison (u : Nat) (f : Context → Context) : (s.modCtx u f).poison = s.poison := rfl
@[simp] theorem modCtx_owners (u : Nat) (f : Context → Context) : (s.modCtx u f).owners = s.owners := rfl
@[simp] theorem modCtx_writers (u : Nat) (f : Context → Context) : (s.modCtx u f).writers = s.writers := rfl
@[simp] theorem modCtx_code (u : Nat) (f : Context → Context) : (s.modCtx u f).code = s.code := rfl
@[simp] theorem modCtx_spans (u : Nat) (f : Context → Context) : (s.modCtx u f).spans = s.spans := rfl
@[simp] theorem modCtx_decks (u : Nat) (f : Context → Context) : (s.modCtx u f).decks = s.decks := rfl
@[simp] theorem modCtx_girders (u : Nat) (f : Context → Context) : (s.modCtx u f).girders = s.girders := rfl
@[simp] theorem modCtx_launches (u : Nat) (f : Context → Context) : (s.modCtx u f).launches = s.launches := rfl
@[simp] theorem modCtx_queues (u : Nat) (f : Context → Context) : (s.modCtx u f).queues = s.queues := rfl
@[simp] theorem modCtx_hw (u : Nat) (f : Context → Context) : (s.modCtx u f).hw = s.hw := rfl
@[simp] theorem modCtx_piers (u : Nat) (f : Context → Context) : (s.modCtx u f).piers = s.piers := rfl
@[simp] theorem modCtx_segs (u : Nat) (f : Context → Context) : (s.modCtx u f).segs = s.segs := rfl
@[simp] theorem modCtx_waves (u : Nat) (f : Context → Context) : (s.modCtx u f).waves = s.waves := rfl
@[simp] theorem modCtx_bus (u : Nat) (f : Context → Context) : (s.modCtx u f).bus = s.bus := rfl
@[simp] theorem modCtx_works (u : Nat) (f : Context → Context) : (s.modCtx u f).works = s.works := rfl
@[simp] theorem modCtx_owed (u : Nat) (f : Context → Context) : (s.modCtx u f).owed = s.owed := rfl
@[simp] theorem modCtx_mail (u : Nat) (f : Context → Context) : (s.modCtx u f).mail = s.mail := rfl
@[simp] theorem modCtx_events (u : Nat) (f : Context → Context) : (s.modCtx u f).events = s.events := rfl
@[simp] theorem modCtx_msix (u : Nat) (f : Context → Context) : (s.modCtx u f).msix = s.msix := rfl
@[simp] theorem modCtx_mgmt (u : Nat) (f : Context → Context) : (s.modCtx u f).mgmt = s.mgmt := rfl
@[simp] theorem modCtx_trust (u : Nat) (f : Context → Context) : (s.modCtx u f).trust = s.trust := rfl
@[simp] theorem modCtx_refreshOff (u : Nat) (f : Context → Context) : (s.modCtx u f).refreshOff = s.refreshOff := rfl
@[simp] theorem modCtx_ats (u : Nat) (f : Context → Context) : (s.modCtx u f).ats = s.ats := rfl
@[simp] theorem modCtx_atsAsked (u : Nat) (f : Context → Context) : (s.modCtx u f).atsAsked = s.atsAsked := rfl
@[simp] theorem modCtx_prgLoose (u : Nat) (f : Context → Context) : (s.modCtx u f).prgLoose = s.prgLoose := rfl

@[simp] theorem modQueue_agenda (u : Nat) (f : Queue → Queue) : (s.modQueue u f).agenda = s.agenda := rfl
@[simp] theorem modQueue_issuing (u : Nat) (f : Queue → Queue) : (s.modQueue u f).issuing = s.issuing := rfl
@[simp] theorem modQueue_cur (u : Nat) (f : Queue → Queue) : (s.modQueue u f).cur = s.cur := rfl
@[simp] theorem modQueue_steps (u : Nat) (f : Queue → Queue) : (s.modQueue u f).steps = s.steps := rfl
@[simp] theorem modQueue_free (u : Nat) (f : Queue → Queue) : (s.modQueue u f).free = s.free := rfl
@[simp] theorem modQueue_fresh (u : Nat) (f : Queue → Queue) : (s.modQueue u f).fresh = s.fresh := rfl
@[simp] theorem modQueue_time (u : Nat) (f : Queue → Queue) : (s.modQueue u f).time = s.time := rfl
@[simp] theorem modQueue_mem (u : Nat) (f : Queue → Queue) : (s.modQueue u f).mem = s.mem := rfl
@[simp] theorem modQueue_hostMem (u : Nat) (f : Queue → Queue) : (s.modQueue u f).hostMem = s.hostMem := rfl
@[simp] theorem modQueue_poison (u : Nat) (f : Queue → Queue) : (s.modQueue u f).poison = s.poison := rfl
@[simp] theorem modQueue_owners (u : Nat) (f : Queue → Queue) : (s.modQueue u f).owners = s.owners := rfl
@[simp] theorem modQueue_writers (u : Nat) (f : Queue → Queue) : (s.modQueue u f).writers = s.writers := rfl
@[simp] theorem modQueue_code (u : Nat) (f : Queue → Queue) : (s.modQueue u f).code = s.code := rfl
@[simp] theorem modQueue_spans (u : Nat) (f : Queue → Queue) : (s.modQueue u f).spans = s.spans := rfl
@[simp] theorem modQueue_decks (u : Nat) (f : Queue → Queue) : (s.modQueue u f).decks = s.decks := rfl
@[simp] theorem modQueue_girders (u : Nat) (f : Queue → Queue) : (s.modQueue u f).girders = s.girders := rfl
@[simp] theorem modQueue_launches (u : Nat) (f : Queue → Queue) : (s.modQueue u f).launches = s.launches := rfl
@[simp] theorem modQueue_ctxs (u : Nat) (f : Queue → Queue) : (s.modQueue u f).ctxs = s.ctxs := rfl
@[simp] theorem modQueue_hw (u : Nat) (f : Queue → Queue) : (s.modQueue u f).hw = s.hw := rfl
@[simp] theorem modQueue_piers (u : Nat) (f : Queue → Queue) : (s.modQueue u f).piers = s.piers := rfl
@[simp] theorem modQueue_segs (u : Nat) (f : Queue → Queue) : (s.modQueue u f).segs = s.segs := rfl
@[simp] theorem modQueue_waves (u : Nat) (f : Queue → Queue) : (s.modQueue u f).waves = s.waves := rfl
@[simp] theorem modQueue_bus (u : Nat) (f : Queue → Queue) : (s.modQueue u f).bus = s.bus := rfl
@[simp] theorem modQueue_works (u : Nat) (f : Queue → Queue) : (s.modQueue u f).works = s.works := rfl
@[simp] theorem modQueue_owed (u : Nat) (f : Queue → Queue) : (s.modQueue u f).owed = s.owed := rfl
@[simp] theorem modQueue_mail (u : Nat) (f : Queue → Queue) : (s.modQueue u f).mail = s.mail := rfl
@[simp] theorem modQueue_events (u : Nat) (f : Queue → Queue) : (s.modQueue u f).events = s.events := rfl
@[simp] theorem modQueue_msix (u : Nat) (f : Queue → Queue) : (s.modQueue u f).msix = s.msix := rfl
@[simp] theorem modQueue_mgmt (u : Nat) (f : Queue → Queue) : (s.modQueue u f).mgmt = s.mgmt := rfl
@[simp] theorem modQueue_trust (u : Nat) (f : Queue → Queue) : (s.modQueue u f).trust = s.trust := rfl
@[simp] theorem modQueue_refreshOff (u : Nat) (f : Queue → Queue) : (s.modQueue u f).refreshOff = s.refreshOff := rfl
@[simp] theorem modQueue_ats (u : Nat) (f : Queue → Queue) : (s.modQueue u f).ats = s.ats := rfl
@[simp] theorem modQueue_atsAsked (u : Nat) (f : Queue → Queue) : (s.modQueue u f).atsAsked = s.atsAsked := rfl
@[simp] theorem modQueue_prgLoose (u : Nat) (f : Queue → Queue) : (s.modQueue u f).prgLoose = s.prgLoose := rfl

@[simp] theorem modPier_agenda (u : Nat) (f : Pier → Pier) : (s.modPier u f).agenda = s.agenda := rfl
@[simp] theorem modPier_issuing (u : Nat) (f : Pier → Pier) : (s.modPier u f).issuing = s.issuing := rfl
@[simp] theorem modPier_cur (u : Nat) (f : Pier → Pier) : (s.modPier u f).cur = s.cur := rfl
@[simp] theorem modPier_steps (u : Nat) (f : Pier → Pier) : (s.modPier u f).steps = s.steps := rfl
@[simp] theorem modPier_free (u : Nat) (f : Pier → Pier) : (s.modPier u f).free = s.free := rfl
@[simp] theorem modPier_fresh (u : Nat) (f : Pier → Pier) : (s.modPier u f).fresh = s.fresh := rfl
@[simp] theorem modPier_time (u : Nat) (f : Pier → Pier) : (s.modPier u f).time = s.time := rfl
@[simp] theorem modPier_mem (u : Nat) (f : Pier → Pier) : (s.modPier u f).mem = s.mem := rfl
@[simp] theorem modPier_hostMem (u : Nat) (f : Pier → Pier) : (s.modPier u f).hostMem = s.hostMem := rfl
@[simp] theorem modPier_poison (u : Nat) (f : Pier → Pier) : (s.modPier u f).poison = s.poison := rfl
@[simp] theorem modPier_owners (u : Nat) (f : Pier → Pier) : (s.modPier u f).owners = s.owners := rfl
@[simp] theorem modPier_writers (u : Nat) (f : Pier → Pier) : (s.modPier u f).writers = s.writers := rfl
@[simp] theorem modPier_code (u : Nat) (f : Pier → Pier) : (s.modPier u f).code = s.code := rfl
@[simp] theorem modPier_spans (u : Nat) (f : Pier → Pier) : (s.modPier u f).spans = s.spans := rfl
@[simp] theorem modPier_decks (u : Nat) (f : Pier → Pier) : (s.modPier u f).decks = s.decks := rfl
@[simp] theorem modPier_girders (u : Nat) (f : Pier → Pier) : (s.modPier u f).girders = s.girders := rfl
@[simp] theorem modPier_launches (u : Nat) (f : Pier → Pier) : (s.modPier u f).launches = s.launches := rfl
@[simp] theorem modPier_ctxs (u : Nat) (f : Pier → Pier) : (s.modPier u f).ctxs = s.ctxs := rfl
@[simp] theorem modPier_queues (u : Nat) (f : Pier → Pier) : (s.modPier u f).queues = s.queues := rfl
@[simp] theorem modPier_hw (u : Nat) (f : Pier → Pier) : (s.modPier u f).hw = s.hw := rfl
@[simp] theorem modPier_segs (u : Nat) (f : Pier → Pier) : (s.modPier u f).segs = s.segs := rfl
@[simp] theorem modPier_waves (u : Nat) (f : Pier → Pier) : (s.modPier u f).waves = s.waves := rfl
@[simp] theorem modPier_bus (u : Nat) (f : Pier → Pier) : (s.modPier u f).bus = s.bus := rfl
@[simp] theorem modPier_works (u : Nat) (f : Pier → Pier) : (s.modPier u f).works = s.works := rfl
@[simp] theorem modPier_owed (u : Nat) (f : Pier → Pier) : (s.modPier u f).owed = s.owed := rfl
@[simp] theorem modPier_mail (u : Nat) (f : Pier → Pier) : (s.modPier u f).mail = s.mail := rfl
@[simp] theorem modPier_events (u : Nat) (f : Pier → Pier) : (s.modPier u f).events = s.events := rfl
@[simp] theorem modPier_msix (u : Nat) (f : Pier → Pier) : (s.modPier u f).msix = s.msix := rfl
@[simp] theorem modPier_mgmt (u : Nat) (f : Pier → Pier) : (s.modPier u f).mgmt = s.mgmt := rfl
@[simp] theorem modPier_trust (u : Nat) (f : Pier → Pier) : (s.modPier u f).trust = s.trust := rfl
@[simp] theorem modPier_refreshOff (u : Nat) (f : Pier → Pier) : (s.modPier u f).refreshOff = s.refreshOff := rfl
@[simp] theorem modPier_ats (u : Nat) (f : Pier → Pier) : (s.modPier u f).ats = s.ats := rfl
@[simp] theorem modPier_atsAsked (u : Nat) (f : Pier → Pier) : (s.modPier u f).atsAsked = s.atsAsked := rfl
@[simp] theorem modPier_prgLoose (u : Nat) (f : Pier → Pier) : (s.modPier u f).prgLoose = s.prgLoose := rfl

@[simp] theorem modSeg_agenda (u : Nat) (f : Seg → Seg) : (s.modSeg u f).agenda = s.agenda := rfl
@[simp] theorem modSeg_issuing (u : Nat) (f : Seg → Seg) : (s.modSeg u f).issuing = s.issuing := rfl
@[simp] theorem modSeg_cur (u : Nat) (f : Seg → Seg) : (s.modSeg u f).cur = s.cur := rfl
@[simp] theorem modSeg_steps (u : Nat) (f : Seg → Seg) : (s.modSeg u f).steps = s.steps := rfl
@[simp] theorem modSeg_free (u : Nat) (f : Seg → Seg) : (s.modSeg u f).free = s.free := rfl
@[simp] theorem modSeg_fresh (u : Nat) (f : Seg → Seg) : (s.modSeg u f).fresh = s.fresh := rfl
@[simp] theorem modSeg_time (u : Nat) (f : Seg → Seg) : (s.modSeg u f).time = s.time := rfl
@[simp] theorem modSeg_mem (u : Nat) (f : Seg → Seg) : (s.modSeg u f).mem = s.mem := rfl
@[simp] theorem modSeg_hostMem (u : Nat) (f : Seg → Seg) : (s.modSeg u f).hostMem = s.hostMem := rfl
@[simp] theorem modSeg_poison (u : Nat) (f : Seg → Seg) : (s.modSeg u f).poison = s.poison := rfl
@[simp] theorem modSeg_owners (u : Nat) (f : Seg → Seg) : (s.modSeg u f).owners = s.owners := rfl
@[simp] theorem modSeg_writers (u : Nat) (f : Seg → Seg) : (s.modSeg u f).writers = s.writers := rfl
@[simp] theorem modSeg_code (u : Nat) (f : Seg → Seg) : (s.modSeg u f).code = s.code := rfl
@[simp] theorem modSeg_spans (u : Nat) (f : Seg → Seg) : (s.modSeg u f).spans = s.spans := rfl
@[simp] theorem modSeg_decks (u : Nat) (f : Seg → Seg) : (s.modSeg u f).decks = s.decks := rfl
@[simp] theorem modSeg_girders (u : Nat) (f : Seg → Seg) : (s.modSeg u f).girders = s.girders := rfl
@[simp] theorem modSeg_launches (u : Nat) (f : Seg → Seg) : (s.modSeg u f).launches = s.launches := rfl
@[simp] theorem modSeg_ctxs (u : Nat) (f : Seg → Seg) : (s.modSeg u f).ctxs = s.ctxs := rfl
@[simp] theorem modSeg_queues (u : Nat) (f : Seg → Seg) : (s.modSeg u f).queues = s.queues := rfl
@[simp] theorem modSeg_hw (u : Nat) (f : Seg → Seg) : (s.modSeg u f).hw = s.hw := rfl
@[simp] theorem modSeg_piers (u : Nat) (f : Seg → Seg) : (s.modSeg u f).piers = s.piers := rfl
@[simp] theorem modSeg_waves (u : Nat) (f : Seg → Seg) : (s.modSeg u f).waves = s.waves := rfl
@[simp] theorem modSeg_bus (u : Nat) (f : Seg → Seg) : (s.modSeg u f).bus = s.bus := rfl
@[simp] theorem modSeg_works (u : Nat) (f : Seg → Seg) : (s.modSeg u f).works = s.works := rfl
@[simp] theorem modSeg_owed (u : Nat) (f : Seg → Seg) : (s.modSeg u f).owed = s.owed := rfl
@[simp] theorem modSeg_mail (u : Nat) (f : Seg → Seg) : (s.modSeg u f).mail = s.mail := rfl
@[simp] theorem modSeg_events (u : Nat) (f : Seg → Seg) : (s.modSeg u f).events = s.events := rfl
@[simp] theorem modSeg_msix (u : Nat) (f : Seg → Seg) : (s.modSeg u f).msix = s.msix := rfl
@[simp] theorem modSeg_mgmt (u : Nat) (f : Seg → Seg) : (s.modSeg u f).mgmt = s.mgmt := rfl
@[simp] theorem modSeg_trust (u : Nat) (f : Seg → Seg) : (s.modSeg u f).trust = s.trust := rfl
@[simp] theorem modSeg_refreshOff (u : Nat) (f : Seg → Seg) : (s.modSeg u f).refreshOff = s.refreshOff := rfl
@[simp] theorem modSeg_ats (u : Nat) (f : Seg → Seg) : (s.modSeg u f).ats = s.ats := rfl
@[simp] theorem modSeg_atsAsked (u : Nat) (f : Seg → Seg) : (s.modSeg u f).atsAsked = s.atsAsked := rfl
@[simp] theorem modSeg_prgLoose (u : Nat) (f : Seg → Seg) : (s.modSeg u f).prgLoose = s.prgLoose := rfl

@[simp] theorem dropWork_agenda (u : Nat) : (s.dropWork u).agenda = s.agenda := rfl
@[simp] theorem dropWork_issuing (u : Nat) : (s.dropWork u).issuing = s.issuing := rfl
@[simp] theorem dropWork_cur (u : Nat) : (s.dropWork u).cur = s.cur := rfl
@[simp] theorem dropWork_steps (u : Nat) : (s.dropWork u).steps = s.steps := rfl
@[simp] theorem dropWork_free (u : Nat) : (s.dropWork u).free = s.free := rfl
@[simp] theorem dropWork_fresh (u : Nat) : (s.dropWork u).fresh = s.fresh := rfl
@[simp] theorem dropWork_time (u : Nat) : (s.dropWork u).time = s.time := rfl
@[simp] theorem dropWork_mem (u : Nat) : (s.dropWork u).mem = s.mem := rfl
@[simp] theorem dropWork_hostMem (u : Nat) : (s.dropWork u).hostMem = s.hostMem := rfl
@[simp] theorem dropWork_poison (u : Nat) : (s.dropWork u).poison = s.poison := rfl
@[simp] theorem dropWork_owners (u : Nat) : (s.dropWork u).owners = s.owners := rfl
@[simp] theorem dropWork_writers (u : Nat) : (s.dropWork u).writers = s.writers := rfl
@[simp] theorem dropWork_code (u : Nat) : (s.dropWork u).code = s.code := rfl
@[simp] theorem dropWork_spans (u : Nat) : (s.dropWork u).spans = s.spans := rfl
@[simp] theorem dropWork_decks (u : Nat) : (s.dropWork u).decks = s.decks := rfl
@[simp] theorem dropWork_girders (u : Nat) : (s.dropWork u).girders = s.girders := rfl
@[simp] theorem dropWork_launches (u : Nat) : (s.dropWork u).launches = s.launches := rfl
@[simp] theorem dropWork_ctxs (u : Nat) : (s.dropWork u).ctxs = s.ctxs := rfl
@[simp] theorem dropWork_queues (u : Nat) : (s.dropWork u).queues = s.queues := rfl
@[simp] theorem dropWork_hw (u : Nat) : (s.dropWork u).hw = s.hw := rfl
@[simp] theorem dropWork_piers (u : Nat) : (s.dropWork u).piers = s.piers := rfl
@[simp] theorem dropWork_segs (u : Nat) : (s.dropWork u).segs = s.segs := rfl
@[simp] theorem dropWork_waves (u : Nat) : (s.dropWork u).waves = s.waves := rfl
@[simp] theorem dropWork_bus (u : Nat) : (s.dropWork u).bus = s.bus := rfl
@[simp] theorem dropWork_owed (u : Nat) : (s.dropWork u).owed = s.owed := rfl
@[simp] theorem dropWork_mail (u : Nat) : (s.dropWork u).mail = s.mail := rfl
@[simp] theorem dropWork_events (u : Nat) : (s.dropWork u).events = s.events := rfl
@[simp] theorem dropWork_msix (u : Nat) : (s.dropWork u).msix = s.msix := rfl
@[simp] theorem dropWork_mgmt (u : Nat) : (s.dropWork u).mgmt = s.mgmt := rfl
@[simp] theorem dropWork_trust (u : Nat) : (s.dropWork u).trust = s.trust := rfl
@[simp] theorem dropWork_refreshOff (u : Nat) : (s.dropWork u).refreshOff = s.refreshOff := rfl
@[simp] theorem dropWork_ats (u : Nat) : (s.dropWork u).ats = s.ats := rfl
@[simp] theorem dropWork_atsAsked (u : Nat) : (s.dropWork u).atsAsked = s.atsAsked := rfl
@[simp] theorem dropWork_prgLoose (u : Nat) : (s.dropWork u).prgLoose = s.prgLoose := rfl

@[simp] theorem modWork_agenda (u : Nat) (f : Work → Work) : (s.modWork u f).agenda = s.agenda := rfl
@[simp] theorem modWork_issuing (u : Nat) (f : Work → Work) : (s.modWork u f).issuing = s.issuing := rfl
@[simp] theorem modWork_cur (u : Nat) (f : Work → Work) : (s.modWork u f).cur = s.cur := rfl
@[simp] theorem modWork_steps (u : Nat) (f : Work → Work) : (s.modWork u f).steps = s.steps := rfl
@[simp] theorem modWork_free (u : Nat) (f : Work → Work) : (s.modWork u f).free = s.free := rfl
@[simp] theorem modWork_fresh (u : Nat) (f : Work → Work) : (s.modWork u f).fresh = s.fresh := rfl
@[simp] theorem modWork_time (u : Nat) (f : Work → Work) : (s.modWork u f).time = s.time := rfl
@[simp] theorem modWork_mem (u : Nat) (f : Work → Work) : (s.modWork u f).mem = s.mem := rfl
@[simp] theorem modWork_hostMem (u : Nat) (f : Work → Work) : (s.modWork u f).hostMem = s.hostMem := rfl
@[simp] theorem modWork_poison (u : Nat) (f : Work → Work) : (s.modWork u f).poison = s.poison := rfl
@[simp] theorem modWork_owners (u : Nat) (f : Work → Work) : (s.modWork u f).owners = s.owners := rfl
@[simp] theorem modWork_writers (u : Nat) (f : Work → Work) : (s.modWork u f).writers = s.writers := rfl
@[simp] theorem modWork_code (u : Nat) (f : Work → Work) : (s.modWork u f).code = s.code := rfl
@[simp] theorem modWork_spans (u : Nat) (f : Work → Work) : (s.modWork u f).spans = s.spans := rfl
@[simp] theorem modWork_decks (u : Nat) (f : Work → Work) : (s.modWork u f).decks = s.decks := rfl
@[simp] theorem modWork_girders (u : Nat) (f : Work → Work) : (s.modWork u f).girders = s.girders := rfl
@[simp] theorem modWork_launches (u : Nat) (f : Work → Work) : (s.modWork u f).launches = s.launches := rfl
@[simp] theorem modWork_ctxs (u : Nat) (f : Work → Work) : (s.modWork u f).ctxs = s.ctxs := rfl
@[simp] theorem modWork_queues (u : Nat) (f : Work → Work) : (s.modWork u f).queues = s.queues := rfl
@[simp] theorem modWork_hw (u : Nat) (f : Work → Work) : (s.modWork u f).hw = s.hw := rfl
@[simp] theorem modWork_piers (u : Nat) (f : Work → Work) : (s.modWork u f).piers = s.piers := rfl
@[simp] theorem modWork_segs (u : Nat) (f : Work → Work) : (s.modWork u f).segs = s.segs := rfl
@[simp] theorem modWork_waves (u : Nat) (f : Work → Work) : (s.modWork u f).waves = s.waves := rfl
@[simp] theorem modWork_bus (u : Nat) (f : Work → Work) : (s.modWork u f).bus = s.bus := rfl
@[simp] theorem modWork_owed (u : Nat) (f : Work → Work) : (s.modWork u f).owed = s.owed := rfl
@[simp] theorem modWork_mail (u : Nat) (f : Work → Work) : (s.modWork u f).mail = s.mail := rfl
@[simp] theorem modWork_events (u : Nat) (f : Work → Work) : (s.modWork u f).events = s.events := rfl
@[simp] theorem modWork_msix (u : Nat) (f : Work → Work) : (s.modWork u f).msix = s.msix := rfl
@[simp] theorem modWork_mgmt (u : Nat) (f : Work → Work) : (s.modWork u f).mgmt = s.mgmt := rfl
@[simp] theorem modWork_trust (u : Nat) (f : Work → Work) : (s.modWork u f).trust = s.trust := rfl
@[simp] theorem modWork_refreshOff (u : Nat) (f : Work → Work) : (s.modWork u f).refreshOff = s.refreshOff := rfl
@[simp] theorem modWork_ats (u : Nat) (f : Work → Work) : (s.modWork u f).ats = s.ats := rfl
@[simp] theorem modWork_atsAsked (u : Nat) (f : Work → Work) : (s.modWork u f).atsAsked = s.atsAsked := rfl
@[simp] theorem modWork_prgLoose (u : Nat) (f : Work → Work) : (s.modWork u f).prgLoose = s.prgLoose := rfl

@[simp] theorem addWork_agenda (f : Nat → Work) : (s.addWork f).agenda = s.agenda := rfl
@[simp] theorem addWork_issuing (f : Nat → Work) : (s.addWork f).issuing = s.issuing := rfl
@[simp] theorem addWork_cur (f : Nat → Work) : (s.addWork f).cur = s.cur := rfl
@[simp] theorem addWork_steps (f : Nat → Work) : (s.addWork f).steps = s.steps := rfl
@[simp] theorem addWork_free (f : Nat → Work) : (s.addWork f).free = s.free := rfl
@[simp] theorem addWork_time (f : Nat → Work) : (s.addWork f).time = s.time := rfl
@[simp] theorem addWork_mem (f : Nat → Work) : (s.addWork f).mem = s.mem := rfl
@[simp] theorem addWork_hostMem (f : Nat → Work) : (s.addWork f).hostMem = s.hostMem := rfl
@[simp] theorem addWork_poison (f : Nat → Work) : (s.addWork f).poison = s.poison := rfl
@[simp] theorem addWork_owners (f : Nat → Work) : (s.addWork f).owners = s.owners := rfl
@[simp] theorem addWork_writers (f : Nat → Work) : (s.addWork f).writers = s.writers := rfl
@[simp] theorem addWork_code (f : Nat → Work) : (s.addWork f).code = s.code := rfl
@[simp] theorem addWork_spans (f : Nat → Work) : (s.addWork f).spans = s.spans := rfl
@[simp] theorem addWork_decks (f : Nat → Work) : (s.addWork f).decks = s.decks := rfl
@[simp] theorem addWork_girders (f : Nat → Work) : (s.addWork f).girders = s.girders := rfl
@[simp] theorem addWork_launches (f : Nat → Work) : (s.addWork f).launches = s.launches := rfl
@[simp] theorem addWork_ctxs (f : Nat → Work) : (s.addWork f).ctxs = s.ctxs := rfl
@[simp] theorem addWork_queues (f : Nat → Work) : (s.addWork f).queues = s.queues := rfl
@[simp] theorem addWork_hw (f : Nat → Work) : (s.addWork f).hw = s.hw := rfl
@[simp] theorem addWork_piers (f : Nat → Work) : (s.addWork f).piers = s.piers := rfl
@[simp] theorem addWork_segs (f : Nat → Work) : (s.addWork f).segs = s.segs := rfl
@[simp] theorem addWork_waves (f : Nat → Work) : (s.addWork f).waves = s.waves := rfl
@[simp] theorem addWork_bus (f : Nat → Work) : (s.addWork f).bus = s.bus := rfl
@[simp] theorem addWork_owed (f : Nat → Work) : (s.addWork f).owed = s.owed := rfl
@[simp] theorem addWork_mail (f : Nat → Work) : (s.addWork f).mail = s.mail := rfl
@[simp] theorem addWork_events (f : Nat → Work) : (s.addWork f).events = s.events := rfl
@[simp] theorem addWork_msix (f : Nat → Work) : (s.addWork f).msix = s.msix := rfl
@[simp] theorem addWork_mgmt (f : Nat → Work) : (s.addWork f).mgmt = s.mgmt := rfl
@[simp] theorem addWork_trust (f : Nat → Work) : (s.addWork f).trust = s.trust := rfl
@[simp] theorem addWork_refreshOff (f : Nat → Work) : (s.addWork f).refreshOff = s.refreshOff := rfl
@[simp] theorem addWork_ats (f : Nat → Work) : (s.addWork f).ats = s.ats := rfl
@[simp] theorem addWork_atsAsked (f : Nat → Work) : (s.addWork f).atsAsked = s.atsAsked := rfl
@[simp] theorem addWork_prgLoose (f : Nat → Work) : (s.addWork f).prgLoose = s.prgLoose := rfl

end Sys2Proof.Machine.State
end

