-- ==== Sys2Proof/Laws/Parts.lean ====
section
/-! SUPPORT. Looking up a named part after an update, and values of registers, lanes and masks. -/

namespace Sys2Proof.Machine

theorem find_map_uid {α : Type} (key : α → Nat) (g : α → α) (hg : ∀ x, key (g x) = key x) (v : Nat) (l : List α) :
    (l.map g).find? (fun x => key x == v) = (l.find? (fun x => key x == v)).map g := by
  rw [List.find?_map]; congr 1; congr 1; funext x; simp [hg]

theorem find_map_at {α : Type} (key : α → Nat) (f : α → α) (hf : ∀ x, key (f x) = key x) (u v : Nat) (l : List α) :
    (l.map (fun x => if key x == u then f x else x)).find? (fun x => key x == v) =
      (l.find? (fun x => key x == v)).map (fun x => if key x == u then f x else x) :=
  find_map_uid key _ (fun x => by split <;> simp [hf]) v l

theorem find_key {α : Type} {key : α → Nat} {v : Nat} {l : List α} {x : α} (h : l.find? (fun x => key x == v) = some x) : key x = v := by
  simpa using List.find?_some h

theorem State.span?_uid {s : State} {u : Nat} {x : Span} (h : s.span? u = some x) : x.uid = u := find_key (key := Span.uid) h

/-- A span after a change of span u that keeps its name. -/
theorem State.span?_modSpan (s : State) (u v : Nat) (f : Span → Span) (hf : ∀ x, (f x).uid = x.uid) :
    (s.modSpan u f).span? v = if u = v then (s.span? v).map f else s.span? v := by
  show ((s.spans.map (fun x => if x.uid == u then f x else x)).find? (fun x => x.uid == v)) = _
  rw [find_map_at Span.uid f hf u v s.spans]
  show (s.span? v).map _ = _
  cases h : s.span? v with
  | none => simp
  | some x =>
    have hx := State.span?_uid h
    subst hx
    by_cases h' : u = x.uid
    · subst h'; simp
    · have : ¬ x.uid = u := fun e => h' e.symm
      simp [h', this]

theorem State.span?_modSpan_same {s : State} {u : Nat} {x : Span} (f : Span → Span) (hf : ∀ x, (f x).uid = x.uid)
    (h : s.span? u = some x) : (s.modSpan u f).span? u = some (f x) := by rw [State.span?_modSpan _ _ _ _ hf]; simp [h]

theorem State.span?_modSpan_ne (s : State) {u v : Nat} (f : Span → Span) (hf : ∀ x, (f x).uid = x.uid) (h : v ≠ u) :
    (s.modSpan u f).span? v = s.span? v := by rw [State.span?_modSpan _ _ _ _ hf, if_neg (fun e => h e.symm)]

/-- Spans are looked up in the list of spans alone. -/
theorem State.span?_congr {s t : State} (h : t.spans = s.spans) (u : Nat) : t.span? u = s.span? u := by simp [State.span?, h]
theorem State.deck?_congr {s t : State} (h : t.decks = s.decks) (u : Nat) : t.deck? u = s.deck? u := by simp [State.deck?, h]

@[simp] theorem Span.modLanes_uid (sp : Span) (m : LaneSet) (f : Nat → Lane → Lane) : (sp.modLanes m f).uid = sp.uid := rfl
@[simp] theorem Span.modLanes_regs (sp : Span) (m : LaneSet) (f : Nat → Lane → Lane) : (sp.modLanes m f).regs = sp.regs := rfl
@[simp] theorem Span.modLanes_masks (sp : Span) (m : LaneSet) (f : Nat → Lane → Lane) : (sp.modLanes m f).masks = sp.masks := rfl
@[simp] theorem Span.modLanes_width (sp : Span) (m : LaneSet) (f : Nat → Lane → Lane) : (sp.modLanes m f).width = sp.width := rfl
@[simp] theorem Span.setReg_uid (sp : Span) (r : Nat) (v : VReg) : (sp.setReg r v).uid = sp.uid := rfl
@[simp] theorem Span.setReg_lanes (sp : Span) (r : Nat) (v : VReg) : (sp.setReg r v).lanes = sp.lanes := rfl
@[simp] theorem Span.setReg_width (sp : Span) (r : Nat) (v : VReg) : (sp.setReg r v).width = sp.width := rfl

theorem Span.vreg_setReg (sp : Span) (r x : Nat) (v : VReg) (h : r < sp.regs.length) :
    (sp.setReg r v).vreg x = if r = x then v else sp.vreg x := by
  simp only [Span.vreg, Span.setReg, List.getElem?_set]
  split
  · subst_vars; simp
  · rfl

/-- The checker's shape holds the values it was given (01 R18). -/
theorem checker_get {vals : List Word} {v : VReg} (h : checker vals = some v) {l : Nat} (hl : l < vals.length) :
    v.get l = vals[l] := by
  simp only [checker] at h
  split at h
  · rename_i hu
    simp only [Option.some.injEq] at h
    subst h
    have := List.all_eq_true.mp hu vals[l] (List.getElem_mem hl)
    simp only [VReg.get]; exact (by simpa using this : vals[l] = _).symm
  · split at h
    · rename_i e he
      simp only [Option.some.injEq] at h
      subst h
      have h1 := List.find?_some he
      have he8 : e < 8 := by simpa using List.mem_of_find?_eq_some he
      simp only [stridesBy] at h1
      have := List.all_eq_true.mp h1 (vals[l], l) (by
        rw [List.mem_iff_getElem]; exact ⟨l, by simpa using hl, by simp⟩)
      simp only [VReg.get]
      have h2 : vals[l] = vals.headD 0#32 + BitVec.ofNat 32 (l * 2 ^ e) := by simpa using this
      rw [h2]; congr 3; simp [BitVec.toNat_ofNat]; omega
    · exact absurd h (by simp)

theorem merge_length (sp : Span) (d : Nat) (new : Nat → Word) (a : LaneSet) : (merge sp d new a).length = sp.width := by simp [merge]
theorem merge_get (sp : Span) (d : Nat) (new : Nat → Word) (a : LaneSet) {l : Nat} (h : l < (merge sp d new a).length) :
    (merge sp d new a)[l] = if hasLane a l then new l else sp.reg d l := by simp [merge]

/-- What a change of one pier keeps of each, every pier keeps. -/
theorem State.pier_modPier_keeps {α : Type} (g : Pier → α) (s : State) (p : Nat) (f : Pier → Pier) (h : ∀ x, g (f x) = g x) (q : Nat) :
    g ((s.modPier p f).pier q) = g (s.pier q) := by
  simp only [State.pier, State.modPier, List.getElem?_modify]
  split
  · cases s.piers[q]? <;> simp [h]
  · simp

theorem State.seg_modSeg_keeps {α : Type} (g : Seg → α) (s : State) (p : Nat) (f : Seg → Seg) (h : ∀ x, g (f x) = g x) (q : Nat) :
    g ((s.modSeg p f).seg q) = g (s.seg q) := by
  simp only [State.seg, State.modSeg, List.getElem?_modify]
  split
  · cases s.segs[q]? <;> simp [h]
  · simp

end Sys2Proof.Machine
end

