-- ==== Sys2Proof/Laws/Registers.lean ====
section
/-! SUPPORT. What a write of registers does: acquiring slots, landing, going on (01 R18-R25, 03 R56, R59). -/

namespace Sys2Proof.Machine

/-! ## Elsewhere -/

theorem readLoc_congr {s t : State} (h1 : t.mem = s.mem) (h2 : t.hostMem = s.hostMem) (h3 : t.decks = s.decks) (h4 : t.refreshOff = s.refreshOff)
    (h5 : t.mgmt.refsync = s.mgmt.refsync) (h6 : t.mgmt.nextOff = s.mgmt.nextOff) (h7 : t.steps = s.steps) (l : Loc) :
    readLoc t l = readLoc s l := by
  cases l <;> simp [readLoc, devByte, declaredOff, State.deck?, h1, h2, h3, h4, h5, h6, h7]

theorem Elsewhere.refl (s : State) (u : Nat) : Elsewhere s s u := ⟨rfl, rfl, fun _ _ => rfl, fun _ => rfl, fun _ => rfl, fun _ => rfl⟩

theorem Elsewhere.trans {s t w : State} {u : Nat} (a : Elsewhere s t u) (b : Elsewhere t w u) : Elsewhere s w u := by
  refine ⟨?_, ?_, fun v h => (b.spans v h).trans (a.spans v h), fun p => ?_, fun k => ?_, fun l => (b.bytes l).trans (a.bytes l)⟩
  · calc { w with spans := s.spans, piers := s.piers, segs := s.segs, mgmt := s.mgmt, free := s.free }
        = { ({ w with spans := t.spans, piers := t.piers, segs := t.segs, mgmt := t.mgmt, free := t.free } : State) with
            spans := s.spans, piers := s.piers, segs := s.segs, mgmt := s.mgmt, free := s.free } := rfl
      _ = s := by rw [b.state, a.state]
  · calc { w.mgmt with cnt := s.mgmt.cnt, sel := s.mgmt.sel }
        = { ({ w.mgmt with cnt := t.mgmt.cnt, sel := t.mgmt.sel } : Mgmt) with cnt := s.mgmt.cnt, sel := s.mgmt.sel } := rfl
      _ = s.mgmt := by rw [b.mgmt, a.mgmt]
  · calc { w.pier p with pool := (s.pier p).pool, latch := (s.pier p).latch, cnt := (s.pier p).cnt, sel := (s.pier p).sel }
        = { ({ w.pier p with pool := (t.pier p).pool, latch := (t.pier p).latch, cnt := (t.pier p).cnt, sel := (t.pier p).sel } : Pier) with
            pool := (s.pier p).pool, latch := (s.pier p).latch, cnt := (s.pier p).cnt, sel := (s.pier p).sel } := rfl
      _ = s.pier p := by rw [b.piers p, a.piers p]
  · calc { w.seg k with cnt := (s.seg k).cnt, sel := (s.seg k).sel }
        = { ({ w.seg k with cnt := (t.seg k).cnt, sel := (t.seg k).sel } : Seg) with cnt := (s.seg k).cnt, sel := (s.seg k).sel } := rfl
      _ = s.seg k := by rw [b.segs k, a.segs k]

theorem Elsewhere.modSpan (s : State) (u : Nat) (f : Span → Span) (hf : ∀ x, (f x).uid = x.uid) : Elsewhere s (s.modSpan u f) u :=
  ⟨rfl, rfl, fun _ h => State.span?_modSpan_ne s f hf h, fun _ => rfl, fun _ => rfl, fun l => readLoc_congr rfl rfl rfl rfl rfl rfl rfl l⟩

theorem Elsewhere.modPier (s : State) (u p : Nat) (f : Pier → Pier)
    (hf : ∀ x, { f x with pool := x.pool, latch := x.latch, cnt := x.cnt, sel := x.sel } = x) : Elsewhere s (s.modPier p f) u := by
  refine ⟨rfl, rfl, fun _ _ => rfl, fun q => ?_, fun _ => rfl, fun l => readLoc_congr rfl rfl rfl rfl rfl rfl rfl l⟩
  have key : ∀ y x : Pier, ({ y with pool := x.pool, latch := x.latch, cnt := x.cnt, sel := x.sel } : Pier) =
      ⟨x.pool, y.growQ, y.last, x.latch, y.mtx, y.owner, y.clearing, y.macs, x.cnt, x.sel⟩ := fun _ _ => rfl
  have g := State.pier_modPier_keeps (fun x => (x.growQ, x.last, x.mtx, x.owner, x.clearing, x.macs)) s p f (fun x => by
    have h := hf x
    rw [key] at h
    have h1 := congrArg Pier.growQ h; have h2 := congrArg Pier.last h; have h3 := congrArg Pier.mtx h
    have h4 := congrArg Pier.owner h; have h5 := congrArg Pier.clearing h; have h6 := congrArg Pier.macs h
    simp only at h1 h2 h3 h4 h5 h6
    simp [h1, h2, h3, h4, h5, h6]) q
  simp only [Prod.mk.injEq] at g
  rw [key, g.1, g.2.1, g.2.2.1, g.2.2.2.1, g.2.2.2.2.1, g.2.2.2.2.2]

theorem Elsewhere.modSeg (s : State) (u p : Nat) (f : Seg → Seg) (hf : ∀ x, { f x with cnt := x.cnt, sel := x.sel } = x) :
    Elsewhere s (s.modSeg p f) u := by
  refine ⟨rfl, rfl, fun _ _ => rfl, fun _ => rfl, fun q => ?_, fun l => readLoc_congr rfl rfl rfl rfl rfl rfl rfl l⟩
  have key : ∀ y x : Seg, ({ y with cnt := x.cnt, sel := x.sel } : Seg) = { x with
      spawnQ := y.spawnQ, emitted := y.emitted, level := y.level, chosen := y.chosen, powerCap := y.powerCap, currentCap := y.currentCap,
      thermalCap := y.thermalCap, volt := y.volt, uvoff := y.uvoff, power := y.power, current := y.current, restoring := y.restoring,
      corrected := y.corrected, uncorrected := y.uncorrected, served := y.served } := fun _ _ => rfl
  have h0 : ∀ x, ({ f x with cnt := ([] : List DWord), sel := ([] : List Word) } : Seg) = { x with cnt := [], sel := [] } := fun x => by
    have h := hf x
    calc ({ f x with cnt := ([] : List DWord), sel := ([] : List Word) } : Seg)
        = { ({ f x with cnt := x.cnt, sel := x.sel } : Seg) with cnt := [], sel := [] } := rfl
      _ = _ := by rw [h]
  have g := State.seg_modSeg_keeps (fun x => ({ x with cnt := ([] : List DWord), sel := ([] : List Word) } : Seg)) s p f h0 q
  calc { (s.modSeg p f).seg q with cnt := (s.seg q).cnt, sel := (s.seg q).sel }
      = { ({ (s.modSeg p f).seg q with cnt := ([] : List DWord), sel := ([] : List Word) } : Seg) with
          cnt := (s.seg q).cnt, sel := (s.seg q).sel } := rfl
    _ = s.seg q := by rw [g]

theorem Elsewhere.free (s : State) (u n : Nat) : Elsewhere s { s with free := n } u :=
  ⟨rfl, rfl, fun _ _ => rfl, fun _ => rfl, fun _ => rfl, fun l => readLoc_congr rfl rfl rfl rfl rfl rfl rfl l⟩

theorem Elsewhere.countDev (s : State) (u src n : Nat) : Elsewhere s (countDev s src n) u :=
  ⟨rfl, rfl, fun _ _ => rfl, fun _ => rfl, fun _ => rfl, fun l => readLoc_congr rfl rfl rfl rfl rfl rfl rfl l⟩

theorem Elsewhere.countSeg (s : State) (u k src n : Nat) : Elsewhere s (countSeg s k src n) u :=
  (Elsewhere.modSeg s u k _ (by intro _; rfl)).trans (Elsewhere.countDev _ u src n)

theorem Elsewhere.countPier (s : State) (u p src n : Nat) : Elsewhere s (countPier s p src n) u :=
  (Elsewhere.modPier s u p _ (by intro _; rfl)).trans (Elsewhere.countSeg _ u _ src n)

@[simp] theorem countDev_spans (s : State) (src n : Nat) : (countDev s src n).spans = s.spans := rfl
@[simp] theorem countSeg_spans (s : State) (k src n : Nat) : (countSeg s k src n).spans = s.spans := rfl
@[simp] theorem countPier_spans (s : State) (p src n : Nat) : (countPier s p src n).spans = s.spans := rfl

/-! ## Acquiring slots (01 R23) -/

/-- A change of a span's grant alone. -/
def Span.granted (sp : Span) (n : Nat) : Span := { sp with grant := n }

/-- k slots have left pier q's pool, and no other pool has changed. -/
def Drawn (s t : State) (q k : Nat) : Prop :=
  (q < s.piers.length → (t.pier q).pool = (s.pier q).pool - k) ∧ ∀ p, p ≠ q → (t.pier p).pool = (s.pier p).pool

theorem pier_modSpan (s : State) (u : Nat) (f : Span → Span) (p : Nat) : (s.modSpan u f).pier p = s.pier p := rfl
theorem countPier_pool (s : State) (q src n p : Nat) : ((countPier s q src n).pier p).pool = (s.pier p).pool :=
  State.pier_modPier_keeps (·.pool) s q _ (by intro _; rfl) p
@[simp] theorem countPier_piers_length (s : State) (q src n : Nat) : (countPier s q src n).piers.length = s.piers.length := by
  simp [countPier, countSeg, countDev, State.modPier, State.modSeg]
theorem State.pier_modPier_same (s : State) {p : Nat} (f : Pier → Pier) (h : p < s.piers.length) : (s.modPier p f).pier p = f (s.pier p) := by
  simp [State.pier, State.modPier, h]
theorem State.pier_modPier_ne (s : State) {p q : Nat} (f : Pier → Pier) (h : q ≠ p) : (s.modPier p f).pier q = s.pier q := by
  simp [State.pier, State.modPier, Ne.symm h]

/-- With room, `cover` succeeds and changes only the grant of the span and the pool of its pier, by what the spare slots do not cover. -/
theorem cover_ok {c : Ctx} {s : State} {sp : Span} (hs : s.span? c.u = some sp) (need low : Nat)
    (h : need ≤ sp.spare ∨ (sp.grant + (need - sp.spare) ≤ sp.ceil ∧
      need - sp.spare ≤ (s.pier ((s.deck? sp.deck).elim 0 (·.pier))).pool)) :
    ∃ t, cover s c.u need low c.A = .ok t ∧ t.span? c.u = some (sp.granted (sp.grant + (need - sp.spare))) ∧ Elsewhere s t c.u ∧
      Drawn s t ((s.deck? sp.deck).elim 0 (·.pier)) (need - sp.spare) := by
  by_cases hz : need = 0
  · refine ⟨s, by simp [cover, hs, hz], ?_, Elsewhere.refl s _, fun _ => by simp [hz], fun _ _ => rfl⟩
    simpa [Span.granted, hz] using hs
  by_cases h0 : need ≤ sp.spare
  · have e : need - sp.spare = 0 := Nat.sub_eq_zero_of_le h0
    refine ⟨countPier s ((s.deck? sp.deck).elim 0 (·.pier)) 0x06 need, by
      simp only [cover, hs]
      rw [if_neg hz, if_pos h0], ?_, Elsewhere.countPier s c.u _ _ _, fun _ => ?_, fun p _ => countPier_pool s _ _ _ p⟩
    · rw [e]; exact (State.span?_congr (s := s) rfl c.u).trans hs
    · rw [e]; exact countPier_pool s _ _ _ _
  · have h1 := h.resolve_left h0
    refine ⟨_, by
      simp only [cover, hs]
      rw [if_neg hz, if_neg h0, if_neg (by omega), if_neg (by omega)], ?_, ?_, fun hp => ?_, fun p hp => ?_⟩
    · rw [State.span?_modSpan_same (x := sp) _ (by intro _; rfl)]
      · rfl
      · rw [State.span?_congr (s := s)]
        · exact hs
        · rfl
    · exact ((Elsewhere.countPier s c.u _ _ _).trans (Elsewhere.modPier _ c.u _ _ (by intro _; rfl))).trans
        (Elsewhere.modSpan _ c.u _ (by intro _; rfl))
    · rw [pier_modSpan, State.pier_modPier_same _ _ (by simpa using hp)]
      show ((countPier s _ 0x06 need).pier _).pool - _ = _
      rw [countPier_pool]
    · rw [pier_modSpan, State.pier_modPier_ne _ _ hp, countPier_pool]

/-- Without room, it raises SHAPE_STORAGE and leaves the state as it is. -/
theorem cover_trap {c : Ctx} {wide : List Nat} (hs : c.s.span? c.u = some c.sp) (hd : c.s.deck? c.sp.deck = some c.deck)
    (h : ¬ Room c (wide.length * c.sp.octets)) :
    cover c.s c.u (wide.length * c.sp.octets) (wide.min?.getD 0) c.A = .error (.trap c.s (storageTrap c wide)) := by
  simp only [Room, not_or, not_and] at h
  simp only [cover, hs, hd, Option.elim_some]
  rw [if_neg (by omega), if_neg h.1]
  by_cases hc : c.sp.ceil < c.sp.grant + (wide.length * c.sp.octets - c.sp.spare)
  · rw [if_pos hc]; simp [storageTrap, hc]
  · rw [if_neg hc, if_pos (by have := h.2 (by omega); omega)]
    simp [storageTrap, hc]

/-! ## Shapes (01 R18) -/

theorem stridesBy_iff (v0 : Word) (e : Nat) (vals : List Word) :
    stridesBy v0 e vals = true ↔ ∀ l (h : l < vals.length), vals[l] = v0 + BitVec.ofNat 32 (l * 2 ^ e) := by
  simp only [stridesBy, List.all_eq_true, beq_iff_eq]
  constructor
  · intro h l hl
    exact h (vals[l], l) (List.mem_iff_getElem.mpr ⟨l, by simpa using hl, by simp⟩)
  · intro h x hx
    obtain ⟨l, hl, rfl⟩ := List.mem_iff_getElem.mp hx
    simpa using h l (by simpa using hl)

/-- The values are not all one where they differ from the first. -/
theorem not_same {vals : List Word} (h : ¬ (vals.all (fun v => v == vals.headD 0#32)) = true) :
    vals ≠ [] ∧ ¬ ∃ x, ∀ y ∈ vals, y = x := by
  cases vals with
  | nil => simp at h
  | cons a l =>
    refine ⟨by simp, fun ⟨x, hx⟩ => h ?_⟩
    have ha := hx a (by simp)
    simp only [List.all_eq_true, beq_iff_eq, List.headD_cons]
    intro y hy
    rw [hx y hy, ha]

@[simp] theorem VReg.isVector_uniform (b : Word) : (VReg.uniform b).isVector = false := rfl
@[simp] theorem VReg.isVector_affine (b : Word) (e : BitVec 3) : (VReg.affine b e).isVector = false := rfl
@[simp] theorem VReg.isVector_vector (slot : Nat) (vals : List Word) : (VReg.vector slot vals).isVector = true := rfl

/-- A shape that the checker gives is compact. -/
theorem checker_compact {vals : List Word} {v : VReg} (h : checker vals = some v) : v.isVector = false := by
  simp only [checker] at h
  split at h
  · cases h; rfl
  · split at h
    · cases h; rfl
    · cases h

/-- The checker's shape is the one of the values. -/
theorem checker_shapes {vals : List Word} {v : VReg} (h : checker vals = some v) : Shapes vals v := by
  simp only [checker] at h
  split at h
  · rename_i hu
    cases h
    intro y hy
    simpa using List.all_eq_true.mp hu y hy
  · rename_i hu
    obtain ⟨-, hd⟩ := not_same hu
    split at h
    · rename_i e he
      cases h
      have he8 : e < 8 := by simpa using List.mem_of_find?_eq_some he
      refine ⟨hd, ?_⟩
      have := (stridesBy_iff (vals.headD 0#32) e vals).mp (by simpa using List.find?_some he)
      intro l hl
      rw [this l hl, BitVec.toNat_ofNat, Nat.mod_eq_of_lt (by simpa using he8)]
    · cases h
theorem checker_vector {vals : List Word} (h : checker vals = none) (slot : Nat) : Shapes vals (.vector slot vals) := by
  simp only [checker] at h
  split at h
  · cases h
  · rename_i hu
    obtain ⟨hn, hd⟩ := not_same hu
    split at h
    · cases h
    · rename_i he
      refine ⟨rfl, hd, fun b e hs => ?_⟩
      obtain ⟨a, l, rfl⟩ := List.exists_cons_of_ne_nil hn
      have hb : a = b := by have := hs 0 (by simp); simpa using this
      have := List.find?_eq_none.mp he e.toNat (by have := e.isLt; simpa using this)
      exact this ((stridesBy_iff _ _ _).mpr (by subst hb; exact hs))

/-! ## Landing (01 R20, R35) -/

/-- A span's fields that a register write may change. -/
def Span.regsOf (sp x : Span) : Span := { sp with regs := x.regs, used := x.used, grant := x.grant, poison := x.poison }

/-- Span x is span sp after the registers of ds have landed for the lanes of a: their values, their slots and shapes, the slots in use, and
the end of their poison; `resv` names those whose slots were taken before (01 R18, R20, R24, 21 R382). -/
structure Landed (a : LaneSet) (resv : Nat → Bool) (ds : List (Nat × (Nat → Word))) (sp x : Span) : Prop where
  vals : ∀ d ∈ ds, ∀ l < sp.width, x.reg d.1 l = if hasLane a l then d.2 l else sp.reg d.1 l
  slots : ∀ d ∈ ds, ∀ slot m, sp.vreg d.1 = .vector slot m → ∃ m', x.vreg d.1 = .vector slot m'
  shapes : ∀ d ∈ ds, (sp.vreg d.1).isVector = false → Shapes (merge sp d.1 d.2 a) (x.vreg d.1)
  others : ∀ r, r ∉ ds.map (·.1) → x.vreg r = sp.vreg r
  used : ds.countP (fun d => resv d.1 && !(sp.vreg d.1).isVector) * sp.octets ≤ sp.used →
    x.used + ds.countP (fun d => resv d.1 && !(sp.vreg d.1).isVector) * sp.octets =
      sp.used + ds.countP (fun d => !(sp.vreg d.1).isVector && (x.vreg d.1).isVector) * sp.octets
  grant : x.grant = sp.grant
  poison : ∀ r l, x.poisonedReg r l = (sp.poisonedReg r l && !((ds.map (·.1)).contains r && hasLane a l))
  length : x.regs.length = sp.regs.length
  rest : sp.regsOf x = x

/-- What the landing of a register leaves of the poison (21 R382). -/
theorem landed_poison (poison : List (Nat × LaneSet)) (a : LaneSet) (d r l : Nat) :
    ((poison.map (fun q => if q.1 == d then (q.1, q.2 &&& ~~~a) else q)).filter (fun q => q.2 != 0#64)).any (fun q => q.1 == r && hasLane q.2 l) =
      (poison.any (fun q => q.1 == r && hasLane q.2 l) && !((d == r) && hasLane a l)) := by
  have some_ (m : LaneSet) (h : hasLane m l = true) : (m != 0#64) = true := by
    simp only [bne_iff_ne, ne_eq]; rintro rfl; simp [hasLane] at h
  have clear (m : LaneSet) : hasLane (m &&& ~~~a) l = (hasLane m l && !hasLane a l) := by
    by_cases hl : l < 64
    · simp [hasLane, hl]
    · simp [hasLane, BitVec.getLsbD_of_ge _ _ (Nat.le_of_not_lt hl)]
  rw [Bool.eq_iff_iff]
  simp only [List.any_eq_true, List.mem_filter, List.mem_map, Bool.and_eq_true, beq_iff_eq, Bool.not_eq_true', Bool.and_eq_false_iff,
    beq_eq_false_iff_ne]
  constructor
  · rintro ⟨q, ⟨⟨p, hp, rfl⟩, -⟩, h1, h2⟩
    by_cases e : p.1 = d
    · simp only [e, if_true, clear, Bool.and_eq_true, Bool.not_eq_true'] at h1 h2
      exact ⟨⟨p, hp, e.trans h1, h2.1⟩, .inr h2.2⟩
    · simp only [e, if_false] at h1 h2
      exact ⟨⟨p, hp, h1, h2⟩, .inl (fun x => e (h1.trans x.symm))⟩
  · rintro ⟨⟨p, hp, h1, h2⟩, h3⟩
    by_cases e : p.1 = d
    · have ha : hasLane a l = false := h3.resolve_left (fun x => x (e.symm.trans h1))
      have hc : hasLane (p.2 &&& ~~~a) l = true := by rw [clear, h2, ha]; rfl
      exact ⟨(p.1, p.2 &&& ~~~a), ⟨⟨p, hp, by simp [e]⟩, some_ _ hc⟩, h1, hc⟩
    · exact ⟨p, ⟨⟨p, hp, by simp [e]⟩, some_ _ h2⟩, h1, h2⟩

theorem landReg_spec {s : State} {u d : Nat} {sp : Span} (new : Nat → Word) (a : LaneSet) (resv : Bool) (hs : s.span? u = some sp)
    (ha : a ≠ 0#64) (hd : d < sp.regs.length) :
    ∃ x, (landReg s u d new a resv).span? u = some x ∧ Landed a (fun _ => resv) [(d, new)] sp x ∧
      Elsewhere s (landReg s u d new a resv) u ∧ (∀ p, ((landReg s u d new a resv).pier p).pool = (s.pier p).pool) := by
  have ha' : (a == 0#64) = false := by simpa using ha
  have hval : ∀ (v : VReg) (n : Nat) (q : List (Nat × LaneSet)),
      (∀ l < sp.width, v.get l = (merge sp d new a).getD l 0#32) →
      (∀ l < sp.width, ({ sp.setReg d v with used := n, poison := q } : Span).reg d l = if hasLane a l then new l else sp.reg d l) := by
    intro v n q hv l hl
    have hv := hv l hl
    have h1 : (sp.setReg d v).vreg d = v := by rw [Span.vreg_setReg _ _ _ _ hd, if_pos rfl]
    show ((sp.setReg d v).vreg d).get l = _
    rw [h1, hv, List.getD_eq_getElem _ _ (by rw [merge_length]; exact hl), merge_get]
  have hoth : ∀ (v : VReg) (n : Nat) (q : List (Nat × LaneSet)) (r : Nat), r ≠ d →
      ({ sp.setReg d v with used := n, poison := q } : Span).vreg r = sp.vreg r := by
    intro v n q r hr
    show (sp.setReg d v).vreg r = _
    rw [Span.vreg_setReg _ _ _ _ hd, if_neg (fun e => hr e.symm)]
  have hown : ∀ (v : VReg) (n : Nat) (q : List (Nat × LaneSet)), ({ sp.setReg d v with used := n, poison := q } : Span).vreg d = v := by
    intro v n q
    show (sp.setReg d v).vreg d = v
    rw [Span.vreg_setReg _ _ _ _ hd, if_pos rfl]
  have hcheck : ∀ v, checker (merge sp d new a) = some v → ∀ l < sp.width, v.get l = (merge sp d new a).getD l 0#32 := by
    intro v hv l hl
    rw [List.getD_eq_getElem _ _ (by rw [merge_length]; exact hl)]
    exact checker_get hv (by rw [merge_length]; exact hl)
  have hpool : ∀ (b : State) (f : Span → Span) (p : Nat), b.piers = s.piers →
      (((dropLatch b sp (· == d)).modSpan u f).pier p).pool = (s.pier p).pool := by
    intro b f p hb
    have : ((dropLatch b sp (· == d)).pier p).pool = (b.pier p).pool := State.pier_modPier_keeps (·.pool) b _ _ (by intro _; rfl) p
    exact this.trans (by simp [State.pier, hb])
  simp only [landReg, hs, ha', Bool.false_eq_true, if_false]
  refine ⟨_, State.span?_modSpan_same (x := sp) _ (by intro _; rfl) ?_, ⟨?_, ?_, ?_, ?_, ?_, rfl, ?_, ?_, rfl⟩, ?_, fun p => hpool _ _ p rfl⟩
  · rw [State.span?_congr (s := s)]
    · exact hs
    · rfl
  · simp only [List.mem_singleton, forall_eq]
    apply hval
    intro l hl
    cases hvr : sp.vreg d with
    | vector slot vs => rfl
    | uniform b => cases hc : checker (merge sp d new a) with
      | none => simp [VReg.get]
      | some v => exact hcheck v hc l hl
    | affine b e => cases hc : checker (merge sp d new a) with
      | none => simp [VReg.get]
      | some v => exact hcheck v hc l hl
  · simp only [List.mem_singleton, forall_eq]
    intro slot m hm
    rw [hown]; simp only [hm]; exact ⟨_, rfl⟩
  · simp only [List.mem_singleton, forall_eq]
    intro hv
    rw [hown]
    cases hvr : sp.vreg d with
    | vector slot vs => rw [hvr] at hv; cases hv
    | uniform b => cases hc : checker (merge sp d new a) with
      | none => exact checker_vector hc _
      | some v => exact checker_shapes hc
    | affine b e => cases hc : checker (merge sp d new a) with
      | none => exact checker_vector hc _
      | some v => exact checker_shapes hc
  · intro r hr
    exact hoth _ _ _ r (by simpa using hr)
  · intro hu
    simp only [List.countP_cons, List.countP_nil, Nat.zero_add] at hu ⊢
    rw [hown]
    cases hvr : sp.vreg d with
    | vector slot vs => simp
    | uniform b => cases hc : checker (merge sp d new a) with
      | none => cases resv <;> simp
      | some v => cases resv <;> simp_all [checker_compact hc]
    | affine b e => cases hc : checker (merge sp d new a) with
      | none => cases resv <;> simp
      | some v => cases resv <;> simp_all [checker_compact hc]
  · intro r l
    show (List.filter _ _).any _ = _
    rw [landed_poison]
    simp only [Span.poisonedReg, List.map_cons, List.map_nil, List.contains_cons, List.contains_nil, Bool.or_false]
    rw [Bool.beq_comm (a := d)]
  · simp [Span.setReg]
  · exact ((Elsewhere.free s u _).trans (Elsewhere.modPier _ u _ _ (by intro _; rfl))).trans (Elsewhere.modSpan _ u _ (by intro _; rfl))

end Sys2Proof.Machine
end

