-- ==== Sys2Proof/Laws/Issue.lean ====
section
/-! SUPPORT. How an issued instruction runs (01 R29, 03 R56, R59, R73): its context, its meaning's outcome, and the step to the next word. -/

namespace Sys2Proof.Machine

/-! ## The context -/

/-- What the context of an issue holds. -/
theorem ctxOf_spec {s : State} {iss : Issue} {c : Ctx} (h : ctxOf s iss = some c) :
    c.s = s ∧ c.before = s ∧ c.iss = iss ∧ s.span? iss.span = some c.sp ∧ s.deck? c.sp.deck = some c.deck ∧ s.girder? c.deck.girder = some c.girder ∧
    s.launch? c.girder.launch = some c.launch ∧ s.ctx? c.launch.ctx = some c.cx := by
  simp only [ctxOf, Option.bind_eq_bind, Option.bind_eq_some_iff, Option.pure_def, Option.some.injEq] at h
  obtain ⟨sp, h1, d, h2, g, h3, l, h4, cx, h5, rfl⟩ := h
  exact ⟨rfl, rfl, rfl, h1, h2, h3, h4, h5⟩

/-- What an issue does: the span's time and place of issue, the latch and the counters of its pier (01 R34, 15 R315, 21 R390). -/
theorem started_spec {c : Ctx} (i : Instr) (h : c.s.span? c.u = some c.sp) :
    (c.started i).span? c.u = some { c.sp with lastIssue := c.s.time, front := c.s.fresh } ∧ Elsewhere c.s (c.started i) c.u := by
  let P : State → Prop := fun t => t.spans = c.s.spans ∧ t.time = c.s.time ∧ t.fresh = c.s.fresh ∧ Elsewhere c.s t c.u
  have count : ∀ t src n, P t → P (countPier t c.deck.pier src n) := fun t src n p =>
    ⟨(countPier_spans _ _ _ _).trans p.1, p.2.1, p.2.2.1, p.2.2.2.trans (Elsewhere.countPier t c.u _ src n)⟩
  have latch : ∀ f : List (List Latch) → List (List Latch), P (c.s.modPier c.deck.pier (fun x => { x with latch := f x.latch })) := fun f =>
    ⟨rfl, rfl, rfl, Elsewhere.modPier c.s c.u _ _ (fun _ => rfl)⟩
  have issue : ∀ t, P t → (t.modSpan c.u (fun x => { x with lastIssue := t.time, front := t.fresh })).span? c.u =
        some { c.sp with lastIssue := c.s.time, front := c.s.fresh } ∧
      Elsewhere c.s (t.modSpan c.u (fun x => { x with lastIssue := t.time, front := t.fresh })) c.u := fun t p => by
    refine ⟨?_, p.2.2.2.trans (Elsewhere.modSpan _ _ _ (fun _ => rfl))⟩
    rw [← p.2.1, ← p.2.2.1]
    exact State.span?_modSpan_same (x := c.sp) (fun x => { x with lastIssue := t.time, front := t.fresh }) (by intro _; rfl)
      ((State.span?_congr p.1 c.u).trans h)
  unfold Ctx.started
  apply issue
  split
  · exact count _ _ _ (count _ _ _ (count _ _ _ (latch _)))
  · exact count _ _ _ (count _ _ _ (latch _))

/-- An issue takes no slots: every pier's pool is as it was. -/
theorem Ctx.started_pool (c : Ctx) (i : Instr) (p : Nat) : ((c.started i).pier p).pool = (c.s.pier p).pool := by
  have keep : ∀ (t : State) (q : Nat) (f : Pier → Pier), (∀ x, (f x).pool = x.pool) → ((t.modPier q f).pier p).pool = (t.pier p).pool :=
    fun t q f h => State.pier_modPier_keeps (·.pool) t q f h p
  have count : ∀ t q src n, ((countPier t q src n).pier p).pool = (t.pier p).pool := fun t q src n => keep t q _ (fun _ => rfl)
  unfold Ctx.started
  show ((ite _ _ _ : State).pier p).pool = _
  split
  · rw [count, count, count, keep]; intro _; rfl
  · rw [count, count, keep]; intro _; rfl

/-- What the context of an issue that has begun holds: the state before it, and the state that the issue itself leaves. -/
theorem startCtx_spec {s : State} {i : Instr} {c : Ctx} (h : startCtx i s = some c) :
    s.cur = some c.iss ∧ c.before = { s with cur := none } ∧ Elsewhere c.before c.s c.u ∧ c.s.span? c.u = some c.sp ∧
    c.s.deck? c.sp.deck = some c.deck := by
  simp only [startCtx, Option.bind_eq_some_iff, Option.map_eq_some_iff] at h
  obtain ⟨iss, h1, k, h2, rfl⟩ := h
  obtain ⟨a, -, b, d, e, -⟩ := ctxOf_spec h2
  subst b
  obtain ⟨p, q⟩ := started_spec (c := k) i (by rw [a]; exact d)
  have hd : (k.started i).decks = k.s.decks := by have := congrArg State.decks q.state; exact this
  refine ⟨h1, a, q, p, ?_⟩
  rw [← a] at e
  exact (State.deck?_congr hd k.sp.deck).trans e

theorem Issues.spec {s : State} {i : Instr} {c : Ctx} (h : Issues s i c) :
    s.cur = some c.iss ∧ Elsewhere { s with cur := none } c.s c.u ∧ c.s.span? c.u = some c.sp ∧ c.s.deck? c.sp.deck = some c.deck := by
  obtain ⟨a, b, d⟩ := startCtx_spec h.picked
  exact ⟨a, b ▸ d⟩

/-- An instruction that issues runs its meaning. -/
theorem instr_runs {s : State} {i : Instr} {c : Ctx} (h : Issues s i c) (al : Bool) (body : Ctx → Run Eff) :
    instr i al s body = settleRun c (body c) := by
  have hg : (i.grade.elim false (fun g => g != gradeOf c.deck.pier)) = false := by
    cases hi : i.grade with
    | none => rfl
    | some g => simp [h.grade g hi]
  have ha : (c.A == 0#64) = false := by simpa using h.some_lane
  simp only [instr, h.picked, hg, ha, h.clean]
  simp

theorem instr_done {s t : State} {i : Instr} {c : Ctx} (h : Issues s i c) (al : Bool) (body : Ctx → Run Eff)
    (hb : body c = .ok (.done t)) : instr i al s body = .next (goOn t c.iss c.G) := by
  rw [instr_runs h, hb]; rfl

theorem instr_moved {s t : State} {i : Instr} {c : Ctx} (h : Issues s i c) (al : Bool) (body : Ctx → Run Eff)
    (hb : body c = .ok (.moved t)) : instr i al s body = .next t := by
  rw [instr_runs h, hb]; rfl

theorem instr_trap {s t : State} {i : Instr} {c : Ctx} {k : TrapInfo} (h : Issues s i c) (al : Bool) (body : Ctx → Run Eff)
    (hb : body c = .error (.trap t k)) (ha : k.access ≠ 10) : instr i al s body = takeTrapFrom c.before t c.iss k := by
  rw [instr_runs h, hb]; simp [settleRun, ha]

theorem instr_holding {s t : State} {i : Instr} {c : Ctx} {k : TrapInfo} {own : Nat} (h : Issues s i c) (al : Bool) (body : Ctx → Run Eff)
    (hb : body c = .error (.holding own t k)) : instr i al s body = takeTrapHolding own c.before t c.iss k := by
  rw [instr_runs h, hb]; rfl

/-- What is raised after slots are acquired is raised holding them; anything else is as it was. -/
theorem owning_ok {n : Nat} {x : Run α} {a : α} (h : x = .ok a) : owning n x = .ok a := by subst h; rfl
theorem owning_trap {n : Nat} {x : Run α} {s : State} {t : TrapInfo} (h : x = .error (.trap s t)) : owning n x = .error (.holding n s t) := by
  subst h; rfl

/-! ## Going on -/

/-- The span after its issuing group has gone on. -/
theorem goOn_spec {s : State} {iss : Issue} {sp : Span} (h : s.span? iss.span = some sp) (m : LaneSet) :
    (goOn s iss m).span? iss.span = some (sp.modLanes (m &&& sp.live) (fun _ l => { l with pos := iss.after l.pos })) ∧
    Elsewhere s (goOn s iss m) iss.span := by
  refine ⟨State.span?_modSpan_same (x := sp) (fun x => x.modLanes (m &&& x.live) (fun _ l => { l with pos := iss.after l.pos }))
    (by intro _; rfl) h, Elsewhere.modSpan s iss.span _ (by intro _; rfl)⟩

end Sys2Proof.Machine
end

