-- ==== Sys2Proof/Laws/Write.lean ====
section
/-! SUPPORT. What an instruction that writes registers of the lanes of A does (01 R18-R23, 05 R83). -/

namespace Sys2Proof.Machine

theorem Landed.nil (a : LaneSet) (resv : Nat → Bool) (sp : Span) : Landed a resv [] sp sp :=
  ⟨by simp, by simp, by simp, by simp, by simp, rfl, by simp, rfl, rfl⟩

/-- One register lands, and then the others. -/
theorem Landed.cons {a : LaneSet} {resv : Nat → Bool} {d : Nat × (Nat → Word)} {ds : List (Nat × (Nat → Word))} {sp x y : Span}
    (h : Landed a (fun _ => resv d.1) [d] sp x) (k : Landed a resv ds x y) (hn : d.1 ∉ ds.map (·.1)) : Landed a resv (d :: ds) sp y := by
  have hw : x.width = sp.width := by rw [← h.rest]; rfl
  have ho : x.octets = sp.octets := by simp [Span.octets, hw]
  have old : ∀ e ∈ ds, x.vreg e.1 = sp.vreg e.1 := fun e he => h.others _ (by
    simp only [List.map_cons, List.map_nil, List.mem_singleton]
    exact fun q => hn (q ▸ List.mem_map_of_mem he))
  have own : y.vreg d.1 = x.vreg d.1 := k.others _ hn
  have same : ∀ e ∈ ds, merge x e.1 e.2 a = merge sp e.1 e.2 a := fun e he => by simp only [merge, Span.reg, hw, old e he]
  have c1 : ds.countP (fun e => resv e.1 && !(x.vreg e.1).isVector) = ds.countP (fun e => resv e.1 && !(sp.vreg e.1).isVector) :=
    List.countP_congr (fun e he => by rw [old e he])
  have c2 : ds.countP (fun e => !(x.vreg e.1).isVector && (y.vreg e.1).isVector) =
      ds.countP (fun e => !(sp.vreg e.1).isVector && (y.vreg e.1).isVector) := List.countP_congr (fun e he => by rw [old e he])
  refine ⟨?_, ?_, ?_, ?_, ?_, k.grant.trans h.grant, ?_, k.length.trans h.length, ?_⟩
  · intro e he l hl
    rcases List.mem_cons.mp he with rfl | he
    · rw [Span.reg, own]; exact h.vals e (by simp) l hl
    · rw [k.vals e he l (by rw [hw]; exact hl)]
      simp only [Span.reg, old e he]
  · intro e he slot m hm
    rcases List.mem_cons.mp he with rfl | he
    · rw [own]; exact h.slots e (by simp) slot m hm
    · exact k.slots e he slot m ((old e he).trans hm)
  · intro e he hv
    rcases List.mem_cons.mp he with rfl | he
    · rw [own]; exact h.shapes e (by simp) hv
    · rw [← same e he]; exact k.shapes e he (by rw [old e he]; exact hv)
  · intro r hr
    simp only [List.map_cons, List.mem_cons, not_or] at hr
    rw [k.others r hr.2, h.others r (by simpa using hr.1)]
  · intro hu
    have h1 := h.used
    have k1 := k.used
    rw [c1, c2, ho] at k1
    simp only [List.countP_cons, List.countP_nil, Nat.zero_add] at hu h1 ⊢
    rw [own]
    simp only [Nat.add_mul] at hu ⊢
    have h2 := h1 (by omega)
    have k2 := k1 (by omega)
    omega
  · intro r l
    rw [k.poison, h.poison]
    simp only [List.map_cons, List.map_nil, List.contains_cons, List.contains_nil, Bool.or_false]
    cases sp.poisonedReg r l <;> cases r == d.1 <;> cases (ds.map (·.1)).contains r <;> cases hasLane a l <;> rfl
  · rw [← k.rest, ← h.rest]; rfl

/-- Registers written one after another, each once. -/
theorem landAll_spec {u : Nat} {a : LaneSet} (ha : a ≠ 0#64) (resv : Nat → Bool) : ∀ (ds : List (Nat × (Nat → Word))) (s : State) (sp : Span),
    s.span? u = some sp → (∀ d ∈ ds, d.1 < sp.regs.length) → (ds.map (·.1)).Nodup →
    let t := ds.foldl (fun s d => landReg s u d.1 d.2 a (resv d.1)) s
    ∃ x, t.span? u = some x ∧ Landed a resv ds sp x ∧ Elsewhere s t u ∧ ∀ p, (t.pier p).pool = (s.pier p).pool
  | [], s, sp, hs, _, _ => ⟨sp, hs, Landed.nil a resv sp, Elsewhere.refl s u, fun _ => rfl⟩
  | d :: ds, s, sp, hs, hr, hn => by
    simp only [List.map_cons, List.nodup_cons] at hn
    obtain ⟨x, hx, hl, he, hp⟩ := landReg_spec (s := s) (u := u) (d := d.1) d.2 a (resv d.1) hs ha (hr d (by simp))
    obtain ⟨y, hy, hl2, he2, hp2⟩ := landAll_spec ha resv ds _ x hx (fun e he => by rw [hl.length]; exact hr e (by simp [he])) hn.2
    exact ⟨y, hy, hl.cons hl2 hn.1, he.trans he2, fun p => (hp2 p).trans (hp p)⟩

/-- Changes of registers and counters leave the live lanes as they were. -/
theorem regsOf_live {sp x : Span} (h : sp.regsOf x = x) : x.live = sp.live := by rw [← h]; rfl

/-- Registers that have landed in a span that had n slots acquired, and then the group goes on: they have been written. -/
theorem Landed.wrote {c : Ctx} {resv : Nat → Bool} {ds : List (Nat × (Nat → Word))} {b t : State} {sp x : Span} {n : Nat}
    (h : Landed c.A resv ds sp x) (hs : sp = { c.sp with used := sp.used, grant := c.sp.grant + (n - c.sp.spare) })
    (hu : x.used = c.sp.used + ds.countP (fun d => !(c.sp.vreg d.1).isVector && (x.vreg d.1).isVector) * c.sp.octets)
    (hx : t.span? c.u = some x) (hb : Drawn c.s b c.deck.pier (n - c.sp.spare)) (hp : ∀ p, (t.pier p).pool = (b.pier p).pool)
    (he : Elsewhere c.s t c.u) : Wrote c (goOn t c.iss c.G) ds n := by
  obtain ⟨g1, g2⟩ := goOn_spec (iss := c.iss) (m := c.G) hx
  have hv : ∀ r, sp.vreg r = c.sp.vreg r := fun r => by rw [hs]; rfl
  have hr : ∀ r l, sp.reg r l = c.sp.reg r l := fun r l => by rw [hs]; rfl
  have hw : sp.width = c.sp.width := by rw [hs]
  have hm : ∀ r (f : Nat → Word), merge sp r f c.A = merge c.sp r f c.A := fun r f => by simp only [merge, hr, hw]
  have hl : x.live = c.sp.live := by rw [regsOf_live h.rest, hs]; rfl
  have keep : ∀ p, ((goOn t c.iss c.G).pier p).pool = (b.pier p).pool := fun p => hp p
  refine ⟨⟨_, g1, ⟨?_, ?_, ?_, ?_, hu, ?_, ?_⟩, ?_⟩, ⟨fun q => (keep _).trans (hb.1 q), fun p q => (keep p).trans (hb.2 p q)⟩, he.trans g2⟩
  · intro d hd l hl'
    rw [← hr]; exact h.vals d hd l (by rw [hw]; exact hl')
  · intro d hd slot m e
    exact h.slots d hd slot m ((hv _).trans e)
  · intro d hd e
    rw [← hm]; exact h.shapes d hd (by rw [hv]; exact e)
  · intro r e
    rw [← hv]; exact h.others r e
  · show x.grant = _
    rw [h.grant, hs]
  · intro r l
    have : sp.poisonedReg r l = c.sp.poisonedReg r l := by rw [hs]; rfl
    rw [← this]; exact h.poison r l
  · rw [hl]
    show { x.modLanes (c.G &&& c.sp.live) (fun _ l => { l with pos := c.iss.after l.pos }) with
      regs := c.sp.regs, used := c.sp.used, grant := c.sp.grant, poison := c.sp.poison } = c.advanced
    rw [← h.rest, hs]; rfl

theorem wideOf_length (c : Ctx) (ds : List (Nat × (Nat → Word))) :
    (ds.filter (fun d => widens c.sp d.1 d.2 c.A)).length = (wideOf c ds).length := by simp [wideOf]

/-- With room, a write of distinct registers is made whole, and the group goes on. -/
theorem write_spec {c : Ctx} {ds : List (Nat × (Nat → Word))} (hs : c.s.span? c.u = some c.sp) (hd : c.s.deck? c.sp.deck = some c.deck)
    (ha : c.A ≠ 0#64) (hr : ∀ d ∈ ds, d.1 < c.sp.regs.length) (hn : (ds.map (·.1)).Nodup) (room : Room c (needOf c ds)) :
    ∃ t, c.write c.s ds = .ok t ∧ Wrote c (goOn t c.iss c.G) ds (needOf c ds) := by
  obtain ⟨t, h1, h2, h3, h4⟩ := cover_ok (c := c) (s := c.s) hs (needOf c ds) ((wideOf c ds).min?.getD 0) (by rw [hd]; exact room)
  rw [hd] at h4
  obtain ⟨x, hx, hl, he, hp⟩ := landAll_spec (u := c.u) ha (fun _ => false) ds t _ h2 hr hn
  refine ⟨_, ?_, hl.wrote rfl ?_ hx h4 hp (h3.trans he)⟩
  · simp only [Ctx.write, hs]
    show (cover c.s c.u (needOf c ds) _ c.A).bind _ = _
    rw [show ((ds.filter (fun d => widens c.sp d.1 d.2 c.A)).map (·.1)) = wideOf c ds from rfl, h1]; rfl
  · have e : ds.countP (fun d => (fun _ => false) d.1 && !((c.sp.granted (c.sp.grant + (needOf c ds - c.sp.spare))).vreg d.1).isVector) = 0 :=
      List.countP_eq_zero.mpr (by simp)
    have := hl.used (by rw [e]; omega)
    rw [e, Nat.zero_mul] at this
    exact this

/-- Without room, it raises SHAPE_STORAGE. -/
theorem write_trap {c : Ctx} {ds : List (Nat × (Nat → Word))} (hs : c.s.span? c.u = some c.sp) (hd : c.s.deck? c.sp.deck = some c.deck)
    (room : ¬ Room c (needOf c ds)) : c.write c.s ds = .error (.trap c.s (storageTrap c (wideOf c ds))) := by
  simp only [Ctx.write, hs]
  show (cover c.s c.u ((wideOf c ds).length * c.sp.octets) ((wideOf c ds).min?.getD 0) c.A).bind _ = _
  rw [cover_trap hs hd room]; rfl

/-- An instruction whose meaning is a write of registers computes them. -/
theorem regInstr_computes {i : Instr} {ds : Ctx → List (Nat × (Nat → Word))} (he : ∀ s, Machine.exec i s = regInstr i s ds)
    (hr : i.wf = true → ∀ c, (∀ d ∈ ds c, d.1 < 128) ∧ ((ds c).map (·.1)).Nodup) : Computes i ds := by
  intro s c h
  obtain ⟨-, -, h3, h4⟩ := h.spec
  obtain ⟨hd, hn⟩ := hr h.legal c
  constructor
  · intro room
    obtain ⟨t, hw, hx⟩ := write_spec h3 h4 h.some_lane (by rw [h.shaped.regs]; exact hd) hn room
    exact ⟨_, (he s).trans (instr_done h false _ (by rw [hw]; rfl)), hx⟩
  · intro room
    exact (he s).trans (instr_trap h false _ (by rw [write_trap h3 h4 room]; rfl) (by simp [storageTrap, TrapInfo.at]))

theorem Computes.congr {i : Instr} {ds es : Ctx → List (Nat × (Nat → Word))} (h : Computes i ds)
    (e : i.wf = true → ∀ c, ds c = es c) : Computes i es := by
  intro s c hi
  rw [← e hi.legal c]; exact h s c hi

/-- One register written. -/
theorem computes_one {i : Instr} {r : Reg} {f : Ctx → Nat → Word} (he : ∀ s, Machine.exec i s = regInstr i s (fun c => [(r.toNat, f c)])) :
    Computes i (fun c => [(r.toNat, f c)]) :=
  regInstr_computes he (fun _ c => ⟨fun d hd => by simp only [List.mem_singleton] at hd; subst hd; exact r.isLt, by simp⟩)

theorem evenReg_lt {r : Reg} (h : evenReg r = true) : r.toNat + 1 < 128 := by
  have h1 := r.isLt
  have h2 : r.toNat % 2 = 0 := by
    have : r.getLsbD 0 = false := by simpa [evenReg] using h
    rw [BitVec.getLsbD, Nat.testBit_zero] at this
    simp only [decide_eq_false_iff_not] at this; omega
  omega

theorem pair_regs {r : Reg} (h : evenReg r = true) (f : Nat → DWord) :
    (∀ d ∈ pairDst r f, d.1 < 128) ∧ ((pairDst r f).map (·.1)).Nodup := by
  have := evenReg_lt h
  have h1 := r.isLt
  constructor
  · intro d hd
    simp only [pairDst, List.mem_cons, List.not_mem_nil, or_false] at hd
    rcases hd with rfl | rfl <;> simp <;> omega
  · simp [pairDst]

/-- A pair of registers written. -/
theorem computes_pair {i : Instr} {r : Reg} {f : Ctx → Nat → DWord} (hw : i.wf = true → evenReg r = true)
    (he : ∀ s, Machine.exec i s = regInstr i s (fun c => pairDst r (f c))) : Computes i (fun c => pairDst r (f c)) :=
  regInstr_computes he (fun w c => pair_regs (hw w) (f c))

/-- One register or a pair, as the form says. -/
theorem computes_sized {i : Instr} {r : Reg} {wide : Bool} {f : Ctx → Nat → Word} {g : Ctx → Nat → DWord}
    (hw : i.wf = true → wide = true → evenReg r = true)
    (he : ∀ s, Machine.exec i s = regInstr i s (fun c => if wide = true then pairDst r (g c) else [(r.toNat, f c)])) :
    Computes i (fun c => if wide = true then pairDst r (g c) else [(r.toNat, f c)]) :=
  regInstr_computes he (fun w c => by
    cases h : wide with
    | true => simpa using pair_regs (hw w h) (g c)
    | false => exact ⟨fun d hd => by simp only [Bool.false_eq_true, if_false, List.mem_singleton] at hd; subst hd; exact r.isLt, by simp⟩)

end Sys2Proof.Machine
end

