-- ==== Sys2Proof/Laws/Access.lean ====
section
/-! SUPPORT. The checks of an access, the slots taken at issue, and outstanding work (01 R24, 07 R144, R145). -/

namespace Sys2Proof.Machine

/-! ## What address checks read -/

/-- t has the memories, tables and decks of s, and its spans but for their slots. -/
structure Alike (s t : State) : Prop where
  spans : ∃ g : Span → Span, (∀ x, { g x with grant := x.grant, used := x.used } = x) ∧ t.spans = s.spans.map g
  decks : t.decks = s.decks
  mem : t.mem = s.mem
  hostMem : t.hostMem = s.hostMem
  poison : t.poison = s.poison
  off : t.refreshOff = s.refreshOff
  sync : t.mgmt.refsync = s.mgmt.refsync
  next : t.mgmt.nextOff = s.mgmt.nextOff
  steps : t.steps = s.steps
  ats : t.ats = s.ats
  works : t.works = s.works

theorem Alike.refl (s : State) : Alike s s := ⟨⟨id, fun _ => rfl, (List.map_id _).symm⟩, rfl, rfl, rfl, rfl, rfl, rfl, rfl, rfl, rfl, rfl⟩
theorem Alike.trans {s t w : State} (a : Alike s t) (b : Alike t w) : Alike s w := by
  obtain ⟨f, hf, h1⟩ := a.spans
  obtain ⟨g, hg, h2⟩ := b.spans
  refine ⟨⟨g ∘ f, fun x => ?_, by rw [h2, h1, List.map_map]⟩, b.decks.trans a.decks, b.mem.trans a.mem, b.hostMem.trans a.hostMem,
    b.poison.trans a.poison, b.off.trans a.off, b.sync.trans a.sync, b.next.trans a.next, b.steps.trans a.steps, b.ats.trans a.ats,
    b.works.trans a.works⟩
  calc { (g ∘ f) x with grant := x.grant, used := x.used }
      = { ({ g (f x) with grant := (f x).grant, used := (f x).used } : Span) with grant := x.grant, used := x.used } := rfl
    _ = x := by rw [hg, hf]
theorem Alike.modSpan (s : State) (u : Nat) (f : Span → Span) (hf : ∀ x, { f x with grant := x.grant, used := x.used } = x) :
    Alike s (s.modSpan u f) :=
  ⟨⟨fun x => if x.uid == u then f x else x, fun x => by dsimp only; split; exact hf x; rfl, rfl⟩, rfl, rfl, rfl, rfl, rfl, rfl, rfl, rfl, rfl, rfl⟩
theorem Alike.modPier (s : State) (p : Nat) (f : Pier → Pier) : Alike s (s.modPier p f) :=
  ⟨⟨id, fun _ => rfl, (List.map_id _).symm⟩, rfl, rfl, rfl, rfl, rfl, rfl, rfl, rfl, rfl, rfl⟩
theorem Alike.countPier (s : State) (p src n : Nat) : Alike s (countPier s p src n) :=
  ⟨⟨id, fun _ => rfl, (List.map_id _).symm⟩, rfl, rfl, rfl, rfl, rfl, rfl, rfl, rfl, rfl, rfl⟩

theorem Alike.devByte {s t : State} (h : Alike s t) (pa : Nat) : devByte t pa = devByte s pa := by
  simp [Machine.devByte, declaredOff, h.mem, h.off, h.sync, h.next, h.steps]
theorem Alike.declaredOff {s t : State} (h : Alike s t) (pa : Nat) : declaredOff t pa = declaredOff s pa := by
  simp [Machine.declaredOff, h.off, h.sync, h.next, h.steps]
theorem Alike.readLoc {s t : State} (h : Alike s t) (l : Loc) : readLoc t l = readLoc s l :=
  readLoc_congr h.mem h.hostMem h.decks h.off h.sync h.next h.steps l
theorem Alike.readLocs {s t : State} (h : Alike s t) (l : Loc) (n : Nat) : readLocs t l n = readLocs s l n := by
  simp [Machine.readLocs, h.readLoc]
theorem Alike.readPte {s t : State} (h : Alike s t) (l : Loc) : readPte t l = readPte s l := by simp [Machine.readPte, h.readLocs]
theorem Alike.hostPage {s t : State} (h : Alike s t) (p : Nat) : hostPage t p = hostPage s p := by simp [Machine.hostPage, h.ats]
theorem Alike.leaf {s t : State} (h : Alike s t) (k : Kind) (p o : Nat) : leaf t k p o = leaf s k p o := by simp [Machine.leaf, h.hostPage]
theorem Alike.tableEntry {s t : State} (h : Alike s t) (b : Bool) (a : Nat) : tableEntry t b a = tableEntry s b a := by
  simp [Machine.tableEntry, h.hostPage]
theorem Alike.walk {s t : State} (h : Alike s t) (k : Kind) :
    ∀ level host table va, walk t k level host table va = walk s k level host table va
  | 0, host, table, va => by
    rw [Machine.walk.eq_1 t, Machine.walk.eq_1 s]; simp only [h.tableEntry, h.readPte, h.leaf]
  | n + 1, host, table, va => by
    rw [Machine.walk.eq_1 t, Machine.walk.eq_1 s]; simp only [h.tableEntry, h.readPte, h.leaf, h.walk k n]
theorem Alike.translate {s t : State} (h : Alike s t) (cx : Context) (b : Bool) (k : Kind) (va : Nat) :
    translate t cx b k va = translate s cx b k va := by simp [Machine.translate, h.walk]
theorem Alike.deck? {s t : State} (h : Alike s t) (u : Nat) : t.deck? u = s.deck? u := by simp [State.deck?, h.decks]
theorem Alike.poisonMark {s t : State} (h : Alike s t) (l : Loc) : poisonMark t l = poisonMark s l := by
  cases l <;> simp [Machine.poisonMark, h.poison, h.deck?]
theorem Alike.poisonedAt {s t : State} (h : Alike s t) (l : Loc) : poisonedAt t l = poisonedAt s l := by
  cases l <;> simp [Machine.poisonedAt, h.declaredOff, h.poisonMark]
theorem Alike.poisoned {s t : State} (h : Alike s t) (l : Loc) (n : Nat) : poisoned t l n = poisoned s l n := by
  simp [Machine.poisoned, h.poisonedAt]
theorem Alike.liveInDeck {s t : State} (h : Alike s t) (d w l : Nat) : liveInDeck t d w l = liveInDeck s d w l := by
  obtain ⟨g, hg, hs⟩ := h.spans
  have h1 : ∀ x, (g x).deck = x.deck := fun x => by rw [← congrArg Span.deck (hg x)]
  have h2 : ∀ x, (g x).idx = x.idx := fun x => by rw [← congrArg Span.idx (hg x)]
  have h3 : ∀ x, (g x).live = x.live := fun x => by rw [← congrArg Span.live (hg x)]; rfl
  simp only [Machine.liveInDeck, State.spansOf, hs, List.filter_map, List.any_map]
  simp only [Function.comp_def, h1, h2, h3]
theorem Alike.resolve {s t : State} (h : Alike s t) (c : Ctx) (sp : Space) (lane : Nat) (a : DWord) (n : Nat) :
    resolve c t sp lane a n = resolve c s sp lane a n := by
  cases sp <;> simp [Machine.resolve, h.liveInDeck, State.decksOf, h.decks]
theorem Alike.translateTarget {s t : State} (h : Alike s t) (c : Ctx) (w : Bool) (g : Target) :
    translateTarget c t w g = translateTarget c s w g := by
  cases g <;> simp [Machine.translateTarget, h.translate]
theorem Alike.stillPoisoned {s t : State} (h : Alike s t) (u lane : Nat) (l : Loc) (n : Nat) :
    stillPoisoned t u lane l n = stillPoisoned s u lane l n := by
  simp [Machine.stillPoisoned, h.poisonedAt, h.works]
theorem Alike.reaches {s t : State} (h : Alike s t) {c : Ctx} {mx : Nat} {rd : Bool} {r : Req} {l : Loc} {mt : Nat}
    (a : Reaches c s mx rd r l mt) : Reaches c t mx rd r l mt := by
  obtain ⟨h1, h2, h3, g, h4, h5⟩ := a
  exact ⟨h1, h2, fun e => by rw [h.stillPoisoned]; exact h3 e, g, by rw [h.resolve]; exact h4, by rw [h.translateTarget]; exact h5⟩

/-! ## The checks -/

/-- Accesses that pass every check are answered with their locations (07 R145). -/
theorem checkAllWith_ok {c : Ctx} {s : State} (aligned : Req → Bool) (access mx : Nat) (rd : Bool) (reqs : List Req) (loc : Req → Loc) (mt : Req → Nat)
    (ha : ∀ r ∈ reqs, aligned r = true)
    (h : ∀ r ∈ reqs, mt r ≤ mx ∧ (rd = true → stillPoisoned s c.u r.lane (loc r) r.size = false) ∧
      ∃ g, resolve c s r.sp r.lane r.addr r.size = some g ∧ translateTarget c s r.wr g = .ok (loc r) (mt r)) :
    checkAllWith aligned c s access mx rd reqs = .ok (reqs.map (fun r => ⟨r, loc r, mt r⟩)) := by
  have e1 : reqs.filter (fun r => !aligned r) = [] := by simpa using ha
  have e2 : (reqs.map (fun r => (r, resolve c s r.sp r.lane r.addr r.size))).filter (fun x => x.2.isNone) = [] := by
    simp only [List.filter_eq_nil_iff, List.mem_map, Bool.not_eq_true, forall_exists_index, and_imp]
    rintro _ r hr rfl
    obtain ⟨-, -, g, hg, -⟩ := h r hr
    simp [hg]
  have e3 : (reqs.map (fun r => (r, resolve c s r.sp r.lane r.addr r.size))).map (fun x =>
      (x.1, x.2.elim Tr.absent (translateTarget c s x.1.wr))) = reqs.map (fun r => (r, Tr.ok (loc r) (mt r))) := by
    rw [List.map_map]
    apply List.map_congr_left
    intro r hr
    obtain ⟨-, -, g, hg, ht⟩ := h r hr
    simp [hg, ht]
  have e4 : (reqs.map (fun r => (r, Tr.ok (loc r) (mt r)))).any (fun x => x.2 == Tr.noMem) = false := by simp
  have e5 : (reqs.map (fun r => (r, Tr.ok (loc r) (mt r)))).findSome? (fun x => match x.2 with | Tr.ask p => some p | _ => none) = none := by
    simp
  have e6 : (reqs.map (fun r => (r, Tr.ok (loc r) (mt r)))).filter (fun x => x.2.isProt mx) = [] := by
    simp only [List.filter_eq_nil_iff, List.mem_map, forall_exists_index, and_imp]
    rintro _ r hr rfl
    have := (h r hr).1
    simp [Tr.isProt, this]
  have e7 : (reqs.map (fun r => (r, Tr.ok (loc r) (mt r)))).filter (fun x => x.2 == Tr.absent) = [] := by simp
  have e8 : (reqs.map (fun r => (r, Tr.ok (loc r) (mt r)))).filterMap (fun x => match x.2 with | Tr.ok l m => some (Hit.mk x.1 l m) | _ => none) =
      reqs.map (fun r => ⟨r, loc r, mt r⟩) := by
    rw [List.filterMap_map, ← List.filterMap_eq_map]; rfl
  have e9 : (reqs.map (fun r => (⟨r, loc r, mt r⟩ : Hit))).filter (fun h => rd && stillPoisoned s c.u h.req.lane h.loc h.req.size) = [] := by
    simp only [List.filter_eq_nil_iff, List.mem_map, forall_exists_index, and_imp]
    rintro _ r hr rfl
    cases hrd : rd with
    | false => simp
    | true => simp [(h r hr).2.1 hrd]
  simp only [checkAllWith, e1, e2, e3, e4, e6, e7]
  split
  · rename_i hc; exact absurd hc (by simp)
  · split
    · rename_i hc; exact absurd hc (by simp)
    · split
      · rename_i hc; exact absurd hc (by simp)
      · split
        · rename_i p hp; exact absurd (e5.symm.trans hp) (by simp)
        · split
          · rename_i hc; exact absurd hc (by simp)
          · have e10 := e9
            rw [← e8] at e10
            split
            · rename_i hc; exact absurd e10 (by simpa using hc)
            · exact congrArg Except.ok e8

theorem checkAll_ok {c : Ctx} {s : State} (access mx : Nat) (rd : Bool) (reqs : List Req) (loc : Req → Loc) (mt : Req → Nat)
    (h : ∀ r ∈ reqs, Reaches c s mx rd r (loc r) (mt r)) :
    checkAll c s access mx rd reqs = .ok (reqs.map (fun r => ⟨r, loc r, mt r⟩)) :=
  checkAllWith_ok _ access mx rd reqs loc mt (fun r hr => by simp [(h r hr).1]) (fun r hr => (h r hr).2)

/-! ## Slots taken at issue (01 R24) -/

theorem cover_alike {s t : State} {u need low : Nat} {a : LaneSet} (h : cover s u need low a = .ok t) : Alike s t := by
  simp only [cover] at h
  split at h
  · cases h; exact Alike.refl s
  · split at h
    · cases h; exact Alike.refl s
    · split at h
      · cases h; exact Alike.countPier s _ _ _
      split at h
      · cases h
      · split at h
        · cases h
        · cases h
          exact ((Alike.countPier s _ _ _).trans (Alike.modPier _ _ _)).trans (Alike.modSpan _ _ _ (fun _ => rfl))

/-- With room, the slots of every compact destination are taken. -/
theorem reserve_ok {c : Ctx} {s : State} {sp : Span} (hs : s.span? c.u = some sp) (ds : List Nat)
    (room : (ds.filter (fun d => !(sp.vreg d).isVector)).length * sp.octets ≤ sp.spare ∨
      (sp.grant + ((ds.filter (fun d => !(sp.vreg d).isVector)).length * sp.octets - sp.spare) ≤ sp.ceil ∧
        (ds.filter (fun d => !(sp.vreg d).isVector)).length * sp.octets - sp.spare ≤ (s.pier ((s.deck? sp.deck).elim 0 (·.pier))).pool)) :
    let n := (ds.filter (fun d => !(sp.vreg d).isVector)).length * sp.octets
    ∃ t, c.reserve s ds = .ok (t, n) ∧ t.span? c.u = some { sp with grant := sp.grant + (n - sp.spare), used := sp.used + n } ∧
      Elsewhere s t c.u ∧ Alike s t ∧ Drawn s t ((s.deck? sp.deck).elim 0 (·.pier)) (n - sp.spare) := by
  obtain ⟨t, h1, h2, h3, h4⟩ := cover_ok (c := c) (s := s) hs _ ((ds.filter (fun d => !(sp.vreg d).isVector)).min?.getD 0) room
  refine ⟨_, ?_, State.span?_modSpan_same (x := sp.granted _) (fun x =>
      { x with used := x.used + (ds.filter (fun d => !(sp.vreg d).isVector)).length * sp.octets }) (by intro _; rfl) h2,
    h3.trans (Elsewhere.modSpan t c.u _ (by intro _; rfl)), (cover_alike h1).trans (Alike.modSpan _ _ _ (fun _ => rfl)), h4⟩
  simp only [Ctx.reserve, hs, h1]; rfl

/-- Without room, SHAPE_STORAGE is raised. -/
theorem reserve_trap {c : Ctx} (hs : c.s.span? c.u = some c.sp) (hd : c.s.deck? c.sp.deck = some c.deck) (ds : List Nat)
    (room : ¬ Room c (needAtIssue c ds)) : c.reserve c.s ds = .error (.trap c.s (storageTrap c (compactOf c ds))) := by
  simp only [Ctx.reserve, hs]
  show (cover c.s c.u ((compactOf c ds).length * c.sp.octets) ((compactOf c ds).min?.getD 0) c.A).bind _ = _
  rw [cover_trap hs hd room]; rfl

end Sys2Proof.Machine
end

