-- ==== Sys2Proof/Laws/AtIssue.lean ====
section
/-! SUPPORT. Instructions that acquire the slots of every compact destination as they issue and write at once (01 R24, 07 R144). -/

namespace Sys2Proof.Machine

/-- With room, registers whose slots are taken at issue are written whole, and the group goes on. -/
theorem issueWrite_ok {c : Ctx} (ds : List (Nat × (Nat → Word))) (hs : c.s.span? c.u = some c.sp) (ha : c.A ≠ 0#64)
    (h4 : c.s.deck? c.sp.deck = some c.deck) (hr : ∀ d ∈ ds, d.1 < c.sp.regs.length) (hn : (ds.map (·.1)).Nodup)
    (room : Room c (needAtIssue c (ds.map (·.1)))) :
    ∃ t, c.issueWrite c.s ds = .ok t ∧ Wrote c (goOn t c.iss c.G) ds (needAtIssue c (ds.map (·.1))) := by
  obtain ⟨t, h1, h2, h3, -, h5⟩ := reserve_ok (c := c) (s := c.s) hs (ds.map (·.1)) (by rw [h4]; exact room)
  rw [h4] at h5
  obtain ⟨x, hx, hl, he, hp⟩ := landAll_spec (u := c.u) ha (fun d => !(c.sp.vreg d).isVector) ds t _ h2 hr hn
  refine ⟨_, ?_, hl.wrote rfl ?_ hx h5 hp (h3.trans he)⟩
  · simp only [Ctx.issueWrite, h1]; rfl
  · have e : ds.countP (fun d => (fun d => !(c.sp.vreg d).isVector) d.1 && !(c.sp.vreg d.1).isVector) =
        ((ds.map (·.1)).filter (fun d => !(c.sp.vreg d).isVector)).length := by
      rw [← List.countP_eq_length_filter, List.countP_map]
      exact List.countP_congr (fun d _ => by simp)
    have key : ds.countP (fun d => (fun d => !(c.sp.vreg d).isVector) d.1 && !(c.sp.vreg d.1).isVector) * c.sp.octets ≤
          c.sp.used + ((ds.map (·.1)).filter (fun d => !(c.sp.vreg d).isVector)).length * c.sp.octets →
        x.used + ds.countP (fun d => (fun d => !(c.sp.vreg d).isVector) d.1 && !(c.sp.vreg d.1).isVector) * c.sp.octets =
          c.sp.used + ((ds.map (·.1)).filter (fun d => !(c.sp.vreg d).isVector)).length * c.sp.octets +
            ds.countP (fun d => !(c.sp.vreg d.1).isVector && (x.vreg d.1).isVector) * c.sp.octets := hl.used
    rw [e] at key
    have := key (by omega)
    omega

/-- Without room, they raise SHAPE_STORAGE. -/
theorem issueWrite_trap {c : Ctx} (ds : List (Nat × (Nat → Word))) (hs : c.s.span? c.u = some c.sp) (h4 : c.s.deck? c.sp.deck = some c.deck)
    (room : ¬ Room c (needAtIssue c (ds.map (·.1)))) :
    c.issueWrite c.s ds = .error (.trap c.s (storageTrap c (compactOf c (ds.map (·.1))))) := by
  simp only [Ctx.issueWrite, reserve_trap hs h4 _ room]; rfl

theorem issueWrite_computes {i : Instr} {ds : Ctx → List (Nat × (Nat → Word))}
    (he : ∀ s, Machine.exec i s = instr i false s (fun c => (c.issueWrite c.s (ds c)).map .done))
    (hr : i.wf = true → ∀ c, (∀ d ∈ ds c, d.1 < 128) ∧ ((ds c).map (·.1)).Nodup) : ComputesAtIssue i ds := by
  intro s c h
  obtain ⟨-, -, h3, h4⟩ := h.spec
  obtain ⟨hd, hn⟩ := hr h.legal c
  constructor
  · intro room
    obtain ⟨t, hw, hx⟩ := issueWrite_ok (ds c) h3 h.some_lane h4 (by rw [h.shaped.regs]; exact hd) hn room
    exact ⟨_, (he s).trans (instr_done h false _ (by rw [hw]; rfl)), hx⟩
  · intro room
    exact (he s).trans (instr_trap h false _ (by rw [issueWrite_trap (ds c) h3 h4 room]; rfl) (by simp [storageTrap, TrapInfo.at]))

end Sys2Proof.Machine
end

