-- ==== Sys2Proof/Laws/Bits.lean ====
section
/-! SUPPORT. The bits of a lane set or word made from a function (01 R12). -/

namespace Sys2Proof

theorem getLsbD_boolList : ∀ (l : List Bool) (i : Nat), (BitVec.ofBoolListLE l).getLsbD i = l.getD i false
  | [], i => by simp [BitVec.ofBoolListLE]
  | b :: l, 0 => by simp [BitVec.ofBoolListLE]
  | b :: l, i + 1 => by
    have := getLsbD_boolList l i
    simp [BitVec.ofBoolListLE, this]

theorem range_map_getD {n : Nat} (p : Nat → Bool) (i : Nat) : ((List.range n).map p).getD i false = (decide (i < n) && p i) := by
  by_cases h : i < n
  · simp [h]
  · simp [h]

/-- A lane set made from a function has the lanes below 64 that satisfy it. -/
@[simp] theorem hasLane_laneSetOf (p : Nat → Bool) (l : Nat) : hasLane (laneSetOf p) l = (decide (l < 64) && p l) := by
  have := getLsbD_boolList ((List.range 64).map p) l
  rw [range_map_getD] at this
  exact this

/-- Two lane sets with the same lanes are equal. -/
theorem laneSet_ext {m n : LaneSet} (h : ∀ l < 64, hasLane m l = hasLane n l) : m = n := BitVec.eq_of_getLsbD_eq (fun l hl => h l hl)
@[simp] theorem hasLane_and (m n : LaneSet) (l : Nat) : hasLane (m &&& n) l = (hasLane m l && hasLane n l) := by simp [hasLane]
@[simp] theorem hasLane_or (m n : LaneSet) (l : Nat) : hasLane (m ||| n) l = (hasLane m l || hasLane n l) := by simp [hasLane]
@[simp] theorem hasLane_not (m : LaneSet) (l : Nat) : hasLane (~~~m) l = (decide (l < 64) && !hasLane m l) := by simp [hasLane]
@[simp] theorem hasLane_zero (l : Nat) : hasLane 0#64 l = false := by simp [hasLane]
theorem hasLane_lt {m : LaneSet} {l : Nat} (h : hasLane m l = true) : l < 64 := BitVec.lt_of_getLsbD h
@[simp] theorem hasLane_oneLane (k l : Nat) : hasLane (oneLane k) l = (decide (l < 64) && decide (l = k)) := by
  simp only [hasLane, oneLane, BitVec.getLsbD_shiftLeft, BitVec.getLsbD_one]
  by_cases h1 : l < 64 <;> by_cases h2 : l = k <;> simp [h1, h2]
  omega
@[simp] theorem mem_lanesOf (m : LaneSet) (l : Nat) : l ∈ lanesOf m ↔ hasLane m l = true := by
  simp only [lanesOf, List.mem_filter, List.mem_range]
  exact ⟨fun h => h.2, fun h => ⟨hasLane_lt h, h⟩⟩

/-- The 32 bits of a word, from a function. -/
theorem getLsbD_wordOfBits (p : Nat → Bool) (i : Nat) : (wordOfBits p).getLsbD i = (decide (i < 32) && p i) := by
  have := getLsbD_boolList ((List.range 32).map p) i
  rw [range_map_getD] at this
  exact this

end Sys2Proof
end

