-- ==== Sys2Proof/Laws/Dispatch.lean ====
section
/-! SUPPORT. Every instruction of the six maps runs through the checks of an issue before its own meaning (01 R29, 03 R73, 21 R382). -/

namespace Sys2Proof.Machine

/-- An instruction's meaning is a body behind the checks of an issue; only ser, endser and tret act with no lane executing. -/
theorem exec_instr {i : Instr} (h : i.cls.isSome = true) :
    ∃ al body, (∀ s, exec i s = instr i al s body) ∧ (al = true → (∃ off, i = .ser off) ∨ i = .endser ∨ i = .tret) := by
  cases i <;> first
    | exact absurd h Bool.false_ne_true
    | exact ⟨false, _, fun _ => rfl, by simp⟩
    | exact ⟨true, _, fun _ => rfl, by simp⟩

end Sys2Proof.Machine
end

