-- ==== Sys2Proof/Laws/Encoding.lean ====
section
/-! SUPPORT. What each field of a packed word reads as (03 R61), and source b read back from its field and literal (03 R63). -/

namespace Sys2Proof

theorem extract_append_high {m n k : Nat} (x : BitVec m) (y : BitVec n) (j : Nat) (h : n ≤ j) :
    (x ++ y).extractLsb' j k = x.extractLsb' (j - n) k := by
  apply BitVec.eq_of_getLsbD_eq
  intro i hi
  simp only [BitVec.getLsbD_extractLsb', hi, decide_true, Bool.true_and, BitVec.getLsbD_append]
  rw [if_neg (by omega)]
  congr 1
  omega

theorem extract_append_low {m n k : Nat} (x : BitVec m) (y : BitVec n) (j : Nat) (h : j + k ≤ n) :
    (x ++ y).extractLsb' j k = y.extractLsb' j k := by
  apply BitVec.eq_of_getLsbD_eq
  intro i hi
  simp only [BitVec.getLsbD_extractLsb', hi, decide_true, Bool.true_and, BitVec.getLsbD_append]
  rw [if_pos (by omega)]

theorem extract_all {n : Nat} (x : BitVec n) : x.extractLsb' 0 n = x := by simp

theorem bit_append_high {m n : Nat} (x : BitVec m) (y : BitVec n) (j : Nat) (h : n ≤ j) : (x ++ y).getLsbD j = x.getLsbD (j - n) := by
  rw [BitVec.getLsbD_append, if_neg (by omega)]

theorem bit_append_low {m n : Nat} (x : BitVec m) (y : BitVec n) (j : Nat) (h : j < n) : (x ++ y).getLsbD j = y.getLsbD j := by
  rw [BitVec.getLsbD_append, if_pos h]

theorem bit_ofBool (b : Bool) : (BitVec.ofBool b).getLsbD 0 = b := by cases b <;> rfl

theorem evenReg_ne {r : Reg} (h : evenReg r = true) : r ≠ 0x7F#7 := by rintro rfl; exact absurd h (by decide)

/-- Source b is read back from its field and its literal. -/
theorem srcB_field {w : Word} {b : SrcB} (h : b.ok = true) (hf : fB w = b.field) : srcB w b.literal = b := by
  cases b with
  | lit l => simp [srcB, hf, SrcB.field, SrcB.literal]
  | reg r =>
    have hr : r ≠ 0x7F#7 := by simpa [SrcB.ok] using h
    simp [srcB, hf, SrcB.field, hr]

theorem SrcB.ok_of_okPair {b : SrcB} (h : b.okPair = true) : b.ok = true := by
  cases b with
  | lit l => rfl
  | reg r => simpa [SrcB.ok] using evenReg_ne h

/-! ## The fields of each format -/

section
variable (op : BitVec 8) (d a b c : Reg) (h : BitVec 2) (x : BitVec 1) (imm : BitVec 10) (k : BitVec 4) (off : BitVec 20) (t : BitVec 3)
  (f : BitVec 24)

@[simp] theorem fOp_packA : fOp (packA op d a b h x) = op := by
  simp (disch := omega) only [fOp, packA, extract_append_high, extract_all, Nat.reduceSub]
@[simp] theorem fOp_packI : fOp (packI op d a imm) = op := by
  simp (disch := omega) only [fOp, packI, extract_append_high, extract_all, Nat.reduceSub]
@[simp] theorem fOp_packC : fOp (packC op k off) = op := by
  simp (disch := omega) only [fOp, packC, extract_append_high, extract_all, Nat.reduceSub]
@[simp] theorem fOp_packX : fOp (packX op a b c t) = op := by
  simp (disch := omega) only [fOp, packX, extract_append_high, extract_all, Nat.reduceSub]
@[simp] theorem fOp_packS : fOp (packS op f) = op := by
  simp (disch := omega) only [fOp, packS, extract_append_high, extract_all, Nat.reduceSub]

@[simp] theorem fD_packA : fD (packA op d a b h x) = d := by
  simp (disch := omega) only [fD, packA, extract_append_high, extract_append_low, extract_all, Nat.reduceSub]
@[simp] theorem fA_packA : fA (packA op d a b h x) = a := by
  simp (disch := omega) only [fA, packA, extract_append_high, extract_append_low, extract_all, Nat.reduceSub]
@[simp] theorem fB_packA : fB (packA op d a b h x) = b := by
  simp (disch := omega) only [fB, packA, extract_append_high, extract_append_low, extract_all, Nat.reduceSub]
@[simp] theorem fH_packA : fH (packA op d a b h x) = h := by
  simp (disch := omega) only [fH, packA, extract_append_high, extract_append_low, extract_all, Nat.reduceSub]
@[simp] theorem fX_packA (y : Bool) : fX (packA op d a b h (.ofBool y)) = y := by
  simp (disch := omega) only [fX, packA, bit_append_low, bit_ofBool]
@[simp] theorem fHa_packA (y : Bool) : fHa (packA op d a b (holdA y) x) = y := by
  simp (disch := omega) only [fHa, packA, holdA, bit_append_low, bit_append_high, bit_ofBool, Nat.reduceSub]

@[simp] theorem fHb_packA (y : Bool) : (packA op d a b (BitVec.ofBool y ++ 0#1) x)[2] = y := by
  rw [← BitVec.getLsbD_eq_getElem]
  simp (disch := omega) only [packA, bit_append_low, bit_append_high, bit_ofBool, Nat.reduceSub]

@[simp] theorem fD_packI : fD (packI op d a imm) = d := by
  simp (disch := omega) only [fD, packI, extract_append_high, extract_append_low, extract_all, Nat.reduceSub]
@[simp] theorem fA_packI : fA (packI op d a imm) = a := by
  simp (disch := omega) only [fA, packI, extract_append_high, extract_append_low, extract_all, Nat.reduceSub]
@[simp] theorem fImm_packI : fImm (packI op d a imm) = imm := by
  simp (disch := omega) only [fImm, packI, extract_append_low, extract_all]

@[simp] theorem fK_packC : fK (packC op k off) = k := by
  simp (disch := omega) only [fK, packC, extract_append_high, extract_append_low, extract_all, Nat.reduceSub]
@[simp] theorem off_packC : (packC op k off).extractLsb' 0 20 = off := by
  simp (disch := omega) only [packC, extract_append_low, extract_all]

@[simp] theorem fD_packX : fD (packX op a b c t) = a := by
  simp (disch := omega) only [fD, packX, extract_append_high, extract_append_low, extract_all, Nat.reduceSub]
@[simp] theorem fA_packX : fA (packX op a b c t) = b := by
  simp (disch := omega) only [fA, packX, extract_append_high, extract_append_low, extract_all, Nat.reduceSub]
@[simp] theorem fB_packX : fB (packX op a b c t) = c := by
  simp (disch := omega) only [fB, packX, extract_append_high, extract_append_low, extract_all, Nat.reduceSub]
@[simp] theorem fT_packX : fT (packX op a b c t) = t := by
  simp (disch := omega) only [fT, packX, extract_append_low, extract_all]

/-- Source b of a packed word. -/
@[simp] theorem srcB_packA {s : SrcB} (hs : s.ok = true) : srcB (packA op d a s.field h x) s.literal = s := srcB_field hs (by simp)
theorem srcB_packA_pair {s : SrcB} (hs : s.okPair = true) : srcB (packA op d a s.field h x) s.literal = s :=
  srcB_packA op d a h x (SrcB.ok_of_okPair hs)

/-- MASK and COND in the d field (05 R91). -/
@[simp] theorem fK_packA (m : BitVec 4) (n : BitVec 3) : fK (packA op (m ++ n) a b h x) = m := by
  simp (disch := omega) only [fK, packA, extract_append_high, extract_append_low, extract_all, Nat.reduceSub]
@[simp] theorem fCond_packA (m : BitVec 4) (n : BitVec 3) : fCond (packA op (m ++ n) a b h x) = n := by
  simp (disch := omega) only [fCond, packA, extract_append_high, extract_append_low, extract_all, Nat.reduceSub]
@[simp] theorem fK_packI (m : BitVec 4) (n : BitVec 3) : fK (packI op (m ++ n) a imm) = m := by
  simp (disch := omega) only [fK, packI, extract_append_high, extract_append_low, extract_all, Nat.reduceSub]
@[simp] theorem fCond_packI (m : BitVec 4) (n : BitVec 3) : fCond (packI op (m ++ n) a imm) = n := by
  simp (disch := omega) only [fCond, packI, extract_append_high, extract_append_low, extract_all, Nat.reduceSub]

end

/-! ## Subfields -/

set_option linter.unusedSimpArgs false

section
variable (op : BitVec 8) (d a b : Reg) (h : BitVec 2) (x : BitVec 1) (imm : BitVec 10)

@[simp] theorem fOp4_packA (m n : BitVec 4) : fOp4 (packA (m ++ n) d a b h x) = m := by
  simp (disch := omega) only [fOp4, packA, extract_append_high, extract_append_low, extract_all, Nat.reduceSub]
@[simp] theorem low4_packA (m n : BitVec 4) : (packA (m ++ n) d a b h x).extractLsb' 24 4 = n := by
  simp (disch := omega) only [packA, extract_append_high, extract_append_low, extract_all, Nat.reduceSub]
@[simp] theorem fOp6_packA (m : BitVec 6) (n : BitVec 2) : fOp6 (packA (m ++ n) d a b h x) = m := by
  simp (disch := omega) only [fOp6, packA, extract_append_high, extract_append_low, extract_all, Nat.reduceSub]
@[simp] theorem fTy_packA (m : BitVec 6) (n : BitVec 2) : fTy (packA (m ++ n) d a b h x) = n := by
  simp (disch := omega) only [fTy, packA, extract_append_high, extract_append_low, extract_all, Nat.reduceSub]
@[simp] theorem fOp5_packA (m : BitVec 5) (n : BitVec 3) : fOp5 (packA (m ++ n) d a b h x) = m := by
  simp (disch := omega) only [fOp5, packA, extract_append_high, extract_append_low, extract_all, Nat.reduceSub]
@[simp] theorem low3_packA (m : BitVec 5) (n : BitVec 3) : (packA (m ++ n) d a b h x).extractLsb' 24 3 = n := by
  simp (disch := omega) only [packA, extract_append_high, extract_append_low, extract_all, Nat.reduceSub]
@[simp] theorem top2_packA (m : BitVec 5) (n : BitVec 3) : (packA (m ++ n) d a b h x).extractLsb' 30 2 = m.extractLsb' 3 2 := by
  simp (disch := omega) only [packA, extract_append_high, extract_append_low, extract_all, Nat.reduceSub]
@[simp] theorem fOp5_packI (m : BitVec 5) (n : BitVec 3) : fOp5 (packI (m ++ n) d a imm) = m := by
  simp (disch := omega) only [fOp5, packI, extract_append_high, extract_append_low, extract_all, Nat.reduceSub]
@[simp] theorem low3_packI (m : BitVec 5) (n : BitVec 3) : (packI (m ++ n) d a imm).extractLsb' 24 3 = n := by
  simp (disch := omega) only [packI, extract_append_high, extract_append_low, extract_all, Nat.reduceSub]
@[simp] theorem top2_packI (m : BitVec 5) (n : BitVec 3) : (packI (m ++ n) d a imm).extractLsb' 30 2 = m.extractLsb' 3 2 := by
  simp (disch := omega) only [packI, extract_append_high, extract_append_low, extract_all, Nat.reduceSub]
@[simp] theorem d_high3_packA (m : BitVec 3) (n : BitVec 4) : (packA op (m ++ n) a b h x).extractLsb' 21 3 = m := by
  simp (disch := omega) only [packA, extract_append_high, extract_append_low, extract_all, Nat.reduceSub]
@[simp] theorem d_low4_packA (m : BitVec 3) (n : BitVec 4) : (packA op (m ++ n) a b h x).extractLsb' 17 4 = n := by
  simp (disch := omega) only [packA, extract_append_high, extract_append_low, extract_all, Nat.reduceSub]
@[simp] theorem b_high3_packA (m : BitVec 3) (n : BitVec 4) : (packA op d a (m ++ n) h x).extractLsb' 7 3 = m := by
  simp (disch := omega) only [packA, extract_append_high, extract_append_low, extract_all, Nat.reduceSub]
@[simp] theorem b_low4_packA (m : BitVec 3) (n : BitVec 4) : (packA op d a (m ++ n) h x).extractLsb' 3 4 = n := by
  simp (disch := omega) only [packA, extract_append_high, extract_append_low, extract_all, Nat.reduceSub]
@[simp] theorem b_scope_packA (m n : BitVec 3) (z : BitVec 1) : (packA op d a (m ++ n ++ z) h x).extractLsb' 7 3 = m := by
  simp (disch := omega) only [packA, extract_append_high, extract_append_low, extract_all, Nat.reduceSub]
@[simp] theorem b_size_packA (m n : BitVec 3) (z : BitVec 1) : (packA op d a (m ++ n ++ z) h x).extractLsb' 4 3 = n := by
  simp (disch := omega) only [packA, extract_append_high, extract_append_low, extract_all, Nat.reduceSub]
@[simp] theorem b_low3_packA (m : BitVec 4) (n : BitVec 3) : (packA op d a (m ++ n) h x).extractLsb' 3 3 = n := by
  simp (disch := omega) only [packA, extract_append_high, extract_append_low, extract_all, Nat.reduceSub]
@[simp] theorem b_low2_packA (m : BitVec 5) (n : BitVec 2) : (packA op d a (m ++ n) h x).extractLsb' 3 2 = n := by
  simp (disch := omega) only [packA, extract_append_high, extract_append_low, extract_all, Nat.reduceSub]
@[simp] theorem cvt_src_packI (m n : BitVec 4) (r : BitVec 2) : (packI op d a (m ++ n ++ r)).extractLsb' 6 4 = m := by
  simp (disch := omega) only [packI, extract_append_high, extract_append_low, extract_all, Nat.reduceSub]
@[simp] theorem cvt_dst_packI (m n : BitVec 4) (r : BitVec 2) : (packI op d a (m ++ n ++ r)).extractLsb' 2 4 = n := by
  simp (disch := omega) only [packI, extract_append_high, extract_append_low, extract_all, Nat.reduceSub]
@[simp] theorem cvt_rm_packI (m n : BitVec 4) (r : BitVec 2) : (packI op d a (m ++ n ++ r)).extractLsb' 0 2 = r := by
  simp (disch := omega) only [packI, extract_append_high, extract_append_low, extract_all, Nat.reduceSub]
@[simp] theorem cvts_type_packI (m : BitVec 4) (n : BitVec 3) (r : BitVec 2) (y : Bool) : (packI op d a (m ++ n ++ r ++ BitVec.ofBool y)).extractLsb' 6 4 = m := by
  simp (disch := omega) only [packI, extract_append_high, extract_append_low, extract_all, Nat.reduceSub]
@[simp] theorem cvts_slot_packI (m : BitVec 4) (n : BitVec 3) (r : BitVec 2) (y : Bool) : (packI op d a (m ++ n ++ r ++ BitVec.ofBool y)).extractLsb' 3 3 = n := by
  simp (disch := omega) only [packI, extract_append_high, extract_append_low, extract_all, Nat.reduceSub]
@[simp] theorem cvts_rm_packI (m : BitVec 4) (n : BitVec 3) (r : BitVec 2) (y : Bool) : fH (packI op d a (m ++ n ++ r ++ BitVec.ofBool y)) = r := by
  simp (disch := omega) only [fH, packI, extract_append_high, extract_append_low, extract_all, Nat.reduceSub]
@[simp] theorem cvts_dir_packI (m : BitVec 4) (n : BitVec 3) (r : BitVec 2) (y : Bool) : fX (packI op d a (m ++ n ++ r ++ BitVec.ofBool y)) = y := by
  simp (disch := omega) only [fX, packI, bit_append_high, bit_append_low, bit_ofBool, Nat.reduceSub]
@[simp] theorem low9_packI (z : BitVec 1) (n : BitVec 9) : (packI op d a (z ++ n)).extractLsb' 0 9 = n := by
  simp (disch := omega) only [packI, extract_append_high, extract_append_low, extract_all, Nat.reduceSub]
@[simp] theorem release_packX (y z : Bool) : (packX op d a b (0#1 ++ BitVec.ofBool y ++ BitVec.ofBool z)).getLsbD 1 = y := by
  simp (disch := omega) only [packX, bit_append_high, bit_append_low, bit_ofBool, Nat.reduceSub]
@[simp] theorem restore_packX (y z : Bool) : fX (packX op d a b (0#1 ++ BitVec.ofBool y ++ BitVec.ofBool z)) = z := by
  simp (disch := omega) only [fX, packX, bit_append_high, bit_append_low, bit_ofBool, Nat.reduceSub]
@[simp] theorem code_packS (z : BitVec 8) (n : BitVec 16) : (packS op (z ++ n)).extractLsb' 0 16 = n := by
  simp (disch := omega) only [packS, extract_append_high, extract_append_low, extract_all, Nat.reduceSub]
@[simp] theorem low2_packS (z : BitVec 22) (n : BitVec 2) : (packS op (z ++ n)).extractLsb' 0 2 = n := by
  simp (disch := omega) only [packS, extract_append_high, extract_append_low, extract_all, Nat.reduceSub]
@[simp] theorem e_spawnTry (e p : Reg) (k : BitVec 4) (z : BitVec 6) : fD (packS op (e ++ p ++ k ++ z)) = e := by
  simp (disch := omega) only [fD, packS, extract_append_high, extract_append_low, extract_all, Nat.reduceSub]
@[simp] theorem p_spawnTry (e p : Reg) (k : BitVec 4) (z : BitVec 6) : fA (packS op (e ++ p ++ k ++ z)) = p := by
  simp (disch := omega) only [fA, packS, extract_append_high, extract_append_low, extract_all, Nat.reduceSub]
@[simp] theorem k_spawnTry (e p : Reg) (k : BitVec 4) (z : BitVec 6) : (packS op (e ++ p ++ k ++ z)).extractLsb' 6 4 = k := by
  simp (disch := omega) only [packS, extract_append_high, extract_append_low, extract_all, Nat.reduceSub]
@[simp] theorem k_dfree (k : BitVec 4) (y : BitVec 3) (p q : Reg) (z : BitVec 3) : fK (packS op (k ++ y ++ p ++ q ++ z)) = k := by
  simp (disch := omega) only [fK, packS, extract_append_high, extract_append_low, extract_all, Nat.reduceSub]
@[simp] theorem a_dfree (k : BitVec 4) (y : BitVec 3) (p q : Reg) (z : BitVec 3) : fA (packS op (k ++ y ++ p ++ q ++ z)) = p := by
  simp (disch := omega) only [fA, packS, extract_append_high, extract_append_low, extract_all, Nat.reduceSub]
@[simp] theorem b_dfree (k : BitVec 4) (y : BitVec 3) (p q : Reg) (z : BitVec 3) : fB (packS op (k ++ y ++ p ++ q ++ z)) = q := by
  simp (disch := omega) only [fB, packS, extract_append_high, extract_append_low, extract_all, Nat.reduceSub]

end

/-- The fields of ld and st (07 R147). -/
def packM (top sp : BitVec 2) (p : Bool) (sz : BitVec 3) (d a : Reg) (off : BitVec 10) : Word :=
  top ++ sp ++ BitVec.ofBool p ++ sz ++ d ++ a ++ off

section
variable (top sp : BitVec 2) (p : Bool) (sz : BitVec 3) (d a : Reg) (off : BitVec 10)
@[simp] theorem top_packM : (packM top sp p sz d a off).extractLsb' 30 2 = top := by
  simp (disch := omega) only [packM, extract_append_high, extract_append_low, extract_all, Nat.reduceSub]
@[simp] theorem sp_packM : (packM top sp p sz d a off).extractLsb' 28 2 = sp := by
  simp (disch := omega) only [packM, extract_append_high, extract_append_low, extract_all, Nat.reduceSub]
@[simp] theorem p_packM : (packM top sp p sz d a off).getLsbD 27 = p := by
  simp (disch := omega) only [packM, bit_append_high, bit_append_low, bit_ofBool, Nat.reduceSub]
@[simp] theorem sz_packM : (packM top sp p sz d a off).extractLsb' 24 3 = sz := by
  simp (disch := omega) only [packM, extract_append_high, extract_append_low, extract_all, Nat.reduceSub]
@[simp] theorem d_packM : fD (packM top sp p sz d a off) = d := by
  simp (disch := omega) only [fD, packM, extract_append_high, extract_append_low, extract_all, Nat.reduceSub]
@[simp] theorem a_packM : fA (packM top sp p sz d a off) = a := by
  simp (disch := omega) only [fA, packM, extract_append_high, extract_append_low, extract_all, Nat.reduceSub]
@[simp] theorem off_packM : fImm (packM top sp p sz d a off) = off := by
  simp (disch := omega) only [fImm, packM, extract_append_high, extract_append_low, extract_all, Nat.reduceSub]

end

/-! ## Opcode blocks -/

theorem extract_extract {n : Nat} (x : BitVec n) (i j m k : Nat) (h : j + k ≤ m) :
    (x.extractLsb' i m).extractLsb' j k = x.extractLsb' (i + j) k := by
  apply BitVec.eq_of_getLsbD_eq
  intro q hq
  simp only [BitVec.getLsbD_extractLsb', hq, decide_true, Bool.true_and, show j + q < m by omega]
  congr 1
  omega

/-- High opcode bits and the float type are bits of the opcode. -/
theorem fOp4_eq (w : Word) : fOp4 w = (fOp w).extractLsb' 4 4 := by simp (disch := omega) only [fOp4, fOp, extract_extract]
theorem fOp5_eq (w : Word) : fOp5 w = (fOp w).extractLsb' 3 5 := by simp (disch := omega) only [fOp5, fOp, extract_extract]
theorem fOp6_eq (w : Word) : fOp6 w = (fOp w).extractLsb' 2 6 := by simp (disch := omega) only [fOp6, fOp, extract_extract]
theorem fTy_eq (w : Word) : fTy w = (fOp w).extractLsb' 0 2 := by simp (disch := omega) only [fTy, fOp, extract_extract]

theorem top2_eq (w : Word) : w.extractLsb' 30 2 = (fOp w).extractLsb' 6 2 := by simp (disch := omega) only [fOp, extract_extract]

theorem toNat_append {m n : Nat} (x : BitVec m) (y : BitVec n) : (x ++ y).toNat = x.toNat * 2 ^ n + y.toNat := by
  rw [BitVec.toNat_append, Nat.shiftLeft_eq, Nat.mul_comm, ← Nat.two_pow_add_eq_or_of_lt y.isLt]

theorem beq_false_of_toNat {n : Nat} {x y : BitVec n} (h : x.toNat ≠ y.toNat) : (x == y) = false := by
  rw [beq_eq_false_iff_ne]
  rintro rfl
  exact h rfl

/-- The float block is read by its own table. -/
theorem rawAlu_float {w : Word} {lit : Option Word} {n : BitVec 6} {ty : BitVec 2} (h : fOp w = n ++ ty) (lo : 0x20 ≤ n.toNat)
    (hi : n.toNat ≤ 0x33) : rawAlu w lit = rawFloat w lit := by
  have e : (fOp w).toNat = n.toNat * 4 + ty.toNat := by rw [h, toNat_append]; rfl
  have t : ty.toNat < 4 := ty.isLt
  have key (c : BitVec 8) (hc : c.toNat < 0x80 ∨ 0xD0 ≤ c.toNat) : (fOp w == c) = false := beq_false_of_toNat (by omega)
  have key4 (c : BitVec 4) (hc : c.toNat < 8) : (fOp4 w == c) = false := by
    refine beq_false_of_toNat ?_
    rw [fOp4_eq, BitVec.extractLsb'_toNat, Nat.shiftRight_eq_div_pow]
    omega
  simp [rawAlu, rawAluHigh, key, key4]

/-- The three blocks whose code holds a mask number. -/
theorem rawAlu_masked {w : Word} {lit : Option Word} {n k : BitVec 4} (h : fOp w = n ++ k) (lo : 3 ≤ n.toNat) (hi : n.toNat ≤ 5) :
    rawAlu w lit =
      if fOp4 w == 3#4 then some (.addc (w.extractLsb' 24 4) ⟨fD w, fA w, srcB w lit, fH w, fX w⟩)
      else if fOp4 w == 4#4 then some (.subb (w.extractLsb' 24 4) ⟨fD w, fA w, srcB w lit, fH w, fX w⟩)
      else if fOp4 w == 5#4 then some (.sel (w.extractLsb' 24 4) ⟨fD w, fA w, srcB w lit, fH w, fX w⟩)
      else rawFloat w lit := by
  have e : (fOp w).toNat = n.toNat * 16 + k.toNat := by rw [h, toNat_append]; rfl
  have t : k.toNat < 16 := k.isLt
  have key (c : BitVec 8) (hc : c.toNat < 0x30 ∨ 0x60 ≤ c.toNat) : (fOp w == c) = false := beq_false_of_toNat (by omega)
  simp [rawAlu, rawAluHigh, key]

/-- Atomics and reductions, whose code holds the operation. -/
theorem rawMem_atomic {w : Word} {lit : Option Word} {n op : BitVec 4} (h : fOp w = n ++ op) (lo : 11 ≤ n.toNat) (hi : n.toNat ≤ 12) :
    rawMem w lit =
      if fOp4 w == 11#4 then some (.atom (w.extractLsb' 24 4) ⟨fD w, fA w, srcB w lit, fH w⟩)
      else some (.red (w.extractLsb' 24 4) ⟨fD w, fA w, srcB w lit, fH w⟩) := by
  have e : (fOp w).toNat = n.toNat * 16 + op.toNat := by rw [h, toNat_append]; rfl
  have t : op.toNat < 16 := op.isLt
  have k2 (c : BitVec 2) (hc : c.toNat < 2) : (w.extractLsb' 30 2 == c) = false := by
    refine beq_false_of_toNat ?_
    rw [top2_eq, BitVec.extractLsb'_toNat, Nat.shiftRight_eq_div_pow]
    omega
  have k5 (c : BitVec 5) (hc : c.toNat < 22) : (fOp5 w == c) = false := by
    refine beq_false_of_toNat ?_
    rw [fOp5_eq, BitVec.extractLsb'_toNat, Nat.shiftRight_eq_div_pow]
    omega
  have k4 : fOp4 w = n := by
    apply BitVec.eq_of_toNat_eq
    rw [fOp4_eq, BitVec.extractLsb'_toNat, Nat.shiftRight_eq_div_pow]
    omega
  have n2 : n = 11#4 ∨ n = 12#4 := by
    rcases (by omega : n.toNat = 11 ∨ n.toNat = 12) with h | h
    · exact .inl (BitVec.eq_of_toNat_eq h)
    · exact .inr (BitVec.eq_of_toNat_eq h)
  rcases n2 with rfl | rfl <;> simp [rawMem, k2, k5, k4]

/-- A float type's register check admits a source b. -/
theorem ok_of_float {ty : BitVec 2} {b : SrcB} (h : (if ty == 3#2 then b.okPair else b.ok) = true) : b.ok = true := by
  split at h
  · exact SrcB.ok_of_okPair h
  · exact h

end Sys2Proof
end

