-- ==== Sys2Proof/Laws/Flow.lean ====
section
/-! SUPPORT. Lanes that go on, wait and jump together (03 R56, R59, 05 R106). -/

namespace Sys2Proof.Machine

theorem Span.modLanes_modLanes (sp : Span) (m n : LaneSet) (f g : Nat → Lane → Lane) :
    (sp.modLanes m f).modLanes n g = sp.modLanes (m ||| n) (fun l y =>
      let z := if hasLane m l then f l y else y
      if hasLane n l then g l z else z) := by
  simp only [Span.modLanes]
  congr 1
  apply List.ext_getElem
  · simp
  · intro i h1 h2
    simp only [List.getElem_map, List.getElem_zipIdx, Nat.zero_add, hasLane_or]
    cases hasLane m i <;> cases hasLane n i <;> simp

theorem Span.lane_modLanes (sp : Span) (m : LaneSet) (f : Nat → Lane → Lane) (l : Nat) (h : l < sp.lanes.length) :
    (sp.modLanes m f).lane l = if hasLane m l then f l (sp.lane l) else sp.lane l := by
  simp [Span.lane, Span.modLanes, h]

/-- Lanes that do not exit leave the live set as it was. -/
theorem Span.live_modLanes (sp : Span) (m : LaneSet) (f : Nat → Lane → Lane) (hm : ∀ l, hasLane m l = true → hasLane sp.live l = true)
    (hf : ∀ l y, hasLane m l = true → y.pos.st ≠ .exited → (f l y).pos.st ≠ .exited) : (sp.modLanes m f).live = sp.live := by
  apply laneSet_ext
  intro l hl
  by_cases hlen : l < sp.lanes.length
  · by_cases h : hasLane m l = true
    · have h1 := hm l h
      have h2 : (sp.lane l).pos.st ≠ .exited := by simp [Span.live, hl] at h1; exact h1.2
      have h3 := hf l (sp.lane l) h h2
      rw [h1]
      simp only [Span.live, hasLane_laneSetOf, Span.lane_modLanes _ _ _ _ hlen, h, if_true]
      simp [Span.live, hl] at h1
      simp [hl, h3, h1.1]
    · have : (sp.modLanes m f).lane l = sp.lane l := by rw [Span.lane_modLanes _ _ _ _ hlen, if_neg h]
      simp only [Span.live, hasLane_laneSetOf, this, Span.modLanes_width]; rfl
  · have h1 : (sp.modLanes m f).lane l = sp.lane l := by simp [Span.lane, Span.modLanes, hlen]
    simp only [Span.live, hasLane_laneSetOf, h1, Span.modLanes_width]; rfl

/-- The lanes of g outside m go on, those of m change as f says. -/
theorem Span.flow (sp : Span) (iss : Issue) (g m : LaneSet) (f : Nat → Lane → Pos) :
    let x := sp.modLanes ((g &&& ~~~m) &&& sp.live) (fun _ y => { y with pos := iss.after y.pos })
    x.modLanes (m &&& x.live) (fun l y => { y with pos := f l y }) =
      sp.modLanes ((g ||| m) &&& sp.live) (fun l y => { y with pos := if hasLane m l then f l y else iss.after y.pos }) := by
  have hl : (sp.modLanes ((g &&& ~~~m) &&& sp.live) (fun _ y => { y with pos := iss.after y.pos })).live = sp.live :=
    Span.live_modLanes _ _ _ (fun l h => by simp at h; exact h.2) (fun _ _ _ h => by unfold Issue.after; split <;> simp [h])
  dsimp only
  rw [hl, Span.modLanes_modLanes]
  simp only [Span.modLanes]
  congr 1
  apply List.map_congr_left
  rintro ⟨y, i⟩ hi
  simp only [hasLane_or, hasLane_and, hasLane_not]
  by_cases h64 : i < 64
  · cases hasLane g i <;> cases hasLane m i <;> cases hasLane sp.live i <;> simp [h64]
  · have : ∀ n : LaneSet, hasLane n i = false := fun n => by
      by_contra h; exact h64 (hasLane_lt (by simpa using h))
    simp [this]

/-- The span after some lanes have jumped and the rest of the group has gone on. -/
theorem jump_goOn {s : State} {iss : Issue} {sp : Span} (h : s.span? iss.span = some sp) (g m : LaneSet) (f : Nat → Nat) :
    (jump (goOn s iss (g &&& ~~~m)) iss m f).span? iss.span = some (sp.modLanes ((g ||| m) &&& sp.live) (fun l y =>
      { y with pos := if hasLane m l then { y.pos with pc := f l, clause := none, st := .standing } else iss.after y.pos })) ∧
    Elsewhere s (jump (goOn s iss (g &&& ~~~m)) iss m f) iss.span := by
  obtain ⟨g1, g2⟩ := goOn_spec (m := g &&& ~~~m) h
  have e := State.span?_modSpan_same (f := fun x => x.modLanes (m &&& x.live) (fun i l =>
    { l with pos := { l.pos with pc := f i, clause := none, st := .standing } })) (by intro _; rfl) g1
  refine ⟨?_, g2.trans (Elsewhere.modSpan _ _ _ (by intro _; rfl))⟩
  refine (show _ = _ from e).trans (congrArg some ?_)
  exact Span.flow sp iss g m (fun i l => { l.pos with pc := f i, clause := none, st := .standing })

/-- The span after some lanes wait and the rest of the group has gone on. -/
theorem hold_goOn {s : State} {iss : Issue} {sp : Span} (h : s.span? iss.span = some sp) (g m : LaneSet) (w : Nat → Wait) :
    (hold (goOn s iss (g &&& ~~~m)) iss m w).span? iss.span = some (sp.modLanes ((g ||| m) &&& sp.live) (fun l y =>
      { y with pos := if hasLane m l then { y.pos with pc := iss.pc, clause := some ⟨iss.cls, iss.next⟩, st := .waiting (w l) }
        else iss.after y.pos })) ∧
    Elsewhere s (hold (goOn s iss (g &&& ~~~m)) iss m w) iss.span := by
  obtain ⟨g1, g2⟩ := goOn_spec (m := g &&& ~~~m) h
  have e := State.span?_modSpan_same (f := fun x => x.modLanes (m &&& x.live) (fun i l =>
    { l with pos := { l.pos with pc := iss.pc, clause := some ⟨iss.cls, iss.next⟩, st := .waiting (w i) } })) (by intro _; rfl) g1
  refine ⟨?_, g2.trans (Elsewhere.modSpan _ _ _ (by intro _; rfl))⟩
  refine (show _ = _ from e).trans (congrArg some ?_)
  exact Span.flow sp iss g m (fun i l => { l.pos with pc := iss.pc, clause := some ⟨iss.cls, iss.next⟩, st := .waiting (w i) })

end Sys2Proof.Machine
end

