-- ==== Sys2Proof/Laws/Memory.lean ====
section
/-! SUPPORT. Byte memory: a read after a write, what a write leaves alone, and the canonical form that every operation keeps. -/

namespace Sys2Proof.Machine

theorem cellsWf_mono {lo lo' : Nat} {l : List Host.Cell} (h : lo ≤ lo') (w : cellsWf lo' l = true) : cellsWf lo l = true := by
  cases l with
  | nil => rfl
  | cons c t => simp only [cellsWf, Bool.and_eq_true, decide_eq_true_eq] at *; exact ⟨⟨le_trans h w.1.1, w.1.2⟩, w.2⟩

theorem writeCells_wf (b : Byte) (a : Nat) : ∀ (l : List Host.Cell) (lo : Nat), lo ≤ a → cellsWf lo l = true →
    cellsWf lo (writeCells l a b) = true := by
  intro l
  induction l with
  | nil =>
    intro lo h _
    simp only [writeCells]
    split
    · rfl
    · simp_all [cellsWf]
  | cons c t ih =>
    intro lo h w
    obtain ⟨k, v⟩ := c
    simp only [cellsWf, Bool.and_eq_true, decide_eq_true_eq, bne_iff_ne] at w
    obtain ⟨⟨hk, hv⟩, ht⟩ := w
    simp only [writeCells]
    split
    · simp only [cellsWf, Bool.and_eq_true, decide_eq_true_eq, bne_iff_ne]
      exact ⟨⟨hk, hv⟩, ih _ (by omega) ht⟩
    · split
      · split
        · exact cellsWf_mono (by omega) ht
        · subst_vars; simp_all [cellsWf]
      · split
        · simp_all [cellsWf]
        · simp only [cellsWf, Bool.and_eq_true, decide_eq_true_eq, bne_iff_ne]
          exact ⟨⟨h, by assumption⟩, ⟨by omega, hv⟩, ht⟩

theorem filter_wf (p : Host.Cell → Bool) : ∀ (l : List Host.Cell) (lo : Nat), cellsWf lo l = true → cellsWf lo (l.filter p) = true := by
  intro l
  induction l with
  | nil => intro lo _; rfl
  | cons c t ih =>
    intro lo w
    obtain ⟨k, v⟩ := c
    simp only [cellsWf, Bool.and_eq_true, decide_eq_true_eq, bne_iff_ne] at w
    rw [List.filter_cons]
    split
    · simp only [cellsWf, Bool.and_eq_true, decide_eq_true_eq, bne_iff_ne]
      exact ⟨w.1, ih _ w.2⟩
    · exact cellsWf_mono (by omega) (ih _ w.2)

theorem readCells_below {lo a : Nat} {l : List Host.Cell} (w : cellsWf lo l = true) (h : a < lo) : readCells l a = 0#8 := by
  induction l generalizing lo with
  | nil => rfl
  | cons c t ih =>
    obtain ⟨k, v⟩ := c
    simp only [cellsWf, Bool.and_eq_true, decide_eq_true_eq, bne_iff_ne] at w
    simp only [readCells]
    rw [if_neg (by omega)]
    exact ih w.2 (by omega)

theorem readCells_write (b : Byte) (a x : Nat) : ∀ (l : List Host.Cell) (lo : Nat), cellsWf lo l = true →
    readCells (writeCells l a b) x = if a = x then b else readCells l x := by
  intro l
  induction l with
  | nil =>
    intro lo _
    simp only [writeCells]
    split <;> simp_all [readCells]
  | cons c t ih =>
    intro lo w
    obtain ⟨k, v⟩ := c
    simp only [cellsWf, Bool.and_eq_true, decide_eq_true_eq, bne_iff_ne] at w
    have below : ∀ y, y ≤ k → readCells t y = 0#8 := fun y hy => readCells_below w.2 (by omega)
    simp only [writeCells]
    split
    · rename_i hlt
      simp only [readCells, ih _ w.2]
      split <;> split <;> simp_all
    · split
      · subst_vars
        split
        · simp only [readCells]; split <;> simp_all
        · simp only [readCells]
          split <;> simp_all
      · have ha : readCells t a = 0#8 := below a (by omega)
        split
        · simp only [readCells]
          split
          · subst_vars; rw [if_neg (by omega)]
          · split
            · subst_vars; exact ha
            · rfl
        · simp only [readCells]

/-- A read after a write to the same place gives the byte written, and every other place keeps its byte. -/
theorem Memory.read_write (m : Memory) (a x : Nat) (b : Byte) (w : m.wf = true) :
    (m.write a b).read x = if a = x then b else m.read x := readCells_write b a x m.cells 0 w

theorem Memory.write_wf (m : Memory) (a : Nat) (b : Byte) (w : m.wf = true) : (m.write a b).wf = true :=
  writeCells_wf b a m.cells 0 (Nat.zero_le a) w

theorem Memory.clear_wf (m : Memory) (lo hi : Nat) (w : m.wf = true) : (m.clear lo hi).wf = true := filter_wf _ _ _ w

theorem Memory.writeBytes_wf (bs : List Byte) : ∀ (m : Memory) (a : Nat), m.wf = true → (m.writeBytes a bs).wf = true := by
  induction bs with
  | nil => intro m a w; exact w
  | cons b t ih => intro m a w; exact ih _ _ (m.write_wf a b w)

theorem Memory.empty_wf : Memory.empty.wf = true := rfl

/-- What a byte string written from an address leaves alone. -/
theorem Memory.read_writeBytes_outside (bs : List Byte) : ∀ (m : Memory) (a x : Nat), m.wf = true → (x < a ∨ a + bs.length ≤ x) →
    (m.writeBytes a bs).read x = m.read x := by
  induction bs with
  | nil => intro m a x _ _; rfl
  | cons b t ih =>
    intro m a x w h
    simp only [List.length_cons] at h
    simp only [Memory.writeBytes]
    rw [ih _ _ _ (m.write_wf a b w) (by omega), m.read_write a x b w, if_neg (by omega)]

end Sys2Proof.Machine
end

