-- ==== Sys2Proof/Laws/PerInstr.lean ====
section
/-! SUPPORT. The family of the round trip: an instruction of a class is read back, before any check, from the word and the literal that
encode it. -/

namespace Sys2Proof.Laws.RoundTrip

set_option Elab.async false
set_option linter.unusedSimpArgs false

/-- The class's map reads a well-formed instruction from its own words. -/
def Statement (i : Instr) : Prop := ∀ c, i.wf = true → i.cls = some c → rawDecode c i.encodeWord i.literal = some i

/-- A step of the device has no class. -/
theorem step_statement {i : Instr} (h : i.cls = none) : Statement i := fun c _ hc => by rw [h] at hc; exact absurd hc (by simp)

theorem add (f : FormA) : Statement (.add f) := by
  intro c hw hc
  cases hc
  obtain ⟨d, a, b, h, x⟩ := f
  have hb : b.ok = true := hw
  simp [rawDecode, rawAlu, Instr.encodeWord, Instr.literal, rawAluHigh, hb]

theorem sub (f : FormA) : Statement (.sub f) := by
  intro c hw hc
  cases hc
  obtain ⟨d, a, b, h, x⟩ := f
  have hb : b.ok = true := hw
  simp [rawDecode, rawAlu, Instr.encodeWord, Instr.literal, rawAluHigh, hb]

theorem mul (f : FormA) : Statement (.mul f) := by
  intro c hw hc
  cases hc
  obtain ⟨d, a, b, h, x⟩ := f
  have hb : b.ok = true := hw
  simp [rawDecode, rawAlu, Instr.encodeWord, Instr.literal, rawAluHigh, hb]

theorem mulh (f : FormA) : Statement (.mulh f) := by
  intro c hw hc
  cases hc
  obtain ⟨d, a, b, h, x⟩ := f
  have hb : b.ok = true := hw
  simp [rawDecode, rawAlu, Instr.encodeWord, Instr.literal, rawAluHigh, hb]

theorem mad (f : FormA) : Statement (.mad f) := by
  intro c hw hc
  cases hc
  obtain ⟨d, a, b, h, x⟩ := f
  have hb : b.ok = true := hw
  simp [rawDecode, rawAlu, Instr.encodeWord, Instr.literal, rawAluHigh, hb]

theorem madw (f : FormA) : Statement (.madw f) := by
  intro c hw hc
  cases hc
  obtain ⟨d, a, b, h, x⟩ := f
  have hb : b.ok = true := by
    simp only [Instr.wf, FormA.ok, FormA.okPairs, FormCmp.ok, FormLane.ok, FormX.okLd, FormX.okSt, FormOrd.ok, Bool.and_eq_true, decide_eq_true_eq] at hw
    exact hw.2
  simp [rawDecode, rawAlu, Instr.encodeWord, Instr.literal, rawAluHigh, hb]

theorem abs (f : FormU) : Statement (.abs f) := by
  intro c hw hc
  cases hc
  obtain ⟨d, a, h, x⟩ := f
  simp [rawDecode, rawAlu, Instr.encodeWord, Instr.literal, rawAluHigh]

theorem min (f : FormA) : Statement (.min f) := by
  intro c hw hc
  cases hc
  obtain ⟨d, a, b, h, x⟩ := f
  have hb : b.ok = true := hw
  simp [rawDecode, rawAlu, Instr.encodeWord, Instr.literal, rawAluHigh, hb]

theorem max (f : FormA) : Statement (.max f) := by
  intro c hw hc
  cases hc
  obtain ⟨d, a, b, h, x⟩ := f
  have hb : b.ok = true := hw
  simp [rawDecode, rawAlu, Instr.encodeWord, Instr.literal, rawAluHigh, hb]

theorem and (f : FormA) : Statement (.and f) := by
  intro c hw hc
  cases hc
  obtain ⟨d, a, b, h, x⟩ := f
  have hb : b.ok = true := hw
  simp [rawDecode, rawAlu, Instr.encodeWord, Instr.literal, rawAluHigh, hb]

theorem or (f : FormA) : Statement (.or f) := by
  intro c hw hc
  cases hc
  obtain ⟨d, a, b, h, x⟩ := f
  have hb : b.ok = true := hw
  simp [rawDecode, rawAlu, Instr.encodeWord, Instr.literal, rawAluHigh, hb]

theorem xor (f : FormA) : Statement (.xor f) := by
  intro c hw hc
  cases hc
  obtain ⟨d, a, b, h, x⟩ := f
  have hb : b.ok = true := hw
  simp [rawDecode, rawAlu, Instr.encodeWord, Instr.literal, rawAluHigh, hb]

theorem not (f : FormU) : Statement (.not f) := by
  intro c hw hc
  cases hc
  obtain ⟨d, a, h, x⟩ := f
  simp [rawDecode, rawAlu, Instr.encodeWord, Instr.literal, rawAluHigh]

theorem andn (f : FormA) : Statement (.andn f) := by
  intro c hw hc
  cases hc
  obtain ⟨d, a, b, h, x⟩ := f
  have hb : b.ok = true := hw
  simp [rawDecode, rawAlu, Instr.encodeWord, Instr.literal, rawAluHigh, hb]

theorem mov (f : FormU) : Statement (.mov f) := by
  intro c hw hc
  cases hc
  obtain ⟨d, a, h, x⟩ := f
  simp [rawDecode, rawAlu, Instr.encodeWord, Instr.literal, rawAluHigh]

theorem movl (d : Reg) (x : Bool) (lit : Word) : Statement (.movl d x lit) := by
  intro c hw hc
  cases hc
  simp [rawDecode, rawAlu, Instr.encodeWord, Instr.literal, rawAluHigh]

theorem shl (f : FormA) : Statement (.shl f) := by
  intro c hw hc
  cases hc
  obtain ⟨d, a, b, h, x⟩ := f
  have hb : b.ok = true := hw
  simp [rawDecode, rawAlu, Instr.encodeWord, Instr.literal, rawAluHigh, hb]

theorem shr (f : FormA) : Statement (.shr f) := by
  intro c hw hc
  cases hc
  obtain ⟨d, a, b, h, x⟩ := f
  have hb : b.ok = true := hw
  simp [rawDecode, rawAlu, Instr.encodeWord, Instr.literal, rawAluHigh, hb]

theorem sar (f : FormA) : Statement (.sar f) := by
  intro c hw hc
  cases hc
  obtain ⟨d, a, b, h, x⟩ := f
  have hb : b.ok = true := hw
  simp [rawDecode, rawAlu, Instr.encodeWord, Instr.literal, rawAluHigh, hb]

theorem rot (f : FormA) : Statement (.rot f) := by
  intro c hw hc
  cases hc
  obtain ⟨d, a, b, h, x⟩ := f
  have hb : b.ok = true := hw
  simp [rawDecode, rawAlu, Instr.encodeWord, Instr.literal, rawAluHigh, hb]

theorem fshl (f : FormA) : Statement (.fshl f) := by
  intro c hw hc
  cases hc
  obtain ⟨d, a, b, h, x⟩ := f
  have hb : b.ok = true := hw
  simp [rawDecode, rawAlu, Instr.encodeWord, Instr.literal, rawAluHigh, hb]

theorem fshr (f : FormA) : Statement (.fshr f) := by
  intro c hw hc
  cases hc
  obtain ⟨d, a, b, h, x⟩ := f
  have hb : b.ok = true := hw
  simp [rawDecode, rawAlu, Instr.encodeWord, Instr.literal, rawAluHigh, hb]

theorem bfx (f : FormA) : Statement (.bfx f) := by
  intro c hw hc
  cases hc
  obtain ⟨d, a, b, h, x⟩ := f
  have hb : b.ok = true := hw
  simp [rawDecode, rawAlu, Instr.encodeWord, Instr.literal, rawAluHigh, hb]

theorem bfi (f : FormA) : Statement (.bfi f) := by
  intro c hw hc
  cases hc
  obtain ⟨d, a, b, h, x⟩ := f
  have hb : b.ok = true := hw
  simp [rawDecode, rawAlu, Instr.encodeWord, Instr.literal, rawAluHigh, hb]

theorem popc (f : FormU) : Statement (.popc f) := by
  intro c hw hc
  cases hc
  obtain ⟨d, a, h, x⟩ := f
  simp [rawDecode, rawAlu, Instr.encodeWord, Instr.literal, rawAluHigh]

theorem clz (f : FormU) : Statement (.clz f) := by
  intro c hw hc
  cases hc
  obtain ⟨d, a, h, x⟩ := f
  simp [rawDecode, rawAlu, Instr.encodeWord, Instr.literal, rawAluHigh]

theorem ctz (f : FormU) : Statement (.ctz f) := by
  intro c hw hc
  cases hc
  obtain ⟨d, a, h, x⟩ := f
  simp [rawDecode, rawAlu, Instr.encodeWord, Instr.literal, rawAluHigh]

theorem brev (f : FormU) : Statement (.brev f) := by
  intro c hw hc
  cases hc
  obtain ⟨d, a, h, x⟩ := f
  simp [rawDecode, rawAlu, Instr.encodeWord, Instr.literal, rawAluHigh]

theorem permb (f : FormA) : Statement (.permb f) := by
  intro c hw hc
  cases hc
  obtain ⟨d, a, b, h, x⟩ := f
  have hb : b.ok = true := hw
  simp [rawDecode, rawAlu, Instr.encodeWord, Instr.literal, rawAluHigh, hb]

theorem lea (f : FormA) : Statement (.lea f) := by
  intro c hw hc
  cases hc
  obtain ⟨d, a, b, h, x⟩ := f
  have hb : b.ok = true := hw
  simp [rawDecode, rawAlu, Instr.encodeWord, Instr.literal, rawAluHigh, hb]

theorem cmp (f : FormCmp) : Statement (.cmp f) := by
  intro c hw hc
  cases hc
  obtain ⟨mask, cond, a, b, h, x⟩ := f
  have hb : b.ok = true := by
    simp only [Instr.wf, FormA.ok, FormA.okPairs, FormCmp.ok, FormLane.ok, FormX.okLd, FormX.okSt, FormOrd.ok, Bool.and_eq_true, decide_eq_true_eq] at hw
    exact hw.2
  simp [rawDecode, rawAlu, Instr.encodeWord, Instr.literal, rawAluHigh, hb]

theorem add64 (f : FormA) : Statement (.add64 f) := by
  intro c hw hc
  cases hc
  obtain ⟨d, a, b, h, x⟩ := f
  have hb : b.ok = true := by
    simp only [Instr.wf, FormA.ok, FormA.okPairs, FormCmp.ok, FormLane.ok, FormX.okLd, FormX.okSt, FormOrd.ok, Bool.and_eq_true, decide_eq_true_eq] at hw
    exact SrcB.ok_of_okPair hw.2
  simp [rawDecode, rawAlu, Instr.encodeWord, Instr.literal, rawAluHigh, hb]

theorem sub64 (f : FormA) : Statement (.sub64 f) := by
  intro c hw hc
  cases hc
  obtain ⟨d, a, b, h, x⟩ := f
  have hb : b.ok = true := by
    simp only [Instr.wf, FormA.ok, FormA.okPairs, FormCmp.ok, FormLane.ok, FormX.okLd, FormX.okSt, FormOrd.ok, Bool.and_eq_true, decide_eq_true_eq] at hw
    exact SrcB.ok_of_okPair hw.2
  simp [rawDecode, rawAlu, Instr.encodeWord, Instr.literal, rawAluHigh, hb]

theorem shl64 (f : FormA) : Statement (.shl64 f) := by
  intro c hw hc
  cases hc
  obtain ⟨d, a, b, h, x⟩ := f
  have hb : b.ok = true := by
    simp only [Instr.wf, FormA.ok, FormA.okPairs, FormCmp.ok, FormLane.ok, FormX.okLd, FormX.okSt, FormOrd.ok, Bool.and_eq_true, decide_eq_true_eq] at hw
    exact hw.2
  simp [rawDecode, rawAlu, Instr.encodeWord, Instr.literal, rawAluHigh, hb]

theorem shr64 (f : FormA) : Statement (.shr64 f) := by
  intro c hw hc
  cases hc
  obtain ⟨d, a, b, h, x⟩ := f
  have hb : b.ok = true := by
    simp only [Instr.wf, FormA.ok, FormA.okPairs, FormCmp.ok, FormLane.ok, FormX.okLd, FormX.okSt, FormOrd.ok, Bool.and_eq_true, decide_eq_true_eq] at hw
    exact hw.2
  simp [rawDecode, rawAlu, Instr.encodeWord, Instr.literal, rawAluHigh, hb]

theorem cmp64 (f : FormCmp) : Statement (.cmp64 f) := by
  intro c hw hc
  cases hc
  obtain ⟨mask, cond, a, b, h, x⟩ := f
  have hb : b.ok = true := by
    simp only [Instr.wf, FormA.ok, FormA.okPairs, FormCmp.ok, FormLane.ok, FormX.okLd, FormX.okSt, FormOrd.ok, Bool.and_eq_true, decide_eq_true_eq] at hw
    exact SrcB.ok_of_okPair hw.2
  simp [rawDecode, rawAlu, Instr.encodeWord, Instr.literal, rawAluHigh, hb]

theorem addc (k : BitVec 4) (f : FormA) : Statement (.addc k f) := by
  intro c hw hc
  cases hc
  obtain ⟨d, a, b, h, x⟩ := f
  have hb : b.ok = true := by simp only [Instr.wf, FormA.ok, Bool.and_eq_true] at hw; exact hw.2
  refine (rawAlu_masked (fOp_packA _ _ _ _ _ _) (by decide) (by decide)).trans ?_
  simp [Instr.encodeWord, Instr.literal, hb]

theorem subb (k : BitVec 4) (f : FormA) : Statement (.subb k f) := by
  intro c hw hc
  cases hc
  obtain ⟨d, a, b, h, x⟩ := f
  have hb : b.ok = true := by simp only [Instr.wf, FormA.ok, Bool.and_eq_true] at hw; exact hw.2
  refine (rawAlu_masked (fOp_packA _ _ _ _ _ _) (by decide) (by decide)).trans ?_
  simp [Instr.encodeWord, Instr.literal, hb]

theorem sel (k : BitVec 4) (f : FormA) : Statement (.sel k f) := by
  intro c hw hc
  cases hc
  obtain ⟨d, a, b, h, x⟩ := f
  have hb : b.ok = true := by simp only [Instr.wf, FormA.ok, Bool.and_eq_true] at hw; exact hw.2
  refine (rawAlu_masked (fOp_packA _ _ _ _ _ _) (by decide) (by decide)).trans ?_
  simp [Instr.encodeWord, Instr.literal, hb]

theorem addImm (f : FormI) : Statement (.addImm f) := by
  intro c hw hc
  cases hc
  obtain ⟨d, a, imm⟩ := f
  simp [rawDecode, rawAlu, Instr.encodeWord, Instr.literal, rawAluHigh]

theorem mulImm (f : FormI) : Statement (.mulImm f) := by
  intro c hw hc
  cases hc
  obtain ⟨d, a, imm⟩ := f
  simp [rawDecode, rawAlu, Instr.encodeWord, Instr.literal, rawAluHigh]

theorem andImm (f : FormI) : Statement (.andImm f) := by
  intro c hw hc
  cases hc
  obtain ⟨d, a, imm⟩ := f
  simp [rawDecode, rawAlu, Instr.encodeWord, Instr.literal, rawAluHigh]

theorem orImm (f : FormI) : Statement (.orImm f) := by
  intro c hw hc
  cases hc
  obtain ⟨d, a, imm⟩ := f
  simp [rawDecode, rawAlu, Instr.encodeWord, Instr.literal, rawAluHigh]

theorem xorImm (f : FormI) : Statement (.xorImm f) := by
  intro c hw hc
  cases hc
  obtain ⟨d, a, imm⟩ := f
  simp [rawDecode, rawAlu, Instr.encodeWord, Instr.literal, rawAluHigh]

theorem shlImm (f : FormI) : Statement (.shlImm f) := by
  intro c hw hc
  cases hc
  obtain ⟨d, a, imm⟩ := f
  simp [rawDecode, rawAlu, Instr.encodeWord, Instr.literal, rawAluHigh]

theorem shrImm (f : FormI) : Statement (.shrImm f) := by
  intro c hw hc
  cases hc
  obtain ⟨d, a, imm⟩ := f
  simp [rawDecode, rawAlu, Instr.encodeWord, Instr.literal, rawAluHigh]

theorem sarImm (f : FormI) : Statement (.sarImm f) := by
  intro c hw hc
  cases hc
  obtain ⟨d, a, imm⟩ := f
  simp [rawDecode, rawAlu, Instr.encodeWord, Instr.literal, rawAluHigh]

theorem rotImm (f : FormI) : Statement (.rotImm f) := by
  intro c hw hc
  cases hc
  obtain ⟨d, a, imm⟩ := f
  simp [rawDecode, rawAlu, Instr.encodeWord, Instr.literal, rawAluHigh]

theorem minI32Imm (f : FormI) : Statement (.minI32Imm f) := by
  intro c hw hc
  cases hc
  obtain ⟨d, a, imm⟩ := f
  simp [rawDecode, rawAlu, Instr.encodeWord, Instr.literal, rawAluHigh]

theorem minN32Imm (f : FormI) : Statement (.minN32Imm f) := by
  intro c hw hc
  cases hc
  obtain ⟨d, a, imm⟩ := f
  simp [rawDecode, rawAlu, Instr.encodeWord, Instr.literal, rawAluHigh]

theorem maxI32Imm (f : FormI) : Statement (.maxI32Imm f) := by
  intro c hw hc
  cases hc
  obtain ⟨d, a, imm⟩ := f
  simp [rawDecode, rawAlu, Instr.encodeWord, Instr.literal, rawAluHigh]

theorem maxN32Imm (f : FormI) : Statement (.maxN32Imm f) := by
  intro c hw hc
  cases hc
  obtain ⟨d, a, imm⟩ := f
  simp [rawDecode, rawAlu, Instr.encodeWord, Instr.literal, rawAluHigh]

theorem cmpI32Imm (f : FormCI) : Statement (.cmpI32Imm f) := by
  intro c hw hc
  cases hc
  obtain ⟨mask, cond, a, imm⟩ := f
  simp [rawDecode, rawAlu, Instr.encodeWord, Instr.literal, rawAluHigh]

theorem cmpN32Imm (f : FormCI) : Statement (.cmpN32Imm f) := by
  intro c hw hc
  cases hc
  obtain ⟨mask, cond, a, imm⟩ := f
  simp [rawDecode, rawAlu, Instr.encodeWord, Instr.literal, rawAluHigh]

theorem cvt (d a : Reg) (src dst : BitVec 4) (rm : BitVec 2) : Statement (.cvt d a src dst rm) := by
  intro c hw hc
  cases hc
  simp [rawDecode, rawAlu, Instr.encodeWord, Instr.literal, rawAluHigh]

theorem cvts (f : FormCvts) : Statement (.cvts f) := by
  intro c hw hc
  cases hc
  obtain ⟨d, a, ftype, slot, rm, enc, lit⟩ := f
  simp [rawDecode, rawAlu, Instr.encodeWord, Instr.literal, rawAluHigh]

theorem planex (f : FormA) : Statement (.planex f) := by
  intro c hw hc
  cases hc
  obtain ⟨d, a, b, h, x⟩ := f
  have hb : b.ok = true := by
    simp only [Instr.wf, FormA.ok, FormA.okPairs, FormCmp.ok, FormLane.ok, FormX.okLd, FormX.okSt, FormOrd.ok, Bool.and_eq_true, decide_eq_true_eq] at hw
    exact hw.2
  simp [rawDecode, rawAlu, Instr.encodeWord, Instr.literal, rawAluHigh, hb]

theorem planep (f : FormA) : Statement (.planep f) := by
  intro c hw hc
  cases hc
  obtain ⟨d, a, b, h, x⟩ := f
  have hb : b.ok = true := by
    simp only [Instr.wf, FormA.ok, FormA.okPairs, FormCmp.ok, FormLane.ok, FormX.okLd, FormX.okSt, FormOrd.ok, Bool.and_eq_true, decide_eq_true_eq] at hw
    exact hw.2
  simp [rawDecode, rawAlu, Instr.encodeWord, Instr.literal, rawAluHigh, hb]

theorem qnt (f : FormA) : Statement (.qnt f) := by
  intro c hw hc
  cases hc
  obtain ⟨d, a, b, h, x⟩ := f
  have hb : b.ok = true := by
    simp only [Instr.wf, FormA.ok, FormA.okPairs, FormCmp.ok, FormLane.ok, FormX.okLd, FormX.okSt, FormOrd.ok, Bool.and_eq_true, decide_eq_true_eq] at hw
    exact hw.2
  simp [rawDecode, rawAlu, Instr.encodeWord, Instr.literal, rawAluHigh, hb]

theorem shfl (f : FormA) : Statement (.shfl f) := by
  intro c hw hc
  cases hc
  obtain ⟨d, a, b, h, x⟩ := f
  have hb : b.ok = true := hw
  simp [rawDecode, rawAlu, Instr.encodeWord, Instr.literal, rawAluHigh, hb]

theorem bcast (f : FormA) : Statement (.bcast f) := by
  intro c hw hc
  cases hc
  obtain ⟨d, a, b, h, x⟩ := f
  have hb : b.ok = true := hw
  simp [rawDecode, rawAlu, Instr.encodeWord, Instr.literal, rawAluHigh, hb]

theorem vote (d a : Reg) (mode : BitVec 2) : Statement (.vote d a mode) := by
  intro c hw hc
  cases hc
  simp [rawDecode, rawAlu, Instr.encodeWord, Instr.literal, rawAluHigh]

theorem lred (f : FormLane) : Statement (.lred f) := by
  intro c hw hc
  cases hc
  obtain ⟨d, a, op, ty, h, x⟩ := f
  simp [rawDecode, rawAlu, Instr.encodeWord, Instr.literal, rawAluHigh]

theorem lminx (f : FormU) : Statement (.lminx f) := by
  intro c hw hc
  cases hc
  obtain ⟨d, a, h, x⟩ := f
  simp [rawDecode, rawAlu, Instr.encodeWord, Instr.literal, rawAluHigh]

theorem lmaxx (f : FormU) : Statement (.lmaxx f) := by
  intro c hw hc
  cases hc
  obtain ⟨d, a, h, x⟩ := f
  simp [rawDecode, rawAlu, Instr.encodeWord, Instr.literal, rawAluHigh]

theorem lscan (f : FormLane) : Statement (.lscan f) := by
  intro c hw hc
  cases hc
  obtain ⟨d, a, op, ty, h, x⟩ := f
  simp [rawDecode, rawAlu, Instr.encodeWord, Instr.literal, rawAluHigh]

theorem laneMatch (f : FormU) : Statement (.laneMatch f) := by
  intro c hw hc
  cases hc
  obtain ⟨d, a, h, x⟩ := f
  simp [rawDecode, rawAlu, Instr.encodeWord, Instr.literal, rawAluHigh]

theorem isect (f : FormR) : Statement (.isect f) := by
  intro c hw hc
  cases hc
  obtain ⟨d, a, b, h⟩ := f
  simp [rawDecode, rawAlu, Instr.encodeWord, Instr.literal, rawAluHigh]

theorem union (f : FormR) : Statement (.union f) := by
  intro c hw hc
  cases hc
  obtain ⟨d, a, b, h⟩ := f
  simp [rawDecode, rawAlu, Instr.encodeWord, Instr.literal, rawAluHigh]

theorem bpfx (f : FormR) : Statement (.bpfx f) := by
  intro c hw hc
  cases hc
  obtain ⟨d, a, b, h⟩ := f
  simp [rawDecode, rawAlu, Instr.encodeWord, Instr.literal, rawAluHigh]

theorem fadd (f : FormF) : Statement (.fadd f) := by
  intro c hw hc
  cases hc
  obtain ⟨ty, d, a, b, h⟩ := f
  have hb : b.ok = true := ok_of_float (ty := ty) (by simp only [Instr.wf, FormF.ok, Bool.and_eq_true] at hw; exact hw.2)
  refine (rawAlu_float (fOp_packA _ _ _ _ _ _) (by decide) (by decide)).trans ?_
  simp [rawFloat, Instr.encodeWord, Instr.literal, hb]

theorem fsub (f : FormF) : Statement (.fsub f) := by
  intro c hw hc
  cases hc
  obtain ⟨ty, d, a, b, h⟩ := f
  have hb : b.ok = true := ok_of_float (ty := ty) (by simp only [Instr.wf, FormF.ok, Bool.and_eq_true] at hw; exact hw.2)
  refine (rawAlu_float (fOp_packA _ _ _ _ _ _) (by decide) (by decide)).trans ?_
  simp [rawFloat, Instr.encodeWord, Instr.literal, hb]

theorem fmul (f : FormF) : Statement (.fmul f) := by
  intro c hw hc
  cases hc
  obtain ⟨ty, d, a, b, h⟩ := f
  have hb : b.ok = true := ok_of_float (ty := ty) (by simp only [Instr.wf, FormF.ok, Bool.and_eq_true] at hw; exact hw.2)
  refine (rawAlu_float (fOp_packA _ _ _ _ _ _) (by decide) (by decide)).trans ?_
  simp [rawFloat, Instr.encodeWord, Instr.literal, hb]

theorem ffma (f : FormF) : Statement (.ffma f) := by
  intro c hw hc
  cases hc
  obtain ⟨ty, d, a, b, h⟩ := f
  have hb : b.ok = true := ok_of_float (ty := ty) (by simp only [Instr.wf, FormF.ok, Bool.and_eq_true] at hw; exact hw.2)
  refine (rawAlu_float (fOp_packA _ _ _ _ _ _) (by decide) (by decide)).trans ?_
  simp [rawFloat, Instr.encodeWord, Instr.literal, hb]

theorem fmin (f : FormF) : Statement (.fmin f) := by
  intro c hw hc
  cases hc
  obtain ⟨ty, d, a, b, h⟩ := f
  have hb : b.ok = true := ok_of_float (ty := ty) (by simp only [Instr.wf, FormF.ok, Bool.and_eq_true] at hw; exact hw.2)
  refine (rawAlu_float (fOp_packA _ _ _ _ _ _) (by decide) (by decide)).trans ?_
  simp [rawFloat, Instr.encodeWord, Instr.literal, hb]

theorem fmax (f : FormF) : Statement (.fmax f) := by
  intro c hw hc
  cases hc
  obtain ⟨ty, d, a, b, h⟩ := f
  have hb : b.ok = true := ok_of_float (ty := ty) (by simp only [Instr.wf, FormF.ok, Bool.and_eq_true] at hw; exact hw.2)
  refine (rawAlu_float (fOp_packA _ _ _ _ _ _) (by decide) (by decide)).trans ?_
  simp [rawFloat, Instr.encodeWord, Instr.literal, hb]

theorem fcmp (f : FormFC) : Statement (.fcmp f) := by
  intro c hw hc
  cases hc
  obtain ⟨ty, mask, cond, a, b, h⟩ := f
  have hb : b.ok = true := ok_of_float (ty := ty) (by simp only [Instr.wf, FormF.ok, Bool.and_eq_true] at hw; exact hw.2)
  refine (rawAlu_float (fOp_packA _ _ _ _ _ _) (by decide) (by decide)).trans ?_
  simp [rawFloat, Instr.encodeWord, Instr.literal, hb]

theorem fneg (f : FormFU) : Statement (.fneg f) := by
  intro c hw hc
  cases hc
  obtain ⟨ty, d, a, h⟩ := f
  refine (rawAlu_float (fOp_packA _ _ _ _ _ _) (by decide) (by decide)).trans ?_
  simp [rawFloat, Instr.encodeWord, Instr.literal]

theorem fabs (f : FormFU) : Statement (.fabs f) := by
  intro c hw hc
  cases hc
  obtain ⟨ty, d, a, h⟩ := f
  refine (rawAlu_float (fOp_packA _ _ _ _ _ _) (by decide) (by decide)).trans ?_
  simp [rawFloat, Instr.encodeWord, Instr.literal]

theorem frcp (f : FormFU) : Statement (.frcp f) := by
  intro c hw hc
  cases hc
  obtain ⟨ty, d, a, h⟩ := f
  refine (rawAlu_float (fOp_packA _ _ _ _ _ _) (by decide) (by decide)).trans ?_
  simp [rawFloat, Instr.encodeWord, Instr.literal]

theorem frsq (f : FormFU) : Statement (.frsq f) := by
  intro c hw hc
  cases hc
  obtain ⟨ty, d, a, h⟩ := f
  refine (rawAlu_float (fOp_packA _ _ _ _ _ _) (by decide) (by decide)).trans ?_
  simp [rawFloat, Instr.encodeWord, Instr.literal]

theorem fsqrt (f : FormFU) : Statement (.fsqrt f) := by
  intro c hw hc
  cases hc
  obtain ⟨ty, d, a, h⟩ := f
  refine (rawAlu_float (fOp_packA _ _ _ _ _ _) (by decide) (by decide)).trans ?_
  simp [rawFloat, Instr.encodeWord, Instr.literal]

theorem fexp2 (f : FormFU) : Statement (.fexp2 f) := by
  intro c hw hc
  cases hc
  obtain ⟨ty, d, a, h⟩ := f
  refine (rawAlu_float (fOp_packA _ _ _ _ _ _) (by decide) (by decide)).trans ?_
  simp [rawFloat, Instr.encodeWord, Instr.literal]

theorem flog2 (f : FormFU) : Statement (.flog2 f) := by
  intro c hw hc
  cases hc
  obtain ⟨ty, d, a, h⟩ := f
  refine (rawAlu_float (fOp_packA _ _ _ _ _ _) (by decide) (by decide)).trans ?_
  simp [rawFloat, Instr.encodeWord, Instr.literal]

theorem fsin (f : FormFU) : Statement (.fsin f) := by
  intro c hw hc
  cases hc
  obtain ⟨ty, d, a, h⟩ := f
  refine (rawAlu_float (fOp_packA _ _ _ _ _ _) (by decide) (by decide)).trans ?_
  simp [rawFloat, Instr.encodeWord, Instr.literal]

theorem fcos (f : FormFU) : Statement (.fcos f) := by
  intro c hw hc
  cases hc
  obtain ⟨ty, d, a, h⟩ := f
  refine (rawAlu_float (fOp_packA _ _ _ _ _ _) (by decide) (by decide)).trans ?_
  simp [rawFloat, Instr.encodeWord, Instr.literal]

theorem frnd (f : FormFU) (rm : BitVec 2) : Statement (.frnd f rm) := by
  intro c hw hc
  cases hc
  obtain ⟨ty, d, a, h⟩ := f
  refine (rawAlu_float (fOp_packA _ _ _ _ _ _) (by decide) (by decide)).trans ?_
  simp [rawFloat, Instr.encodeWord, Instr.literal]

theorem fclass (f : FormFU) : Statement (.fclass f) := by
  intro c hw hc
  cases hc
  obtain ⟨ty, d, a, h⟩ := f
  refine (rawAlu_float (fOp_packA _ _ _ _ _ _) (by decide) (by decide)).trans ?_
  simp [rawFloat, Instr.encodeWord, Instr.literal]

theorem fscale (f : FormF) : Statement (.fscale f) := by
  intro c hw hc
  cases hc
  obtain ⟨ty, d, a, b, h⟩ := f
  have hb : b.ok = true := by simp only [Instr.wf, Bool.and_eq_true] at hw; exact hw.2
  refine (rawAlu_float (fOp_packA _ _ _ _ _ _) (by decide) (by decide)).trans ?_
  simp [rawFloat, Instr.encodeWord, Instr.literal, hb]

theorem fdot2 (f : FormF) : Statement (.fdot2 f) := by
  intro c hw hc
  cases hc
  obtain ⟨ty, d, a, b, h⟩ := f
  have hb : b.ok = true := by simp only [Instr.wf, Bool.and_eq_true] at hw; exact hw.2
  refine (rawAlu_float (fOp_packA _ _ _ _ _ _) (by decide) (by decide)).trans ?_
  simp [rawFloat, Instr.encodeWord, Instr.literal, hb]

theorem shq (d a : Reg) : Statement (.shq d a) := by
  intro c hw hc
  cases hc
  simp [rawDecode, rawCtrl, Instr.encodeWord, Instr.literal]

theorem shassert (a : Reg) (b : Reg) : Statement (.shassert a b) := by
  intro c hw hc
  cases hc
  simp [rawDecode, rawCtrl, Instr.encodeWord, Instr.literal]

theorem shforce (d n b : Reg) : Statement (.shforce d n b) := by
  intro c hw hc
  cases hc
  simp [rawDecode, rawCtrl, Instr.encodeWord, Instr.literal]

theorem shpack (d n : Reg) : Statement (.shpack d n) := by
  intro c hw hc
  cases hc
  simp [rawDecode, rawCtrl, Instr.encodeWord, Instr.literal]

theorem grow (n : BitVec 9) : Statement (.grow n) := by
  intro c hw hc
  cases hc
  simp [rawDecode, rawCtrl, Instr.encodeWord, Instr.literal]

theorem growTry (k : Reg) (n : BitVec 9) : Statement (.growTry k n) := by
  intro c hw hc
  cases hc
  simp [rawDecode, rawCtrl, Instr.encodeWord, Instr.literal]

theorem shrink (f : FormR) : Statement (.shrink f) := by
  intro c hw hc
  cases hc
  obtain ⟨d, a, b, h⟩ := f
  simp [rawDecode, rawCtrl, Instr.encodeWord, Instr.literal]

theorem join (k : BitVec 4) : Statement (.join k) := by
  intro c hw hc
  cases hc
  simp [rawDecode, rawCtrl, Instr.encodeWord, Instr.literal]

theorem leave (k : BitVec 4) : Statement (.leave k) := by
  intro c hw hc
  cases hc
  simp [rawDecode, rawCtrl, Instr.encodeWord, Instr.literal]

theorem waitm (k : BitVec 4) : Statement (.waitm k) := by
  intro c hw hc
  cases hc
  simp [rawDecode, rawCtrl, Instr.encodeWord, Instr.literal]

theorem mset (k a : Reg) (h : Bool) : Statement (.mset k a h) := by
  intro c hw hc
  cases hc
  simp [rawDecode, rawCtrl, Instr.encodeWord, Instr.literal]

theorem mskop (op : BitVec 3) (k : BitVec 4) (a b : Reg) : Statement (.mskop op k a b) := by
  intro c hw hc
  cases hc
  simp [rawDecode, rawCtrl, Instr.encodeWord, Instr.literal]

theorem mpopc (d k : Reg) : Statement (.mpopc d k) := by
  intro c hw hc
  cases hc
  simp [rawDecode, rawCtrl, Instr.encodeWord, Instr.literal]

theorem mfind (d k : Reg) : Statement (.mfind d k) := by
  intro c hw hc
  cases hc
  simp [rawDecode, rawCtrl, Instr.encodeWord, Instr.literal]

theorem mskget (d k : Reg) : Statement (.mskget d k) := by
  intro c hw hc
  cases hc
  simp [rawDecode, rawCtrl, Instr.encodeWord, Instr.literal]

theorem mskput (k a : Reg) (h : Bool) : Statement (.mskput k a h) := by
  intro c hw hc
  cases hc
  have hh : h = false := by
    rw [Instr.wf, Bool.and_eq_true] at hw
    simpa using hw.2
  simp [rawDecode, rawCtrl, Instr.encodeWord, Instr.literal, hh]

theorem bra (k : BitVec 4) (off : BitVec 20) : Statement (.bra k off) := by
  intro c hw hc
  cases hc
  simp [rawDecode, rawCtrl, Instr.encodeWord, Instr.literal]

theorem brai (a : Reg) (h : Bool) : Statement (.brai a h) := by
  intro c hw hc
  cases hc
  simp [rawDecode, rawCtrl, Instr.encodeWord, Instr.literal]

theorem call (k : BitVec 4) (off : BitVec 20) : Statement (.call k off) := by
  intro c hw hc
  cases hc
  simp [rawDecode, rawCtrl, Instr.encodeWord, Instr.literal]

theorem calli (a : Reg) (h : Bool) : Statement (.calli a h) := by
  intro c hw hc
  cases hc
  simp [rawDecode, rawCtrl, Instr.encodeWord, Instr.literal]

theorem ret : Statement (.ret) := by
  intro c hw hc
  cases hc
  simp [rawDecode, rawCtrl, Instr.encodeWord, Instr.literal]

theorem ser (off : BitVec 20) : Statement (.ser off) := by
  intro c hw hc
  cases hc
  simp [rawDecode, rawCtrl, Instr.encodeWord, Instr.literal]

theorem endser : Statement (.endser) := by
  intro c hw hc
  cases hc
  simp [rawDecode, rawCtrl, Instr.encodeWord, Instr.literal]

theorem exit (k : BitVec 4) : Statement (.exit k) := by
  intro c hw hc
  cases hc
  simp [rawDecode, rawCtrl, Instr.encodeWord, Instr.literal]

theorem nop : Statement (.nop) := by
  intro c hw hc
  cases hc
  simp [rawDecode, rawCtrl, Instr.encodeWord, Instr.literal]

theorem yield : Statement (.yield) := by
  intro c hw hc
  cases hc
  simp [rawDecode, rawCtrl, Instr.encodeWord, Instr.literal]

theorem pushv (d n : Reg) : Statement (.pushv d n) := by
  intro c hw hc
  cases hc
  simp [rawDecode, rawCtrl, Instr.encodeWord, Instr.literal]

theorem popv (d n : Reg) : Statement (.popv d n) := by
  intro c hw hc
  cases hc
  simp [rawDecode, rawCtrl, Instr.encodeWord, Instr.literal]

theorem ld (f : FormM) : Statement (.ld f) := by
  intro c hw hc
  cases hc
  obtain ⟨sp, p, sz, d, a, off⟩ := f
  show rawMem (packM 0#2 sp p sz d a off) none = _
  simp [rawMem]
  exact p_packM _ _ _ _ _ _ _

theorem st (f : FormM) : Statement (.st f) := by
  intro c hw hc
  cases hc
  obtain ⟨sp, p, sz, d, a, off⟩ := f
  show rawMem (packM 1#2 sp p sz d a off) none = _
  simp [rawMem]
  exact p_packM _ _ _ _ _ _ _

theorem lduC (f : FormLdu) : Statement (.lduC f) := by
  intro c hw hc
  cases hc
  obtain ⟨sz, d, a, off⟩ := f
  simp [rawDecode, rawMem, Instr.encodeWord, Instr.literal]

theorem lduG (f : FormLdu) : Statement (.lduG f) := by
  intro c hw hc
  cases hc
  obtain ⟨sz, d, a, off⟩ := f
  simp [rawDecode, rawMem, Instr.encodeWord, Instr.literal]

theorem ldxG (f : FormX) : Statement (.ldxG f) := by
  intro c hw hc
  cases hc
  obtain ⟨sz, d, a, b, x⟩ := f
  have hb : b.ok = true := by
    simp only [Instr.wf, FormA.ok, FormA.okPairs, FormCmp.ok, FormLane.ok, FormX.okLd, FormX.okSt, FormOrd.ok, Bool.and_eq_true, decide_eq_true_eq] at hw
    exact hw.2
  simp [rawDecode, rawMem, Instr.encodeWord, Instr.literal, hb]

theorem ldxD (f : FormX) : Statement (.ldxD f) := by
  intro c hw hc
  cases hc
  obtain ⟨sz, d, a, b, x⟩ := f
  have hb : b.ok = true := by
    simp only [Instr.wf, FormA.ok, FormA.okPairs, FormCmp.ok, FormLane.ok, FormX.okLd, FormX.okSt, FormOrd.ok, Bool.and_eq_true, decide_eq_true_eq] at hw
    exact hw.2
  simp [rawDecode, rawMem, Instr.encodeWord, Instr.literal, hb]

theorem stxG (f : FormX) : Statement (.stxG f) := by
  intro c hw hc
  cases hc
  obtain ⟨sz, d, a, b, x⟩ := f
  have hb : b.ok = true := by
    simp only [Instr.wf, FormA.ok, FormA.okPairs, FormCmp.ok, FormLane.ok, FormX.okLd, FormX.okSt, FormOrd.ok, Bool.and_eq_true, decide_eq_true_eq] at hw
    exact hw.2
  simp [rawDecode, rawMem, Instr.encodeWord, Instr.literal, hb]

theorem stxD (f : FormX) : Statement (.stxD f) := by
  intro c hw hc
  cases hc
  obtain ⟨sz, d, a, b, x⟩ := f
  have hb : b.ok = true := by
    simp only [Instr.wf, FormA.ok, FormA.okPairs, FormCmp.ok, FormLane.ok, FormX.okLd, FormX.okSt, FormOrd.ok, Bool.and_eq_true, decide_eq_true_eq] at hw
    exact hw.2
  simp [rawDecode, rawMem, Instr.encodeWord, Instr.literal, hb]

theorem atom (op : BitVec 4) (f : FormAt) : Statement (.atom op f) := by
  intro c hw hc
  cases hc
  obtain ⟨d, a, b, sp⟩ := f
  have hb : b.ok = true := by
    simp only [Instr.wf, Bool.and_eq_true] at hw
    have h := hw.2
    split at h
    · exact SrcB.ok_of_okPair (by simp only [Bool.and_eq_true] at h; exact h.2)
    · exact h
  refine (rawMem_atomic (fOp_packA _ _ _ _ _ _) (by decide) (by decide)).trans ?_
  simp [Instr.encodeWord, Instr.literal, hb]

theorem red (op : BitVec 4) (f : FormAt) : Statement (.red op f) := by
  intro c hw hc
  cases hc
  obtain ⟨d, a, b, sp⟩ := f
  have hb : b.ok = true := by
    simp only [Instr.wf, Bool.and_eq_true] at hw
    have h := hw.2
    split at h
    · exact SrcB.ok_of_okPair h
    · exact h
  refine (rawMem_atomic (fOp_packA _ _ _ _ _ _) (by decide) (by decide)).trans ?_
  simp [Instr.encodeWord, Instr.literal, hb]

theorem atomcasN32 (f : FormAt) : Statement (.atomcasN32 f) := by
  intro c hw hc
  cases hc
  obtain ⟨d, a, b, sp⟩ := f
  have hb : b.ok = true := by
    simp only [Instr.wf, FormA.ok, FormA.okPairs, FormCmp.ok, FormLane.ok, FormX.okLd, FormX.okSt, FormOrd.ok, Bool.and_eq_true, decide_eq_true_eq] at hw
    exact hw.2
  simp [rawDecode, rawMem, Instr.encodeWord, Instr.literal, top2_eq, fOp4_eq, fOp5_eq, hb]

theorem atomcasN64 (f : FormAt) : Statement (.atomcasN64 f) := by
  intro c hw hc
  cases hc
  obtain ⟨d, a, b, sp⟩ := f
  have hb : b.ok = true := by
    simp only [Instr.wf, FormA.ok, FormA.okPairs, FormCmp.ok, FormLane.ok, FormX.okLd, FormX.okSt, FormOrd.ok, Bool.and_eq_true, decide_eq_true_eq] at hw
    exact SrcB.ok_of_okPair hw.2
  simp [rawDecode, rawMem, Instr.encodeWord, Instr.literal, top2_eq, fOp4_eq, fOp5_eq, hb]

theorem redx (f : FormAt) : Statement (.redx f) := by
  intro c hw hc
  cases hc
  obtain ⟨d, a, b, sp⟩ := f
  have hb : b.ok = true := by
    simp only [Instr.wf, FormA.ok, FormA.okPairs, FormCmp.ok, FormLane.ok, FormX.okLd, FormX.okSt, FormOrd.ok, Bool.and_eq_true, decide_eq_true_eq] at hw
    exact hw.2
  simp [rawDecode, rawMem, Instr.encodeWord, Instr.literal, top2_eq, fOp4_eq, fOp5_eq, hb]

theorem pref (a : Reg) (off : BitVec 10) : Statement (.pref a off) := by
  intro c hw hc
  cases hc
  simp [rawDecode, rawMem, Instr.encodeWord, Instr.literal, top2_eq, fOp4_eq, fOp5_eq]

theorem fence (scope : BitVec 3) : Statement (.fence scope) := by
  intro c hw hc
  cases hc
  simp [rawDecode, rawMem, Instr.encodeWord, Instr.literal, top2_eq, fOp4_eq, fOp5_eq]

theorem acq (f : FormOrd) : Statement (.acq f) := by
  intro c hw hc
  cases hc
  obtain ⟨d, a, scope, size, sp⟩ := f
  simp [rawDecode, rawMem, Instr.encodeWord, Instr.literal, top2_eq, fOp4_eq, fOp5_eq]

theorem rel (f : FormOrd) : Statement (.rel f) := by
  intro c hw hc
  cases hc
  obtain ⟨d, a, scope, size, sp⟩ := f
  simp [rawDecode, rawMem, Instr.encodeWord, Instr.literal, top2_eq, fOp4_eq, fOp5_eq]

theorem acqr (f : FormOrd) : Statement (.acqr f) := by
  intro c hw hc
  cases hc
  obtain ⟨d, a, scope, size, sp⟩ := f
  simp [rawDecode, rawMem, Instr.encodeWord, Instr.literal, top2_eq, fOp4_eq, fOp5_eq]

theorem cctl (a : Reg) (op : BitVec 3) (sp : BitVec 2) : Statement (.cctl a op sp) := by
  intro c hw hc
  cases hc
  simp [rawDecode, rawMem, Instr.encodeWord, Instr.literal, top2_eq, fOp4_eq, fOp5_eq]

theorem p2g (d a : Reg) (b : SrcB) (x : Bool) : Statement (.p2g d a b x) := by
  intro c hw hc
  cases hc
  have hb : b.ok = true := by
    simp only [Instr.wf, Bool.and_eq_true] at hw
    have h := hw.2
    split at h
    · exact h
    · rw [eq_of_beq h]; rfl
  simp [rawDecode, rawMem, Instr.encodeWord, Instr.literal, top2_eq, fOp4_eq, fOp5_eq, hb]

theorem qspace (d a : Reg) : Statement (.qspace d a) := by
  intro c hw hc
  cases hc
  simp [rawDecode, rawMem, Instr.encodeWord, Instr.literal, top2_eq, fOp4_eq, fOp5_eq]

theorem bararr (d n : Reg) : Statement (.bararr d n) := by
  intro c hw hc
  cases hc
  simp [rawDecode, rawMem, Instr.encodeWord, Instr.literal, top2_eq, fOp4_eq, fOp5_eq]

theorem barwait (n : Reg) (b : SrcB) : Statement (.barwait n b) := by
  intro c hw hc
  cases hc
  have hb : b.ok = true := by
    simp only [Instr.wf, FormA.ok, FormA.okPairs, FormCmp.ok, FormLane.ok, FormX.okLd, FormX.okSt, FormOrd.ok, Bool.and_eq_true, decide_eq_true_eq] at hw
    exact hw.2
  simp [rawDecode, rawMem, Instr.encodeWord, Instr.literal, top2_eq, fOp4_eq, fOp5_eq, hb]

theorem barsync (n : Reg) : Statement (.barsync n) := by
  intro c hw hc
  cases hc
  simp [rawDecode, rawMem, Instr.encodeWord, Instr.literal, top2_eq, fOp4_eq, fOp5_eq]

theorem barexp (n : Reg) (b : SrcB) : Statement (.barexp n b) := by
  intro c hw hc
  cases hc
  have hb : b.ok = true := by
    simp only [Instr.wf, FormA.ok, FormA.okPairs, FormCmp.ok, FormLane.ok, FormX.okLd, FormX.okSt, FormOrd.ok, Bool.and_eq_true, decide_eq_true_eq] at hw
    exact hw.2
  simp [rawDecode, rawMem, Instr.encodeWord, Instr.literal, top2_eq, fOp4_eq, fOp5_eq, hb]

theorem barset (n : Reg) (b : SrcB) : Statement (.barset n b) := by
  intro c hw hc
  cases hc
  have hb : b.ok = true := by
    simp only [Instr.wf, FormA.ok, FormA.okPairs, FormCmp.ok, FormLane.ok, FormX.okLd, FormX.okSt, FormOrd.ok, Bool.and_eq_true, decide_eq_true_eq] at hw
    exact hw.2
  simp [rawDecode, rawMem, Instr.encodeWord, Instr.literal, top2_eq, fOp4_eq, fOp5_eq, hb]

theorem stgacq (d n : Reg) : Statement (.stgacq d n) := by
  intro c hw hc
  cases hc
  simp [rawDecode, rawMem, Instr.encodeWord, Instr.literal, top2_eq, fOp4_eq, fOp5_eq]

theorem stgrel (n : Reg) (a : HeldReg) : Statement (.stgrel n a) := by
  intro c hw hc
  cases hc
  simp [rawDecode, rawMem, Instr.encodeWord, Instr.literal, top2_eq, fOp4_eq, fOp5_eq]

theorem tlwait (n : Reg) (b : HeldB) : Statement (.tlwait n b) := by
  intro c hw hc
  cases hc
  obtain ⟨b, h⟩ := b
  have hb : b.ok = true := by
    simp only [Instr.wf, FormA.ok, FormA.okPairs, FormCmp.ok, FormLane.ok, FormX.okLd, FormX.okSt, FormOrd.ok, Bool.and_eq_true, decide_eq_true_eq] at hw
    exact SrcB.ok_of_okPair hw.2
  simp [rawDecode, rawMem, Instr.encodeWord, Instr.literal, top2_eq, fOp4_eq, fOp5_eq, hb]

theorem tlread (d n : Reg) : Statement (.tlread d n) := by
  intro c hw hc
  cases hc
  simp [rawDecode, rawMem, Instr.encodeWord, Instr.literal, top2_eq, fOp4_eq, fOp5_eq]

theorem cpl (a b c : Reg) (t : BitVec 3) : Statement (.cpl a b c t) := by
  intro c hw hc
  cases hc
  simp [rawDecode, rawCpy, Instr.encodeWord, Instr.literal]

theorem tagwait (t : BitVec 3) : Statement (.tagwait t) := by
  intro c hw hc
  cases hc
  simp [rawDecode, rawCpy, Instr.encodeWord, Instr.literal]

theorem tagcnt (a : Reg) (t : BitVec 3) : Statement (.tagcnt a t) := by
  intro c hw hc
  cases hc
  simp [rawDecode, rawCpy, Instr.encodeWord, Instr.literal]

theorem tcopy (a b : Reg) : Statement (.tcopy a b) := by
  intro c hw hc
  cases hc
  simp [rawDecode, rawCpy, Instr.encodeWord, Instr.literal]

theorem tsparse (a b : Reg) : Statement (.tsparse a b) := by
  intro c hw hc
  cases hc
  simp [rawDecode, rawCpy, Instr.encodeWord, Instr.literal]

theorem tgather (a b : Reg) : Statement (.tgather a b) := by
  intro c hw hc
  cases hc
  simp [rawDecode, rawCpy, Instr.encodeWord, Instr.literal]

theorem tscatter (a b : Reg) : Statement (.tscatter a b) := by
  intro c hw hc
  cases hc
  simp [rawDecode, rawCpy, Instr.encodeWord, Instr.literal]

theorem tfill (a b : Reg) : Statement (.tfill a b) := by
  intro c hw hc
  cases hc
  simp [rawDecode, rawCpy, Instr.encodeWord, Instr.literal]

theorem tcoll (a b : Reg) : Statement (.tcoll a b) := by
  intro c hw hc
  cases hc
  simp [rawDecode, rawCpy, Instr.encodeWord, Instr.literal]

theorem tstat (a n : Reg) : Statement (.tstat a n) := by
  intro c hw hc
  cases hc
  simp [rawDecode, rawCpy, Instr.encodeWord, Instr.literal]

theorem mxarr (p : Reg) (c : BitVec 3) : Statement (.mxarr p c) := by
  intro c hw hc
  cases hc
  simp [rawDecode, rawMtx, Instr.encodeWord, Instr.literal]

theorem mxload (a b : Reg) : Statement (.mxload a b) := by
  intro c hw hc
  cases hc
  simp [rawDecode, rawMtx, Instr.encodeWord, Instr.literal]

theorem mxarow (a b : Reg) : Statement (.mxarow a b) := by
  intro c hw hc
  cases hc
  simp [rawDecode, rawMtx, Instr.encodeWord, Instr.literal]

theorem mxsign (a b c : Reg) (n : BitVec 3) : Statement (.mxsign a b c n) := by
  intro c hw hc
  cases hc
  simp [rawDecode, rawMtx, Instr.encodeWord, Instr.literal]

theorem mxmma (a : Reg) (n : BitVec 3) : Statement (.mxmma a n) := by
  intro c hw hc
  cases hc
  simp [rawDecode, rawMtx, Instr.encodeWord, Instr.literal]

theorem mxvalid (a : Reg) (k : BitVec 3) : Statement (.mxvalid a k) := by
  intro c hw hc
  cases hc
  simp [rawDecode, rawMtx, Instr.encodeWord, Instr.literal]

theorem mxwait (m : BitVec 3) : Statement (.mxwait m) := by
  intro c hw hc
  cases hc
  simp [rawDecode, rawMtx, Instr.encodeWord, Instr.literal]

theorem mxsave (a : Reg) (release restore : Bool) : Statement (.mxsave a release restore) := by
  intro c hw hc
  cases hc
  simp [rawDecode, rawMtx, Instr.encodeWord, Instr.literal]
  exact release_packX _ _ _ _ _ _

theorem spawn (e p : Reg) : Statement (.spawn e p) := by
  intro c hw hc
  cases hc
  simp [rawDecode, rawSys, Instr.encodeWord, Instr.literal]

theorem spawnTry (e p : Reg) (k : BitVec 4) : Statement (.spawnTry e p k) := by
  intro c hw hc
  cases hc
  simp [rawDecode, rawSys, Instr.encodeWord, Instr.literal]

theorem plvl (a : Reg) : Statement (.plvl a) := by
  intro c hw hc
  cases hc
  simp [rawDecode, rawSys, Instr.encodeWord, Instr.literal]

theorem trap (code : BitVec 16) : Statement (.trap code) := by
  intro c hw hc
  cases hc
  simp [rawDecode, rawSys, Instr.encodeWord, Instr.literal]

theorem tret : Statement (.tret) := by
  intro c hw hc
  cases hc
  simp [rawDecode, rawSys, Instr.encodeWord, Instr.literal]

theorem brk (code : BitVec 16) : Statement (.brk code) := by
  intro c hw hc
  cases hc
  simp [rawDecode, rawSys, Instr.encodeWord, Instr.literal]

theorem csrr (d : Reg) (num : BitVec 10) : Statement (.csrr d num) := by
  intro c hw hc
  cases hc
  simp [rawDecode, rawSys, Instr.encodeWord, Instr.literal]

theorem csrw (a : Reg) (num : BitVec 10) : Statement (.csrw a num) := by
  intro c hw hc
  cases hc
  simp [rawDecode, rawSys, Instr.encodeWord, Instr.literal]

theorem clock (d : Reg) : Statement (.clock d) := by
  intro c hw hc
  cases hc
  simp [rawDecode, rawSys, Instr.encodeWord, Instr.literal]

theorem entw (a b : Reg) : Statement (.entw a b) := by
  intro c hw hc
  cases hc
  simp [rawDecode, rawSys, Instr.encodeWord, Instr.literal]

theorem migr (g : BitVec 2) : Statement (.migr g) := by
  intro c hw hc
  cases hc
  simp [rawDecode, rawSys, Instr.encodeWord, Instr.literal]

theorem rdenter : Statement (.rdenter) := by
  intro c hw hc
  cases hc
  simp [rawDecode, rawSys, Instr.encodeWord, Instr.literal]

theorem rdexit : Statement (.rdexit) := by
  intro c hw hc
  cases hc
  simp [rawDecode, rawSys, Instr.encodeWord, Instr.literal]

theorem gpstart (d : Reg) : Statement (.gpstart d) := by
  intro c hw hc
  cases hc
  simp [rawDecode, rawSys, Instr.encodeWord, Instr.literal]

theorem waitgp (a : Reg) : Statement (.waitgp a) := by
  intro c hw hc
  cases hc
  simp [rawDecode, rawSys, Instr.encodeWord, Instr.literal]

theorem dfree (k : BitVec 4) (a b : Reg) : Statement (.dfree k a b) := by
  intro c hw hc
  cases hc
  simp [rawDecode, rawSys, Instr.encodeWord, Instr.literal]

theorem issuePick (pier q : Nat) : Statement (.issuePick pier q) := step_statement rfl

theorem clauseHeaderEntry (span lane : Nat) : Statement (.clauseHeaderEntry span lane) := step_statement rfl

theorem clauseHeaderPass (span lane : Nat) : Statement (.clauseHeaderPass span lane) := step_statement rfl

theorem yieldExpiry (span lane : Nat) : Statement (.yieldExpiry span lane) := step_statement rfl

theorem loadReturn (id : Nat) : Statement (.loadReturn id) := step_statement rfl

theorem atomicPerform (id : Nat) : Statement (.atomicPerform id) := step_statement rfl

theorem atomicReply (id : Nat) : Statement (.atomicReply id) := step_statement rfl

theorem reductionPerform (id : Nat) : Statement (.reductionPerform id) := step_statement rfl

theorem wcFlush (pier line : Nat) : Statement (.wcFlush pier line) := step_statement rfl

theorem l2EvictionPromote (line : Nat) : Statement (.l2EvictionPromote line) := step_statement rfl

theorem cplLaneComplete (id : Nat) : Statement (.cplLaneComplete id) := step_statement rfl

theorem copyPieceLanding (id : Nat) : Statement (.copyPieceLanding id) := step_statement rfl

theorem copyCompletion (id : Nat) : Statement (.copyCompletion id) := step_statement rfl

theorem engineCopyFault (id : Nat) : Statement (.engineCopyFault id) := step_statement rfl

theorem barrierPhaseComplete (owner bar : Nat) : Statement (.barrierPhaseComplete owner bar) := step_statement rfl

theorem barrierReleaseWave (truss : Nat) : Statement (.barrierReleaseWave truss) := step_statement rfl

theorem waitmOpen (span k : Nat) : Statement (.waitmOpen span k) := step_statement rfl

theorem stageSlotTurn (deck ring : Nat) : Statement (.stageSlotTurn deck ring) := step_statement rfl

theorem growServed (pier : Nat) : Statement (.growServed pier) := step_statement rfl

theorem fillRowLanding (id : Nat) : Statement (.fillRowLanding id) := step_statement rfl

theorem broadcastRowLanding (id : Nat) : Statement (.broadcastRowLanding id) := step_statement rfl

theorem matrixOwnershipChange (pier : Nat) : Statement (.matrixOwnershipChange pier) := step_statement rfl

theorem sliceStart (girder key : Nat) : Statement (.sliceStart girder key) := step_statement rfl

theorem sliceLanding (girder key : Nat) : Statement (.sliceLanding girder key) := step_statement rfl

theorem entwWake (span lane : Nat) : Statement (.entwWake span lane) := step_statement rfl

theorem trapEntry (span : Nat) : Statement (.trapEntry span) := step_statement rfl

theorem watchdogExpiry (span : Nat) : Statement (.watchdogExpiry span) := step_statement rfl

theorem pageRequestResponse (span : Nat) (ok : Bool) : Statement (.pageRequestResponse span ok) := step_statement rfl

theorem spanRetire (span : Nat) : Statement (.spanRetire span) := step_statement rfl

theorem parkedSpanRetire (span : Nat) : Statement (.parkedSpanRetire span) := step_statement rfl

theorem launchStart (queue : Nat) : Statement (.launchStart queue) := step_statement rfl

theorem deckPlace (launch : Nat) (piers : List Nat) : Statement (.deckPlace launch piers) := step_statement rfl

theorem deckMemoryCleared (deck : Nat) : Statement (.deckMemoryCleared deck) := step_statement rfl

theorem spawnOfferAccept (span lane : Nat) : Statement (.spawnOfferAccept span lane) := step_statement rfl

theorem overflowDrain (seg ctx : Nat) : Statement (.overflowDrain seg ctx) := step_statement rfl

theorem spawnPackTimeout (seg launch : Nat) (entry : DWord) : Statement (.spawnPackTimeout seg launch entry) := step_statement rfl

theorem spawnSpanEmit (seg launch : Nat) (entry : DWord) : Statement (.spawnSpanEmit seg launch entry) := step_statement rfl

theorem spawnedSpanPlace (seg idx pier : Nat) : Statement (.spawnedSpanPlace seg idx pier) := step_statement rfl

theorem launchComplete (queue : Nat) : Statement (.launchComplete queue) := step_statement rfl

theorem doorbell (off size val : Nat) : Statement (.doorbell off size val) := step_statement rfl

theorem sliceExpiry (slot : Nat) : Statement (.sliceExpiry slot) := step_statement rfl

theorem parkleadReached (ctx : Nat) : Statement (.parkleadReached ctx) := step_statement rfl

theorem deckQuiesced (deck : Nat) : Statement (.deckQuiesced deck) := step_statement rfl

theorem parkSaveDone (deck : Nat) : Statement (.parkSaveDone deck) := step_statement rfl

theorem deckResume (girder : Nat) (piers : List Nat) : Statement (.deckResume girder piers) := step_statement rfl

theorem deadlineExpiry (ctx : Nat) : Statement (.deadlineExpiry ctx) := step_statement rfl

theorem migrationPlace (girder : Nat) (piers : List Nat) : Statement (.migrationPlace girder piers) := step_statement rfl

theorem gpQuiescenceChange (span : Nat) : Statement (.gpQuiescenceChange span) := step_statement rfl

theorem gpComplete (ctx : Nat) : Statement (.gpComplete ctx) := step_statement rfl

theorem gpStall (ctx : Nat) : Statement (.gpStall ctx) := step_statement rfl

theorem dfreeRelease (ctx : Nat) : Statement (.dfreeRelease ctx) := step_statement rfl

theorem relringRetry (ctx : Nat) : Statement (.relringRetry ctx) := step_statement rfl

theorem createContext : Statement (.createContext) := step_statement rfl

theorem destroyContext : Statement (.destroyContext) := step_statement rfl

theorem createQueue : Statement (.createQueue) := step_statement rfl

theorem destroyQueue : Statement (.destroyQueue) := step_statement rfl

theorem destroyQueueDone (queue : Nat) : Statement (.destroyQueueDone queue) := step_statement rfl

theorem preempt : Statement (.preempt) := step_statement rfl

theorem invalidate : Statement (.invalidate) := step_statement rfl

theorem invalidateDone : Statement (.invalidateDone) := step_statement rfl

theorem setPeerGroup : Statement (.setPeerGroup) := step_statement rfl

theorem debugAttach : Statement (.debugAttach) := step_statement rfl

theorem debugDetach : Statement (.debugDetach) := step_statement rfl

theorem debugStop : Statement (.debugStop) := step_statement rfl

theorem debugStep : Statement (.debugStep) := step_statement rfl

theorem debugStepSpan : Statement (.debugStepSpan) := step_statement rfl

theorem debugContinue : Statement (.debugContinue) := step_statement rfl

theorem attest : Statement (.attest) := step_statement rfl

theorem getCert : Statement (.getCert) := step_statement rfl

theorem fwDeliver : Statement (.fwDeliver) := step_statement rfl

theorem resync : Statement (.resync) := step_statement rfl

theorem registerWrite (off size val : Nat) : Statement (.registerWrite off size val) := step_statement rfl

theorem refsync (val : Nat) : Statement (.refsync val) := step_statement rfl

theorem refmapApplied : Statement (.refmapApplied) := step_statement rfl

theorem hbmRefresh (seg bank : Nat) : Statement (.hbmRefresh seg bank) := step_statement rfl

theorem powerLimitTick (average : Nat) (powers : List Nat) : Statement (.powerLimitTick average powers) := step_statement rfl

theorem currentLimitSkip (seg amps : Nat) : Statement (.currentLimitSkip seg amps) := step_statement rfl

theorem levelChange (seg : Nat) : Statement (.levelChange seg) := step_statement rfl

theorem undervoltAdjust (seg : Nat) : Statement (.undervoltAdjust seg) := step_statement rfl

theorem eccCorrected (seg : Nat) (hbm : Option Nat) : Statement (.eccCorrected seg hbm) := step_statement rfl

theorem eccUe (seg struc pier addr slot : Nat) (reg : Reg) : Statement (.eccUe seg struc pier addr slot reg) := step_statement rfl

theorem thermal (seg temp : Nat) : Statement (.thermal seg temp) := step_statement rfl

theorem thermalRelease (seg temp : Nat) : Statement (.thermalRelease seg temp) := step_statement rfl

theorem hostMemAccess (write : Bool) (addr : Nat) (bytes : List Byte) : Statement (.hostMemAccess write addr bytes) := step_statement rfl

theorem atsInvalidation (page : Nat) : Statement (.atsInvalidation page) := step_statement rfl

theorem peerFailure (bdf : Nat) : Statement (.peerFailure bdf) := step_statement rfl

theorem deviceBoot : Statement (.deviceBoot) := step_statement rfl

theorem matrixClearDone (pier : Nat) : Statement (.matrixClearDone pier) := step_statement rfl

theorem storePerformed (id : Nat) : Statement (.storePerformed id) := step_statement rfl

theorem linkReset : Statement (.linkReset) := step_statement rfl

theorem ideKm (key : List Byte) : Statement (.ideKm key) := step_statement rfl

theorem atsTranslationCompletion (page target : Nat) (ok : Bool) : Statement (.atsTranslationCompletion page target ok) := step_statement rfl

theorem uvRestoreDone (seg : Nat) : Statement (.uvRestoreDone seg) := step_statement rfl

end Sys2Proof.Laws.RoundTrip
end

