-- ==== Sys2Proof/Laws/Sets.lean ====
section
/-! SUPPORT. Writing mask registers (05 R91, R101-R105) and outstanding work of an instruction (07 R144). -/

namespace Sys2Proof.Machine

/-! ## Mask registers -/

theorem Span.mask_setMask (sp : Span) (k j : Nat) (m : LaneSet) (h : k < sp.masks.length) :
    (sp.setMask k m).mask j = if j = k then m &&& sp.maskable else sp.mask j := by
  simp only [Span.mask, Span.setMask, List.getD_eq_getElem?_getD, List.getElem?_set]
  by_cases e : k = j
  · subst e; simp [h]
  · have : ¬ j = k := fun x => e x.symm
    simp [e, this]

/-- A mask register takes a value. -/
theorem putMask_spec {s : State} {u k : Nat} {m : LaneSet} {sp : Span} (h : s.span? u = some sp) :
    (putMask s u k m).span? u = some (settleSets (sp.setMask k m)) ∧ Elsewhere s (putMask s u k m) u :=
  ⟨State.span?_modSpan_same (x := sp) (fun x => settleSets (x.setMask k m)) (by intro _; rfl) h,
   Elsewhere.modSpan s u _ (by intro _; rfl)⟩

theorem masked_of {c : Ctx} {b : State} {x : Span} {k : Nat} {m : LaneSet} (hs : b.span? c.u = some x) (hk : k < x.masks.length) :
    Masked c b x (goOn (putMask b c.u k m) c.iss c.G) k m := by
  obtain ⟨p1, p2⟩ := putMask_spec (k := k) (m := m) hs
  obtain ⟨g1, g2⟩ := goOn_spec (iss := c.iss) (m := c.G) p1
  refine ⟨⟨_, g1, ?_, fun j hj => ?_, rfl, rfl⟩, p2.trans g2⟩
  · show (x.setMask k m).mask k = _
    rw [Span.mask_setMask _ _ _ _ hk, if_pos rfl]
  · show (x.setMask k m).mask j = _
    rw [Span.mask_setMask _ _ _ _ hk, if_neg hj]

/-- An instruction whose meaning is one bit of each lane of A marks its mask with them. -/
theorem maskInstr_marks {i : Instr} {k : Nat} {f : Ctx → Nat → Bool} (he : ∀ s, Machine.exec i s = maskInstr i s k f)
    (hk : i.wf = true → k < 12) : Marks i k (fun c => maskBits (c.sp.mask k) c.A (f c)) := by
  intro s c h
  obtain ⟨-, -, h3, -⟩ := h.spec
  refine ⟨_, (he s).trans (instr_done h false _ (t := c.setBits c.s k (f c)) rfl), ?_⟩
  have : c.setBits c.s k (f c) = putMask c.s c.u k (maskBits (c.sp.mask k) c.A (f c)) := by
    simp only [Ctx.setBits, h3]; rfl
  rw [this]
  exact masked_of h3 (by rw [h.shaped.masks]; exact hk h.legal)

/-! ## Outstanding work -/

/-- Work becomes outstanding in a state whose spans and the rest are as the instruction found them but for the slots taken for it and counters. -/
theorem queued_of {c : Ctx} {s : State} {f : Nat → Work} {x sp : Span} (hs : s.span? c.u = some x) (he : Elsewhere c.s s c.u)
    (hx : { x with used := sp.used, grant := sp.grant } = sp) (hu : x.used = sp.used + (f s.fresh).resv)
    (hg : x.grant = sp.grant + ((f s.fresh).resv - c.sp.spare)) (hp : Drawn c.s s c.deck.pier ((f s.fresh).resv - c.sp.spare)) :
    Queued c (goOn (s.addWork f) c.iss c.G) (f s.fresh) (c.onward sp) := by
  have h1 : s.works = c.s.works := by have := congrArg State.works he.state; exact this
  have h2 : s.fresh = c.s.fresh := by have := congrArg State.fresh he.state; exact this
  have hl : x.live = sp.live := by rw [← congrArg Span.live hx]; rfl
  obtain ⟨g1, g2⟩ := goOn_spec (s := s.addWork f) (iss := c.iss) (m := c.G) (sp := x) (by have := State.span?_congr (s := s) (t := s.addWork f) rfl c.u; exact this.trans hs)
  refine ⟨by rw [← h1]; rfl, ⟨_, g1, ?_, hu, hg⟩, ⟨hp.1, hp.2⟩, ?_⟩
  · rw [hl]
    show _ = sp.modLanes (c.G &&& sp.live) (fun _ l => { l with pos := c.iss.after l.pos })
    have hm : ∀ (q : Span) (m : LaneSet), ({ x.modLanes m (fun _ l => { l with pos := c.iss.after l.pos }) with
        used := q.used, grant := q.grant } : Span) =
        ({ x with used := q.used, grant := q.grant } : Span).modLanes m (fun _ l => { l with pos := c.iss.after l.pos }) :=
      fun _ _ => rfl
    have h3 := hm sp (c.G &&& sp.live)
    rw [hx] at h3
    exact h3
  · have e := (Elsewhere.modSpan s c.u (fun x => x.modLanes (c.G &&& x.live) (fun _ l => { l with pos := c.iss.after l.pos })) (by intro _; rfl))
    have r := he.trans e
    show Elsewhere c.s { goOn (s.addWork f) c.iss c.G with works := c.s.works, fresh := c.s.fresh } c.u
    rw [← h1, ← h2]
    exact r

end Sys2Proof.Machine
end

