-- ==== Sys2Proof/Tests/Slice0.lean ====
section
/-! SUPPORT. Tests: words of the encoding tables, worked examples of the manual, ill-formed terms, and states that meet the premises of
every statement. -/

set_option maxRecDepth 40000
set_option Elab.async false

namespace Sys2Proof.Tests
open Sys2Proof Sys2Proof.Machine

/-! ## Small states: one span of eight lanes with what it belongs to -/

/-- A span, what it belongs to, the issue that has been picked, and the rest of the machine. -/
structure World where
  sp : Span
  deck : Deck
  girder : Girder
  launch : Launch
  cx : Context
  iss : Issue
  rest : State

def World.state (w : World) : State :=
  { w.rest with spans := w.sp :: w.rest.spans, decks := w.deck :: w.rest.decks, girders := w.girder :: w.rest.girders,
                launches := w.launch :: w.rest.launches, ctxs := w.cx :: w.rest.ctxs, cur := some w.iss }
def World.ctx (w : World) : Ctx := ⟨{ w.state with cur := none }, { w.state with cur := none }, w.sp, w.deck, w.girder, w.launch, w.cx, w.iss⟩

/-- The numbers by which each part of a world names the next, and the numbers that are named. -/
def World.names (w : World) : List Nat := [w.iss.span, w.sp.deck, w.deck.girder, w.girder.launch, w.launch.ctx]
def World.named (w : World) : List Nat := [w.sp.uid, w.deck.uid, w.girder.uid, w.launch.uid, w.cx.num]
/-- A world whose span is well shaped and unpoisoned. -/
def World.sound (w : World) : Bool :=
  w.names == w.named && [w.sp.regs.length, w.sp.masks.length, w.sp.tags.length, w.sp.lanes.length] == [128, 12, 8, w.sp.width] &&
  w.sp.width / 65 == 0 && w.sp.poison.isEmpty
/-- Counters none of which counts. -/
def noCount (cnt : List DWord) (sel : List Word) : Bool := sel.all (fun x => !x.getLsbD 8) && cnt.length == sel.length
/-- The issue of i changes nothing: it holds nothing in an empty latch, no counter counts, and its span has just issued. -/
def World.still (w : World) (i : Instr) : Bool :=
  let p := w.rest.pier w.deck.pier
  let g := w.rest.seg (segOf w.deck.pier)
  (heldRegs i).all (fun r => !(w.sp.vreg r).isVector) && p.latch.getD w.sp.islot [] == [] && noCount p.cnt p.sel && noCount g.cnt g.sel &&
  noCount w.rest.mgmt.cnt w.rest.mgmt.sel && w.state.spans.all (fun x => x.uid != w.iss.span || (x.lastIssue == w.rest.time && x.front == w.rest.fresh)) &&
  w.sp.lastIssue == w.rest.time && w.sp.front == w.rest.fresh
/-- What an issue of i needs of a world, with lanes to execute it and with none. -/
def World.ok (w : World) (i : Instr) : Bool :=
  w.sound && w.iss.aset != 0#64 && i.wf && i.grade.elim true (· == gradeOf w.deck.pier) && w.still i
def World.idle (w : World) (i : Instr) : Bool :=
  w.sound && w.iss.aset == 0#64 && i.wf && i.grade.elim true (· == gradeOf w.deck.pier) && w.still i

theorem modify_self {α : Type} (l : List α) (k : Nat) (f : α → α) (h : ∀ x, l[k]? = some x → f x = x) : l.modify k f = l := by
  apply List.ext_getElem?
  intro i
  rw [List.getElem?_modify]
  split
  · rename_i hk
    subst hk
    cases hx : l[k]? with
    | none => rfl
    | some x => simp [h x hx]
  · simp
theorem noCount_spec {cnt : List DWord} {sel : List Word} (h : noCount cnt sel = true) (src n : Nat) : countList src n cnt sel = (cnt, sel) := by
  simp only [noCount, Bool.and_eq_true, List.all_eq_true, beq_iff_eq] at h
  have one : (cnt.zip sel).map (fun x => countOne src n x.1 x.2) = cnt.zip sel := by
    refine (List.map_congr_left (fun x hx => ?_)).trans (List.map_id _)
    have := h.1 x.2 (List.of_mem_zip hx).2
    simp_all [countOne]
  rw [countList, one, List.unzip_zip h.2]
theorem countPier_still {s : State} {p : Nat} (h1 : noCount (s.pier p).cnt (s.pier p).sel = true)
    (h2 : noCount (s.seg (segOf p)).cnt (s.seg (segOf p)).sel = true) (h3 : noCount s.mgmt.cnt s.mgmt.sel = true) (src n : Nat) : countPier s p src n = s := by
  have hp : s.piers.modify p (fun x => let r := countList src n x.cnt x.sel; { x with cnt := r.1, sel := r.2 }) = s.piers := by
    refine modify_self _ _ _ (fun x hx => ?_)
    have : s.pier p = x := by simp [State.pier, hx]
    rw [← this, noCount_spec h1]
  have hg : s.segs.modify (segOf p) (fun x => let r := countList src n x.cnt x.sel; { x with cnt := r.1, sel := r.2 }) = s.segs := by
    refine modify_self _ _ _ (fun x hx => ?_)
    have : s.seg (segOf p) = x := by simp [State.seg, hx]
    rw [← this, noCount_spec h2]
  simp only [countPier, countSeg, countDev, State.modPier, State.modSeg, hp, hg, noCount_spec h3]
theorem World.starts {w : World} {i : Instr} (h : w.still i = true) : w.ctx.start i = w.ctx := by
  simp only [World.still, Bool.and_eq_true, List.all_eq_true, Bool.or_eq_true, bne_iff_ne, beq_iff_eq] at h
  obtain ⟨⟨⟨⟨⟨⟨⟨hold, empty⟩, h1⟩, h2⟩, h3⟩, last⟩, now⟩, front⟩ := h
  have none : (if w.iss.cols.isSome && !w.iss.fetched then [] else (heldRegs i).filter (fun r => (w.sp.vreg r).isVector)) = [] := by
    split
    · rfl
    · exact List.filter_eq_nil_iff.mpr (fun r hr => by simpa using hold r hr)
  obtain ⟨age, hage⟩ : ∃ age, latchAfter w.ctx.u w.ctx.iss.next (w.ctx.iss.nextPc == w.ctx.iss.next) [] = age := ⟨_, rfl⟩
  have aged : age [] = [] := by
    rw [← hage]
    show (if _ then _ else _) = ([] : List Latch)
    split <;> rfl
  have same : w.ctx.s.modPier w.ctx.deck.pier (fun x => { x with latch := x.latch.modify w.ctx.sp.islot age }) = w.ctx.s := by
    have : w.ctx.s.piers.modify w.ctx.deck.pier (fun x => { x with latch := x.latch.modify w.ctx.sp.islot age }) = w.ctx.s.piers := by
      refine modify_self _ _ _ (fun x hx => ?_)
      have hl : x.latch.modify w.ctx.sp.islot age = x.latch := by
        refine modify_self _ _ _ (fun q hq => ?_)
        have e : w.rest.pier w.deck.pier = x := by
          have : w.rest.piers[w.deck.pier]? = some x := hx
          simp [State.pier, this]
        rw [e] at empty
        have : x.latch.getD w.sp.islot [] = q := by
          have : x.latch[w.sp.islot]? = some q := hq
          simp [List.getD, this]
        rw [← this, empty, aged]
      rw [hl]
    simp only [State.modPier, this]
  have count : ∀ src n, countPier w.ctx.s w.ctx.deck.pier src n = w.ctx.s := fun src n => countPier_still (s := w.ctx.s) (p := w.deck.pier) h1 h2 h3 src n
  have spans : w.ctx.s.modSpan w.ctx.u (fun x => { x with lastIssue := w.ctx.s.time, front := w.ctx.s.fresh }) = w.ctx.s := by
    have : w.ctx.s.spans.map (fun x => if x.uid == w.ctx.u then { x with lastIssue := w.ctx.s.time, front := w.ctx.s.fresh } else x) = w.ctx.s.spans := by
      refine (List.map_congr_left (fun x hx => ?_)).trans (List.map_id _)
      split
      · rename_i hu
        have e : x.lastIssue = w.ctx.s.time ∧ x.front = w.ctx.s.fresh := (last x hx).resolve_left (fun n => n (eq_of_beq hu))
        rw [← e.1, ← e.2]; rfl
      · rfl
    simp only [State.modSpan, this]
  have begun : w.ctx.started i = w.ctx.s := by
    unfold Ctx.started
    rw [show (if w.ctx.iss.cols.isSome && !w.ctx.iss.fetched then [] else (heldRegs i).filter (fun r => (w.ctx.sp.vreg r).isVector)) = [] from none]
    dsimp only
    rw [hage, same, count, count, count, ite_self]
    exact spans
  have : w.ctx.s.time = w.ctx.sp.lastIssue := now.symm
  have at' : w.ctx.s.fresh = w.ctx.sp.front := front.symm
  simp only [Ctx.start, begun, this, at']
  rfl

theorem World.picked {w : World} (h : w.sound = true) : ctxOf { w.state with cur := none } w.iss = some w.ctx := by
  simp only [World.sound, Bool.and_eq_true] at h
  have named : w.names = w.named := eq_of_beq h.1.1.1
  simp only [World.names, World.named, List.cons.injEq, and_true] at named
  simp [ctxOf, World.state, World.ctx, State.span?, State.deck?, State.girder?, State.launch?, State.ctx?, named]
theorem World.shaped {w : World} (h : w.sound = true) : w.sp.Shaped := by
  simp only [World.sound, Bool.and_eq_true] at h
  have sizes := eq_of_beq h.1.1.2
  have width := eq_of_beq h.1.2
  simp only [List.cons.injEq, and_true] at sizes
  exact ⟨sizes.1, sizes.2.1, sizes.2.2.1, sizes.2.2.2, by omega⟩
theorem World.fits {w : World} {i : Instr} (h : i.grade.elim true (· == gradeOf w.deck.pier) = true) : ∀ g, i.grade = some g → g = gradeOf w.deck.pier := by
  intro g hg
  rw [hg] at h
  exact eq_of_beq h

/-- Whatever it is that issues, its context is that of the world, begun. -/
theorem World.begins {w : World} (h : w.sound = true) (i : Instr) : startCtx i w.state = some (w.ctx.start i) := by
  show (ctxOf { w.state with cur := none } w.iss).map (fun c => c.start i) = _
  rw [World.picked h]
  rfl
theorem World.clean {w : World} (h : w.sound = true) (i : Instr) : poisonLanes (w.ctx.start i) i = 0#64 := by
  have : w.sp.poison = [] := by simp_all [World.sound]
  exact if_pos (by show (w.sp.poison == []) = true; simp [this])

theorem World.issues (w : World) (i : Instr) (h : w.ok i = true) : Issues w.state i w.ctx := by
  simp only [World.ok, Bool.and_eq_true, bne_iff_ne] at h
  have s := h.1.1.1.1
  exact ⟨World.starts h.2 ▸ World.begins s i, h.1.1.2, World.fits h.1.2, h.1.1.1.2, World.starts h.2 ▸ World.clean s i, World.shaped s⟩
theorem World.passes (w : World) (i : Instr) (h : w.idle i = true) : PassesBy w.state i w.ctx := by
  simp only [World.idle, Bool.and_eq_true] at h
  have s := h.1.1.1.1
  exact ⟨World.starts h.2 ▸ World.begins s i, h.1.1.2, World.fits h.1.2, eq_of_beq h.1.1.1.2, World.shaped s⟩

/-- Lanes that stand at a word of an ALU clause. -/
def demoLane : Lane := { newLane 0x14000 16 true with pos := ⟨0x14004, some ⟨.alu, 0x14040⟩, true, .standing⟩ }
/-- v1 is AFFINE, v2 VECTOR; every other register is UNIFORM 0 but the pair v10:11, the highest word address. -/
def demoRegs : List VReg :=
  (List.range 128).map (fun r => if r = 1 then .affine 0#32 0#3 else if r = 2 then .vector 0 [0#32, 5#32, 1#32, 0#32, 9#32, 0#32, 7#32, 0#32]
    else if r = 10 then .uniform 0xFFFFFFFC#32 else if r = 11 then .uniform 0x01FFFFFF#32
    else if r = 12 then .uniform 0x00030000#32 else .uniform 0#32)
def demoSpan : Span :=
  { newSpan 4 3 0 8 0#2 0 0 demoRegs (List.replicate 8 demoLane) 128 0 false with grant := 1, used := 1, quiet := false, front := 20 }
def demoDeck (pier : Nat) : Deck := { newDeck 3 2 0 pier 0 0 1024 1 with status := .running }
/-- The launch has 16 bytes of private memory a lane, 64 constant bytes, timelines 0 to 3 of the four kinds. -/
def demoLaunch : Launch := { fetchLaunch 1 0 0 with priv := 16, constBase := 0x30000, constSize := 64, tlbind := 0xFAC#64 }
def demoCx : Context := { fetchContext 0 with d := { fetchContext 0 |>.d with handler := 0x14000, frameBase := 0x100000, wdog := 10, gpLimit := 20 } }
def demoIssue : Issue := Issue.plain 4 0xFF#64 0xFF#64 0x14004 .alu 0x14040
/-- Tables that map the first 1 GiB of a context's addresses onto device memory. -/
def demoRest : State := { placeWords State.reset .alu [] with fresh := 20, trust := { State.reset.trust with booted := true } }
/-- On an M pier and on a V pier. -/
def onM : World := ⟨demoSpan, demoDeck 0, newGirder 2 1 0 0 0 1 0, demoLaunch, demoCx, demoIssue, demoRest⟩
def onV : World := { onM with deck := demoDeck 160 }

/-- Change the span, the pier, the issue. -/
def World.withSpan (w : World) (f : Span → Span) : World := { w with sp := f w.sp }
def World.withPier (w : World) (f : Pier → Pier) : World := { w with rest := w.rest.modPier w.deck.pier f }
def World.by_ (w : World) (a : LaneSet) : World := { w with iss := { w.iss with aset := a } }

/-! ## Premises: results in registers and masks -/

/-- Every well-formed instruction issues on a pier that has it, with room for up to 127 registers: the premises of every statement that an
instruction computes or marks (integer, shift, bit field, pair, carry, state read, float, conversion, lane, mask and conversion results),
of nop, pref, cctl, yield, fence, and of the per-lane system effects. -/
theorem test_met_every_form_issues :
    (∀ i, i.wf = true → i.grade ≠ some .v → Issues onM.state i (onM.ctx.start i)) ∧
    (∀ i, i.wf = true → i.grade ≠ some .m → Issues onV.state i (onV.ctx.start i)) ∧
    (∀ i, ∀ ds : List (Nat × (Nat → Word)), ds.length ≤ 127 →
      Room (onM.ctx.start i) (needOf (onM.ctx.start i) ds) ∧ Room (onV.ctx.start i) (needOf (onV.ctx.start i) ds)) ∧
    (∀ i, ∀ ds : List Nat, ds.length ≤ 127 →
      Room (onM.ctx.start i) (needAtIssue (onM.ctx.start i) ds) ∧ Room (onV.ctx.start i) (needAtIssue (onV.ctx.start i) ds)) := by
  have issues (w : World) (g : Grade) (hg : gradeOf w.deck.pier = g) (hw : w.sound = true) (ha : w.iss.aset ≠ 0#64) (i : Instr) (h : i.wf = true)
      (h2 : ∀ x, i.grade = some x → x = g) : Issues w.state i (w.ctx.start i) :=
    ⟨World.begins hw i, h, fun x hx => (h2 x hx).trans hg.symm, ha, World.clean hw i,
      let s := World.shaped hw; ⟨s.1, s.2, s.3, s.4, s.5⟩⟩
  have room (w : World) (n : Nat) (i : Instr) (h : n ≤ 127) (h1 : w.sp.grant = 1 ∧ w.sp.ceil = 128 ∧ w.deck.pier < w.rest.piers.length ∧
      127 ≤ (w.ctx.s.pier w.ctx.deck.pier).pool) : Room (w.ctx.start i) n := by
    refine .inr ⟨?_, ?_⟩
    · show w.sp.grant + _ ≤ w.sp.ceil
      omega
    · have := Ctx.started_pool w.ctx i w.ctx.deck.pier
      show n - _ ≤ ((w.ctx.started i).pier w.ctx.deck.pier).pool
      omega
  have len {α : Type} (p : α → Bool) (ds : List α) (h : ds.length ≤ 127) : (ds.filter p).length * 1 ≤ 127 := by
    have := List.length_filter_le p ds
    omega
  have wide (w : World) (ho : w.sp.octets = 1) (ds : List (Nat × (Nat → Word))) (h : ds.length ≤ 127) : needOf w.ctx ds ≤ 127 := by
    rw [needOf, wideOf, List.length_map, show w.ctx.sp.octets = 1 from ho]
    exact len _ ds h
  refine ⟨fun i h hg => issues onM .m (by decide) (by decide +kernel) (by decide) i h ?_,
    fun i h hg => issues onV .v (by decide) (by decide +kernel) (by decide) i h ?_,
    fun i ds h => ⟨room onM (needOf onM.ctx ds) i (wide _ rfl ds h) (by decide +kernel),
      room onV (needOf onV.ctx ds) i (wide _ rfl ds h) (by decide +kernel)⟩,
    fun i ds h => ⟨room onM (needAtIssue onM.ctx ds) i (len _ ds h) (by decide +kernel), room onV (needAtIssue onV.ctx ds) i (len _ ds h) (by decide +kernel)⟩⟩
  · intro x hx; cases x <;> simp_all
  · intro x hx; cases x <;> simp_all

/-- An access that reaches its location, as a computation. -/
def reachB (c : Ctx) (s : State) (maxType : Nat) (reads : Bool) (r : Req) (l : Loc) (mt : Nat) : Bool :=
  r.addr.toNat % r.size == 0 && decide (mt ≤ maxType) && (!reads || !stillPoisoned s c.u r.lane l r.size) &&
  (match resolve c s r.sp r.lane r.addr r.size with
   | some g => translateTarget c s r.wr g == .ok l mt
   | none => false)
theorem reaches_of {c s maxType reads r l mt} (h : reachB c s maxType reads r l mt = true) : Reaches c s maxType reads r l mt := by
  unfold reachB at h
  cases hr : resolve c s r.sp r.lane r.addr r.size with
  | none => simp [hr] at h
  | some g =>
    simp only [hr, Bool.and_eq_true, beq_iff_eq, decide_eq_true_eq, Bool.or_eq_true, Bool.not_eq_true'] at h
    refine ⟨h.1.1.1, h.1.1.2, ?_, g, hr, h.2⟩
    intro hr'
    cases h.1.2 with
    | inl h' => simp [hr'] at h'
    | inr h' => exact h'
theorem reach_all {c s maxType reads} {r : Nat → Req} {l : Nat → Loc} {mt : Nat → Nat}
    (h : c.lanes.all (fun k => reachB c s maxType reads (r k) (l k) (mt k)) = true) :
    ∀ k ∈ c.lanes, Reaches c s maxType reads (r k) (l k) (mt k) :=
  fun k hk => reaches_of (List.all_eq_true.mp h k hk)

/-- An access that fails a check, as a computation. -/
def failsB (c : Ctx) (s : State) (align : Req → Nat) (maxType : Nat) (reads : Bool) (q : Req) (cause : Nat) : Bool :=
  let target := resolve c s q.sp q.lane q.addr q.size
  match cause with
  | 0x0008 => decide (q.addr.toNat % align q ≠ 0)
  | 0x0005 => target.isNone
  | 0x0006 => target.any (fun g => match translateTarget c s q.wr g with
    | .prot _ => true
    | .ok _ mt => decide (maxType < mt)
    | _ => false)
  | 0x0007 => target.any (fun g => translateTarget c s q.wr g == .absent)
  | 0x000C => reads && target.any (fun g => match translateTarget c s q.wr g with
    | .ok l _ => stillPoisoned s c.u q.lane l q.size
    | _ => false)
  | _ => false
theorem fails_iff (c s align maxType reads q cause) : Ctx.fails c s align maxType reads q cause ↔ failsB c s align maxType reads q cause = true := by
  unfold failsB Ctx.fails
  cases hr : resolve c s q.sp q.lane q.addr q.size with
  | none => split <;> simp_all
  | some g => cases ht : translateTarget c s q.wr g <;> split <;> simp_all

/-- Some access fails the check of a cause and none an earlier one, none waits for a translation from the third check on, and i issues. -/
def Trips (w : World) (i : Instr) (b : State) (align : Req → Nat) (maxType : Nat) (reads : Bool) (reqs : List Req) (k : Nat) : Prop :=
  Issues w.state i w.ctx ∧ ∃ before after, [0x0008, 0x0005, 0x0006, 0x0007, 0x000C] = before ++ k :: after ∧
    (∀ j ∈ before, ∀ q ∈ reqs, ¬ w.ctx.fails b align maxType reads q j) ∧ (∃ q ∈ reqs, w.ctx.fails b align maxType reads q k) ∧
    (2 ≤ before.length → w.ctx.translated b reqs)
def tripsB (w : World) (i : Instr) (b : State) (align : Req → Nat) (maxType : Nat) (reads : Bool) (reqs : List Req) (n : Nat) : Bool :=
  let cs := [0x0008, 0x0005, 0x0006, 0x0007, 0x000C]
  w.ok i && decide (n < 5) && (cs.take n).all (fun j => reqs.all (fun q => !failsB w.ctx b align maxType reads q j)) &&
    reqs.any (fun q => failsB w.ctx b align maxType reads q (cs.getD n 0)) &&
    (decide (n < 2) || reqs.all (fun q => (resolve w.ctx b q.sp q.lane q.addr q.size).all (fun g => match translateTarget w.ctx b q.wr g with
      | .ask _ | .noMem => false
      | _ => true)))
theorem trips {w i b align maxType reads reqs n} (h : tripsB w i b align maxType reads reqs n = true) :
    Trips w i b align maxType reads reqs ([0x0008, 0x0005, 0x0006, 0x0007, 0x000C].getD n 0) := by
  simp only [tripsB, Bool.and_eq_true, Bool.or_eq_true, List.all_eq_true, List.any_eq_true, Bool.not_eq_true', decide_eq_true_eq] at h
  obtain ⟨⟨⟨⟨ok, hn⟩, h1⟩, ⟨q, hq, h2⟩⟩, h3⟩ := h
  refine ⟨w.issues i ok, [0x0008, 0x0005, 0x0006, 0x0007, 0x000C].take n, [0x0008, 0x0005, 0x0006, 0x0007, 0x000C].drop (n + 1), ?_, ?_,
    ⟨q, hq, (fails_iff ..).mpr h2⟩, ?_⟩
  · match n, hn with
    | 0, _ => rfl
    | 1, _ => rfl
    | 2, _ => rfl
    | 3, _ => rfl
    | 4, _ => rfl
  · intro j hj q hq hf
    have := h1 j hj q hq
    rw [(fails_iff ..).mp hf] at this
    cases this
  · intro h2' q hq g hg
    have hl : 2 ≤ n := by simp only [List.length_take] at h2'; omega
    have := (h3.resolve_left (by omega)) q hq
    rw [hg] at this
    simp only [Option.all_some] at this
    constructor
    · intro p hp; rw [hp] at this; cases this
    · intro hp; rw [hp] at this; cases this

/-- A computation that succeeds. -/
def isOk {α : Type} (r : Run α) : Bool := match r with | .ok _ => true | .error _ => false
/-- A lane of m satisfies p. -/
def rejectB (w : World) (i : Instr) (m : LaneSet) (p : Nat → Bool) : Bool := w.ok i && (List.range 64).any (fun l => hasLane m l && p l &&
  (List.range l).all (fun k => !(hasLane m k && p k)))

/-- No slot is spare, and the ceiling, or the pool, gives none. -/
def capped : World := onM.withSpan (fun x => { x with ceil := 1 })
def drained : World := onM.withPier (fun p => { p with pool := 0 })
theorem no_room (n : Nat) (h : n ≠ 0) : ¬ Room capped.ctx n ∧ ¬ Room drained.ctx n := by
  have a : capped.ctx.sp.spare = 0 := by decide
  have b : drained.ctx.sp.spare = 0 := by decide
  have c : (drained.ctx.s.pier drained.ctx.deck.pier).pool = 0 := by decide
  have d : capped.ctx.sp.ceil = 1 ∧ capped.ctx.sp.grant = 1 := by decide
  constructor
  · rintro (h' | ⟨h', -⟩) <;> omega
  · rintro (h' | ⟨-, h'⟩) <;> omega

/-! ## Premises: what reads the machine's state, stacks, waits, shapes -/

/-- A span in trap mode. -/
def inTrap : World := onM.withSpan (fun x => { x with trap := some ⟨0x100000, 0x0F, 7#64, 0xFF#64, [124, 125, 126, 127].map x.vreg, [], none⟩ })
/-- The group is a set of lanes, which all execute. -/
def World.asGroup (w : World) (g : LaneSet) : World := { w with iss := { w.iss with gset := g, aset := g } }
/-- A serial section of lanes 0 and 2 in which lane 0 runs, and one in which lane 2 does. -/
def inSerial (run : Nat) : World :=
  (onM.withSpan (fun x => { x with serial := some ⟨false, 0x05#64, run, if run = 2 then 1#64 else 0#64, 0x14040, none, true, 0xFF#64⟩ })).by_ (oneLane run)

theorem test_met_state_reads : (∃ t, inTrap.ctx.sp.trap = some t) ∧ onM.ctx.sp.trap = none ∧ inTrap.ok (.csrr 5#7 0x10#10) = true ∧
    onM.ok (.csrr 6#7 0x11#10) = true := ⟨⟨_, rfl⟩, rfl, by decide, by decide⟩

/-- Each register-writing form without room, by the ceiling and by the pool: a destination that its values widen, one that widens with every lane's own
value, and those that count whatever they take. -/
theorem test_met_no_room :
    (∀ n ≠ 0, ¬ Room capped.ctx n ∧ ¬ Room drained.ctx n) ∧ [capped, drained].all (fun w =>
      let c := w.ctx
      let f3 : FormF := ⟨0#2, 30#7, 2#7, .reg 2#7, 0#2⟩
      let wide (i : Instr) (ds : List (Nat × (Nat → Word))) : Bool := w.ok i && needOf c ds != 0
      wide (.mov ⟨30#7, 2#7, false, false⟩) (put 30#7 (c.src 2#7)) && wide (.and ⟨30#7, 2#7, .reg 2#7, 0#2, false⟩) (put 30#7 (fun l => c.src 2#7 l &&& c.src 2#7 l)) &&
      wide (.addc 3#4 ⟨30#7, 2#7, .reg 0#7, 0#2, false⟩) (put 30#7 (fun l => c.src 2#7 l + c.srcB (.reg 0#7) l + 0#32)) &&
      wide (.sel 3#4 ⟨30#7, 0#7, .reg 2#7, 0#2, false⟩) (put 30#7 (fun l => if hasLane (c.sp.mask 3) l then c.src 0#7 l else c.srcB (.reg 2#7) l)) &&
      wide (.fadd f3) (fop2 f3 (fun m a b => m.pack 0 ((m.unpack a).add (m.unpack b))) c) &&
      needAtIssue c [30, 31] != 0) = true := ⟨no_room, by decide +kernel⟩

/-- Generic pointers to the last private word and the last byte of deck memory (07 R163). -/
def pointers : World := onM.withSpan (fun x => { x with regs := (x.regs.set 20 (.uniform 15#32)).set 21 (.uniform 1023#32) })
theorem test_met_issue_time_results :
    (Issues pointers.state (.p2g 30#7 20#7 (.reg 0#7) false) pointers.ctx ∧ Room pointers.ctx (needAtIssue pointers.ctx [30, 31]) ∧
      ∀ l ∈ pointers.ctx.lanes, (pointers.ctx.pointer false (pointers.ctx.src 20#7 l) (pointers.ctx.srcB (.reg 0#7) l) l).isSome = true) ∧
    (Issues pointers.state (.p2g 30#7 21#7 (.reg 0#7) true) pointers.ctx ∧
      ∀ l ∈ pointers.ctx.lanes, (pointers.ctx.pointer true (pointers.ctx.src 21#7 l) (pointers.ctx.srcB (.reg 0#7) l) l).isSome = true) :=
  ⟨⟨pointers.issues _ (by decide), .inr (by decide), by decide⟩, pointers.issues _ (by decide), by decide⟩

/-- Offsets at the ends of both windows; addresses of every class: beyond 57 bits, below the windows, in deck memory, past its end and off its field,
in the own lane's private memory, in another lane's and past its end. -/
def astray : World := onM.withSpan (fun x => { x with regs := (x.regs.set 20 (.uniform 16#32)).set 21 (.uniform 1024#32) })
theorem test_met_pointers_and_classes :
    (let c := astray.ctx
     astray.ok (.p2g 30#7 20#7 (.reg 0#7) false) = true ∧ astray.ok (.p2g 30#7 21#7 (.reg 0#7) true) = true ∧ isOk (c.reserve c.s (two 30#7)) = true ∧
     c.pointer false (c.src 20#7 0) 0#32 0 = none ∧ c.pointer true (c.src 21#7 0) 0#32 0 = none ∧ c.launch.priv ≤ 16 ∧ c.girder.size ≤ 1 ∧
     c.launch.priv ≤ 2 ^ 20 ∧ c.deck.pier < 2 ^ 9 ∧ c.deck.slot < 2 ^ 4 ∧ c.sp.idx * c.W + 7 < 2 ^ 11 ∧
     (c.s.decksOf c.girder.uid).find? (fun d => d.member == 0) = some c.deck ∧ 0 < c.girder.size ∧ 1023 < c.deck.memSize ∧ c.deck.memSize ≤ 2 ^ 19) ∧
    (let c := astray.ctx
     let kind (a : DWord) : Nat × Word := ((a.extractLsb' 44 20).toNat, c.spaceClass a 0)
     [0x0200000000000000#64, 0x30000#64, 0x01FFE000000003FF#64, 0x01FFE00000000400#64, 0x01FFE00000080000#64, 0x01FFF0000000000F#64, 0x01FFF0000070000F#64,
       0x01FFF00000000010#64].map kind = [(0x02000, 5#32), (0, 0#32), (0x01FFE, 1#32), (0x01FFE, 5#32), (0x01FFE, 5#32), (0x01FFF, 3#32), (0x01FFF, 4#32),
       (0x01FFF, 5#32)]) ∧
    [capped, drained].all (fun w => w.ok (.qspace 30#7 12#7) && w.ok (.tlread 30#7 0#7) && w.ok (.tstat 30#7 0#7) && w.ok (.tagcnt 30#7 0#3) &&
      w.ok (.p2g 30#7 0#7 (.reg 0#7) false)) = true := by
  refine ⟨?_, ?_, ?_⟩ <;> decide +kernel

/-- The highest word address is a target; exit, and the end of lanes of a span. -/
theorem test_met_branches_and_exits :
    (Issues onM.state (.brai 10#7 false) onM.ctx ∧ ∀ l ∈ onM.ctx.lanes, goodTarget (onM.ctx.pair 10#7 l)) ∧ onM.ok (.exit 0#4) = true ∧
    onM.state.span? 4 = some demoSpan ∧ demoSpan.lanes.length = demoSpan.width ∧ demoSpan.width ≤ 64 :=
  ⟨⟨onM.issues _ (by decide), fun l hl => ⟨by revert l; decide, by revert l; decide⟩⟩, by decide, by decide, by decide, by decide⟩

/-- Every lane's %sp is 16, its private memory 16 bytes and %splim 0: the least room a call and a push of four registers have. -/
theorem test_met_stack_instructions :
    (Issues onM.state (.call 0#4 16#20) onM.ctx ∧ onM.ctx.chosen 0#4 ≠ 0#64 ∧ onM.ctx.callable (onM.ctx.chosen 0#4)) ∧
    (Issues onM.state (.call 1#4 16#20) onM.ctx ∧ onM.ctx.chosen 1#4 = 0#64) ∧
    (Issues onM.state (.calli 10#7 false) onM.ctx ∧ onM.ctx.callable onM.ctx.A ∧ ∀ l ∈ onM.ctx.lanes, goodTarget (onM.ctx.pair 10#7 l)) ∧
    (Issues onM.state (.pushv 4#7 4#7) onM.ctx ∧ ∀ l ∈ onM.ctx.lanes,
      onM.ctx.stack l % 16 = 0 ∧ (onM.ctx.sp.lane l).splim.toNat + stackSize 4 ≤ onM.ctx.stack l ∧ onM.ctx.stack l ≤ onM.ctx.launch.priv) := by
  refine ⟨⟨onM.issues _ (by decide), by decide, ?_⟩, ⟨onM.issues _ (by decide), by decide⟩, ⟨onM.issues _ (by decide), ?_, ?_⟩, onM.issues _ (by decide),
    by decide⟩
  · unfold Ctx.callable; decide
  · unfold Ctx.callable; decide
  · exact fun l hl => ⟨by revert l; decide, by revert l; decide⟩
/-- %sp is 0: a return address and four registers lie above it. -/
def popped : World := onM.withSpan (fun x => { x with lanes := x.lanes.map (fun y => { y with sp := 0#32 }) })
theorem test_met_returns_and_pops :
    (Issues popped.state .ret popped.ctx ∧ (∀ l ∈ popped.ctx.lanes, popped.ctx.stack l % 16 = 0 ∧ popped.ctx.stack l + 8 ≤ popped.ctx.launch.priv) ∧
      (∀ l ∈ popped.ctx.lanes, goodTarget (valueAt (drain popped.ctx.s popped.ctx.u popped.ctx.A) (popped.ctx.privAt l (popped.ctx.stack l)) 8)) ∧
      ∀ l ∈ popped.ctx.lanes, stillPoisoned popped.ctx.s popped.ctx.u l (popped.ctx.privAt l (popped.ctx.stack l)) 8 = false) ∧
    (Issues popped.state (.popv 4#7 4#7) popped.ctx ∧ Room popped.ctx (needAtIssue popped.ctx (regRange 4 4)) ∧
      ∀ l ∈ popped.ctx.lanes, popped.ctx.stack l % 16 = 0 ∧ popped.ctx.stack l + 4 * 4 ≤ popped.ctx.launch.priv) :=
  ⟨⟨popped.issues _ (by decide), by decide, fun l hl => ⟨by revert l; decide, by revert l; decide⟩, by decide⟩, popped.issues _ (by decide), .inr (by decide), by decide⟩

/-- Every %sp is 8, or 32, beyond the private memory; register pairs that hold 2 and 2^57. -/
def skewed : World := onM.withSpan (fun x => { x with lanes := x.lanes.map (fun y => { y with sp := 8#32 }) })
def beyond : World := onM.withSpan (fun x => { x with lanes := x.lanes.map (fun y => { y with sp := 32#32 }) })
def aimed : World := onM.withSpan (fun x => { x with regs := (x.regs.set 20 (.uniform 2#32)).set 23 (.uniform 0x02000000#32) })
/-- A return address of lane 0 that is no word's, and one beyond 57 bits; a private byte that is poisoned. -/
def wrongReturn (off : Nat) : World := { popped with deck := { popped.deck with priv := popped.deck.priv.write off 2#8 } }
def tainted : World := { popped with deck := { popped.deck with poisonP := [3] } }
def reserved (w : World) (ds : List Nat) : State := match w.ctx.reserve w.ctx.s ds with
  | .ok r => r.1
  | .error _ => w.ctx.s
/-- Calls, pushes, pops and returns that trap: on %sp, on its room, on a target, and where a private access fails (see `trips`). -/
theorem test_met_stack_traps :
    [Instr.call 0#4 16#20, .calli 10#7 false, .pushv 4#7 4#7, .popv 4#7 4#7, .ret].all (fun i =>
      rejectB skewed i skewed.ctx.A (fun l => skewed.ctx.stack l % 16 != 0)) = true ∧
    [Instr.call 0#4 16#20, .calli 10#7 false, .pushv 4#7 4#7].all (fun i =>
      rejectB popped i popped.ctx.A (fun l => decide (popped.ctx.stack l < (popped.ctx.sp.lane l).splim.toNat + 16))) = true ∧
    [(20#7, true), (22#7, false)].all (fun (r, low) => [Instr.brai r false, .calli r false].all (fun i => rejectB aimed i aimed.ctx.A (fun l =>
      if low then (aimed.ctx.pair r l).toNat % 4 != 0 else (aimed.ctx.pair r l).toNat % 4 == 0 && decide (2 ^ 57 ≤ (aimed.ctx.pair r l).toNat)))) = true ∧
    [0, 7].all (fun k => let w := wrongReturn k
      rejectB w .ret w.ctx.A (fun l => let v := (valueAt (drain w.ctx.s w.ctx.u w.ctx.A) (w.ctx.privAt l (w.ctx.stack l)) 8).toNat
        if k = 0 then v % 4 != 0 else v % 4 == 0 && decide (2 ^ 57 ≤ v))) = true ∧
    [Instr.call 0#4 16#20, .calli 10#7 false, .pushv 4#7 4#7].all (fun i =>
      tripsB beyond i beyond.ctx.s (·.size) 0 false (stackReqs beyond.ctx.A true (fun l => beyond.ctx.stack l - 16) 4) 1) = true ∧
    [(beyond, 1), (tainted, 4)].all (fun (w, n) => tripsB w .ret w.ctx.s (·.size) 0 true (stackReqs w.ctx.A false w.ctx.stack 2) n &&
      tripsB w (.popv 4#7 4#7) (reserved w [4, 5, 6, 7]) (·.size) 0 true (stackReqs w.ctx.A false w.ctx.stack 4) n) = true ∧
    capped.ok (.popv 4#7 4#7) = true ∧ needAtIssue capped.ctx (regRange 4 4) ≠ 0 := by
  refine ⟨?_, ?_, ?_, ?_, ?_, ?_, ?_, ?_⟩ <;> decide +kernel

/-- waitm outside a serial section and by its run lane; ser with lanes and with none, with no section open, another lane's, and by the run lane;
endser by a lane that is not the last, by the last, by none, and by lanes beside the run lane. -/
theorem test_met_wait_sets_and_serial_sections :
    (PassesBy (onM.by_ 0#64).state (.ser 3#20) (onM.by_ 0#64).ctx ∧ (onM.by_ 0#64).ctx.sp.serial = none) ∧
    (Issues ((inSerial 0).asGroup 0xF0#64).state (.ser 3#20) ((inSerial 0).asGroup 0xF0#64).ctx ∧
      ∃ z, ((inSerial 0).asGroup 0xF0#64).ctx.sp.serial = some z ∧ hasLane ((inSerial 0).asGroup 0xF0#64).ctx.G z.run = false) ∧
    (Issues (inSerial 0).state (.ser 3#20) (inSerial 0).ctx ∧ ∃ z, (inSerial 0).ctx.sp.serial = some z ∧ hasLane (inSerial 0).ctx.G z.run = true) ∧
    (PassesBy (onM.by_ 0#64).state .endser (onM.by_ 0#64).ctx ∧ ∀ z, (onM.by_ 0#64).ctx.sp.serial = some z → hasLane (onM.by_ 0#64).ctx.G z.run = false) ∧
    (Issues ((inSerial 0).by_ 3#64).state .endser ((inSerial 0).by_ 3#64).ctx ∧
      ∀ z, ((inSerial 0).by_ 3#64).ctx.sp.serial = some z → ((inSerial 0).by_ 3#64).ctx.A &&& ~~~(oneLane z.run) ≠ 0#64) ∧
    (Issues onM.state (.waitm 1#4) onM.ctx ∧ onM.ctx.byRunLane = false) ∧
    (Issues (inSerial 0).state (.waitm 1#4) (inSerial 0).ctx ∧ (inSerial 0).ctx.byRunLane = true) ∧
    (Issues onM.state (.ser 3#20) onM.ctx ∧ onM.ctx.sp.serial = none) ∧
    (Issues (inSerial 0).state .endser (inSerial 0).ctx ∧ ∃ z, (inSerial 0).ctx.sp.serial = some z ∧ hasLane (inSerial 0).ctx.G z.run = true ∧
      (inSerial 0).ctx.A &&& ~~~(oneLane z.run) = 0#64 ∧ z.set &&& ~~~(z.done ||| oneLane z.run) &&& (inSerial 0).sp.live ≠ 0#64) ∧
    (∃ z, (inSerial 2).ctx.sp.serial = some z ∧ (inSerial 2).state.span? 4 = some (inSerial 2).sp ∧
      z.set &&& ~~~(z.done ||| oneLane z.run) &&& (inSerial 2).sp.live = 0#64) :=
  ⟨⟨(onM.by_ 0#64).passes _ (by decide), rfl⟩, ⟨((inSerial 0).asGroup 0xF0#64).issues _ (by decide), _, rfl, by decide⟩,
   ⟨(inSerial 0).issues _ (by decide), _, rfl, by decide⟩, ⟨(onM.by_ 0#64).passes _ (by decide), by decide⟩,
   ⟨((inSerial 0).by_ 3#64).issues _ (by decide), by rintro z ⟨⟩; decide⟩,
   ⟨onM.issues _ (by decide), by decide⟩, ⟨(inSerial 0).issues _ (by decide), by decide⟩, ⟨onM.issues _ (by decide), rfl⟩,
   ⟨(inSerial 0).issues _ (by decide), _, rfl, by decide, by decide, by decide⟩, _, rfl, by decide, by decide⟩

theorem test_met_shape_asserts :
    (Issues onM.state (.shassert 0#7 0#7) onM.ctx ∧ onM.ctx.sp.vreg 0 = .uniform 0#32) ∧ (Issues onM.state (.shassert 0#7 3#7) onM.ctx) ∧
    (Issues onM.state (.shassert 1#7 1#7) onM.ctx ∧ onM.ctx.sp.vreg 1 = .affine 0#32 0#3) ∧
    (Issues onM.state (.shassert 2#7 2#7) onM.ctx ∧ (onM.ctx.sp.vreg 2).isVector = true) ∧
    [Instr.shassert 0#7 1#7, .shassert 1#7 3#7, .shassert 2#7 0#7].all (fun i => onM.ok i) = true :=
  ⟨⟨onM.issues _ (by decide), by decide⟩, onM.issues _ (by decide), ⟨onM.issues _ (by decide), by decide⟩, ⟨onM.issues _ (by decide), by decide⟩, by decide +kernel⟩

/-- Another span waits for slots on the pier; the pier has few. -/
def queuedPier : World := onM.withPier (fun p => { p with growQ := [(9, 1)] })
def poorPier : World := onM.withPier (fun p => { p with pool := 2 })
theorem test_met_shapes_that_fail : onM.ok (.shforce 0#7 4#7 1#7) = true ∧
    (regRange 0 4).find? (fun r => (onM.ctx.sp.vreg r).isVector && (checker (onM.ctx.sp.vals r)).isNone) = some 2 := by decide +kernel
/-- A shforce to vector and a shrink that find no room: of a span that is not there, of another one, and of its own with a count that widens. -/
def shrinks : World := onM.withSpan (fun x => { x with grant := 4, regs := (x.regs.set 20 (.uniform 0#32)).set 21 (.uniform 2#32) })
theorem test_met_shapes_without_room :
    [capped, drained].all (fun w => w.ok (.shforce 20#7 6#7 0#7) && needAtIssue w.ctx (regRange 20 6) != 0 &&
      (w.by_ 3#64).ok (.shrink ⟨2#7, 12#7, 0#7, 0#2⟩) && (w.by_ 3#64).ok (.shrink ⟨1#7, 0#7, 21#7, 0#2⟩) &&
      needOf (w.by_ 3#64).ctx (put 1#7 (fun _ => 0#32)) != 0 && widens (w.by_ 3#64).ctx.sp 1 (fun _ => 0#32) 3#64) = true ∧
    (shrinks.by_ 3#64).ok (.shrink ⟨1#7, 20#7, 21#7, 0#2⟩) = true ∧ (shrinks.ctx.s.spansOf 3).find? (fun y => y.idx == 0) = some shrinks.sp ∧
    widens shrinks.sp 1 (fun _ => BitVec.ofNat 32 (min 2 shrinks.sp.spare)) 3#64 = true ∧ Room (shrinks.by_ 3#64).ctx 1 :=
  ⟨by decide +kernel, by decide +kernel, by decide +kernel, by decide +kernel, .inl (by decide)⟩
theorem test_met_shape_and_grant_changes :
    (Issues onM.state (.shforce 20#7 6#7 0#7) onM.ctx ∧ Room onM.ctx (needAtIssue onM.ctx (regRange 20 6))) ∧
    (Issues onM.state (.shforce 1#7 1#7 1#7) onM.ctx ∧ ∀ r ∈ regRange 1 1, (onM.ctx.sp.vreg r).isVector = true →
      (checker (onM.ctx.sp.vals r)).isSome = true) ∧
    (Issues onM.state (.shpack 1#7 2#7) onM.ctx) ∧
    (Issues onM.state (.grow 127#9) onM.ctx ∧ onM.ctx.sp.grant + 127 ≤ onM.ctx.sp.ceil ∧ (onM.ctx.s.pier onM.ctx.deck.pier).growQ = [] ∧
      127 ≤ (onM.ctx.s.pier onM.ctx.deck.pier).pool) ∧
    (Issues queuedPier.state (.grow 1#9) queuedPier.ctx ∧ (queuedPier.ctx.s.pier queuedPier.ctx.deck.pier).growQ ≠ []) ∧
    (Issues poorPier.state (.grow 3#9) poorPier.ctx ∧ poorPier.ctx.sp.grant + 3 ≤ poorPier.ctx.sp.ceil ∧
      (poorPier.ctx.s.pier poorPier.ctx.deck.pier).pool < 3) ∧
    (Issues onM.state (.grow 0#9) onM.ctx) ∧ (Issues onM.state (.grow 128#9) onM.ctx ∧ onM.ctx.sp.ceil < onM.ctx.sp.grant + 128) ∧
    (Issues onM.state (.growTry 5#7 128#9) onM.ctx) ∧ (Issues onM.state (.growTry 5#7 127#9) onM.ctx) ∧
    (Issues onM.state (.shrink ⟨30#7, 12#7, 0#7, 0#2⟩) onM.ctx ∧ (∀ x ∈ onM.ctx.s.spansOf onM.ctx.deck.uid, x.idx ≠ (onM.ctx.src 12#7 onM.ctx.low).toNat) ∧
      Room onM.ctx (needOf onM.ctx (put 30#7 (fun _ => 0#32)))) ∧
    (Issues onM.state (.shrink ⟨30#7, 0#7, 0#7, 0#2⟩) onM.ctx ∧
      (onM.ctx.s.spansOf onM.ctx.deck.uid).find? (fun y => y.idx == (onM.ctx.src 0#7 onM.ctx.low).toNat) = some demoSpan ∧
      onM.ctx.s.span? demoSpan.uid = some demoSpan ∧ widens onM.ctx.sp 30 (fun _ => BitVec.ofNat 32 (min 0 demoSpan.spare)) onM.ctx.A = false) :=
  ⟨⟨onM.issues _ (by decide), .inr (by decide)⟩, ⟨onM.issues _ (by decide), by decide⟩, onM.issues _ (by decide),
   ⟨onM.issues _ (by decide), by decide, by decide, by decide⟩, ⟨queuedPier.issues _ (by decide), by decide⟩,
   ⟨poorPier.issues _ (by decide), by decide, by decide⟩, onM.issues _ (by decide), ⟨onM.issues _ (by decide), by decide⟩, onM.issues _ (by decide),
   onM.issues _ (by decide), ⟨onM.issues _ (by decide), by decide, .inr (by decide)⟩, onM.issues _ (by decide), by decide, by decide, by decide⟩

/-- The second GiB of addresses is host memory, of which the host has told nothing yet; a handler whose frame stands there. -/
def hosted (w : World) : World := { w with rest := putDev w.rest 0x12008 (natBytes 8 0x4000011D) }
def away_ : World := hosted (inTrap.withSpan (fun x => { x with trap := x.trap.map (fun t => { t with frame := 0x40000000 }) }))
/-- What an exit of lanes e leaves before trap mode may end. -/
def afterExit (c : Ctx) (e : LaneSet) : Run State :=
  match c.sp.serial with
  | some z => if hasLane e z.run = true
      then (c.settleResume (endLanes (goOn (drain c.s c.u (oneLane z.run)) c.iss (c.G &&& ~~~e)) c.u e)).map (fun t => endPass t c.u)
      else .ok (endLanes (goOn c.s c.iss (c.G &&& ~~~e)) c.u e)
  | none => .ok (endLanes (goOn c.s c.iss (c.G &&& ~~~e)) c.u e)
def exitMet (w : World) (ask : Bool) : Bool := w.ok (.exit 0#4) && match afterExit w.ctx (w.ctx.chosen 0#4) with
  | .ok t => (exitAsks t w.ctx.cx w.ctx.u).isSome == ask
  | .error _ => false
/-- The last pass of a section whose resume address has still to be looked up: inside the clause, behind an absent page, and in host memory of
which nothing has been told. -/
def lastPass (next resume : Nat) : World := hosted ((inSerial 2).withSpan (fun x => { x with serial := x.serial.map (fun z =>
  { z with clause := some ⟨.alu, next⟩, resume := resume, known := false }) }))
def unlookedUp (w : World) : Bool := match w.ctx.settleResume w.ctx.s with
  | .error _ => true
  | .ok t => (t.span? 4).any (fun x => x.serial.any (fun z => !z.known))
/-- Exits outside trap mode, of the run lane, and of every handler lane, with the frame readable and with its page still asked for; of the last
run lane, with a resume address inside the clause, behind an absent page, and behind a page that has still to be asked for, which an exit that leaves
no lane of the group does not ask for; and the word after which a serial section ends, or another. -/
theorem test_met_exits_and_sections :
    [onM, inSerial 0, inTrap, lastPass 0x14100 0x14040, lastPass (2 ^ 40) (2 ^ 40 + 4)].all (exitMet · false) = true ∧ exitMet away_ true = true ∧
    [lastPass 0x40000000 0x40000004].all (fun w => w.ok (.exit 0#4) && w.ok .endser && !exitMet w false && unlookedUp w) = true ∧
    exitMet ((lastPass 0x40000000 0x40000004).asGroup 0xFF#64) false = true ∧
    [lastPass 0x14100 0x14040, inSerial 0, onM].all (fun w => !unlookedUp w) = true ∧
    (onM.state.span? 4).any (fun x => x.trap.isNone) = true ∧
    [0x1403C, 0x14004].all (fun pc => ((inSerial 0).state.span? 4).any (fun x => x.serial.any (fun z =>
      ((demoIssue.span == 4) && (({ demoIssue with pc := pc } : Issue).nextPc == z.resume) == (pc == 0x1403C))))) = true := by
  refine ⟨?_, ?_, ?_, ?_, ?_, ?_, ?_⟩ <;> decide +kernel
/-- A serial section that no lane enters ends inside the clause, at the header behind it, inside the clause of that header, behind a word that is
no header, and behind a page that is absent, asked for, or where no memory is. -/
def emptySection (next : Nat) (w : Word) : World :=
  hosted { onM.by_ 0#64 with iss := { demoIssue with aset := 0#64, pc := next - 4, next := next },
                             rest := putDev (putDev demoRest 0x12010 (natBytes 8 0x800000001D)) 0x14040 (bytesOfWord w) }
def walkOf (w : World) (e : Nat) : Option (Option Clause) := match w.ctx.walkTo e ⟨.alu, w.iss.next⟩ with
  | .ok k => some k
  | .error _ => none
def fetchKind (w : World) (va : Nat) : Nat := match fetchWord w.ctx.s w.cx w.launch.uid va w.ctx.G with
  | .word x => if (decodeHeader x).isSome then 0 else 1
  | .trap _ => 2
  | .ask _ => 3
  | .noMem => 4
theorem test_met_empty_sections :
    [0x14040, 2 ^ 40, 0x40000000, 0x80000000].all (fun n => (emptySection n 0x24400000#32).idle (.ser 3#20)) = true ∧
    [0x1403C, 0x14040, 0x14044].map (walkOf (emptySection 0x14040 (Header.encode ⟨1, .mem, 0, false, 1#8, 0⟩))) =
      [some (some ⟨.alu, 0x14040⟩), some none, some (some ⟨.mem, 0x14048⟩)] ∧
    fetchKind (emptySection 0x14040 0#32) 0x14040 = 1 ∧ fetchKind (emptySection (2 ^ 40) 0#32) (2 ^ 40) = 2 ∧
    fetchKind (emptySection 0x40000000 0#32) 0x40000000 = 3 ∧ fetchKind (emptySection 0x80000000 0#32) 0x80000000 = 4 ∧
    walkOf (emptySection 0x40000000 0#32) 0x4000000C = none := by
  refine ⟨?_, ?_, ?_, ?_, ?_, ?_, ?_⟩ <;> decide +kernel

/-- Operands of the functions of 02 R42: f32 and f64 operands of frsq and fsqrt from the smallest to the largest; fexp2 of integers in, above and
below the range, and of other numbers in, above and below it. -/
def positive (m : Fmt) (b : Nat) : Bool := match m.unpack b with
  | .fin false n _ => n != 0
  | _ => false
def power (b : Nat) (p : Option Int → Int → Bool) : Bool := match Fmt.f32.unpack b with
  | .fin neg n e => n != 0 && p (asInteger neg n e) (fxFin 320 neg n e)
  | _ => false
theorem test_met_float_functions :
    [1, 0x007FFFFF, 0x3F800000, 0x7F7FFFFF].all (positive .f32) = true ∧ [1, 0x3FF0000000000000, 0x7FEFFFFFFFFFFFFF].all (positive .f64) = true ∧
    power 0xC3150000 (fun k _ => k == some (-149)) = true ∧ power 0x42FE0000 (fun k _ => k == some 127) = true ∧
    power 0x43000000 (fun k _ => k == some 128) = true ∧ power 0xC3160000 (fun k _ => k == some (-150)) = true ∧
    power 0x43008000 (fun k x => k.isNone && decide (128 * fxOne ≤ x)) = true ∧ power 0xC3804000 (fun k x => k.isNone && decide (x < -256 * fxOne)) = true ∧
    power 0x42FF8000 (fun k x => k.isNone && decide (x < 128 * fxOne)) = true ∧ power 0xC37F8000 (fun k x => k.isNone && decide (-256 * fxOne ≤ x)) = true := by
  refine ⟨?_, ?_, ?_, ?_, ?_, ?_, ?_, ?_, ?_, ?_⟩ <;> decide +kernel

/-! ## Premises: memory -/

/-- The second GiB of addresses is a device page. Registers: v14 the last deck word, v15 the last private word, v16 the last constant word,
v18 a device address. -/
def memory : World :=
  { onM.withSpan (fun x => { x with regs := ((((x.regs.set 14 (.uniform 1020#32)).set 15 (.uniform 12#32)).set 16 (.uniform 60#32)).set 18
      (.uniform 0x40000000#32)) }) with rest := putDev demoRest 0x12008 (natBytes 8 0x4000005D) }
def plain (_ : Nat) : Loc := .dev 0x30000

/-- An access of each space reaches a location, up to the last word of deck, private and constant memory, and one reaches a device page. -/
theorem test_met_loads :
    (Issues memory.state (.ld ⟨0#2, false, 4#3, 30#7, 12#7, 0#10⟩) memory.ctx ∧ Room memory.ctx (needAtIssue memory.ctx (dataRegs 4#3 30#7)) ∧
      ∀ l ∈ memory.ctx.lanes, Reaches memory.ctx memory.ctx.s 3 true ⟨l, memory.ctx.ea 0#2 12#7 (fun _ => (0#10).toInt * 4) l, 4, .generic, false⟩ (plain l) 0) ∧
    (Issues memory.state (.ld ⟨2#2, false, 4#3, 30#7, 14#7, 0#10⟩) memory.ctx ∧
      ∀ l ∈ memory.ctx.lanes, Reaches memory.ctx memory.ctx.s 3 true ⟨l, memory.ctx.ea 2#2 14#7 (fun _ => (0#10).toInt * 4) l, 4, .deck, false⟩ (.deck 3 1020) 0) ∧
    (Issues memory.state (.ld ⟨3#2, false, 4#3, 30#7, 15#7, 0#10⟩) memory.ctx ∧
      ∀ l ∈ memory.ctx.lanes, Reaches memory.ctx memory.ctx.s 3 true ⟨l, memory.ctx.ea 3#2 15#7 (fun _ => (0#10).toInt * 4) l, 4, .priv, false⟩ (.priv 3 l 12) 0) ∧
    (Issues memory.state (.ld ⟨1#2, false, 4#3, 30#7, 18#7, 0#10⟩) memory.ctx ∧ (∀ l ∈ memory.ctx.lanes, Reaches memory.ctx memory.ctx.s 3 true
      ⟨l, memory.ctx.ea 1#2 18#7 (fun _ => (0#10).toInt * 4) l, 4, .global, false⟩ (.dev 0x40000000) 2) ∧ ∃ l ∈ memory.ctx.lanes, 2 ≤ (fun _ => 2) l) ∧
    (Issues memory.state (.lduC ⟨4#3, 30#7, 16#7, 0#10⟩) memory.ctx ∧ ∀ l ∈ memory.ctx.lanes, Reaches memory.ctx memory.ctx.s 3 true
      ⟨memory.ctx.low, memory.ctx.ea 2#2 16#7 (fun _ => (0#10).toInt * 4) memory.ctx.low, 4, .const, false⟩ ((fun _ => .dev 0x3003C) l) 0) ∧
    (Issues memory.state (.lduG ⟨4#3, 30#7, 12#7, 0#10⟩) memory.ctx ∧ ∀ l ∈ memory.ctx.lanes, Reaches memory.ctx memory.ctx.s 3 true
      ⟨memory.ctx.low, memory.ctx.ea 1#2 12#7 (fun _ => (0#10).toInt * 4) memory.ctx.low, 4, .global, false⟩ (plain l) 0) ∧
    (Issues memory.state (.ldxG ⟨4#3, 30#7, 12#7, .reg 0#7, false⟩) memory.ctx ∧ ∀ l ∈ memory.ctx.lanes, Reaches memory.ctx memory.ctx.s 3 true
      ⟨l, memory.ctx.ea 1#2 12#7 (memory.ctx.index ⟨4#3, 30#7, 12#7, .reg 0#7, false⟩) l, 4, .global, false⟩ (plain l) 0) ∧
    (Issues memory.state (.ldxD ⟨4#3, 30#7, 14#7, .reg 0#7, false⟩) memory.ctx ∧ ∀ l ∈ memory.ctx.lanes, Reaches memory.ctx memory.ctx.s 3 true
      ⟨l, memory.ctx.ea 2#2 14#7 (memory.ctx.index ⟨4#3, 30#7, 14#7, .reg 0#7, false⟩) l, 4, .deck, false⟩ (.deck 3 1020) 0) ∧
    (Issues memory.state (.acq ⟨30#7, 12#7, 4#3, 4#3, 1#2⟩) memory.ctx ∧ Issues memory.state (.acqr ⟨30#7, 12#7, 4#3, 4#3, 1#2⟩) memory.ctx ∧
      ∀ l ∈ memory.ctx.lanes, Reaches memory.ctx memory.ctx.s 3 true ⟨l, memory.ctx.ea 1#2 12#7 (fun _ => 0) l, 4, .global, false⟩ (plain l) 0) :=
  ⟨⟨memory.issues _ (by decide), .inr (by decide), reach_all (by decide)⟩, ⟨memory.issues _ (by decide), reach_all (l := fun _ => .deck 3 1020) (by decide)⟩,
   ⟨memory.issues _ (by decide), reach_all (l := fun l => .priv 3 l 12) (by decide)⟩,
   ⟨memory.issues _ (by decide), reach_all (l := fun _ => .dev 0x40000000) (mt := fun _ => 2) (by decide), 0, by decide, by decide⟩,
   ⟨memory.issues _ (by decide), reach_all (r := fun _ => _) (l := fun _ => .dev 0x3003C) (by decide)⟩,
   ⟨memory.issues _ (by decide), reach_all (r := fun _ => _) (by decide)⟩, ⟨memory.issues _ (by decide), reach_all (by decide)⟩,
   ⟨memory.issues _ (by decide), reach_all (l := fun _ => .deck 3 1020) (by decide)⟩,
   memory.issues _ (by decide), memory.issues _ (by decide), reach_all (by decide)⟩

/-- acqr of deck scope, and of girder scope. -/
theorem test_met_acqr_scopes : [1#3, 2#3, 3#3].all (fun k => memory.ok (.acqr ⟨30#7, 12#7, k, 4#3, 1#2⟩)) = true := by decide +kernel
theorem test_met_stores :
    (Issues memory.state (.st ⟨1#2, false, 4#3, 30#7, 12#7, 0#10⟩) memory.ctx ∧ (∀ l ∈ memory.ctx.lanes, Reaches memory.ctx memory.ctx.s 3 false
      ⟨l, memory.ctx.ea 1#2 12#7 (fun _ => (0#10).toInt * 4) l, 4, .global, true⟩ (plain l) 0)) ∧
    (Issues memory.state (.st ⟨1#2, false, 4#3, 30#7, 18#7, 0#10⟩) memory.ctx ∧ (∀ l ∈ memory.ctx.lanes, Reaches memory.ctx memory.ctx.s 3 false
      ⟨l, memory.ctx.ea 1#2 18#7 (fun _ => (0#10).toInt * 4) l, 4, .global, true⟩ (.dev 0x40000000) 2)) ∧
    (Issues memory.state (.stxG ⟨4#3, 30#7, 12#7, .reg 0#7, false⟩) memory.ctx ∧ ∀ l ∈ memory.ctx.lanes, Reaches memory.ctx memory.ctx.s 3 false
      ⟨l, memory.ctx.ea 1#2 12#7 (memory.ctx.index ⟨4#3, 30#7, 12#7, .reg 0#7, false⟩) l, 4, .global, true⟩ (plain l) 0) ∧
    (Issues memory.state (.stxD ⟨4#3, 30#7, 14#7, .reg 0#7, false⟩) memory.ctx ∧ ∀ l ∈ memory.ctx.lanes, Reaches memory.ctx memory.ctx.s 3 false
      ⟨l, memory.ctx.ea 2#2 14#7 (memory.ctx.index ⟨4#3, 30#7, 14#7, .reg 0#7, false⟩) l, 4, .deck, true⟩ (.deck 3 1020) 0) ∧
    (Issues memory.state (.rel ⟨30#7, 12#7, 4#3, 4#3, 1#2⟩) memory.ctx ∧
      ∀ l ∈ memory.ctx.lanes, Reaches memory.ctx memory.ctx.s 3 false ⟨l, memory.ctx.ea 1#2 12#7 (fun _ => 0) l, 4, .global, true⟩ (plain l) 0) :=
  ⟨⟨memory.issues _ (by decide), reach_all (by decide)⟩,
   ⟨memory.issues _ (by decide), reach_all (l := fun _ => .dev 0x40000000) (mt := fun _ => 2) (by decide)⟩,
   ⟨memory.issues _ (by decide), reach_all (by decide)⟩, ⟨memory.issues _ (by decide), reach_all (l := fun _ => .deck 3 1020) (by decide)⟩,
   memory.issues _ (by decide), reach_all (by decide)⟩

/-- Pages of every kind: host memory, a page that may not be written, absent ones, and device pages of which one byte is poisoned. Registers hold an
address of each kind. -/
def faulty : World :=
  { memory.withSpan (fun x => { x with regs := (((((((x.regs.set 20 (.uniform 0x30001#32)).set 22 (.uniform 0x80000000#32)).set 24
      (.uniform 0xC0000000#32)).set 26 (.uniform 0x30100#32)).set 29 (.uniform 0x02000000#32)).set 31 (.uniform 0x01FFE000#32)).set 33 (.uniform 0x100#32)) }) with
    rest := { putDev memory.rest 0x12010 (natBytes 8 0x00000019) with poison := [0x30103] } }
/-- Causes that accesses raise at their checks, in the order of the checks: MISALIGNED (v20), ILLEGAL_ADDRESS (v28), PROTECTION (v22 for writes, v18 for
atomics), PAGE_NOT_PRESENT (v32), POISON (v26) (see `trips`). -/
theorem test_met_access_traps :
    (let w := faulty
     let c := w.ctx
     [(20#7, 0), (28#7, 1), (32#7, 3), (26#7, 4)].all (fun (a, n) =>
       tripsB w (.ld ⟨1#2, false, 4#3, 40#7, a, 0#10⟩) (reserved w [40]) (·.size) 3 true
         (c.lanes.map (fun l => ⟨l, c.ea 1#2 a (fun _ => 0) l, 4, .global, false⟩)) n &&
       tripsB w (.acq ⟨40#7, a, 4#3, 4#3, 1#2⟩) (reserved w [40]) (·.size) 3 true (c.lanes.map (fun l => ⟨l, c.ea 1#2 a (fun _ => 0) l, 4, .global, false⟩)) n) = true) ∧
    (let w := faulty
     let c := w.ctx
     [(20#7, 0), (28#7, 1), (22#7, 2), (32#7, 3)].all (fun (a, n) =>
       tripsB w (.st ⟨1#2, false, 4#3, 40#7, a, 0#10⟩) c.s (·.size) 3 false (c.lanes.map (fun l => ⟨l, c.ea 1#2 a (fun _ => 0) l, 4, .global, true⟩)) n &&
       tripsB w (.rel ⟨40#7, a, 4#3, 4#3, 1#2⟩) c.s (·.size) 3 false (c.lanes.map (fun l => ⟨l, c.ea 1#2 a (fun _ => 0) l, 4, .global, true⟩)) n) = true) ∧
    (let w := faulty
     let c := w.ctx
     [(20#7, 0), (28#7, 1), (18#7, 2), (22#7, 2), (32#7, 3)].all (fun (a, n) =>
       tripsB w (.red 0#4 ⟨0#7, a, .reg 0#7, 1#2⟩) c.s (·.size) 0 false (c.lanes.map (fun l => atomicReq 1#2 false 4 l (c.ea 1#2 a (fun _ => 0) l))) n &&
       tripsB w (.redx ⟨62#7, a, .reg 0#7, 1#2⟩) c.s (·.size) 0 false (c.lanes.map (fun l => atomicReq 1#2 true 8 l (c.ea 1#2 a (fun _ => 0) l))) n &&
       tripsB w (.atom 0#4 ⟨40#7, a, .reg 0#7, 1#2⟩) (reserved w [40]) (·.size) 0 true
         (c.lanes.map (fun l => atomicReq 1#2 false 4 l (c.ea 1#2 a (fun _ => 0) l))) n) = true) ∧
    (let w := faulty
     let c := w.ctx
     tripsB w (.atomcasN64 ⟨40#7, 26#7, .reg 0#7, 1#2⟩) (reserved w [40, 41]) (·.size) 0 true
       (c.lanes.map (fun l => atomicReq 1#2 false 8 l (c.ea 1#2 26#7 (fun _ => 0) l))) 4 = true) ∧
    [capped, drained].all (fun w => w.ok (.ld ⟨1#2, false, 4#3, 40#7, 12#7, 0#10⟩) && w.ok (.atom 0#4 ⟨40#7, 12#7, .reg 0#7, 1#2⟩) &&
      needAtIssue w.ctx [40] != 0) = true ∧ isOk (faulty.ctx.reserve faulty.ctx.s [40]) = true := by
  refine ⟨?_, ?_, ?_, ?_, ?_, ?_⟩ <;> decide +kernel

theorem test_met_atomics :
    (Issues memory.state (.atom 0#4 ⟨30#7, 12#7, .reg 0#7, 1#2⟩) memory.ctx ∧ Room memory.ctx (needAtIssue memory.ctx (oneOrTwo (wideAtomic 0#4) 30#7)) ∧
      ∀ l ∈ memory.ctx.lanes, Reaches memory.ctx memory.ctx.s 0 true (atomicReq 1#2 false 4 l (memory.ctx.ea 1#2 12#7 (fun _ => 0) l)) (plain l) 0) ∧
    (Issues memory.state (.atomcasN32 ⟨30#7, 12#7, .reg 0#7, 1#2⟩) memory.ctx) ∧
    (Issues memory.state (.atomcasN64 ⟨30#7, 12#7, .reg 0#7, 1#2⟩) memory.ctx ∧ Issues memory.state (.atom 1#4 ⟨30#7, 12#7, .reg 0#7, 1#2⟩) memory.ctx ∧
      ∀ l ∈ memory.ctx.lanes, Reaches memory.ctx memory.ctx.s 0 true (atomicReq 1#2 false 8 l (memory.ctx.ea 1#2 12#7 (fun _ => 0) l)) (plain l) 0) ∧
    (Issues memory.state (.red 0#4 ⟨0#7, 12#7, .reg 0#7, 1#2⟩) memory.ctx ∧ ∀ l ∈ memory.ctx.lanes,
      Reaches memory.ctx memory.ctx.s 0 false (atomicReq 1#2 false 4 l (memory.ctx.ea 1#2 12#7 (fun _ => 0) l)) (plain l) 0) ∧
    (Issues memory.state (.redx ⟨63#7, 12#7, .reg 0#7, 1#2⟩) memory.ctx ∧ Issues memory.state (.redx ⟨62#7, 12#7, .reg 0#7, 1#2⟩) memory.ctx ∧ ∀ l ∈ memory.ctx.lanes,
      Reaches memory.ctx memory.ctx.s 0 false (atomicReq 1#2 true 8 l (memory.ctx.ea 1#2 12#7 (fun _ => 0) l)) (plain l) 0) :=
  ⟨⟨memory.issues _ (by decide), .inr (by decide), reach_all (by decide)⟩, memory.issues _ (by decide),
   ⟨memory.issues _ (by decide), memory.issues _ (by decide), reach_all (by decide)⟩, ⟨memory.issues _ (by decide), reach_all (by decide)⟩,
   memory.issues _ (by decide), memory.issues _ (by decide), reach_all (by decide)⟩

/-- One piece of outstanding work of the demo span. -/
def World.working (w : World) (k : WorkKind) (dsts : List Nat) (accs : List Acc) : State :=
  { w.state with cur := none, works := [{ id := 12, span := 4, lanes := 1#64, dsts := dsts, resv := 0, accs := accs, kind := k, iss := none }] }
def firstWork (s : State) : Work := s.works.headD default
theorem canon_of (s : State) (h : (s.mem.wf && s.hostMem.wf && s.decks.all (fun d => d.mem.wf && d.priv.wf)) = true) : Canon s := by
  simp only [Bool.and_eq_true, List.all_eq_true] at h
  exact ⟨h.1.1, h.1.2, h.2⟩
def loading : State := memory.working (.load 4#3) [30] [⟨0, .priv 3 0 12, 4, 0, [], 0#64, 0#64, 0⟩]
def storing : State := memory.working .store [] [⟨0, .deck 3 1020, 4, 0, [1#8, 2#8, 3#8, 4#8], 0#64, 0#64, 0⟩]
def adding (cas : Bool) (cmp : DWord) : State := memory.working (.atomic 0#4 cas false) [30] [⟨0, .dev 0x30000, 4, 0, [1#8, 0#8, 0#8, 0#8], cmp, 0#64, 0⟩]
def poisonedLoad : State := { memory.working (.load 4#3) [30] [⟨0, .dev 0x30000, 4, 0, [], 0#64, 0#64, 0⟩] with poison := [0x30003] }
/-- Lanes 0 and 1 store bytes of which one is common; two lanes reduce one location; a reply waits for its registers. -/
def storingTwo : State := memory.working .store [] [⟨0, .dev 0x30000, 4, 0, [1#8, 2#8, 3#8, 4#8], 0#64, 0#64, 0⟩, ⟨1, .dev 0x30003, 1, 0, [5#8], 0#64, 0#64, 0⟩]
def reducing (k : WorkKind) : State :=
  memory.working k [] [⟨0, .dev 0x30000, 8, 0, natBytes 8 1, 0#64, 0#64, 0⟩, ⟨1, .dev 0x30000, 8, 0, natBytes 8 2, 0#64, 0#64, 0⟩]
def replying : State := memory.working (.reply [(0, 5#64)] true) [30, 31] []
theorem test_met_reductions_and_replies :
    ((firstWork storingTwo).accs[1]? ≠ none ∧ Canon storingTwo ∧ readLoc (performWork storingTwo (firstWork storingTwo)) (.dev 0x30003) = 5#8 ∧
      readLoc (performWork storingTwo (firstWork storingTwo)) (.dev 0x30002) = 3#8) ∧
    (∃ op, (firstWork (reducing (.red 1#4))).kind = .red op ∧ atomicValue 1#4 = atomicValue op) ∧ (∃ k, (firstWork (reducing (.redx 62))).kind = .redx k) ∧
    (firstWork replying).kind = .reply [(0, 5#64)] true ∧ replying.span? 4 = some memory.sp ∧ (firstWork replying).lanes ≠ 0#64 ∧
    (firstWork replying).dsts.Nodup ∧ ∀ d ∈ (firstWork replying).dsts, d < memory.sp.regs.length :=
  ⟨⟨by decide, canon_of _ (by decide), by decide +kernel, by decide +kernel⟩, ⟨_, rfl, rfl⟩, ⟨_, rfl⟩, rfl, by decide, by decide, by decide, by decide⟩
theorem test_met_performed_accesses :
    ((firstWork loading).kind = .load 4#3 ∧ loading.span? (firstWork loading).span = some memory.sp ∧ (firstWork loading).lanes ≠ 0#64 ∧
      (firstWork loading).dsts.Nodup ∧ (∀ d ∈ (firstWork loading).dsts, d < memory.sp.regs.length) ∧
      ∀ a ∈ (firstWork loading).accs, poisoned loading a.loc a.size = false) ∧
    ((firstWork poisonedLoad).kind = .load 4#3 ∧ poisonedLoad.span? 4 = some memory.sp ∧ memory.sp.pending = none ∧
      ∃ a ∈ (firstWork poisonedLoad).accs, poisoned poisonedLoad a.loc a.size = true) ∧
    ((firstWork storing).kind = .store ∧ Canon storing ∧ (∀ a ∈ (firstWork storing).accs, ∀ i < a.data.length, (a.loc.plus i).good) ∧
      ∀ i < 4, ((Loc.deck 3 1020).plus i).there storing) ∧
    (∀ cas cmp, firstWork (adding cas cmp) ∈ (adding cas cmp).works ∧ (firstWork (adding cas cmp)).kind = .atomic 0#4 cas false) ∧
    (valueAt (adding true 0#64) (.dev 0x30000) 4 = 0#64) ∧ (valueAt (adding true 1#64) (.dev 0x30000) 4 ≠ 1#64) :=
  ⟨⟨by decide, by decide, by decide, by decide, by decide, by decide⟩, ⟨by decide, by decide, by decide, _, .head _, by decide⟩, ⟨by decide, canon_of _ (by decide), fun a ha i _ => by
      have : a = ⟨0, .deck 3 1020, 4, 0, [1#8, 2#8, 3#8, 4#8], 0#64, 0#64, 0⟩ := by simpa [firstWork, storing, World.working] using ha
      subst this; trivial, fun i _ => by show ((storing.deck? 3).isSome = true); decide⟩,
   fun cas cmp => ⟨by simp [adding, World.working, firstWork], rfl⟩, by decide, by decide⟩
/-- The rows that perform outstanding work: ready, and waiting for an older access to the same bytes; a reply; a lane's copy; a buffered line. -/
def stuck : State := { loading with works := { firstWork storing with id := 11, accs := [⟨0, .priv 3 0 12, 4, 0, [1#8, 2#8, 3#8, 4#8], 0#64, 0#64, 0⟩] } :: loading.works }
def buffered : State := memory.working .store [] [⟨0, .dev 0x30000, 4, 1, [1#8, 2#8, 3#8, 4#8], 0#64, 0#64, 0⟩]
def copying (v : Nat) : State := memory.working (.cpl 0 0 v none) [] (if v = 0 then [] else [⟨0, .dev 0x30000, v, 0, [], 0#64, 0#64, 0⟩])
/-- A lane's copy behind its older load of other bytes. -/
def behindLoad : State := { copying 32 with works := { firstWork loading with id := 11 } :: (copying 32).works }
theorem test_met_outstanding_work :
    (loading.work? 12 = some (firstWork loading) ∧ workReady loading (firstWork loading) = true ∧ (firstWork loading).isLoad = true) ∧
    (workReady storing (firstWork storing) = true ∧ (firstWork storing).isStore = true ∧ ∀ a ∈ (firstWork storing).accs, a.mtype ≠ 1) ∧
    (workReady buffered (firstWork buffered) = true ∧ (firstWork buffered).isStore = true ∧ ∃ a ∈ (firstWork buffered).accs, a.mtype = 1) ∧
    (workReady (adding false 0#64) (firstWork (adding false 0#64)) = true ∧ (firstWork (adding false 0#64)).isAtomic = true) ∧
    ((stuck.work? 12).elim false (fun w => !workReady stuck w) = true) ∧ (loading.work? 13 = none) ∧ (buffered.works.map (·.id)).Nodup ∧
    (workReady (copying 32) (firstWork (copying 32)) = true ∧ (firstWork (copying 32)).isCpl = true ∧
      (firstWork (copying 32)).kind = .cpl 0 0 32 none ∧ (copying 32).work? 12 = some (firstWork (copying 32))) ∧
    (workReady buffered ((firstWork buffered).part (fun a => a.mtype != 1)) = true ∧
      workReady buffered ((firstWork buffered).part (fun a => a.mtype == 1 && lineOf a.loc == some 0x600)) = true) ∧
    (workReady behindLoad (behindLoad.works.getLastD default) = false ∧ (firstWork behindLoad).isAccess = true ∧
      (behindLoad.works.getLastD default).isCpl = true ∧ (firstWork behindLoad).lanes &&& (behindLoad.works.getLastD default).lanes ≠ 0#64) ∧
    (∀ v ∈ [0, 32], Canon (copying v) ∧ (copying v).deck? (workDeck (copying v) (firstWork (copying v))) = some memory.deck ∧
      (firstWork (copying v)).accs.all (fun a => !poisoned (copying v) a.loc a.size) = true ∧ ((firstWork (copying v)).accs.map (·.size)).sum = v) := by
  refine ⟨by decide, by decide, by decide, by decide, by decide, by decide, by decide, by decide, by decide, by decide, ?_⟩
  intro v hv
  simp only [List.mem_cons, List.not_mem_nil, or_false] at hv
  rcases hv with rfl | rfl
  · exact ⟨canon_of _ (by decide), by decide, by decide, by decide⟩
  · exact ⟨canon_of _ (by decide), by decide, by decide, by decide⟩

/-- Where no read is outstanding, no byte is one of an older read. A copy of a poisoned source; reads behind the store that poisons. -/
theorem undisturbed_of {s : State} {p : Loc → Prop} (h : s.works.all (fun w => !w.reads) = true) : Undisturbed s p := by
  intro w hw hr
  have := List.all_eq_true.mp h w hw
  simp [hr] at this
theorem test_met_poisoned_copies :
    let s : State := { copying 32 with poison := [0x30000] }
    (firstWork s).accs.any (fun a => poisoned s a.loc a.size) = true ∧ ∀ p, Undisturbed s p :=
  ⟨by decide +kernel, fun _ => undisturbed_of (by decide +kernel)⟩

/-- The load of a popv that reads a poisoned byte. -/
def poisonedPop : State :=
  { poisonedLoad with works := [{ firstWork poisonedLoad with iss := some { demoIssue with cls := .ctrl, word := (Instr.popv 4#7 4#7).encodeWord } }] }
theorem test_met_poisoned_pops :
    (firstWork poisonedPop).isPop = true ∧ (firstWork poisonedLoad).isPop = false ∧ (firstWork poisonedPop).kind = .load 4#3 ∧
    poisonedPop.span? 4 = some memory.sp ∧ (firstWork poisonedPop).accs.any (fun a => poisoned poisonedPop a.loc a.size) = true := by
  refine ⟨?_, ?_, ?_, ?_, ?_⟩ <;> decide +kernel

/-! ## Premises: barriers, rings, waits, copies, the matrix unit -/

theorem ok_of {α : Type} {r : Run α} (h : isOk r = true) : ∃ x, r = .ok x := by
  cases r with
  | ok x => exact ⟨x, rfl⟩
  | error _ => simp [isOk] at h

def World.withBar (w : World) (f : Bar → Bar) : World := { w with deck := { w.deck with bars := w.deck.bars.modify 0 f } }
def arrived : World := onM.withBar (fun b => { b with marks := [(4, 0xFF#64)], any := true })
def balanced (n : Int) : World := onM.withBar (fun b => { b with bal := n })
def broken : World := onM.withBar (fun b => { b with broken := true })
/-- Arrivals of every lane and of none that has arrived already; counts at both ends of the 32-bit range and beyond them; a phase with an
arrival and one without; a broken barrier; a phase that completes and one that does not, and the last girder barrier. -/
theorem test_met_barriers :
    (Issues onM.state (.bararr 30#7 0#7) onM.ctx ∧ (onM.ctx.bar 0).broken = false ∧ onM.ctx.A &&& ~~~(onM.ctx.marked 0) ≠ 0#64 ∧
      ∃ b, (onM.ctx.only (onM.ctx.A &&& ~~~(onM.ctx.marked 0))).issueWrite onM.ctx.s [(30, fun _ => (onM.ctx.bar 0).gen)] = .ok b) ∧
    (Issues arrived.state (.bararr 30#7 0#7) arrived.ctx ∧ Issues arrived.state (.barsync 0#7) arrived.ctx ∧ (arrived.ctx.bar 0).broken = false ∧
      arrived.ctx.A &&& ~~~(arrived.ctx.marked 0) = 0#64) ∧
    (Issues onM.state (.barwait 0#7 (.reg 1#7)) onM.ctx ∧ Issues onM.state (.barsync 15#7) onM.ctx) ∧
    (∀ w ∈ [0x7FFFFFFF#32, 0x80000000#32], Issues onM.state (.barexp 0#7 (.lit w)) onM.ctx ∧
      -(2 ^ 31) ≤ (onM.ctx.bar 0).bal + (onM.ctx.srcB (.lit w) 0).toInt ∧ (onM.ctx.bar 0).bal + (onM.ctx.srcB (.lit w) 0).toInt < 2 ^ 31) ∧
    (Issues (balanced 1).state (.barexp 0#7 (.lit 0x7FFFFFFF#32)) (balanced 1).ctx ∧ ((balanced 1).ctx.bar 0).broken = false ∧
      2 ^ 31 ≤ ((balanced 1).ctx.bar 0).bal + ((balanced 1).ctx.srcB (.lit 0x7FFFFFFF#32) (balanced 1).ctx.low).toInt) ∧
    (Issues (balanced (-1)).state (.barexp 0#7 (.lit 0x80000000#32)) (balanced (-1)).ctx ∧ ((balanced (-1)).ctx.bar 0).broken = false ∧
      ((balanced (-1)).ctx.bar 0).bal + ((balanced (-1)).ctx.srcB (.lit 0x80000000#32) (balanced (-1)).ctx.low).toInt < -(2 ^ 31)) ∧
    (Issues onM.state (.barset 0#7 (.reg 0#7)) onM.ctx ∧ (onM.ctx.bar 0).any = false) ∧
    (Issues arrived.state (.barset 0#7 (.reg 0#7)) arrived.ctx ∧ (arrived.ctx.bar 0).any = true) ∧
    (Issues broken.state (.bararr 30#7 0#7) broken.ctx ∧ Issues broken.state (.barset 0#7 (.reg 0#7)) broken.ctx ∧ (broken.ctx.bar 0).broken = true) ∧
    (∀ w ∈ [onM, arrived], w.state.deck? 3 = some w.deck ∧ w.state.girder? 2 = some w.girder ∧ w.deck.bars.length = 16 ∧ w.girder.bars.length = 4) ∧
    ((barOf arrived.state 3 2 0).any = true ∧ (barOf arrived.state 3 2 0).bal = 0 ∧ ∀ x ∈ arrived.state.spansOf 3,
      x.live &&& ~~~((barOf arrived.state 3 2 0).mark x.uid) = 0#64) ∧ (barOf onM.state 3 2 19).any = false := by
  refine ⟨⟨onM.issues _ (by decide), by decide, by decide, ok_of (by decide)⟩,
    ⟨arrived.issues _ (by decide), arrived.issues _ (by decide), by decide, by decide⟩, ⟨onM.issues _ (by decide), onM.issues _ (by decide)⟩, ?_,
    ⟨(balanced 1).issues _ (by decide), by decide⟩, ⟨(balanced (-1)).issues _ (by decide), by decide⟩, ⟨onM.issues _ (by decide), by decide⟩, ⟨arrived.issues _ (by decide), by decide⟩,
    ⟨broken.issues _ (by decide), broken.issues _ (by decide), by decide⟩, by decide, by decide, by decide⟩
  intro w hw
  simp only [List.mem_cons, List.not_mem_nil, or_false] at hw
  rcases hw with rfl | rfl
  · exact ⟨onM.issues _ (by decide), by decide, by decide⟩
  · exact ⟨onM.issues _ (by decide), by decide, by decide⟩

/-- A member and a span that is none; spans that leave a phase together with a gap between waves and with none; a phase nobody has arrived at. -/
theorem test_met_barrier_waves :
    onM.ctx.isMember 0 = true ∧ (onM.withBar (fun b => { b with members := 0#32 })).ctx.isMember 0 = false ∧ onM.ctx.A ≠ 0#64 ∧
    trussOf onM.deck.pier < onM.state.waves.length ∧ (onM.state.span? 4).isSome = true ∧
    (onM.state.mgmt.tslope.getD (trussOf onM.deck.pier) 0x0410#16).toNat / 256 ≠ 0 ∧
    (let s := { onM.state with mgmt := { onM.state.mgmt with tslope := List.replicate 36 0x0010#16 } }
     (s.mgmt.tslope.getD (trussOf onM.deck.pier) 0x0410#16).toNat / 256 = 0) := by
  refine ⟨?_, ?_, ?_, ?_, ?_, ?_, ?_⟩ <;> decide +kernel
/-- Ring 0 has two slots of 32 bytes, filled by role 0 and drained by role 1; slot 1 is held. -/
def ringed (role : BitVec 2) (phase : Word) : World :=
  { onM.withSpan (fun x => { x with role := role, regs := x.regs.set 20 (.uniform 32#32) }) with
    launch := { demoLaunch with rings := 0x8800000000000042#64 :: List.replicate 7 0#64 },
    deck := { demoDeck 0 with rings := (demoDeck 0).rings.set 0 ⟨1, 0, phase, 2#32⟩ } }
/-- The premises of both ring instructions for a side. -/
def ringMet (w : World) (side : Bool) : Bool :=
  let v := w.ctx.launch.rings.getD 0 0#64
  let r := w.ctx.deck.rings.getD 0 ⟨0, 0, 0#32, 0#32⟩
  w.ok (.stgacq 30#7 0#7) && w.ok (.stgrel 0#7 ⟨20#7, true⟩) && ringSide v w.ctx.sp.role == some side && isOk (w.ctx.reserve w.ctx.s (one 30#7)) &&
  (List.range (ringCount v)).find? (fun i => ringOffset v i == (w.ctx.src 20#7 w.ctx.low).toNat && (r.phase.getLsbD i == !side) && r.held.getLsbD i) == some 1
theorem test_met_stage_rings :
    (ringMet (ringed 0#2 0#32) true && ringMet (ringed 1#2 2#32) false && (ringed 2#2 0#32).ok (.stgacq 30#7 0#7) &&
     ringSide ((ringed 2#2 0#32).ctx.launch.rings.getD 0 0#64) 2#2 == none) = true := by decide +kernel

/-- The deck owns its pier's matrix unit, arranged as 16 x 1 macros with eight planes, with row 0 filled and bank 0 valid. -/
def unit0 : Matrix := { Matrix.clear with arr := some 0, planes := 8, pa := (List.replicate 96 0).set 0 8, valid := List.replicate 32 (BitVec.allOnes 64) }
def setRegs (l : List (Nat × VReg)) (x : Span) : Span := { x with regs := l.foldl (fun r y => r.set y.1 y.2) x.regs }
def owning : World :=
  (onM.withPier (fun p => { p with owner := some 3, mtx := some unit0 })).withSpan (setRegs [(20, .uniform 0x00820000#32), (22, .uniform 0x000600DF#32),
    (23, .uniform 2048#32), (3, .vector 1 (List.replicate 8 1#32)), (24, .uniform 0x00804081#32), (26, .uniform 0x00100000#32)])
def lent : World := onM.withPier (fun p => { p with owner := some 99 })
def fill : Work :=
  { id := 12, span := 4, lanes := 1#64, dsts := [], resv := 0, accs := [], iss := none, kind := .load8 ⟨0, 1, 3, 0x14004, 0x00820000#32, 0x30000, 64, 0, false, 8, 0, []⟩ }
def filling : World := { owning with rest := { owning.rest with works := [fill] } }
/-- Keystone 0 after the lanes' signatures, and after the deck's arming. -/
def signedKey : Key := ⟨1, 0, 2048, 0, (List.range 8).map (fun l => Signer.mk 3 4 l 2 1), [], []⟩
def armedKey : Key := ⟨1, 0, 0, 0, [], [⟨3, 0x804081#64, 20, false, false, false, [], []⟩], []⟩
/-- The unit free, another deck's, the deck's own idle and busy; a fill of 64 rows; the last row buffer row; a keystone's most lanes. -/
theorem test_met_matrix_unit :
    (onM.ok (.mxload 12#7 20#7) = true ∧ (onM.ctx.s.pier 0).owner = none) ∧ (lent.ok (.mxwait 0#3) = true ∧ (lent.ctx.s.pier 0).owner ≠ none ∧
      (lent.ctx.s.pier 0).owner ≠ some lent.ctx.deck.uid) ∧
    (owning.ok (.mxarr 8#7 0#3) = true ∧ (owning.ctx.s.pier 0).owner = some owning.ctx.deck.uid ∧ (owning.ctx.s.pier 0).clearing = false ∧
      unitBusy owning.ctx.s 3 = false ∧ unitBusy filling.ctx.s 3 = true) ∧
    (owning.ok (.mxload 12#7 20#7) = true ∧ isOk (fillCheck owning.ctx 0x30000 (8 * wordP 0x00820000#32 * wordRows 0x00820000#32)) = true ∧
      weightWordOk 0x00820000#32 (packing owning.ctx.unit.planes) = true ∧ owning.ctx.src 20#7 owning.ctx.low = 0x00820000#32) ∧
    (owning.ok (.mxarow 12#7 22#7) = true ∧ rowWordOk (owning.ctx.src 22#7 0) = true ∧ rowFirst (owning.ctx.src 22#7 0) + rowCount (owning.ctx.src 22#7 0) = 96 ∧
      isOk (fillCheck owning.ctx 0x30000 (rowCount (owning.ctx.src 22#7 0) * 16 * 8 * rowPa (owning.ctx.src 22#7 0))) = true ∧
      membOk owning.ctx (rowMemb (owning.ctx.src 22#7 0)) = true) ∧
    (owning.ok (.mxsign 23#7 2#7 1#7 0#3) = true ∧ (owning.ctx.src 23#7 0).toNat = 2048 ∧ (owning.ctx.key 0).st ≠ 2 ∧
      (∀ r ∈ regRange 2 2, (owning.ctx.sp.vreg r).isVector = true) ∧ isOk (keyStep owning.ctx 0 signedKey owning.ctx.A) = true) ∧
    (owning.ok (.mxmma 24#7 0#3) = true ∧ opOk (owning.ctx.pair 24#7 0) 0 owning.ctx.unit.planes = true ∧ owning.ctx.rowsOk (owning.ctx.pair 24#7 0) = true ∧
      owning.ctx.bankOk (owning.ctx.pair 24#7 0) 0 = true ∧ isOk (keyStep owning.ctx 0 armedKey owning.ctx.A) = true) ∧
    (owning.ok (.mxsave 26#7 true false) = true ∧ owning.ok (.mxsave 26#7 false true) = true ∧
      (unitOfImage (fun i => if i < 57 then pageCells owning.ctx.s (.dev (0x100000 + 4096 * i)) else [])).isSome = true) ∧
    ([Signer.mk 3 4 0 2 1].filter (fun x => x.deck == 3)) ≠ [] := by decide +kernel
/-- The pages of the image that mxsave reaches; none of them is poisoned, nor is the unit, or it is. -/
def savePage (reads : Bool) (i : Nat) : Bool := reachB owning.ctx owning.ctx.s 1 reads
  ⟨0, BitVec.ofNat 64 ((owning.ctx.pair 26#7 0).toNat + 4096 * i), 4096, .global, true⟩ (.dev (0x100000 + 4096 * i)) 0
def spoilt : World := owning.withPier (fun p => { p with mtx := some { unit0 with poisonR := [0] } })
theorem test_met_unit_to_save : owning.ctx.unit.poisonW = [] ∧ owning.ctx.unit.poisonR = [] ∧
    spoilt.ok (.mxsave 26#7 true false) = true ∧ (spoilt.ctx.s.pier 0).owner = some spoilt.ctx.deck.uid ∧ unitBusy spoilt.ctx.s 3 = false ∧
    spoilt.ctx.unit.poisonR ≠ [] := by decide +kernel
theorem test_met_matrix_save : ∀ i < 57, savePage true i = true := by
  have h : (List.range 57).all (savePage false) = true := by decide +kernel
  have hp (a : Nat) : stillPoisoned owning.ctx.s owning.ctx.u 0 (.dev a) 4096 = false := by
    have h : owning.ctx.s.poison = [] := by decide +kernel
    simp [stillPoisoned, poisonedAt, poisonMark, Loc.plus, h]
  intro i hi
  have := List.all_eq_true.mp h i (List.mem_range.mpr hi)
  simpa [savePage, reachB, hp] using this

/-- A grace period runs, one more is pending; a tag has room for the lanes, or not. -/
def waiting (tag : Nat) : World :=
  let w := (onM.withSpan (setRegs [(20, .uniform 2#32), (22, .uniform 33#32)])).withSpan (fun x => { x with tags := x.tags.set 0 tag })
  { w with cx := { demoCx with gp := ⟨1, 0, true, [4], 0, false⟩ } }
theorem test_met_waits :
    (onM.ok (.tlwait 3#7 ⟨.reg 10#7, true⟩) = true ∧ onM.ctx.launch.tlBound 3 = true) ∧ onM.ok (.tagwait 7#3) = true ∧
    (owning.ok (.mxwait 2#3) = true ∧ (owning.ctx.s.pier owning.ctx.deck.pier).owner = some owning.ctx.deck.uid) ∧
    ((waiting 0).ok (.waitgp 20#7) = true ∧ (∀ l ∈ (waiting 0).ctx.lanes, ((waiting 0).ctx.sp.lane l).rsn = 0#4) ∧
      ((waiting 0).ctx.pair 20#7 0).toNat = (waiting 0).ctx.cx.gp.started + 1 ∧ (waiting 0).ctx.cx.gp.pend = true) ∧
    (memory.ok (.entw 12#7 0#7) = true ∧ reachB memory.ctx memory.ctx.s 3 true ⟨memory.ctx.low, memory.ctx.pair 12#7 memory.ctx.low, 8, .global, false⟩
      (.dev 0x30000) 0 = true) := by decide +kernel

theorem test_met_lane_copies :
    ((waiting 247).ok (.cpl 0#7 12#7 22#7 0#3) = true ∧ (waiting 247).ctx.sp.tag 0 + laneCount (waiting 247).ctx.A ≤ 255 ∧
      isOk (cplCheck (waiting 247).ctx ((waiting 247).ctx.src 0#7) ((waiting 247).ctx.pair 12#7)
        (fun l => min ((waiting 247).ctx.src 22#7 l).toNat 32)) = true) ∧
    ((waiting 248).ok (.cpl 0#7 12#7 22#7 0#3) = true ∧ 255 < (waiting 248).ctx.sp.tag 0 + laneCount (waiting 248).ctx.A) := by decide +kernel

/-- Descriptors of the six engine copies at 0x31000: four elements from 0x30000 to 0x30800 on the timeline of their kind. -/
def descriptorWord : Nat → Nat
  | 0 | 4 => 0xF8220000
  | 1 => 0xF8020000
  | 2 | 3 => 0xF8A20000
  | _ => 0xF9220000
def copies (op : Nat) : World :=
  { onM.withSpan (fun x => { x with regs := x.regs.set 40 (.uniform 0x31000#32) }) with
    rest := putDev (putDev (putDev demoRest 0x31000 (natBytes 8 0x30000 ++ natBytes 8 0x30800)) 0x31010 (natBytes 4 (descriptorWord op) ++
      natBytes 4 (if op = 2 ∨ op = 3 then 1 else 0))) 0x31020 (natBytes 4 4) }
/-- The premises of an engine copy, as a computation. -/
def copyMet (w : World) (op : Nat) (a b : Reg) (loc : Loc) : Bool :=
  let c := w.ctx
  match c.reserve (drain c.s c.u c.A) (one a) with
  | .error _ => false
  | .ok (r, _) =>
    let d : BitVec 1024 := BitVec.ofNat 1024 (bytesNat (readLocs r loc 128))
    let mtx := (r.pier c.deck.pier).unit
    reachB c r 3 true ⟨c.low, c.pair b c.low, 128, .global, false⟩ loc 0 && !descWs d && descOk op d mtx.arr.isSome mtx.planes &&
    c.launch.tlBound (descTl d) && c.launch.tlKind (descTl d) == engineKind op &&
    (resolve c r .generic c.low (BitVec.ofNat 64 (descSrc d)) 1).isSome && (resolve c r .generic c.low (BitVec.ofNat 64 (descDst d)) 1).isSome
theorem test_met_engine_copies :
    ((copies 0).ok (.tcopy 30#7 40#7) && (copies 1).ok (.tsparse 30#7 40#7) && (copies 2).ok (.tgather 30#7 40#7) &&
     (copies 3).ok (.tscatter 30#7 40#7) && (copies 4).ok (.tfill 30#7 40#7) && (copies 5).ok (.tcoll 30#7 40#7)) = true ∧
    (List.range 6).all (fun op => copyMet (copies op) op 30#7 40#7 (.dev 0x31000)) = true := by decide +kernel

/-! ## Premises: stored formats, spawns, system instructions, traps -/

/-- Format slot 0 in mode 0 and in mode 1 (FMT 0, scale bytes from 0x30000). -/
def stored (mode : Nat) : World :=
  { onM with launch := { demoLaunch with slots := BitVec.ofNat 256 (0x3F800000 + 2 ^ 88 * mode + 2 ^ 128 * 0x30000) :: List.replicate 7 0#256 } }
def cvtsForm : FormCvts := ⟨30#7, 2#7, 8#4, 0#3, 0#2, false, 0#32⟩
/-- The premises of the clause for scales in memory. -/
def storedMet (w : World) (f : FormCvts) (loc : Loc) : Bool :=
  let c := w.ctx
  let v := c.launch.slots.getD f.slot.toNat 0#256
  w.ok (.cvts f) && slotMode v == 1 && slotFmt v != 9 && decide (needAtIssue c (oneOrTwo (!f.enc && f.ftype == 11#4) f.d) ≤ 127) &&
  c.lanes.all (fun l => reachB c c.s 1 true ⟨l, BitVec.ofNat 64 (slotAddr v + 4 * (c.src (cvtsI f) l).toNat), 4, .global, false⟩ loc 0)
/-- The scale read of a decode is outstanding. -/
def scaling : State := (stored 1).working (.scale cvtsForm 0#256 [(0, 1#32, 1#64)]) [30] [⟨0, .dev 0x30000, 4, 0, [], 0#64, 0#64, 0⟩]
theorem test_met_stored_formats :
    ((stored 0).ok (.cvts cvtsForm) = true ∧ slotMode ((stored 0).ctx.launch.slots.getD 0 0#256) = 0 ∧
      slotFmt ((stored 0).ctx.launch.slots.getD 0 0#256) ≠ 9) ∧ storedMet (stored 1) cvtsForm (.dev 0x30000) = true ∧
    scaling.span? 4 = some (stored 1).sp ∧ (firstWork scaling).lanes ≠ 0#64 ∧ (firstWork scaling).dsts.Nodup ∧
    (∀ d ∈ (firstWork scaling).dsts, d < (stored 1).sp.regs.length) ∧ ∀ a ∈ (firstWork scaling).accs, poisoned scaling a.loc a.size = false := by
  refine ⟨?_, ?_, ?_, ?_, ?_, ?_, ?_⟩ <;> decide +kernel

/-- A slot of format fmt, its scale vector at va, over a world; what stops a cvts: ACC64 encoded, a scale vector off its word, in the windows, on a
device page, absent, and poisoned, and no room with the scale known and with it in memory. -/
def slotted (w : World) (fmt mode va : Nat) : World :=
  { w with launch := { w.launch with slots := BitVec.ofNat 256 (0x3F800000 + 2 ^ 80 * fmt + 2 ^ 88 * mode + 2 ^ 128 * va) :: List.replicate 7 0#256 } }
theorem test_met_stored_format_traps :
    (slotted onM 9 0 0).ok (.cvts { cvtsForm with enc := true }) = true ∧ (slotted onM 9 0 0).ok (.cvts { cvtsForm with a := 3#7 }) = true ∧
    [(0x30001, 0), (0x01FFE00000000000, 1), (0x40000000, 2), (0xC0000000, 3), (0x30100, 4)].all (fun (va, n) =>
      let w := slotted faulty 0 1 va
      tripsB w (.cvts cvtsForm) (reserved w [30]) (·.size) 1 true
        (w.ctx.lanes.map (fun l => ⟨l, BitVec.ofNat 64 (va + 4 * (w.ctx.src (cvtsI cvtsForm) l).toNat), 4, .global, false⟩)) n) = true ∧
    [capped, drained].all (fun w => (slotted w 0 0 0).ok (.cvts cvtsForm) && (slotted w 0 1 0x30000).ok (.cvts cvtsForm) && needAtIssue w.ctx [30] != 0 &&
      let c := (slotted w 0 0 0).ctx
      needOf c (put 30#7 (fun l => loWord (cvtsDecode (c.launch.slots.getD 0 0#256) (.fin false 1 0) 8#4 0 (c.src 2#7 l) (c.pair 2#7 l)))) != 0) = true ∧
    (let v := (slotted onM 7 0 0).launch.slots.getD 0 0#256
     slotFmt v = 7 ∧ (Fmt.f16.unpack (v.extractLsb' 64 16).toNat).isNan = false ∧ (Fmt.f16.unpack (v.extractLsb' 64 16).toNat).isInf = false) := by
  refine ⟨?_, ?_, ?_, ?_, ?_⟩ <;> decide +kernel

/-- A lane with %rsn 15; the highest word address as a spawn's entry; a girder with capable piers of the other grade, and one with none. -/
def nested : World := onM.withSpan (fun x => { x with lanes := x.lanes.modify 3 (fun y => { y with rsn := 15#4 }) })
def inSection : World := onM.withSpan (fun x => { x with lanes := x.lanes.map (fun y => { y with rsn := 15#4 }) })
/-- A quiescent span of which the engine has been told, and one of which it has not. -/
def told : World := onM.withSpan (fun x => { x with quiet := true })
/-- Segment 0's spawn queue is full; the context's overflow ring has room, or none, or no memory. -/
def fullQueue (count : Nat) (base : Nat) : State :=
  ({ onM with cx := { demoCx with d := { demoCx.d with ovfCount := count, ovfBase := base } } } : World).state.modSeg 0
    (fun g => { g with spawnQ := List.replicate 4096 ⟨0, 1, 0x14000, [], 5, 0, 3⟩ })
theorem test_met_full_spawn_queue : ∀ x ∈ [(0, 0), (4, 0x30000), (4, 2 ^ 40)],
    4096 ≤ ((fullQueue x.1 x.2).seg 0).spawnQ.length ∧ (fullQueue x.1 x.2).launch? 1 = some demoLaunch ∧
    ((fullQueue x.1 x.2).ctx? 0).any (fun c => (decide (c.d.ovfCount ≤ c.ovfTail - c.ovfHead) == (x.1 == 0)) &&
      ((ctxWrite (fullQueue x.1 x.2) c c.d.ovfBase (List.replicate 32 0#8)).isNone == (x.2 == 2 ^ 40))) = true := by decide +kernel
/-- Queue 0 has its descriptor, with every pier in COREMASK, at 0x40000. -/
def masked : State := { putDev demoRest 0x40020 (List.replicate 36 0xFF#8) with queues := [⟨0, 0, 0x40000, none, false⟩] }
def movable_ : World :=
  { onM with cx := { demoCx with d := { demoCx.d with saveSize := 2 ^ 30, privSize := 2 ^ 30 } }, rest := masked }
theorem test_met_system_instructions :
    (onM.ok (.spawn 10#7 20#7) = true ∧ onM.ok (.spawnTry 10#7 20#7 0#4) = true ∧
      (∀ l ∈ onM.ctx.lanes, (onM.ctx.pair 10#7 l).toNat < 2 ^ 57 ∧ (onM.ctx.pair 10#7 l).toNat % 4 = 0) ∧
      ringAsks onM.ctx.s (segOf onM.ctx.deck.pier) onM.ctx.cx onM.ctx.lanes.length = none) ∧
    (7 < onM.state.segs.length ∧ (onM.state.seg 7).spawnQ.length < 4096) ∧
    (onM.ok (.plvl 2#7) = true ∧ onM.ok (.csrw 2#7 0x008#10) = true ∧ inTrap.ok (.csrw 2#7 0x009#10) = true ∧ inTrap.ctx.sp.trap ≠ none ∧
      onM.ok (.csrw 2#7 0x009#10) = true ∧ onM.ctx.sp.trap = none) ∧
    (told.ok .rdenter = true ∧ told.ctx.sp.quiet = true ∧ (∀ l ∈ told.ctx.lanes, (told.ctx.sp.lane l).rsn ≠ 15#4) ∧ onM.ok .rdenter = true ∧
      onM.ctx.sp.quiet = false ∧ (∀ l ∈ onM.ctx.sp.lanes, l.rsn = 0#4) ∧ isQuiescent onM.ctx.s onM.ctx.sp = true ∧ nested.ok .rdenter = true ∧
      (∃ l ∈ nested.ctx.lanes, (nested.ctx.sp.lane l).rsn = 15#4)) ∧
    (inSection.ok .rdexit = true ∧ (∀ l ∈ inSection.ctx.lanes, (inSection.ctx.sp.lane l).rsn ≠ 0#4) ∧ nested.ok .rdexit = true ∧
      (∃ l ∈ nested.ctx.lanes, (nested.ctx.sp.lane l).rsn = 0#4)) ∧
    (onM.ok (.gpstart 30#7) = true ∧ isOk (onM.ctx.write (drain onM.ctx.s onM.ctx.u onM.ctx.A) (pairDst 30#7 (fun _ => 1#64))) = true) ∧
    (onM.ok (.dfree 0#4 12#7 0#7) = true ∧ ∀ l ∈ onM.ctx.lanes, (onM.ctx.pair 12#7 l).toNat < 2 ^ 57 ∧ deckWindow (onM.ctx.pair 12#7 l).toNat = false ∧
      privWindow (onM.ctx.pair 12#7 l).toNat = false) ∧
    (movable_.ok (.migr 2#2) = true ∧ gradeOf movable_.ctx.deck.pier ≠ .v ∧
      capableSet movable_.ctx.s movable_.ctx.cx movable_.ctx.launch movable_.ctx.girder .v false ≠ none) ∧
    (onM.ok (.migr 2#2) = true ∧ capableSet onM.ctx.s onM.ctx.cx onM.ctx.launch onM.ctx.girder .v false = none) ∧
    (∀ g, (waiting 0).cx.gp.started = 1 ∧ (waiting g).state.ctx? 0 ≠ none ∧ onM.state.ctx? 0 ≠ none) := by
  refine ⟨?_, ?_, ?_, ?_, ?_, ?_, ?_, ?_, ?_, fun g => ?_⟩
  case refine_10 => exact ⟨rfl, by simp [waiting, World.state, World.withSpan, onM, State.ctx?, demoCx, fetchContext],
    by simp [World.state, onM, State.ctx?, demoCx, fetchContext]⟩
  all_goals decide +kernel

theorem shaped_of (sp : Span) (h : (sp.regs.length == 128 && sp.masks.length == 12 && sp.tags.length == 8 && sp.lanes.length == sp.width &&
    decide (sp.width ≤ 64)) = true) : sp.Shaped := by
  simp only [Bool.and_eq_true, beq_iff_eq, decide_eq_true_eq] at h
  exact ⟨h.1.1.1.1, h.1.1.1.2, h.1.1.2, h.1.2, h.2⟩
/-- A trap that is delivered, as a computation. -/
def deliversB (b : State) (iss : Issue) (t : TrapInfo) : Bool :=
  (ctxOf b iss).any (fun k => k.sp.trap.isNone && (k.cx.d.handler != 0 || k.cx.catches t.cause) &&
    (t.served || t.cause != 0x0007 || !k.cx.d.tflags.getLsbD 0) && (frameAsks b k.cx (frameAddr k.cx k.deck k.sp)).isNone)
theorem delivers_of {b : State} {iss : Issue} {t : TrapInfo} (h : deliversB b iss t = true) : ∃ k, Delivers b iss t k := by
  unfold deliversB at h
  cases hk : ctxOf b iss with
  | none => simp [hk] at h
  | some k =>
    simp only [hk, Option.any_some, Bool.and_eq_true, Bool.or_eq_true, bne_iff_ne, Option.isNone_iff_eq_none, Bool.not_eq_true'] at h
    exact ⟨k, hk, h.1.1.1, h.1.1.2, by simpa [or_assoc] using h.1.2, h.2⟩
theorem test_met_traps :
    (onM.ok (.trap 0xFFFF#16) = true ∧ onM.ok (.brk 0#16) = true ∧ inTrap.ok .tret = true ∧ inTrap.ctx.sp.trap ≠ none ∧ onM.ok .tret = true ∧
      (completeOlder inTrap.ctx.s inTrap.ctx.u).pendingOf inTrap.ctx.u = false ∧
      frameReadAsks (completeOlder inTrap.ctx.s inTrap.ctx.u) inTrap.ctx.cx 0x100000 = none ∧
      (completeOlder onM.ctx.s onM.ctx.u).pendingOf onM.ctx.u = false) ∧
    (∃ k, Delivers (completeOlder onM.ctx.s onM.ctx.u) onM.ctx.iss { TrapInfo.at 0x000F 0xFFFF#64 onM.ctx.A with complete := true, past := true } k) ∧
    (inTrap.ctx.s.span? 4 = some inTrap.sp ∧ inTrap.sp.Shaped ∧ spanContext inTrap.ctx.s inTrap.sp = some demoCx ∧
      (inTrap.sp.trap.any (fun m => m.entry.length == 4)) = true) ∧
    (onM.ctx.s.span? onM.ctx.u = some onM.ctx.sp ∧ onM.ctx.sp.Shaped ∧ (∀ l, hasLane 0xFF#64 l = true → l < onM.ctx.sp.width) ∧
      (writeFrame onM.ctx.s onM.ctx.cx 0x100000 (framePieces onM.ctx.sp (recordBytes onM.ctx.s onM.ctx.sp onM.ctx.deck onM.ctx.girder
        (TrapInfo.at 1 0#64 1#64) 0x14004 0 false) 0 0xFF#64 [])).isSome = true ∧
      onM.ctx.cx.d.frameBase + 16384 * (64 * onM.ctx.deck.pier + onM.ctx.sp.rslot) = 0x100000) := by
  refine ⟨by decide +kernel, delivers_of (by decide +kernel), ⟨by decide +kernel, shaped_of _ (by decide +kernel), by decide +kernel, by decide +kernel⟩,
    by decide +kernel, shaped_of _ (by decide +kernel), ?_, by decide +kernel, by decide +kernel⟩
  intro l h
  have h2 : (0xFF#64).getLsbD l = true := h
  have : l < 64 := by
    apply Decidable.byContradiction
    intro hl
    rw [BitVec.getLsbD_of_ge 0xFF#64 l (by omega)] at h2
    exact absurd h2 Bool.false_ne_true
  show l < 8
  revert h2
  revert this
  exact (by decide +kernel : ∀ l < 64, (0xFF#64).getLsbD l = true → l < 8) l

/-! ## Premises: issue, steps, encodings -/

/-- An issue on the wrong grade; with no lane executing; with a poisoned source. -/
def poisonedR : World := onM.withSpan (fun x => { x with poison := [(2, 0x10#64)] })
theorem test_met_issue_rules :
    ((Instr.mxvalid 4#7 0#3).cls.isSome = true ∧ startCtx (.mxvalid 4#7 0#3) onV.state = some (onV.ctx.start (.mxvalid 4#7 0#3)) ∧
      (Instr.mxvalid 4#7 0#3).grade = some .m ∧ Grade.m ≠ gradeOf onV.ctx.deck.pier) ∧
    (startCtx .nop (onM.by_ 0#64).state = some ((onM.by_ 0#64).ctx.start .nop) ∧ (onM.by_ 0#64).ctx.A = 0#64) ∧
    (startCtx (.mov ⟨30#7, 2#7, false, false⟩) poisonedR.state = some (poisonedR.ctx.start (.mov ⟨30#7, 2#7, false, false⟩)) ∧
      (poisonedR.ctx.start (.mov ⟨30#7, 2#7, false, false⟩)).A ≠ 0#64 ∧
      poisonLanes (poisonedR.ctx.start (.mov ⟨30#7, 2#7, false, false⟩)) (.mov ⟨30#7, 2#7, false, false⟩) ≠ 0#64) ∧
    maskReg 11#7 = true ∧ (fOp 0x13000001#32 = 0x13#8 ∧ fB 0x13000001#32 ≠ 0#7 ∨ fX 0x13000001#32 = true) ∧ fOp 0x13801000#32 = 0x13#8 :=
  ⟨⟨by decide, rfl, by decide, by decide⟩, ⟨rfl, by decide⟩, ⟨rfl, by decide, by decide +kernel⟩, by decide⟩

/-- The demo issue's word at its place: an addition; an addition whose source is pending; a reserved opcode. -/
def fetched (w : Word) : World := { onM with rest := { putDev demoRest 0x14004 (bytesOfWord w) with issuing := [{ demoIssue with next := 0x14008 }] } }
def stepMet (s : State) (w : Word) (i : Option Instr) (pending : Bool) : Bool :=
  match s.issuing with
  | iss :: rest =>
    let b := { advance s with issuing := rest }
    iss.cols.isNone && (picksAhead (advance s)).isNone && (match ctxOf b iss with
    | some c => c.reached && fetchIssue b c.cx iss == .words w none && (bindCause c.cx iss.pc).isNone && decode iss.cls w none == i &&
        i.elim true (fun i => !callMisplaced { iss with word := w, lit := none } i &&
          ((namedRegs c.launch.slots i).any (fun r => regPending b iss.span r) ||
            (usesStack i && b.works.any (fun x => x.span == iss.span && x.isPop)) ||
            b.works.any (fun x => x.span == iss.span && x.doubtful b) ||
            (i == .tret && b.works.all (fun x => x.span != iss.span || !x.suspended) && [124, 125, 126, 127].any (regPending b iss.span))) == pending)
    | none => false)
  | [] => false
def pendingLoad (w : World) : State := { w.state with works := [{ id := 12, span := 4, lanes := 1#64, dsts := [4], resv := 0, accs := [], kind := .load 4#3,
                                                                             iss := none }] }
/-- A load of a byte that is poisoned. -/
def doubtfulLoad (w : World) : State := { w.state with poison := [0x30000], works := [{ (pendingLoad w).works.headD default with
  dsts := [40], accs := [⟨0, .dev 0x30000, 4, 0, [], 0#64, 0#64, 0⟩] }] }
/-- A read of %sp behind the load of a popv. -/
def poppingState : State :=
  let w := (fetched (Instr.csrr 20#7 8#10).encodeWord)
  { w.state with issuing := [{ demoIssue with cls := .sys, next := 0x14008 }], works := poisonedPop.works.map (fun x => { x with dsts := [4] }) }
/-- A tret behind a load of v124. -/
def restoringState : State :=
  let w := (fetched Instr.tret.encodeWord)
  { w.state with issuing := [{ demoIssue with cls := .sys, next := 0x14008 }], works := (pendingLoad w).works.map (fun x => { x with dsts := [124] }) }
/-- Lanes 0 to 3 have been picked; lanes 4 to 7 stand at the next word and the agenda has them issue ahead. -/
def ahead : State :=
  let w := fetched 0x00281040#32
  let p := (w.withSpan (fun x => x.modLanes 0xF0#64 (fun _ l => { l with pos := { l.pos with pc := 0x14008 } }))).withPier
    (fun p => { p with last := p.last.set 0 (some (4, 0)) })
  { p.state with agenda := [.issuePick 0 0], issuing := [{ demoIssue with gset := 0x0F#64, aset := 0x0F#64 }],
                 mem := (putDev p.rest 0x14008 (bytesOfWord 0x00281040#32)).mem.writeBytes 0x14004 (bytesOfWord 0x003C1448#32) }
theorem test_met_steps :
    ((picksAhead (advance ahead)).isSome = true ∧ ahead.issuing.length = 1) ∧
    stepMet (fetched 0x00281040#32).state 0x00281040#32 (some (.add ⟨20#7, 4#7, .reg 8#7, 0#2, false⟩)) false = true ∧
    stepMet (pendingLoad (fetched 0x00281040#32)) 0x00281040#32 (some (.add ⟨20#7, 4#7, .reg 8#7, 0#2, false⟩)) true = true ∧
    stepMet (doubtfulLoad (fetched 0x00281040#32)) 0x00281040#32 (some (.add ⟨20#7, 4#7, .reg 8#7, 0#2, false⟩)) true = true ∧
    stepMet restoringState Instr.tret.encodeWord (some .tret) true = true ∧
    stepMet poppingState (Instr.csrr 20#7 8#10).encodeWord (some (.csrr 20#7 8#10)) true = true ∧
    stepMet (fetched 0xFFFFFFFF#32).state 0xFFFFFFFF#32 none false = true ∧
    (let s : State := { State.reset with agenda := [.hostMemAccess false 0 []] }
     s.issuing = [] ∧ Canon s ∧ ∃ t, step s = .next t) ∧
    ((Instr.movl 127#7 false 0xFFFFFFFF#32).wf = true ∧ (Instr.movl 127#7 false 0xFFFFFFFF#32).cls = some .alu ∧
      (decode .alu 0x00281040#32 none).isSome = true) :=
  ⟨by decide +kernel, by decide +kernel, by decide +kernel, by decide +kernel, by decide +kernel, by decide +kernel, by decide +kernel, ⟨rfl, canon_of _ (by decide +kernel), _, rfl⟩, by decide +kernel⟩

/-- Returns from a trap by lanes and by none; behind a cause of an older instruction; with the frame's page still asked for; outside trap mode. -/
def behindCause : World := inTrap.withSpan (fun x => { x with pending := some (TrapInfo.at 0x0007 0x30000#64 1#64) })
def returnMet (w : World) : Bool × Bool :=
  let t := completeOlder w.ctx.s w.ctx.u
  (t.pendingOf w.ctx.u, (w.ctx.sp.trap.bind (fun m => frameReadAsks t w.ctx.cx m.frame)).isSome)
theorem test_met_returns_from_traps :
    ((inTrap.by_ 0#64).idle .tret && (onM.by_ 0#64).idle .tret && (onM.by_ 0#64).ctx.sp.trap.isNone && returnMet (inTrap.by_ 0#64) == (false, false)) = true ∧
    (behindCause.ok .tret && (returnMet behindCause).1) = true ∧ (away_.ok .tret && returnMet away_ == (false, true)) = true := by
  refine ⟨?_, ?_, ?_⟩ <;> decide +kernel

/-! ## Premises: the device's own rows -/

/-- An outstanding engine copy of the demo span: the descriptor of `copies` with bits added, in memory that has been changed. -/
def copyIn (op next bits : Nat) (mem : State → State) (f : CopyOp → CopyOp) : State :=
  let d : BitVec 1024 := BitVec.ofNat 1024 (bytesNat (readLocs (copies op).state (.dev 0x31000) 128)) + BitVec.ofNat 1024 bits
  mem ((copies op).working (.copy (f ⟨0, 1, 3, op, d, 0x14004, descTl d, 1, descPieces op d, next, false, 0, true, false, false, false, [], []⟩)) [30] [])
def copyOf (op next : Nat) (f : CopyOp → CopyOp) : State := copyIn op next 0 id f
/-- A piece that may land, with what its keys read and what it would land. -/
def pieceWith (s : State) (p : CopyOp → Agent → Girder → Deck → List (Nat × Nat) → Bool) : Bool :=
  let w := firstWork s
  match w.kind with
  | .copy c => c.open_ && !fillHeld s w && (match agentOf s c.ctx c.launch c.deck c.wins, s.deck? c.deck with
    | some g, some d => (s.girder? d.girder).any (fun gd => match readKeys s g c (c.keys c.next) with
      | .ok memo => p c g gd d memo
      | .error _ => false)
    | _, _ => false)
  | _ => false
/-- It lands. -/
def landsB (s : State) : Bool := match (firstWork s).kind with
  | .copy c => (match tryPiece s (firstWork s) c with
    | .ok _ => true
    | .error _ => false)
  | _ => false
def reads (s : State) (g : Agent) (va n : Nat) : Bool := match engineRead s g va n with
  | .ok _ => true
  | .error _ => false
/-- Pieces of each operation: of tsparse the second source element, the first, and zeros; of tscatter plain rows, and a row whose index comes again
and the last one with it; of tcoll every kind. -/
theorem test_met_copy_pieces :
    (List.range 5).all (fun op => landsB (copyOf op 0 id)) = true ∧ pieceWith (copyOf 0 3 id) (fun c g _ _ _ => reads (copyOf 0 3 id) g (addr64 (descSrc c.desc) 0) (descBytes c.desc)) = true ∧
    (pieceWith (copyOf 1 0 id) (fun c _ _ _ m => m == [(0, 0)] && !descWs c.desc && descExt c.desc 0 % 4 == 0) &&
     pieceWith (copyIn 1 0 0 (putDev · 0 [4#8]) id) (fun _ _ _ _ m => m == [(0, 4)]) && pieceWith (copyOf 1 1 id) (fun _ _ _ _ m => m == [(0, 0)])) = true ∧
    pieceWith (copyOf 2 0 id) (fun _ _ _ _ m => m == [(0, 0)]) = true ∧ pieceWith (copyOf 3 0 id) (fun c _ _ _ m => m == [(0, 0)] && descOp c.desc == 0) = true ∧
    [0, 4].all (fun next => pieceWith (copyIn 3 next (2 ^ 142 + 2 ^ 160) id id)
      (fun c _ _ _ m => m == [(0, 0), (1, 0)] && descOp c.desc == 1 && descAux c.desc == 2)) = true ∧
    pieceWith (copyOf 4 0 id) (fun _ _ _ _ m => m == []) = true ∧
    (List.range 4).all (fun k => pieceWith (copyIn 5 0 (2 ^ 160 * k) id id) (fun c g gd d m => m == [] && descAux c.desc % 16 == k &&
      (let r := ranksOf (copyOf 5 0 id) c gd.size d.member
       r.1 == 1 && (List.range 4).all (fun e => match collElem (copyOf 5 0 id) c g gd.uid r.2 0 e with
         | .ok _ => true
         | .error _ => false)))) = true := by
  refine ⟨?_, ?_, ?_, ?_, ?_, ?_, ?_, ?_⟩ <;> decide +kernel
/-- A tsparse to the weight store; keys that have been read and that have not; reads and writes of engines that reach their bytes. -/
def sparseRow : State :=
  let d : BitVec 1024 := BitVec.ofNat 1024 (0x30000 + 2 ^ 128 * 0xF8022000 + 2 ^ 160 * 0x00820800 + 2 ^ 256 * 64)
  owning.working (.copy ⟨0, 1, 3, 1, d, 0x14004, descTl d, 1, descPieces 1 d, 0, false, 0, true, false, false, false, [], []⟩) [] []
theorem test_met_engine_accesses :
    pieceWith sparseRow (fun c g _ _ m => descWs c.desc && (List.range 64).all (fun e => match sparseElem sparseRow g { c with memo := m } 0 e with
      | .ok _ => true
      | .error _ => false)) = true ∧
    pieceWith (copyIn 2 0 0 id (fun c => { c with memo := [(0, 7)] })) (fun c _ _ _ m => (c.memo.find? (fun x => x.1 == 0)) == some (0, 7) && m == [(0, 7)]) = true ∧
    pieceWith (copyOf 0 0 id) (fun _ g _ _ _ => (match engineLocs (copyOf 0 0 id) g .read 0x30000 4, engineLocs (copyOf 0 0 id) g .write 0x30800 4 with
      | .ok _, .ok _ => true
      | _, _ => false)) = true ∧
    pieceWith (copyOf 0 0 id) (fun _ g _ _ _ => match engineLoc (copyOf 0 0 id) g .read 0x30000 0x30000 4 with
      | .ok _ => true
      | .error _ => false) = true ∧ Canon (copyOf 0 0 id) := by
  refine ⟨?_, ?_, ?_, ?_, canon_of _ ?_⟩ <;> decide +kernel

def stopped (s : State) : Bool := match (firstWork s).kind with
  | .copy c => c.suspended || c.cut || !c.joined || c.bad || c.dead || decide (c.total ≤ c.next)
  | _ => false
def done_ (s : State) : Bool := match (firstWork s).kind with
  | .copy c => !c.suspended && !c.cut && !c.bad && !c.dead && c.joined && decide (c.total ≤ c.next) && c.op != 5 && !tokenHeld s (firstWork s) c
  | _ => false
def fillWork (rows : Bool) (f : FillOp → FillOp) : State :=
  let f : FillOp := f ⟨0, 1, 3, 0x14004, if rows then 0x000600DF#32 else 0x00820000#32, 0x30000, 4, 0, false, 8, 1, []⟩
  owning.working (if rows then .rows f else .load8 f) [] []
/-- A fill whose next row may land, its turn on the bus come. -/
def rowMet (s : State) : Bool :=
  let w := firstWork s
  match w.kind with
  | .load8 f => !f.suspended && !fillHeld s w && (match tryRow s w with
    | .ok _ => true
    | .error _ => false)
  | .rows f => busTurn s (trussOf 0) == some 0 && oldestRow s 0 == some w.id && (s.deck? f.deck).any (fun d => d.pier == 0) && (match tryRow s w with
    | .ok _ => true
    | .error _ => false)
  | _ => false
/-- A copy that its piece's fault suspends: its source page is not mapped. -/
def faulting : State := copyIn 0 0 (2 ^ 40) id id
theorem test_met_engine_pieces :
    (stopped (copyOf 0 0 (fun c => { c with suspended := true })) && stopped (copyOf 0 0 (fun c => { c with cut := true })) &&
     stopped (copyOf 5 0 (fun c => { c with joined := false })) && stopped (copyOf 5 0 (fun c => { c with bad := true })) &&
     stopped (copyOf 0 0 (fun c => { c with dead := true })) && stopped (copyOf 0 4 id)) = true ∧
    (List.range 5).all (fun op => done_ (copyOf op 4 id)) = true ∧
    (nextFault (copyOf 0 0 (fun c => { c with cut := true })) (firstWork (copyOf 0 0 (fun c => { c with cut := true })))).isSome = true ∧
    (nextFault faulting (firstWork faulting)).isSome = true ∧ (copyOf 0 0 id).span? 4 = some (copies 0).sp ∧ (copies 0).sp.pending = none ∧
    rowMet (fillWork false id) = true ∧ rowMet (fillWork true id) = true ∧
    (oldestRow (fillWork true (fun f => { f with suspended := true })) 0 ≠ some 12) ∧ Matrix.clear.weights.wf = true ∧ Matrix.clear.rows.wf = true := by
  refine ⟨?_, ?_, ?_, ?_, ?_, ?_, ?_, ?_, ?_, ?_, ?_⟩ <;> decide +kernel

/-- A girder's collective whose pieces have all landed: where its members have ended, and where its deck moves; and the ends of copies: of an
aborted span, with the image open, and with it shut over a live span and over one without lanes. -/
def collDone (s : State) (ended : Bool) : Bool :=
  match (firstWork s).kind with
  | .copy c => c.op == 5 && bitsOf (descAux c.desc) 4 4 == 0 && !c.suspended && !c.cut && !c.bad && !c.dead && c.joined && decide (c.total ≤ c.next) &&
    (s.deck? c.deck).any (fun d => (s.girder? d.girder).any (fun g =>
      ((List.range g.size).filterMap (fun m => collMate s g.uid m true)).all (fun x => x.2.dead ||
        (decide (x.2.total ≤ x.2.next) && !x.2.suspended && !x.2.cut && !tokenHeld s x.1 x.2)) == ended))
  | _ => false
def endsCopy (s : State) (dead shut live : Bool) : Bool :=
  match (firstWork s).kind with
  | .copy c => c.dead == dead && imageShut s c.deck == shut && (s.span? (firstWork s).span).any (fun x => (x.live != 0#64) == live)
  | _ => false
def shutDeck (s : State) : State := s.modDeck 3 (fun d => { d with status := .moving .v })
theorem test_met_copy_ends :
    (collDone (copyOf 5 4 id) true && collDone (shutDeck (copyOf 5 4 id)) false) = true ∧
    (endsCopy (copyOf 0 4 (fun c => { c with dead := true })) true false true && endsCopy (copyOf 0 4 id) false false true &&
      endsCopy (shutDeck (copyOf 0 4 id)) false true true &&
      endsCopy (shutDeck (endLanes (copyOf 0 4 id) 4 (BitVec.allOnes 64))) false true false) = true := by
  constructor <;> decide +kernel

/-- A wave of the demo span; lanes that wait in set 1, which some have not reached; a turn that has come; spans in line for slots. -/
def setWaiters (m : LaneSet) : World :=
  onM.withSpan (fun x => { x with masks := x.masks.set 1 0x0F#64, lanes := x.lanes.zipIdx.map (fun y =>
    if hasLane m y.2 then { y.1 with pos := { y.1.pos with st := .waiting (.setOpen 1) } } else y.1) })
def turned : State :=
  let w := ringed 0#2 0#32
  { w.working (.ring 0 0 true 0#32) [30] [] with decks := [{ w.deck with rings := w.deck.rings.set 0 ⟨0, 0, 0#32, 0#32⟩ }] }
def lining (pool : Nat) : State :=
  let w := onM.withSpan (fun x => { x with lanes := x.lanes.map (fun y => { y with pos := { y.pos with st := .waiting (.grow 2 7) } }) })
  w.state.modPier 0 (fun p => { p with pool := pool, growQ := [(4, 7)] })
theorem test_met_waiting_lanes :
    (onM.state.deck? 3 = some onM.deck ∧ onM.state.decksOf 2 = [onM.deck] ∧ (0 < 16 ∧ 16 ≤ 19 ∧ 19 < 20)) ∧
    (({ onM.state with waves := [[⟨[(4, 0)]⟩]] } : State).waves.getD 0 [] = ⟨[(4, 0)]⟩ :: []) ∧
    (setWaiters 0x0F#64).state.span? 4 = some (setWaiters 0x0F#64).sp ∧
    (∀ i ∈ lanesOf ((setWaiters 0x0F#64).sp.mask 1), inSet (setWaiters 0x0F#64).sp 0x14004 1 i = true) ∧
    (((setWaiters 0x0F#64).sp.lane 3).pos.st = .waiting (.setOpen 1)) ∧ (((setWaiters 0x07#64).sp.lane 0).pos.st = .waiting (.setOpen 1)) ∧
    (∃ i ∈ lanesOf ((setWaiters 0x07#64).sp.mask 1), inSet (setWaiters 0x07#64).sp 0x14004 1 i = false) ∧
    (ringReady turned 3 0).isSome = true ∧ (onM.state.pier 0).growQ = [] ∧
    ((lining 2).pier 0).growQ = (4, 7) :: [] ∧ ((lining 1).pier 0).pool = 1 ∧
    (((lining 2).span? 4).elim false (fun x => (growWait x 7).any (fun y => y.2 == 2) && decide (2 ≤ ((lining 2).pier 0).pool) &&
      decide (x.grant + 2 ≤ x.ceil))) = true := by
  refine ⟨?_, ?_, ?_, ?_, ?_, ?_, ?_, ?_, ?_, ?_, ?_, ?_⟩ <;> decide +kernel

/-- A slot's turn comes for a deck whose image is shut; a grow in line whose slots are there passes the ceiling. -/
theorem test_met_shut_rings_and_ceilings :
    (imageShut (shutDeck turned) 3 && !imageShut turned 3) = true ∧
    (let s := (lining 2).modSpan 4 (fun x => { x with ceil := x.grant + 1 })
     (s.pier 0).growQ = (4, 7) :: [] ∧ (s.span? 4).any (fun x => (growWait x 7).any (fun y => y.2 == 2) && decide (2 ≤ (s.pier 0).pool) &&
       decide (x.ceil < x.grant + 2)) = true) := by
  refine ⟨?_, ?_, ?_⟩ <;> decide +kernel

/-- A deck that waits for its pier's free unit; an armed keystone that runs; a lane that watches a word. -/
def wantsUnit : State := (onM.withSpan (fun x => { x with lanes := x.lanes.map (fun y => { y with pos := { y.pos with st := .waiting (.matrix 0 0) } }) })).state
def running : State :=
  { owning.state with girders := [{ owning.girder with keys := owning.girder.keys.set 0 ⟨2, 0, 0, 0, [], [⟨3, 0x804081#64, 20, false, false, false, [], []⟩], []⟩ }] }
def watching : State :=
  (onM.withSpan (fun x => { x with lanes := x.lanes.map (fun y => { y with pos := { y.pos with st := .waiting (.entw 0x30000 0#64) } }) })).state
theorem test_met_unit_rows :
    (owning.state.pier 0).owner = some 3 ∧ 0 < owning.state.piers.length ∧ (wantsUnit.pier 0).owner = none ∧ (wantsUnit.pier 0).mtx ≠ none ∧ (wantsUnit.pier 160).mtx = none ∧
    ((wantsUnit.decks.filter (fun d => d.pier == 0 && d.status == .running)).find? (fun d =>
      (wantsUnit.spansOf d.uid).any (fun x => (x.lanes).any (Lane.waits (fun _ v => v == .matrix 0 0)))) = some onM.deck) ∧
    ((running.girder? 2).elim false (fun g => (g.keys[0]?).elim false (fun k => k.st == 2 &&
      (k.armed.find? (fun a => !a.started && !fillOutstanding running a.deck a.before)).isSome && (running.launch? g.launch).isSome))) = true ∧
    ((watching.span? 4).elim false (fun x => (x.lane 0).pos.st == .waiting (.entw 0x30000 0#64) && spanCtx watching x == some 0 &&
      (watching.ctx? 0).elim false (fun cx => translate watching cx true .read 0x30000 == .ok (.dev 0x30000) 0))) = true := by
  refine ⟨?_, ?_, ?_, ?_, ?_, ?_, ?_, ?_⟩ <;> decide +kernel

/-- The demo span at a header word, its role, and whether it is in trap mode; the same once the header has been decoded. -/
def header (w : Word) (role : BitVec 2) (roles : Bool) : State :=
  (onM.withSpan (fun x => { x with role := role, trap := none, lanes := x.lanes.map (fun y => { y with pos :=
    { pc := 0x14000, clause := none, p := true, st := if roles then .standing else .waiting (.header w) } }) })).state |> (putDev · 0x14000 (bytesOfWord w))
def headerMet (s : State) (w : Word) (standing : Bool) : Bool :=
  (s.span? 4).elim false (fun x => spanActs s x && x.reinj == [] && hasLane x.movable 0 && (x.lane 0).pos.clause.isNone &&
    (x.lane 0).pos.st == (if standing then .standing else .waiting (.header w)) && (spanEnv s x).elim false (fun e =>
      match fetchWord s e.2 e.1.uid 0x14000 (sameGroup x 0) with
      | .word v => v == w
      | _ => false))
def mtxHeader : Word := Header.encode ⟨1, .mtx, 0, false, 1#8, 0⟩
def tagged : State := (header mtxHeader 0#2 false).modSpan 4 (fun x => { x with tags := [1, 0, 0, 0, 0, 0, 0, 0] })
theorem test_met_picks_and_headers :
    (onM.state.issuing = [] ∧ slotSpans onM.state 0 0 = [demoSpan] ∧ readyIssues onM.state demoSpan ≠ [] ∧ demoRest.issuing = []) ∧
    ((fetched 0#32).state.issuing ≠ [] ∧ ((fetched 0#32).state.span? 4).elim false (fun x => aheadIssues (fetched 0#32).state x == []) = true ∧
      (ahead.span? 4).elim false (fun x => (aheadIssues ahead x).length == 1 && (freeIssues ahead x).length == 1) = true) ∧
    (let y := onM.withSpan (fun x => { x with lanes := x.lanes.map (fun l => { l with yieldTill := some 9 }) })
     readyIssues y.state y.sp ≠ [] ∧ freeIssues y.state y.sp = []) ∧
    (headerMet (header 0x24400000#32 0#2 true) 0x24400000#32 true && (decodeHeader 0x24400000#32).elim false (fun h => !roleForbids 0#2 h.cls)) = true ∧
    (headerMet (header mtxHeader 1#2 true) mtxHeader true && (decodeHeader mtxHeader).elim false (fun h => roleForbids 1#2 h.cls) && headerMet (header 0#32 0#2 true) 0#32 true && (decodeHeader 0#32).isNone) = true ∧
    (headerMet (header 0x24400000#32 0#2 false) 0x24400000#32 false && (decodeHeader 0x24400000#32).elim false (fun h => tagsClear demoSpan h.tagwait)) = true ∧
    (headerMet tagged mtxHeader false && (tagged.span? 4).elim false (fun x => (decodeHeader mtxHeader).elim false (fun h => !tagsClear x h.tagwait))) = true := by
  refine ⟨?_, ?_, ?_, ?_, ?_, ?_, ?_⟩ <;> decide +kernel

/-- The lanes that a handler stopped wait at a header, while their own positions stand in the handler; lanes of a group in flight have their next
word ahead. -/
def heldHeader (w : Word) : State :=
  (inTrap.withSpan (fun x => { x with lanes := x.lanes.map (fun y => { y with held := some ⟨0x14100, none, true, .waiting (.header w)⟩ }) })).state
def heldMet (s : State) (w : Word) : Bool :=
  (s.span? 4).elim false (fun x => (x.lane 0).held.any (fun q => q.st == .waiting (.header w) && (decodeHeader w).any (fun h => tagsClear x h.tagwait) &&
    (lanesOf (lanesBelow 8)).all (fun i => [(x.lane i).pos, ((x.lane i).held.getD q)].all (fun r =>
      (r.pc == q.pc && r.st == q.st) || (headerReady x r).isNone))))
def aheadNext : State :=
  let w := fetched 0x00281040#32
  { w.state with agenda := [.issuePick 0 0], issuing := [{ demoIssue with next := 0x1400C }],
                 mem := (putDev w.rest 0x14008 (bytesOfWord 0x00281040#32)).mem.writeBytes 0x14004 (bytesOfWord 0x003C1448#32),
                 piers := (w.withPier (fun p => { p with last := p.last.set 0 (some (4, 0)) })).state.piers }
theorem test_met_held_headers_and_next_words :
    (heldMet (heldHeader 0x24400000#32) 0x24400000#32 && heldMet (heldHeader mtxHeader) mtxHeader) = true ∧
    (ahead.span? 4).any (fun x => (aheadIssues ahead x).any (fun e => ahead.issuing.all (fun i => e.gset &&& i.gset == 0#64))) = true ∧
    (aheadNext.span? 4).any (fun x => (aheadIssues aheadNext x).any (fun e =>
      aheadNext.issuing.any (fun i => e.gset == i.gset && e.pc == i.pc + 4 && e.pc != i.next))) = true := by
  refine ⟨?_, ?_, ?_⟩ <;> decide +kernel

/-! ## Premises: collectives, rows that ask, and what stops copies, rings and barriers -/

/-- A collective of two decks of which the demo deck is member 0, of the kind and group of `aux`. -/
def paired (next aux : Nat) : State := { copyIn 5 next (2 ^ 160 * aux) id id with girders := [newGirder 2 1 0 0 0 2 0] }
/-- A member that has joined and one that has not; a group of other devices; a reduce-scatter's pieces at 0 and 3 of four. -/
theorem test_met_collective_members :
    pieceWith (paired 0 0) (fun c _ gd d _ => ranksOf (paired 0 0) c gd.size d.member == (2, 0) &&
      (collMate (paired 0 0) gd.uid 0 true).any (fun x => (agentOf (paired 0 0) x.2.ctx x.2.launch x.2.deck x.2.wins).isSome) &&
      (collMate (paired 0 0) gd.uid 1 true).isNone) = true ∧
    pieceWith (paired 0 16) (fun c _ gd d _ => bitsOf (descAux c.desc) 4 4 == 1 && ranksOf (paired 0 16) c gd.size d.member == (1, 0)) = true ∧
    [0, 3].all (fun next => pieceWith (paired next 2) (fun c _ gd d _ => descAux c.desc % 16 == 2 && c.total == 4 &&
      ranksOf (paired next 2) c gd.size d.member == (2, 0))) = true := by
  refine ⟨?_, ?_, ?_⟩ <;> decide +kernel
/-- Wherever rank 0's two elements of four lie, one of the pieces 0 and 3 receives nothing; a rank alone receives every element. -/
theorem test_met_scattered_pieces : (∃ next ∈ [0, 3], scatterFrom 2 4 0 next = none) ∧ scatterFrom 1 4 0 0 = some 0 ∧ gatherFrom 1 4 0 = some (0, 0) := by
  refine ⟨?_, ?_, ?_⟩
  · by_cases h : partBase 2 4 0 ≤ 0
    · refine ⟨3, by simp, if_neg ?_⟩
      rintro ⟨-, hi⟩
      simp [inPart, partStart] at hi
      have := of_decide_eq_true hi
      omega
    · exact ⟨0, by simp, if_neg (fun hi => h hi.1)⟩
  · simp [scatterFrom, partBase, partOf, inPart, partStart, Nat.mod_one]
  · simp [gatherFrom, partBase, partOf, inPart, partStart, Nat.mod_one]

/-- A row whose source the host has told nothing of, at its first plane; two fills of one pier, of which the younger waits. -/
def asking : State :=
  let s := fillWork true (fun f => { f with va := 0x40000000 })
  { s with mem := (hosted owning).state.mem }
def twoFills : State :=
  let s := fillWork true id
  { s with works := s.works ++ s.works.map (fun w => { w with id := 13 }) }
theorem test_met_row_waits :
    (match (firstWork asking).kind with
     | .rows f => !f.suspended && !fillHeld asking (firstWork asking) && decide (0 < f.kblocks * rowPa f.word) &&
         (agentOf asking f.ctx f.launch f.deck f.wins).any (fun g => match engineRead asking g (addr64 f.va 0) 8 with
           | .error (.ask _) => true
           | _ => false)
     | _ => false) = true ∧
    (twoFills.work? 13).any (fun w => rowReady twoFills w && oldestRow twoFills 0 != some w.id) = true ∧
    ((fillWork true (fun f => { f with suspended := true })).work? 12).any (fun w => match w.kind with
      | .rows f => f.suspended
      | _ => false) = true := by
  refine ⟨?_, ?_, ?_⟩ <;> decide +kernel

/-- Where a reservation traps. -/
def trapsB {α : Type} (r : Run α) : Bool := match r with
  | .error (.trap _ _) => true
  | _ => false
/-- A descriptor that is misaligned, beyond the addresses, absent and poisoned; a token without room; cpl where a destination is misaligned or beyond
deck memory, and a source on a device page, absent. -/
theorem test_met_copy_traps :
    (let c := faulty.ctx
     let r := match c.reserve (drain c.s c.u c.A) (one 50#7) with
       | .ok x => x.1
       | .error _ => c.s
     isOk (c.reserve (drain c.s c.u c.A) (one 50#7)) = true ∧
     [(20#7, 0), (28#7, 1), (32#7, 3), (26#7, 4)].all (fun (b, n) =>
       tripsB faulty (.tcopy 50#7 b) r (·.size) 3 true [⟨c.low, c.pair b c.low, 128, .global, false⟩] n) = true) ∧
    [capped, drained].all (fun w => [Instr.tcopy 30#7 12#7, .tsparse 30#7 12#7, .tgather 30#7 12#7, .tscatter 30#7 12#7, .tfill 30#7 12#7, .tcoll 30#7 12#7].all
      (fun i => w.ok i) && trapsB (w.ctx.reserve (drain w.ctx.s w.ctx.u w.ctx.A) (one 30#7))) = true ∧
    [(20#7, 12#7, 0), (12#7, 12#7, 1), (0#7, 18#7, 2), (0#7, 24#7, 3)].all (fun (a, b, n) =>
      let c := faulty.ctx
      tripsB faulty (.cpl a b 33#7 0#3) c.s (fun q => if q.wr then 32 else 1) 1 false
        (c.lanes.flatMap (fun l => cplSources l (c.pair b l) (min (c.src 33#7 l).toNat 32) ++ [⟨l, (c.src a l).zeroExtend 64, 32, .deck, true⟩])) n) = true ∧
    faulty.ctx.sp.tag 0 + laneCount faulty.ctx.A ≤ 255 := by
  refine ⟨⟨?_, ?_⟩, ?_, ?_, ?_⟩ <;> decide +kernel

/-- An arrival and a turn in a ring whose destinations find no room. -/
theorem test_met_arrivals_without_room :
    [capped, drained].all (fun w => w.ok (.bararr 30#7 0#7) && !(w.ctx.bar 0).broken && (w.ctx.A &&& ~~~(w.ctx.marked 0) != 0#64)) = true ∧
    (let w := (ringed 0#2 0#32).withSpan (fun x => { x with ceil := 1 })
     w.ok (.stgacq 30#7 0#7) = true ∧ ringSide (w.ctx.launch.rings.getD 0 0#64) w.ctx.sp.role = some true ∧ needAtIssue w.ctx (one 30#7) = 1 ∧
     w.ctx.sp.grant + needAtIssue w.ctx (one 30#7) - w.ctx.sp.spare > w.ctx.sp.ceil) := by
  refine ⟨?_, ?_, ?_, ?_, ?_⟩ <;> decide +kernel

/-! ## Premises: traps at boundaries, retirement, launches, spawns, parking -/

def pendingTrap : World := onM.withSpan (fun x => { x with pending := some (TrapInfo.at 0x0006 0x30000#64 1#64) })
def late : World := { onM with rest := { demoRest with time := 10000 } }
def paging (sent : Nat) (waiting : List Nat) : World :=
  onM.withSpan (fun x => { x with stop := .pages (TrapInfo.at 0x0007 0x30000#64 1#64) sent waiting })
/-- An older load of the span is completed before its trap is delivered. -/
def olderDone (w : World) : State := completeOlder w.state 4
def boundaryOf (w : World) : Issue := boundaryIssue 4 0x14004 w.sp.live
def ended : World := onM.withSpan (fun x => { x with lanes := x.lanes.map (fun y => { y with pos := { y.pos with st := .exited } }) })
def World.withStatus (w : World) (st : DeckStatus) : World := { w with deck := { w.deck with status := st } }
theorem test_met_boundary_traps_and_retirement :
    (pendingTrap.state.span? 4 = some pendingTrap.sp ∧ pendingTrap.sp.stop = .running ∧ beforeSave pendingTrap.state 3 = true ∧
      pendingTrap.sp.pending ≠ none) ∧
    (late.state.span? 4 = some late.sp ∧ (spanEnv late.state late.sp).elim false (fun e => watchdogDue late.state late.sp e.2) = true) ∧
    (onM.state.span? 4 = some onM.sp ∧ (spanEnv onM.state onM.sp).elim false (fun e => decide (onM.state.time < onM.sp.lastIssue + 1000 * e.2.d.wdog)) = true) ∧
    (∀ r ∈ [[], [0x31000]], (paging 1 (0x30000 :: r)).state.span? 4 = some (paging 1 (0x30000 :: r)).sp ∧
      (paging 1 (0x30000 :: r)).sp.stop = .pages (TrapInfo.at 0x0007 0x30000#64 1#64) (0 + 1) (0x30000 :: r)) ∧
    (ended.state.span? 4 = some ended.sp ∧ ended.state.deck? ended.sp.deck = some ended.deck ∧ spanDone ended.state ended.sp = true ∧ ended.deck.resident = true) ∧
    ((ended.withStatus .parked).state.span? 4 = some ended.sp ∧ spanDone (ended.withStatus .parked).state ended.sp = true ∧
      (ended.withStatus .parked).deck.resident = false ∧ (ended.withStatus .parked).state.deck? 3 = some (ended.withStatus .parked).deck) ∧
    onM.sp.live ≠ 0#64 ∧ (onM.withStatus .clearing).state.deck? 3 = some (onM.withStatus .clearing).deck := by
  refine ⟨?_, ?_, ?_, ?_, ?_, ?_, ?_, ?_⟩ <;> decide +kernel
/-- The traps that reach their handlers, and a request for which the host has room. -/
theorem test_met_boundary_deliveries :
    ((olderDone pendingTrap).span? 4).any (fun x => x.pending.isSome) = true ∧
    (∃ k, Delivers (olderDone pendingTrap) (pendingIssue pendingTrap.sp (TrapInfo.at 0x0006 0x30000#64 1#64)) (TrapInfo.at 0x0006 0x30000#64 1#64) k) ∧
    ((olderDone late).pendingOf 4 = false ∧
      ∃ k, Delivers (olderDone late) (boundaryOf late) { TrapInfo.at 0x0010 10#64 late.sp.live with boundary := some 0x14004 } k) ∧
    (0 < Config.priAllocation → min ([0x30000].length - 0) (Config.priAllocation - sentPages (paging 0 [0x30000]).state) ≠ 0) := by
  refine ⟨by decide +kernel, delivers_of (by decide +kernel), ⟨by decide +kernel, delivers_of (by decide +kernel)⟩, ?_⟩
  have h : sentPages (paging 0 [0x30000]).state = 0 := by decide +kernel
  rw [h]
  simp
  omega

/-- Answers to a request of a span that has moved on, and to one of a span that still waits, with another request outstanding. -/
theorem test_met_page_answers :
    (({ (paging 1 [0x30000]).state with prgLoose := [4] } : State).prgLoose.contains 4 = true ∧
    (paging 2 [0x30000, 0x31000]).sp.stop = .pages (TrapInfo.at 0x0007 0x30000#64 1#64) (1 + 1) [0x30000, 0x31000] ∧
    (paging 2 [0x30000, 0x31000]).state.span? 4 = some (paging 2 [0x30000, 0x31000]).sp ∧ (paging 2 [0x30000, 0x31000]).state.prgLoose.contains 4 = false) := by
  refine ⟨?_, ?_, ?_, ?_⟩ <;> decide +kernel

/-- Queue 0 of context 0, mapped on slot 0, with one record at 0x50000 and its descriptor at 0x40000; the record's launch, and its girder to place. -/
def queueWith (ringBase rd wr : Nat) : State :=
  { putDev (putDev demoRest 0x40000 (natBytes 8 ringBase ++ natBytes 4 4 ++ natBytes 4 rd ++ natBytes 4 wr ++ natBytes 4 0x01000000 ++ natBytes 4 1))
      0x40020 (List.replicate 36 0xFF#8) with
    queues := [⟨0, 0, 0x40000, none, false⟩], ctxs := [demoCx], hw := ⟨some 0, 0, 0, [], [], false⟩ :: List.replicate 63 ⟨none, 0, 0, [], [], false⟩ }
def recorded (entry : Nat) : State := putDev (putDev (queueWith 0x50000 0 1) 0x50000 (natBytes 8 entry)) 0x50028 (natBytes 4 128)
def started (s : State) (next : Nat) : State :=
  { s with launches := [{ fetchLaunch 1 0 0 with nextGirder := next }], queues := [⟨0, 0, 0x40000, some 1, false⟩] }
def startMet (s : State) : Option (Option (Nat × Nat)) :=
  match s.queue? 0, s.ctx? 0 with
  | some q, some cx =>
    if q.launch.isNone && !q.destroying && (slotOf s 0).isSome && qState s 0 == 1 && rdIdx s 0 != wrIdx s 0 then
      match translate s cx false .read (queueField s 0 0x00 8 + 512 * (rdIdx s 0 % queueField s 0 0x08 4)) with
      | .ok l _ =>
        let x := recordLaunch (readLocs s l 512) s.fresh 0 cx.num (rdIdx s 0)
        if !poisoned s l 512 && (asksFor s cx x.compl).isNone then some (recordFault s cx x (readLocs s l 512)) else none
      | _ => none
    else none
  | _, _ => none
def placeMet (s : State) (piers : List Nat) : Bool :=
  match s.launch? 1, s.ctx? 0 with
  | some l, some cx => (newWant s l).any (fun w => w.allowed s cx l piers)
  | _, _ => false
def newMet (s : State) : Bool := (s.launch? 1).any (fun l => (newWant s l).any (fun w => w.decks == []))
def endMet (s : State) (done : Bool) : Bool :=
  match s.queue? 0, s.launch? 1, s.ctx? 0 with
  | some q, some l, some cx => q.launch == some 1 && launchDone s l == done && (asksFor s cx l.compl).isNone
  | _, _, _ => false
/-- A second queue of higher number and equal priority waits on slot 1 for the only pier of its mask, where the first one's deck runs. -/
def pressedBy (prio : Nat) : State :=
  let s := started (recorded 0x14000) 1
  let s := { putDev s 0x41000 (natBytes 8 0x50000 ++ natBytes 4 4 ++ natBytes 4 0 ++ natBytes 4 1 ++ natBytes 4 (0x01000000 + 65536 * prio) ++ natBytes 4 1) with
    queues := [⟨0, 0, 0x40000, some 1, false⟩, ⟨1, 0, 0x41000, some 50, false⟩] }
  { putDev s 0x41020 (natBytes 1 1) with
    hw := ⟨some 0, 0, 0, [], [], false⟩ :: ⟨some 1, 0, 0, [], [], false⟩ :: List.replicate 62 ⟨none, 0, 0, [], [], false⟩,
    launches := [{ fetchLaunch 1 0 0 with nextGirder := 1 }, { fetchLaunch 50 0 1 with nextGirder := 0 }],
    girders := [newGirder 2 1 0 0 0 1 0], decks := [{ demoDeck 0 with memSize := 262144 }],
    piers := { Pier.reset with pool := 0 } :: List.replicate 287 .reset }
def pressed : State := pressedBy 0
/-- Every slot is taken, by queues of priority 0 that are busy or idle; queue 1 wants one. -/
def crowded (prio rd : Nat) : State :=
  { pressedBy prio with hw := List.replicate 64 ⟨some 0, 0, 0, [], [], false⟩, queues := [⟨0, 0, 0x40000, none, false⟩, ⟨1, 0, 0x41000, none, false⟩],
                        mem := (pressedBy prio).mem.writeBytes 0x4000C (natBytes 4 rd) }
/-- Queues that take a free slot, an idle one, one of lower priority, and none; and a slot that needs piers of lower ones, or does not. -/
theorem test_met_queue_slots :
    ((queueWith 0x50000 0 1).hw.findIdx? (fun h => h.queue.isNone) = some 1 ∧ slotOf (queueWith 0x50000 0 1) 1 = none ∧
      slotOf (queueWith 0x50000 0 1) 0 = some 0) ∧
    ((crowded 0 1).hw.findIdx? (fun h => h.queue.isNone) = none ∧ idleSlot (crowded 0 1) = some 0 ∧ (mapOne (crowded 0 1)).isSome = true) ∧
    [0, 1].all (fun p => idleSlot (crowded p 0) == none && slotOf (crowded p 0) 1 == none && mapOne (crowded p 0) == none &&
      decide (slotPrio (crowded p 0) ⟨some 0, 0, 0, [], [], false⟩ < prio (crowded p 0) 1) == (p == 1)) = true ∧
    ((crowded 0 1).queues.map (·.num)).Nodup ∧ queueCtx (crowded 0 1) 1 = some 0 ∧ (crowded 0 1).ctx? 0 ≠ none ∧
    [0, 1].map (fun p => let s := { pressedBy p with spans := [{ demoSpan with grant := 24576 }] }
      (s.hw[1]?).bind (slotChoice s)) = [none, some [0]] := by
  refine ⟨?_, ?_, ?_, ?_, ?_, ?_, ?_⟩ <;> decide +kernel
theorem test_met_launch_rows :
    startMet (recorded 0x14000) = some none ∧ startMet (recorded 0x14002) = some (some (0x0006, 0)) ∧
    placeMet (started (recorded 0x14000) 0) [287] = true ∧
    (newMet (started (recorded 0x14000) 0) = true ∧ placeMet (started (recorded 0x14000) 0) [287, 286] = false) ∧ endMet (started (recorded 0x14000) 1) true = true ∧ endMet (started (recorded 0x14000) 0) false = true ∧
    (let s := queueWith 0x50000 0 0
     (s.queue? 0).isSome = true ∧ s.trust.recovery = false ∧
     2 ^ 31 ≤ (0xFFFFFFFF + 2 ^ 32 - wrIdx s 0) % 2 ^ 32 ∧
     ((5 + 2 ^ 32 - wrIdx s 0) % 2 ^ 32 < 2 ^ 31 ∧ queueField s 0 0x08 4 < (5 + 2 ^ 32 - rdIdx s 0) % 2 ^ 32) ∧
     ((4 + 2 ^ 32 - wrIdx s 0) % 2 ^ 32 < 2 ^ 31 ∧ (4 + 2 ^ 32 - rdIdx s 0) % 2 ^ 32 ≤ queueField s 0 0x08 4)) ∧
    (pressed.hw[0]? = some ⟨some 0, 0, 0, [], [], false⟩ ∧ (queueDecks pressed 0).map (·.pier) = [0]) := by
  refine ⟨?_, ?_, ?_, ?_, ?_, ?_, ?_, ?_⟩ <;> decide +kernel

/-- Records whose fields are bad one after another; a girder to place, with piers that have a free slot and a run of memory. -/
theorem test_met_records_and_placed_girders :
    (let l := fetchLaunch 1 0 0
     badEntry { l with entry := 2 } = some 0x000 ∧ badEntry { l with compl := 4 } = some 0x050 ∧ badEntry { l with constBase := 8 } = some 0x038 ∧
     badEntry l = none ∧ l.entry % 4 = 0 ∧ l.compl % 8 = 0 ∧ l.constBase % 16 = 0 ∧ l.entry < 0x01FFE00000000000) ∧
    placeMet (started (recorded 0x14000) 0) [0] = true ∧
    (let s := started (recorded 0x14000) 0
     (∀ p ∈ [0], (lowestFree 16 ((decksAt s p).map (·.slot))).isSome = true ∧ (freeRun s p 1024).isSome = true) ∧ [0].Pairwise (· < ·) ∧
       s.decks = [] ∧ s.spans = []) ∧
    (∀ b < 7, ({ fetchLaunch 1 0 0 with shapew := 0x7F000#32 } : Launch).preload.testBit b = true) := by
  refine ⟨?_, ?_, ?_, ?_⟩ <;> decide +kernel

/-- A lane whose item has not been accepted; an entry in the overflow ring of launch 0; 32 items of one launch and entry, and one. -/
def item (l : Nat) : Item := ⟨0, 1, 0x14000, [1#32, 2#32, 3#32, 4#32], 7, l, 3⟩
def offering : State :=
  (onM.withSpan (fun x => { x with lanes := x.lanes.map (fun y => { y with pos := { y.pos with st := .waiting (.spawn 0x14000 [1#32, 2#32, 3#32, 4#32] 7 false) } }) })).state
def overflowed : State :=
  let w := { onM with cx := { demoCx with d := { demoCx.d with ovfBase := 0x60000, ovfCount := 2 }, ovfTail := 1, ovfIssue := [⟨7, 3, 3, 1, 0⟩] } }
  putDev w.state 0x60000 (natBytes 8 0x14000)
def queuedItems (n : Nat) : State := onM.state.modSeg 0 (fun g => { g with spawnQ := (List.range n).map item })
def emitted : State :=
  { (started (recorded 0x14000) 1).modSeg 0 (fun g => { g with emitted := [(List.range 32).map item] }) with fresh := 20 }
theorem test_met_spawn_unit_rows :
    ((offering.span? 4).elim false (fun x => (waitingItem (x.lane 0)).isSome && (spanEnv offering x).isSome && spanActs offering x &&
      (unaccepted x 7).head? == some 0 && hasLane x.movable 0 && (offerItem offering 0 0 (item 0)).isSome)) = true ∧
    ((overflowed.ctx? 0).elim false (fun cx => cx.ovfHead != cx.ovfTail && decide ((overflowed.seg 0).spawnQ.length < 4096) &&
      translate overflowed cx false .read cx.ovfAddr == .ok (.dev 0x60000) 0 && mayDrain overflowed 0 cx && nextServed overflowed 0 == some 0 && (oldestItem overflowed cx).isSome)) = true ∧
    ((onM.state.ctx? 0).elim false (fun cx => cx.ovfHead == cx.ovfTail) && (overflowed.ctx? 0).elim false (fun cx =>
      translate overflowed cx false .read cx.ovfAddr == .ok (.dev 0x60000) 0) && decide (nextServed onM.state 0 ≠ some 0)) = true ∧
    (∀ n ∈ [1, 32], ((queuedItems n).launch? 1).elim false (fun l => !l.determ && (sameItems (queuedItems n) 0 l.uid 0x14000#64).length == n) = true) ∧
    0 < onM.state.segs.length ∧
    ((emitted.seg 0).emitted[0]? = some ((List.range 32).map item) ∧ segOf 0 = 0 ∧ 0 < emitted.segs.length ∧
      (emitted.ctx? 0).elim false (fun cx => (emitted.launch? 1).elim false (fun l =>
        (Want.mk 1 [] none l.childNeed (some 0) (childSlots ((List.range 32).map item))).allowed emitted cx l [0])) = true ∧
      (emitted.queue? 0).elim false (fun q => !q.destroying) = true ∧ emitted.decks = [] ∧ emitted.spans = []) := by
  refine ⟨?_, ?_, ?_, ?_, ?_, ?_⟩ <;> decide +kernel
theorem plain_of (o : Option VReg) (v : VReg) (h : o.elim false (fun v => !v.isVector) = true) : ¬ (o.getD v).isVector = true := by
  cases o with
  | none => exact absurd h Bool.false_ne_true
  | some w => simpa using h
/-- The registers of 32 equal items are all compact, whichever slot the choice names: they take no slot of the pool. -/
theorem test_met_spawned_registers : ∀ slot, ((childRegs ((List.range 32).map item) slot).filter VReg.isVector) = [] := by
  intro slot
  simp only [childRegs]
  have h : ∀ r ∈ List.range 4, (checker ((List.range 32).map (fun l => (((List.range 32).map item)[l]?).elim 0#32 (fun x => x.payload.getD r 0#32)))).elim
      false (fun v => !v.isVector) = true := by decide +kernel
  rw [List.filter_append, List.append_eq_nil_iff]
  constructor
  · rw [List.filter_eq_nil_iff]
    intro v hv
    obtain ⟨r, hr, rfl⟩ := List.mem_map.mp hv
    exact plain_of _ _ (h r hr)
  · decide +kernel

/-- A vacated context before and after its lead time and its deadline; a quiesced deck; saved and parked decks; a moving one. -/
def vacated (now lead : Nat) : World :=
  { onM with cx := { demoCx with d := { demoCx.d with parklead := lead }, timer := some 5000, vacate := [[0]] }, rest := { demoRest with time := now } }
def away (st : DeckStatus) : State :=
  let w := onM.withStatus st
  let s := started (recorded 0x14000) 1
  { s with spans := [w.sp], decks := [w.deck], girders := [w.girder], launches := [w.launch] , ctxs := [{ demoCx with d := { demoCx.d with privSize := 2 ^ 30, saveSize := 2 ^ 30 } }] }
def arriveMet (s : State) (parked : Bool) (piers : List Nat) : Bool :=
  match savedWant s 2 with
  | some (w, l, cx) => (s.queue? l.queue).any (fun q => !q.destroying) && w.parked == parked && w.allowed s cx l piers && l.uid == 1
  | none => false
theorem test_met_parking_and_reset :
    (((vacated 0 4).state.ctx? 0).elim false (fun cx => cx.timer == some 5000 && !decide (5000 ≤ (vacated 0 4).state.time + 1000 * cx.d.parklead)) = true ∧
      ((vacated 0 5).state.ctx? 0).elim false (fun cx => decide (5000 ≤ (vacated 0 5).state.time + 1000 * cx.d.parklead)) = true) ∧
    (movable_.state.deck? 3 = some movable_.deck ∧ quiesced movable_.state 3 = true ∧ (∀ x ∈ movable_.state.spansOf 3, x.pending = none) ∧
      saveRoom movable_.state movable_.deck = true) ∧
    ((away (.saving none)).deck? 3 = some (onM.withStatus (.saving none)).deck ∧ 0 < (away (.saving none)).piers.length ∧
      (deckLaunch (away (.saving none)) (onM.withStatus (.saving none)).deck).isSome = true ∧ ((away (.saving none)).queue? 0).isSome = true) ∧
    (arriveMet (away .parked) true [0] = true ∧ (away .parked).decksOf 2 ≠ [] ∧ ∀ d ∈ (away .parked).decksOf 2, d.status = .parked) ∧
    (arriveMet (away (.moving .v)) false [160] = true ∧ movingTo ((away (.moving .v)).decksOf 2) = some .v) ∧
    ((vacated 5000 0).state.ctx? 0 = some (vacated 5000 0).cx ∧ (vacated 5000 0).cx.timer = some 5000 ∧ 5000 ≤ (vacated 5000 0).state.time ∧
      (ctxDecks (vacated 5000 0).state 0).any (fun d => (vacated 5000 0).cx.vacating.contains d.pier) = true ∧ (vacated 4999 0).state.time < 5000) := by
  refine ⟨?_, ?_, ?_, ?_, ?_, ?_⟩ <;> decide +kernel

/-- A girder with room in the save area and one without; a parked deck, with a matrix image and without, that M takes again. -/
def backMet (s : State) (image : Bool) (pier : Nat) : Bool :=
  match s.deck? 3, lowestFree 16 ((decksAt s pier).map (·.slot)), freeRun s pier ((s.deck? 3).elim 0 (·.memSize)) with
  | some d, some _, some _ => d.image.isSome == image && (s.spansOf 3).all (fun x => x.trap.isNone && s.span? x.uid == some x) &&
      decide ((s.spansOf 3).map (·.uid)).Nodup && decide (pier < s.piers.length)
  | _, _, _ => false
def imaged : State :=
  let s := away .parked
  { s with decks := s.decks.map (fun d => { d with image := some .clear, imageBytes := 233472 }) }
theorem test_met_parked_decks :
    (let fits (s : State) (cx : Context) (g : Girder) : Bool := decide (pledgedBytes s cx.num - ((s.decksOf g.uid).map (·.imageBytes)).sum +
       ((s.decksOf g.uid).map (imageBytes s)).sum ≤ cx.d.saveSize)
     fits movable_.state movable_.cx movable_.girder = true ∧ fits onM.state onM.cx onM.girder = false ∧
     movable_.state.deck? 3 = some movable_.deck ∧ movable_.deck ∈ movable_.state.decksOf movable_.girder.uid ∧ onM.deck ∈ onM.state.decksOf onM.girder.uid) ∧
    (backMet (away .parked) false 0 && backMet imaged true 0 && backMet imaged true 160) = true ∧
    (away .parked).spansOf 3 ≠ [] ∧ ((onM.sp.stop = .running) ∧
      (arriveAsks (away .parked) onM.cx 3 0).isNone = true) := by
  refine ⟨?_, ?_, ?_, ?_⟩ <;> decide +kernel

/-- A span not seen quiescent, inside a section and not; a period that nothing holds; a stall; a deferred block that is due. -/
def period (held : Bool) (now : Nat) (stalled : Bool) : World :=
  { onM with cx := { demoCx with gp := ⟨1, 0, true, if held then [4] else [], 0, stalled⟩, deferred := [(0x30000#64, 16#32, 0)], d :=
      { demoCx.d with relBase := 0x70000, relCount := 4 } }, rest := { demoRest with time := now } }
theorem test_met_grace_periods :
    (onM.sp.quiet = false ∧ isQuiescent onM.state onM.sp = true ∧ inSection.state.span? 4 = some inSection.sp ∧ isQuiescent inSection.state inSection.sp = false) ∧
    (((period false 0 false).state.ctx? 0).elim false (fun c => decide (c.gp.completed < c.gp.started) && holdersLeft (period false 0 false).state c.gp == [] && c.gp.pend) = true) ∧
    (((period true 0 false).state.ctx? 0).elim false (fun c => holdersLeft (period true 0 false).state c.gp != []) = true) ∧
    (((period true 20000 false).state.ctx? 0).elim false (fun c => decide (c.gp.since + 1000 * c.d.gpLimit ≤ (period true 20000 false).state.time) && !c.gp.stalled &&
      c.d.gpLimit != 0) = true ∧ (period true 0 true).cx.gp.stalled = true) ∧
    (((period false 0 false).state.ctx? 0).elim false (fun c => !c.relFault && !ringFull (period false 0 false).state c && c.deferred != [] &&
      translate (period false 0 false).state c false .write (relAddr (period false 0 false).state c) == .ok (.dev 0x70000) 0) = true) := by
  refine ⟨?_, ?_, ?_, ?_, ?_⟩ <;> decide +kernel

/-- Items of one spawn of a DETERM launch: all arrived, and one still in the overflow ring. A deck whose handler's frame waits for the host, and
one whose frame does not; a frame to move. -/
def determined (ring : Bool) : State :=
  let w := { onM with launch := { demoLaunch with shapew := 0x100000#32 },
                      cx := { demoCx with ovfTail := if ring then 1 else 0, ovfIssue := if ring then [⟨7, 40, 3, 1, 0⟩] else [] } }
  w.state.modSeg 0 (fun g => { g with spawnQ := (List.range 33).map item })
theorem test_met_determ_and_moved_frames :
    ([false, true].all (fun ring => ((determined ring).launch? 1).any (fun l => l.determ && l.uid == 1 && decide (0 < (determined ring).segs.length) &&
      ((sameItems (determined ring) 0 1 0x14000#64).find? (fun x => allArrivedItems (determined ring) x.ctx x.issue)).isSome == !ring))) = true ∧
    [(away_, true), (inTrap, false)].all (fun x => ((x.1.withStatus .parked).state.decksOf 2 |>.zip [0]).findSome? (fun y =>
      arriveAsks (x.1.withStatus .parked).state x.1.cx y.1.uid y.2) |>.isSome |> (· == x.2)) = true ∧
    (inTrap.state.span? 4 == some inTrap.sp && inTrap.sp.regs.length == 128 &&
      (writeFrame inTrap.state inTrap.cx 0x100000 [(0, [1#8])]).any (fun w => w.span? 4 == some inTrap.sp)) = true := by
  refine ⟨?_, ?_, ?_⟩ <;> decide +kernel

/-- Holders of a period whose decks stand, run, and are parked. -/
theorem test_met_stall_holders : ∀ st ∈ [DeckStatus.running, .parked], let s := (onM.withStatus st).state
    [onM.sp] ≠ [] ∧ ∀ x ∈ [onM.sp], (s.deck? x.deck).isSome = true := by decide +kernel

/-! ## Premises: the mailbox, the registers, the host -/

/-- A state with a command and its argument bytes in the mailbox. -/
def asked (s : State) (op : Nat) (args : List Byte) (begun : Bool) : State :=
  { s with mail := { opcode := op, busy := true, code := 0, args := args ++ List.replicate (128 - args.length) 0#8, result := [], begun := begun } }
def waitingB (s : State) (op : Nat) : Bool := s.mail.busy && s.mail.opcode == op && !s.mail.begun
theorem waiting_of {s : State} {op : Nat} (h : waitingB s op = true) : s.waiting op := by
  simp only [waitingB, Bool.and_eq_true, beq_iff_eq, Bool.not_eq_true'] at h
  exact ⟨h.1.1, h.1.2, h.2⟩
def awaitsB (s : State) (op : Nat) : Bool := waitingB s op && (!s.trust.recovery || [9, 10, 11].contains op)
theorem awaits_of {s : State} {op : Nat} (h : awaitsB s op = true) : s.awaits op := by
  simp only [awaitsB, Bool.and_eq_true, Bool.or_eq_true, Bool.not_eq_true'] at h
  exact ⟨waiting_of h.1, h.2.imp id (by simp)⟩
/-- Arguments of 8 bytes each. -/
def words8 (l : List Nat) : List Byte := l.flatMap (natBytes 8)
def posted (op : Nat) (l : List Nat) : State := asked (recorded 0x14000) op (words8 l) false
/-- The preempt mask of pier 0, and of none. -/
def preempting (bits : Nat) : State := asked (recorded 0x14000) 5 (natBytes 8 0 ++ natBytes 4 bits) false
/-- Each command with good arguments, at the ends of their ranges. That a delivered image verifies, and how long the certificates are, are fixed
with the device's keys (log 8): the statement's clauses on them stand in its conclusion. -/
theorem test_met_mailbox_commands :
    (awaitsB (posted 1 [0x80000]) 1 && arg (posted 1 [0x80000]) 0 % 4096 == 0 && argsEnd (posted 1 [0x80000]) 8 &&
      decide (devNat (posted 1 [0x80000]) (arg (posted 1 [0x80000]) 0) 2 ≤ 4095) && ((posted 1 [0x80000]).ctx? 0).isSome &&
      ((asked demoRest 1 (words8 [0x80000]) false).ctx? 0).isNone) = true ∧
    (awaitsB (posted 2 [0]) 2 && argsEnd (posted 2 [0]) 8 && ((posted 2 [0]).ctx? 0).isSome) = true ∧
    (awaitsB (posted 3 [65535, 0x90000]) 3 && argsEnd (posted 3 [65535, 0x90000]) 16 && ((posted 3 [65535, 0x90000]).queue? 65535).isNone &&
      ((posted 3 [65535, 0x90000]).ctx? (devNat (posted 3 [65535, 0x90000]) 0x90014 2)).isSome && arg (posted 3 [65535, 0x90000]) 1 == 0x90000) = true ∧
    (awaitsB (posted 4 [0]) 4 && argsEnd (posted 4 [0]) 8 && ((posted 4 [0]).queue? 0).elim false (fun q => q.launch.isNone) &&
      ((asked (started (recorded 0x14000) 1) 4 (words8 [0]) false).queue? 0).elim false (fun q => q.launch.isSome)) = true ∧
    ((asked (recorded 0x14000) 4 (words8 [0]) true).queue? 0).elim false (fun q => q.launch.isNone) = true ∧
    (∀ b ∈ [0, 1], (awaitsB (preempting b) 5 && argsEnd (preempting b) 0x2C && slotOf (preempting b) 0 == some 0 &&
      (List.range 288).filter (fun p => (bytesNat (argBytes (preempting b) 8 36)).testBit p) == if b = 0 then [] else [0]) = true) ∧
    (awaitsB (posted 6 [0]) 6 && argsEnd (posted 6 [0]) 24 && ((posted 6 [0]).ctx? 0).isSome) = true ∧
    (∀ n ∈ [0, 256], (awaitsB (posted 7 [0, 15, 0, n]) 7 && arg (posted 7 [0, 15, 0, n]) 1 == 15 && arg (posted 7 [0, 15, 0, n]) 3 == n &&
      argsEnd (posted 7 [0, 15, 0, n]) 32) = true) ∧
    (awaitsB (posted 9 [0, 0, 0, 0, 0x1000]) 9 && argsEnd (posted 9 [0, 0, 0, 0, 0x1000]) 40) = true ∧
    (awaitsB (posted 10 [0x1000, 0x1000]) 10 && argsEnd (posted 10 [0x1000, 0x1000]) 16) = true ∧
    (awaitsB (posted 11 [0x1000, 64]) 11 && argsEnd (posted 11 [0x1000, 64]) 16 &&
      !imageOk ((posted 11 [0x1000, 64]).hostMem.readBytes (arg (posted 11 [0x1000, 64]) 0) (arg (posted 11 [0x1000, 64]) 1))) = true ∧
    (awaitsB (posted 12 [0x2000]) 12 && arg (posted 12 [0x2000]) 0 % 4096 == 0 && argsEnd (posted 12 [0x2000]) 8) = true := by
  refine ⟨?_, ?_, ?_, ?_, ?_, ?_, ?_, ?_, ?_, ?_, ?_, ?_⟩ <;> decide +kernel
/-- The same commands while the device is in recovery, and with a byte past their arguments; a context without launches to destroy; works
that an invalidation performs. -/
def recovering (op : Nat) : State := { posted op [0] with trust := { demoRest.trust with recovery := true } }
def overlong (op : Nat) : State := asked (recorded 0x14000) op (List.replicate 128 1#8) false
theorem test_met_unserved_commands :
    (∀ op ∈ [1, 2, 3, 4, 5, 6, 7, 8, 12], waitingB (recovering op) op = true ∧ (recovering op).trust.recovery = true) ∧
    (∀ op ∈ [9, 10, 11], awaitsB (recovering op) op = true) ∧
    (∀ x ∈ [(1, 8), (2, 8), (3, 16), (4, 8), (5, 0x2C), (6, 24), (7, 32), (9, 40), (10, 16), (11, 16), (12, 8)],
      awaitsB (overlong x.1) x.1 = true ∧ argsEnd (overlong x.1) x.2 = false) ∧
    ((posted 2 [0]).launches = [] ∧ ((posted 2 [0]).ctx? 0).isSome = true) ∧
    (let s : State := { pendingLoad onM with mail := { (posted 6 [0]).mail with begun := true } }
     s.mail.busy = true ∧ s.mail.opcode = 6 ∧ (s.works.map (·.id)).Nodup ∧ onM.sp ∈ s.spans ∧ spanCtx s onM.sp = some (arg s 0)) := by
  refine ⟨?_, ?_, ?_, ?_, ?_⟩ <;> decide +kernel
/-- Context 0's debugger acts on the demo span at pier 0, record slot 0: running, stopped, and stopped in trap mode. -/
def debugged (sub : Nat) (f : Span → Span) : State :=
  let w := { onM.withSpan f with cx := { demoCx with debug := some 0#32 } }
  asked w.state 8 (words8 [0, sub, 0, 0, 0]) false
def held_ (x : Span) : Span := { x with stop := .debug (some 0x100000) }
def debugMet (s : State) (sub : Nat) (stoppedToo : Bool) : Bool :=
  awaitsB s 8 && arg s 1 == sub && !debugArgsBad s && (debugSpan s).elim false (fun p => s.span? p.1.uid == some p.1 && p.1.debugged == stoppedToo &&
    (stoppedToo || (p.1.stop == .running && beforeSave s p.1.deck && p.1.pending.isNone)))
theorem test_met_debugger_commands :
    (∀ sub ∈ [0, 1], (awaitsB (debugged sub id) 8 && arg (debugged sub id) 1 == sub && !debugArgsBad (debugged sub id) && ((debugged sub id).ctx? 0).isSome) = true) ∧
    debugMet (debugged 2 id) 2 false = true ∧ debugMet (debugged 2 held_) 2 true = true ∧
    (debugSpan (debugged 2 (fun x => { x with stop := .pages (TrapInfo.at 0x0007 0x30000#64 1#64) 0 [] }))).any (fun p =>
      !p.1.debugged && p.1.stop != .running) = true ∧
    (debugMet (debugged 2 (fun _ => inTrap.sp)) 2 false && inTrap.sp.trap.isSome &&
      !(completeOlder (debugged 2 (fun _ => inTrap.sp)) 4).pendingOf 4) = true ∧
    (let b := completeOlder (debugged 2 id) 4
     let t := { TrapInfo.at 0 0#64 demoSpan.live with boundary := some 0x14004 }
     !b.pendingOf 4 && demoSpan.trap.isNone && deliversB b (boundaryOf onM) t && (ctxOf b (boundaryOf onM)).any (fun k =>
       ((delivered b (boundaryOf onM) t k).span? 4).any (fun x => x.debugged))) = true ∧ (∀ sub ∈ [3, 4, 5], debugMet (debugged sub held_) sub true = true) ∧
    (debugged 1 held_).spans.all (fun x => spanCtx (debugged 1 held_) x == some 0 && x.debugged) = true ∧ ((debugged 1 held_).spans.map (·.uid)).Nodup := by
  refine ⟨?_, ?_, ?_, ?_, ?_, ?_, ?_, ?_, ?_⟩ <;> decide +kernel

/-- Registers with the mailbox free and busy, limits at both ends, a refresh map that is read, segments at the edges of the temperature rules;
firmware that has and has not booted. -/
theorem test_met_registers_and_power :
    (State.reset.mail.busy = false ∧ (posted 1 []).mail.busy = true ∧ (0 < 0xFFF ∧ 0xFFF < 0x1000)) ∧
    (demoRest.trust.recovery = false ∧ (500 ≤ 500 % 65536 ∧ 2000 % 65536 ≤ 2000) ∧ ¬ 500 ≤ 499 % 65536 ∧ ¬ 2001 % 65536 ≤ 2000) ∧
    (({ demoRest with mgmt := { demoRest.mgmt with refsync := true } } : State).mgmt.refsync = true ∧ demoRest.mem.wf = true) ∧
    (demoRest.segs.length = 8 ∧ (demoRest.seg 7).restoring = false ∧
      ({ demoRest with mgmt := { demoRest.mgmt with uven := 0x80#8 } } : State).mgmt.uven.getLsbD 7 = true ∧
      ((demoRest.modSeg 7 (fun g => { g with restoring := true })).seg 7).restoring = true) ∧
    (declaredOff demoRest (2 ^ 36 + 31) = false ∧ (eccPlace 0 0 0 0 && eccPlace 1 0 0 (2 ^ 36) && eccPlace 7 0 0 (2 ^ 39 - 1)) = true ∧ demoRest.ctxs = []) ∧
    ((2 ^ 36) / 2 ^ 36 ≠ 0 ∧ segOf 287 ≠ 0 ∧ gradeOf 160 = .v ∧ 131072 ≤ 131072 ∧ deckMemOf 0 ≤ 262144) := by
  refine ⟨?_, ?_, ?_, ?_, ?_, ?_⟩ <;> decide +kernel
theorem test_met_register_banks : Banked State.reset ∧ Banked { State.reset with mgmt := { State.reset.mgmt with pierSel := 287 } } :=
  by constructor <;> constructor <;> decide +kernel
theorem test_met_host_register_values :
    demoRest.trust.recovery = false ∧ (0x80 % 128 = 0 ∧ 0x81 % 128 ≠ 0) ∧ (0 % 2 ^ 20 = 0 ∧ 2 ^ 39 - 2 ^ 20 < 2 ^ 39) ∧ 2 ^ 39 ≤ 2 ^ 39 ∧ 0x100 % 256 = 0 ∧
    (∃ k, 4 ≤ k ∧ k ≤ 16 ∧ 16 = 2 ^ k) ∧ (∀ k, 4 ≤ k → k ≤ 16 → 8 ≠ 2 ^ k) ∧ (1 ≤ 1000 ∧ 1000 ≤ 1000 ∧ 1000 < 1001) ∧ (65535 < 65536 ∧ 287 < 288) ∧
    (State.reset.mail.opcode < 65536 ∧ State.reset.mail.code < 65536 ∧ State.reset.mgmt.plimit < 65536 ∧ State.reset.mgmt.pkgpwr < 65536 ∧
      State.reset.mgmt.quantum < 2 ^ 32) := by
  refine ⟨by decide +kernel, by decide, by decide, by decide, by decide, ⟨4, by decide⟩, ?_, by decide, by decide, by decide +kernel⟩
  intro k h1 h2
  have : 2 ^ 4 ≤ 2 ^ k := Nat.pow_le_pow_right (by decide) h1
  omega
theorem test_met_boot_host_and_link :
    State.reset.trust.booted = false ∧ (demoRest.trust.recovery = false ∧ demoRest.mem.wf = true ∧ 2 ^ 39 - 1 + [1#8].length ≤ 2 ^ 39) ∧
    (({ demoRest with atsAsked := [5] } : State).atsAsked.contains 5 = true ∧ demoRest.owed = [] ∧ demoRest.atsAsked.contains 5 = false) := by decide +kernel

/-- A stopped span whose frame can be read, and one whose frame's page is still asked for; a context whose stopped spans can all go on; a completion
word that the context still owes. -/
def heldAway (x : Span) : Span := { x with stop := .debug (some 0x40000000) }
def debuggedAway (sub : Nat) : State :=
  let w := hosted { onM.withSpan heldAway with cx := { demoCx with debug := some 0#32 } }
  asked w.state 8 (words8 [0, sub, 0, 0, 0]) false
theorem test_met_debugger_frames :
    [3, 4, 5].all (fun sub => debugMet (debuggedAway sub) sub true && (debugSpan (debuggedAway sub)).any (fun p =>
      (resumeAsks (debuggedAway sub) p.2 p.1).isSome)) = true ∧
    [3, 4, 5].all (fun sub => (debugSpan (debugged sub held_)).any (fun p => (resumeAsks (debugged sub held_) p.2 p.1).isNone)) = true ∧
    (awaitsB (debugged 1 held_) 8 && ((debugged 1 held_).ctx? 0).any (fun c => (debugged 1 held_).spans.all (fun x =>
      spanCtx (debugged 1 held_) x != some c.num || (resumeAsks (debugged 1 held_) c x).isNone))) = true := by
  refine ⟨?_, ?_, ?_⟩ <;> decide +kernel

/-- Ticks over the limit, with a segment above its floor and with none, under it by more than 50, with a capped segment and with none, and between;
errors of each structure; an event ring with room, full, and none; a segment that is undervolted; a hot one. -/
def raised (level cap : Nat) : State :=
  { (demoRest.modSeg 2 (fun g => { g with powerCap := cap, power := 300 })) with mgmt := { demoRest.mgmt with floor := List.replicate 8 level } }
def ringed_ (wr rd : Nat) (f : Seg → Seg) : State :=
  { onM.state.modSeg 0 f with cur := none, events := { onM.state.events with base := 0x1000#64, count := 16#32, wr := BitVec.ofNat 32 wr, rd := BitVec.ofNat 32 rd } }
def under (s : State) (k : Nat) : Bool := decide (s.mgmt.floor.getD k 4 < effectiveLevel s k)
theorem test_met_power_ticks :
    ((List.range 8).all (fun k => !under (raised 7 7) k) && decide (demoRest.mgmt.plimit < 2001)) = true ∧
    (let s := { onM.state with mgmt := { onM.state.mgmt with floor := [3, 4, 4, 4, 4, 4, 4, 4] },
                               spans := [{ onM.sp with lanes := onM.sp.lanes.map (fun y => { y with plvl := some 5#3 }) }] }
     under s 0) = true ∧
    ((List.range 8).all (fun k => decide (chosenLevel demoRest k ≤ (demoRest.seg k).powerCap)) && decide (1900 + 50 < demoRest.mgmt.plimit)) = true ∧
    (decide ((raised 4 2 |>.seg 2).powerCap < chosenLevel (raised 4 2) 2) && decide ((raised 4 3 |>.seg 2).powerCap < chosenLevel (raised 4 3) 2)) = true ∧
    (decide (1950 ≤ demoRest.mgmt.plimit) && decide (demoRest.mgmt.plimit ≤ 1950 + 50)) = true := by
  refine ⟨?_, ?_, ?_, ?_, ?_⟩ <;> decide +kernel
theorem test_met_errors_and_events :
    [0, 1, 2].all (fun k => eccPlace 0 k 0 0x40 && onM.state.ctxs.all (fun c => !inArea onM.state c c.d.privBase c.d.privSize 0x40)) = true ∧
    [3, 4].all (fun k => eccPlace 0 k 0 0xFF) = true ∧ (spansAt onM.state 0).find? (fun x => x.rslot == 0) = some onM.sp ∧
    (eccPlace 0 5 0 1023 && (1023 / 32 * 32 + 32 ≤ onM.deck.memSize)) = true ∧ (decksAt onM.state 0).find? (fun d => d.slot == 0) = some onM.deck ∧
    (eccPlace 0 6 0 131071 && eccPlace 0 7 0 0) = true ∧
    [(0, 0), (5, 4)].all (fun x => (ringed_ x.1 x.2 id).events.wr - (ringed_ x.1 x.2 id).events.rd != 16#32) = true ∧
    (ringed_ 16 0 id).events.wr - (ringed_ 16 0 id).events.rd = 16#32 ∧ demoRest.events.base = 0#64 ∧
    (let s := ringed_ 0 0 (fun g => { g with uvoff := 40 })
     (s.seg 0).uvoff ≠ 0 ∧ (s.seg 0).thermalCap ≠ 3) ∧ (demoRest.seg 0).uvoff = 0 := by
  refine ⟨?_, ?_, ?_, ?_, ?_, ?_, ?_, ?_, ?_, ?_, ?_⟩ <;> decide +kernel
/-- Corrected and uncorrectable errors inside and outside a block declared free of refresh, on the segment's own memory and another's, where no
older read has still to read; a map that has been posted and changes two blocks. -/
def unrefreshed : State := { demoRest with refreshOff := [2, 3], mgmt := { demoRest.mgmt with refsync := true, nextOff := [3, 4] } }
theorem test_met_refresh_maps :
    [(0, 0x50000, false), (0, 0x30000, true), (1, 2 ^ 36, false)].all (fun x => x.2.1 / 2 ^ 36 == x.1 && declaredOff unrefreshed x.2.1 == x.2.2) = true ∧
    (0x50000 : Nat) / 2 ^ 36 ≠ 1 ∧ unrefreshed.mem.wf = true ∧
    [2, 3, 4, 5].map (fun b => unrefreshed.refreshOff.contains b != unrefreshed.mgmt.nextOff.contains b) = [true, false, true, false] ∧
    (∀ b ∈ unrefreshed.refreshOff, b / 2 ^ 20 ≠ 1) ∧ (∀ p, Undisturbed onM.state p) := by
  refine ⟨?_, ?_, ?_, ?_, ?_, fun _ => undisturbed_of ?_⟩ <;> decide +kernel
/-- The decks of a girder that migrates: one that runs, one that has been parked. -/
theorem test_met_migrations :
    [DeckStatus.running, .parked].all (fun st => (onM.withStatus st).state.decksOf 2 == [(onM.withStatus st).deck] &&
      (onM.withStatus st).state.deck? 3 == some (onM.withStatus st).deck) = true := by decide +kernel
/-- A trap handler's lane that has exited of its own, and one that has not; scales of quantisation that are infinite and finite. -/
theorem test_met_returns_and_scales :
    (inTrap.withSpan (fun x => { x with ended := 1#64 })).sp.trap.any (fun t => t.lanes &&& 1#64 != 0#64) = true ∧
    inTrap.sp.trap.any (fun t => t.lanes &&& inTrap.sp.ended == 0#64) = true ∧
    [0x7F800000, 0x3F800000].map (fun w => Fmt.f32.unpack w == .inf false) = [true, false] := by decide +kernel

/-! ## Ill-formed terms: one for each check -/

theorem test_ill_formed :
    ([.add ⟨1#7, 2#7, .reg 0x7F#7, 0#2, false⟩, .madw ⟨1#7, 2#7, .reg 3#7, 0#2, false⟩, .abs ⟨1#7, 2#7, false, false⟩,
      .add64 ⟨1#7, 2#7, .reg 4#7, 0#2, false⟩, .add64 ⟨2#7, 3#7, .reg 4#7, 0#2, false⟩, .add64 ⟨2#7, 4#7, .reg 5#7, 0#2, false⟩,
      .cmp ⟨12#4, 0#3, 1#7, .reg 2#7, 0#2, false⟩, .cmp ⟨0#4, 6#3, 1#7, .reg 2#7, 0#2, false⟩, .addc 12#4 ⟨1#7, 2#7, .reg 3#7, 0#2, false⟩,
      .shlImm ⟨1#7, 2#7, 32#10⟩, .fadd ⟨3#2, 1#7, 2#7, .reg 4#7, 0#2⟩, .fexp2 ⟨3#2, 2#7, 4#7, false⟩, .fdot2 ⟨0#2, 1#7, 2#7, .reg 3#7, 0#2⟩,
      .cvt 1#7 2#7 13#4 0#4 0#2, .cvt 1#7 3#7 11#4 0#4 0#2, .cvts ⟨1#7, 2#7, 7#4, 0#3, 0#2, false, 0#32⟩, .qnt ⟨2#7, 4#7, .reg 6#7, 0#2, true⟩,
      .vote 1#7 2#7 2#2, .lred ⟨1#7, 2#7, 6#3, 2#4, false, false⟩, .lred ⟨1#7, 2#7, 0#3, 2#4, false, true⟩, .isect ⟨2#7, 4#7, 7#7, 0#2⟩,
      .bpfx ⟨1#7, 2#7, 0x7F#7, 0#2⟩] : List Instr).all (fun i => !i.wf) = true ∧
    ([.shassert 1#7 4#7, .shforce 125#7 4#7 0#7, .shforce 1#7 0#7 0#7, .shforce 1#7 2#7 2#7, .shpack 1#7 7#7, .growTry 12#7 1#9,
      .shrink ⟨1#7, 2#7, 0x7F#7, 0#2⟩, .join 0#4, .waitm 13#4, .mset 12#7 1#7 false, .mskop 4#3 0#4 1#7 1#7, .mskop 0#3 0#4 12#7 1#7, .mskget 1#7 2#7,
      .mskput 1#7 3#7 false, .mskput 7#7 4#7 true, .bra 13#4 0#20, .brai 3#7 false, .ser 0#20, .ser 0x80000#20, .pushv 1#7 7#7, .popv 127#7 2#7] : List Instr).all (fun i => !i.wf) = true ∧
    ([.ld ⟨0#2, false, 7#3, 1#7, 2#7, 0#10⟩, .ld ⟨0#2, false, 4#3, 1#7, 3#7, 0#10⟩, .ld ⟨2#2, false, 5#3, 1#7, 3#7, 0#10⟩, .ld ⟨2#2, false, 6#3, 2#7, 3#7, 0#10⟩,
      .st ⟨2#2, false, 1#3, 1#7, 3#7, 0#10⟩, .lduC ⟨6#3, 4#7, 1#7, 0#10⟩, .lduG ⟨4#3, 4#7, 1#7, 0#10⟩, .ldxG ⟨4#3, 1#7, 2#7, .reg 0x7F#7, false⟩,
      .stxD ⟨3#3, 1#7, 2#7, .reg 3#7, false⟩, .atom 0#4 ⟨1#7, 2#7, .reg 3#7, 3#2⟩, .atom 1#4 ⟨1#7, 2#7, .reg 4#7, 0#2⟩, .red 10#4 ⟨0#7, 2#7, .reg 3#7, 0#2⟩,
      .red 0#4 ⟨1#7, 2#7, .reg 3#7, 0#2⟩, .redx ⟨0#7, 3#7, .reg 3#7, 0#2⟩, .redx ⟨0#7, 2#7, .reg 3#7, 2#2⟩, .pref 1#7 0#10, .fence 0#3, .fence 7#3,
      .acq ⟨1#7, 2#7, 7#3, 4#3, 0#2⟩, .acq ⟨1#7, 2#7, 1#3, 3#3, 0#2⟩, .acqr ⟨1#7, 2#7, 0#3, 4#3, 0#2⟩, .cctl 0#7 4#3 0#2, .cctl 2#7 2#3 0#2, .p2g 2#7 1#7 (.reg 1#7) false,
      .qspace 1#7 3#7, .bararr 1#7 20#7, .stgacq 1#7 8#7, .tlwait 16#7 ⟨.reg 2#7, false⟩, .tlread 1#7 0#7, .cpl 1#7 3#7 2#7 0#3, .tcopy 1#7 3#7, .tstat 1#7 0#7]
      : List Instr).all (fun i => !i.wf) = true ∧
    ([.mxarr 1#7 0#3, .mxarr 9#7 0#3, .mxarr 8#7 6#3, .mxload 1#7 0#7, .mxsign 0#7 2#7 0#7 0#3, .mxsign 0#7 2#7 64#7 0#3, .mxsign 0#7 126#7 2#7 0#3, .mxmma 1#7 0#3,
      .mxvalid 2#7 2#3, .mxwait 3#3, .mxsave 2#7 true true, .spawn 1#7 4#7, .spawn 2#7 2#7, .spawnTry 2#7 4#7 12#4, .csrr 1#7 7#10, .csrr 1#7 0x011#10,
      .csrw 1#7 0#10, .clock 1#7, .entw 2#7 1#7, .migr 3#2, .gpstart 1#7, .waitgp 1#7, .dfree 12#4 2#7 1#7] : List Instr).all (fun i => !i.wf) = true ∧
    ((Instr.add ⟨1#7, 2#7, .reg 0x7E#7, 0#2, false⟩).wf && (Instr.add ⟨1#7, 2#7, .lit 0#32, 0#2, false⟩).wf) = true := by decide

/-! ## Decoding: a word of every constructor, written from the encoding tables (03 R61-R72) -/

theorem test_decode_alu_1 :
    decode .alu 0b00000000_0010100_0000100_0001000_10_1#32 none = some (.add ⟨20#7, 4#7, .reg 8#7, 2#2, true⟩) ∧
    decode .alu 0b00000001_0010100_0000100_0001000_10_1#32 none = some (.sub ⟨20#7, 4#7, .reg 8#7, 2#2, true⟩) ∧
    decode .alu 0b00000010_0010100_0000100_0001000_10_1#32 none = some (.mul ⟨20#7, 4#7, .reg 8#7, 2#2, true⟩) ∧
    decode .alu 0b00000011_0010100_0000100_0001000_10_1#32 none = some (.mulh ⟨20#7, 4#7, .reg 8#7, 2#2, true⟩) ∧
    decode .alu 0b00000100_0010100_0000100_0001000_10_1#32 none = some (.mad ⟨20#7, 4#7, .reg 8#7, 2#2, true⟩) ∧
    decode .alu 0b00000101_0010100_0000100_0001000_10_1#32 none = some (.madw ⟨20#7, 4#7, .reg 8#7, 2#2, true⟩) ∧
    decode .alu 0b00000110_0010100_0000100_00000000_0_1#32 none = some (.abs ⟨20#7, 4#7, false, true⟩) ∧
    decode .alu 0b00000111_0010100_0000100_0001000_10_1#32 none = some (.min ⟨20#7, 4#7, .reg 8#7, 2#2, true⟩) ∧
    decode .alu 0b00001000_0010100_0000100_0001000_10_1#32 none = some (.max ⟨20#7, 4#7, .reg 8#7, 2#2, true⟩) ∧
    decode .alu 0b00001001_0010100_0000100_0001000_10_1#32 none = some (.and ⟨20#7, 4#7, .reg 8#7, 2#2, true⟩) ∧
    decode .alu 0b00001010_0010100_0000100_0001000_10_1#32 none = some (.or ⟨20#7, 4#7, .reg 8#7, 2#2, true⟩) ∧
    decode .alu 0b00001011_0010100_0000100_0001000_10_1#32 none = some (.xor ⟨20#7, 4#7, .reg 8#7, 2#2, true⟩) := by decide

theorem test_decode_alu_2 :
    decode .alu 0b00001100_0010100_0000100_00000000_0_1#32 none = some (.not ⟨20#7, 4#7, false, true⟩) ∧
    decode .alu 0b00001101_0010100_0000100_0001000_10_1#32 none = some (.andn ⟨20#7, 4#7, .reg 8#7, 2#2, true⟩) ∧
    decode .alu 0b00001110_0010100_0000100_00000000_0_1#32 none = some (.mov ⟨20#7, 4#7, false, true⟩) ∧
    decode .alu 0b00001111_0010100_0000000111111100_1#32 (some 0xDEADBEEF#32) = some (.movl 20#7 true 0xDEADBEEF#32) ∧
    decode .alu 0b00010000_0010100_0000100_0001000_10_1#32 none = some (.shl ⟨20#7, 4#7, .reg 8#7, 2#2, true⟩) ∧
    decode .alu 0b00010001_0010100_0000100_0001000_10_1#32 none = some (.shr ⟨20#7, 4#7, .reg 8#7, 2#2, true⟩) ∧
    decode .alu 0b00010010_0010100_0000100_0001000_10_1#32 none = some (.sar ⟨20#7, 4#7, .reg 8#7, 2#2, true⟩) ∧
    decode .alu 0b00010011_0010100_0000100_0001000_10_1#32 none = some (.rot ⟨20#7, 4#7, .reg 8#7, 2#2, true⟩) ∧
    decode .alu 0b00010100_0010100_0000100_0001000_10_1#32 none = some (.fshl ⟨20#7, 4#7, .reg 8#7, 2#2, true⟩) ∧
    decode .alu 0b00010101_0010100_0000100_0001000_10_1#32 none = some (.fshr ⟨20#7, 4#7, .reg 8#7, 2#2, true⟩) ∧
    decode .alu 0b00010110_0010100_0000100_0001000_10_1#32 none = some (.bfx ⟨20#7, 4#7, .reg 8#7, 2#2, true⟩) ∧
    decode .alu 0b00010111_0010100_0000100_0001000_10_1#32 none = some (.bfi ⟨20#7, 4#7, .reg 8#7, 2#2, true⟩) := by decide

theorem test_decode_alu_3 :
    decode .alu 0b00011000_0010100_0000100_00000000_0_1#32 none = some (.popc ⟨20#7, 4#7, false, true⟩) ∧
    decode .alu 0b00011001_0010100_0000100_00000000_0_1#32 none = some (.clz ⟨20#7, 4#7, false, true⟩) ∧
    decode .alu 0b00011010_0010100_0000100_00000000_0_1#32 none = some (.ctz ⟨20#7, 4#7, false, true⟩) ∧
    decode .alu 0b00011011_0010100_0000100_00000000_0_1#32 none = some (.brev ⟨20#7, 4#7, false, true⟩) ∧
    decode .alu 0b00011100_0010100_0000100_0001000_10_1#32 none = some (.permb ⟨20#7, 4#7, .reg 8#7, 2#2, true⟩) ∧
    decode .alu 0b00011101_0010100_0000100_0001000_10_1#32 none = some (.lea ⟨20#7, 4#7, .reg 8#7, 2#2, true⟩) ∧
    decode .alu 0b00011110_0011_010_0000100_0001000_10_1#32 none = some (.cmp ⟨3#4, 2#3, 4#7, .reg 8#7, 2#2, true⟩) ∧
    decode .alu 0b00100000_0010100_0000100_0001000_10_1#32 none = some (.add64 ⟨20#7, 4#7, .reg 8#7, 2#2, true⟩) ∧
    decode .alu 0b00100001_0010100_0000100_0001000_10_1#32 none = some (.sub64 ⟨20#7, 4#7, .reg 8#7, 2#2, true⟩) ∧
    decode .alu 0b00100010_0010100_0000100_0001000_10_1#32 none = some (.shl64 ⟨20#7, 4#7, .reg 8#7, 2#2, true⟩) ∧
    decode .alu 0b00100011_0010100_0000100_0001000_10_1#32 none = some (.shr64 ⟨20#7, 4#7, .reg 8#7, 2#2, true⟩) ∧
    decode .alu 0b00100100_0011_010_0000100_0001000_10_1#32 none = some (.cmp64 ⟨3#4, 2#3, 4#7, .reg 8#7, 2#2, true⟩) := by decide

theorem test_decode_alu_4 :
    decode .alu 0b0011_0011_0010100_0000100_0001000_10_1#32 none = some (.addc 3#4 ⟨20#7, 4#7, .reg 8#7, 2#2, true⟩) ∧
    decode .alu 0b0100_0011_0010100_0000100_0001000_10_1#32 none = some (.subb 3#4 ⟨20#7, 4#7, .reg 8#7, 2#2, true⟩) ∧
    decode .alu 0b0101_0011_0010100_0000100_0001000_10_1#32 none = some (.sel 3#4 ⟨20#7, 4#7, .reg 8#7, 2#2, true⟩) ∧
    decode .alu 0b01100000_0010100_0000100_0101010101#32 none = some (.addImm ⟨20#7, 4#7, 341#10⟩) ∧
    decode .alu 0b01100001_0010100_0000100_0101010101#32 none = some (.mulImm ⟨20#7, 4#7, 341#10⟩) ∧
    decode .alu 0b01100010_0010100_0000100_0101010101#32 none = some (.andImm ⟨20#7, 4#7, 341#10⟩) ∧
    decode .alu 0b01100011_0010100_0000100_0101010101#32 none = some (.orImm ⟨20#7, 4#7, 341#10⟩) ∧
    decode .alu 0b01100100_0010100_0000100_0101010101#32 none = some (.xorImm ⟨20#7, 4#7, 341#10⟩) ∧
    decode .alu 0b01100101_0010100_0000100_00000_10001#32 none = some (.shlImm ⟨20#7, 4#7, 17#10⟩) ∧
    decode .alu 0b01100110_0010100_0000100_00000_10010#32 none = some (.shrImm ⟨20#7, 4#7, 18#10⟩) ∧
    decode .alu 0b01100111_0010100_0000100_00000_10011#32 none = some (.sarImm ⟨20#7, 4#7, 19#10⟩) ∧
    decode .alu 0b01101000_0010100_0000100_00000_10100#32 none = some (.rotImm ⟨20#7, 4#7, 20#10⟩) := by decide

theorem test_decode_alu_5 :
    decode .alu 0b01101001_0010100_0000100_0101010101#32 none = some (.minI32Imm ⟨20#7, 4#7, 341#10⟩) ∧
    decode .alu 0b01101010_0010100_0000100_0101010101#32 none = some (.minN32Imm ⟨20#7, 4#7, 341#10⟩) ∧
    decode .alu 0b01101011_0010100_0000100_0101010101#32 none = some (.maxI32Imm ⟨20#7, 4#7, 341#10⟩) ∧
    decode .alu 0b01101100_0010100_0000100_0101010101#32 none = some (.maxN32Imm ⟨20#7, 4#7, 341#10⟩) ∧
    decode .alu 0b01101101_0011_010_0000100_0101010101#32 none = some (.cmpI32Imm ⟨3#4, 2#3, 4#7, 341#10⟩) ∧
    decode .alu 0b01101110_0011_010_0000100_0101010101#32 none = some (.cmpN32Imm ⟨3#4, 2#3, 4#7, 341#10⟩) ∧
    decode .alu 0b11010000_0010100_0000100_1010_1100_10#32 none = some (.cvt 20#7 4#7 10#4 12#4 2#2) ∧
    decode .alu 0b11010001_0010100_0000100_1010_011_01_1#32 (some 0xDEADBEEF#32) = some (.cvts ⟨20#7, 4#7, 10#4, 3#3, 1#2, true, 0xDEADBEEF#32⟩) ∧
    decode .alu 0b11010010_0010100_0000100_0001000_10_1#32 none = some (.planex ⟨20#7, 4#7, .reg 8#7, 2#2, true⟩) ∧
    decode .alu 0b11010011_0010100_0000100_0001000_10_1#32 none = some (.planep ⟨20#7, 4#7, .reg 8#7, 2#2, true⟩) ∧
    decode .alu 0b11010100_0010100_0000100_0001000_10_0#32 none = some (.qnt ⟨20#7, 4#7, .reg 8#7, 2#2, false⟩) ∧
    decode .alu 0b11100000_0010100_0000100_0001000_11_1#32 none = some (.shfl ⟨20#7, 4#7, .reg 8#7, 3#2, true⟩) := by decide

theorem test_decode_alu_6 :
    decode .alu 0b11100001_0010100_0000100_0001000_10_1#32 none = some (.bcast ⟨20#7, 4#7, .reg 8#7, 2#2, true⟩) ∧
    decode .alu 0b11100010_0010100_0000100_0000000_10_0#32 none = some (.vote 20#7 4#7 2#2) ∧
    decode .alu 0b11100011_0010100_0000100_001_0110_0_0_0#32 none = some (.lred ⟨20#7, 4#7, 1#3, 6#4, false, false⟩) ∧
    decode .alu 0b11100100_0010100_0000100_00000000_0_1#32 none = some (.lminx ⟨20#7, 4#7, false, true⟩) ∧
    decode .alu 0b11100101_0010100_0000100_00000000_0_1#32 none = some (.lmaxx ⟨20#7, 4#7, false, true⟩) ∧
    decode .alu 0b11100110_0010100_0000100_101_0111_0_0_1#32 none = some (.lscan ⟨20#7, 4#7, 5#3, 7#4, false, true⟩) ∧
    decode .alu 0b11100111_0010100_0000100_00000000_0_1#32 none = some (.laneMatch ⟨20#7, 4#7, false, true⟩) ∧
    decode .alu 0b11110000_0010100_0000100_0001000_10_0#32 none = some (.isect ⟨20#7, 4#7, 8#7, 2#2⟩) ∧
    decode .alu 0b11110001_0010100_0000100_0001000_10_0#32 none = some (.union ⟨20#7, 4#7, 8#7, 2#2⟩) ∧
    decode .alu 0b11110010_0010100_0000100_0001000_10_0#32 none = some (.bpfx ⟨20#7, 4#7, 8#7, 2#2⟩) ∧
    decode .alu 0b100000_01_0010100_0000100_0001000_10_0#32 none = some (.fadd ⟨1#2, 20#7, 4#7, .reg 8#7, 2#2⟩) ∧
    decode .alu 0b100001_01_0010100_0000100_0001000_10_0#32 none = some (.fsub ⟨1#2, 20#7, 4#7, .reg 8#7, 2#2⟩) := by decide

theorem test_decode_alu_7 :
    decode .alu 0b100010_01_0010100_0000100_0001000_10_0#32 none = some (.fmul ⟨1#2, 20#7, 4#7, .reg 8#7, 2#2⟩) ∧
    decode .alu 0b100011_01_0010100_0000100_0001000_10_0#32 none = some (.ffma ⟨1#2, 20#7, 4#7, .reg 8#7, 2#2⟩) ∧
    decode .alu 0b100100_01_0010100_0000100_0001000_10_0#32 none = some (.fmin ⟨1#2, 20#7, 4#7, .reg 8#7, 2#2⟩) ∧
    decode .alu 0b100101_01_0010100_0000100_0001000_10_0#32 none = some (.fmax ⟨1#2, 20#7, 4#7, .reg 8#7, 2#2⟩) ∧
    decode .alu 0b100110_01_0011_010_0000100_0001000_10_0#32 none = some (.fcmp ⟨1#2, 3#4, 2#3, 4#7, .reg 8#7, 2#2⟩) ∧
    decode .alu 0b100111_01_0010100_0000100_00000000_0_0#32 none = some (.fneg ⟨1#2, 20#7, 4#7, false⟩) ∧
    decode .alu 0b101000_01_0010100_0000100_00000000_0_0#32 none = some (.fabs ⟨1#2, 20#7, 4#7, false⟩) ∧
    decode .alu 0b101001_01_0010100_0000100_00000000_0_0#32 none = some (.frcp ⟨1#2, 20#7, 4#7, false⟩) ∧
    decode .alu 0b101010_01_0010100_0000100_00000000_0_0#32 none = some (.frsq ⟨1#2, 20#7, 4#7, false⟩) ∧
    decode .alu 0b101011_01_0010100_0000100_00000000_0_0#32 none = some (.fsqrt ⟨1#2, 20#7, 4#7, false⟩) ∧
    decode .alu 0b101100_10_0010100_0000100_00000000_0_0#32 none = some (.fexp2 ⟨2#2, 20#7, 4#7, false⟩) ∧
    decode .alu 0b101101_01_0010100_0000100_00000000_0_0#32 none = some (.flog2 ⟨1#2, 20#7, 4#7, false⟩) := by decide

theorem test_decode_alu_8 :
    decode .alu 0b101110_00_0010100_0000100_00000000_0_0#32 none = some (.fsin ⟨0#2, 20#7, 4#7, false⟩) ∧
    decode .alu 0b101111_10_0010100_0000100_00000000_0_0#32 none = some (.fcos ⟨2#2, 20#7, 4#7, false⟩) ∧
    decode .alu 0b110000_01_0010100_0000100_00000_10_0_0_0#32 none = some (.frnd ⟨1#2, 20#7, 4#7, false⟩ 2#2) ∧
    decode .alu 0b110001_01_0010100_0000100_00000000_0_0#32 none = some (.fclass ⟨1#2, 20#7, 4#7, false⟩) ∧
    decode .alu 0b110010_01_0010100_0000100_0001000_10_0#32 none = some (.fscale ⟨1#2, 20#7, 4#7, .reg 8#7, 2#2⟩) ∧
    decode .alu 0b110011_10_0010100_0000100_0001000_10_0#32 none = some (.fdot2 ⟨2#2, 20#7, 4#7, .reg 8#7, 2#2⟩) := by decide

theorem test_decode_ctrl_1 :
    decode .ctrl 0b00000000_0010100_0000100_0000000000#32 none = some (.shq 20#7 4#7) ∧
    decode .ctrl 0b000000010000000_0000100_0000001_000#32 none = some (.shassert 4#7 1#7) ∧
    decode .ctrl 0b00000010_0010100_0000110_0000001_000#32 none = some (.shforce 20#7 6#7 1#7) ∧
    decode .ctrl 0b00000011_0010100_0000110_0000000000#32 none = some (.shpack 20#7 6#7) ∧
    decode .ctrl 0b00000100000000000000000_000011000#32 none = some (.grow 24#9) ∧
    decode .ctrl 0b00000101_0000101_00000000_000011000#32 none = some (.growTry 5#7 24#9) ∧
    decode .ctrl 0b00000110_0010100_0000100_0001000_10_0#32 none = some (.shrink ⟨20#7, 4#7, 8#7, 2#2⟩) ∧
    decode .ctrl 0b00010000_1100_00000000000000000000#32 none = some (.join 12#4) ∧
    decode .ctrl 0b00010001_0001_00000000000000000000#32 none = some (.leave 1#4) ∧
    decode .ctrl 0b00010010_0111_00000000000000000000#32 none = some (.waitm 7#4) ∧
    decode .ctrl 0b00010011_0000111_0000100_00000000_0_0#32 none = some (.mset 7#7 4#7 false) ∧
    decode .ctrl 0b00010100_011_0110_0000001_0000010_000#32 none = some (.mskop 3#3 6#4 1#7 2#7) := by decide

theorem test_decode_ctrl_2 :
    decode .ctrl 0b00010101_0010100_0000011_0000000000#32 none = some (.mpopc 20#7 3#7) ∧
    decode .ctrl 0b00010110_0010100_0000011_0000000000#32 none = some (.mfind 20#7 3#7) ∧
    decode .ctrl 0b00010111_0010100_0000011_0000000000#32 none = some (.mskget 20#7 3#7) ∧
    decode .ctrl 0b00011000_0000111_0000100_00000000_0_0#32 none = some (.mskput 7#7 4#7 false) ∧
    decode .ctrl 0b00011000_0000111_0000100_00000000_1_0#32 none = none ∧
    decode .ctrl 0b00100000_0010_11111111111111010001#32 none = some (.bra 2#4 1048529#20) ∧
    decode .ctrl 0b001000010000000_0000100_00000000_0_0#32 none = some (.brai 4#7 false) ∧
    decode .ctrl 0b00100010_1100_00010010001101000101#32 none = some (.call 12#4 74565#20) ∧
    decode .ctrl 0b001000110000000_0000100_00000000_0_0#32 none = some (.calli 4#7 false) ∧
    decode .ctrl 0b00100100000000000000000000000000#32 none = some (.ret) ∧
    decode .ctrl 0b001001010000_00010010001101000101#32 none = some (.ser 74565#20) ∧
    decode .ctrl 0b00100110000000000000000000000000#32 none = some (.endser) ∧
    decode .ctrl 0b00100111_0101_00000000000000000000#32 none = some (.exit 5#4) := by decide

theorem test_decode_ctrl_3 :
    decode .ctrl 0b00101000000000000000000000000000#32 none = some (.nop) ∧
    decode .ctrl 0b00101001000000000000000000000000#32 none = some (.yield) ∧
    decode .ctrl 0b00101010_0010100_0000101_0000000000#32 none = some (.pushv 20#7 5#7) ∧
    decode .ctrl 0b00101011_0010100_0000101_0000000000#32 none = some (.popv 20#7 5#7) := by decide

theorem test_decode_mem_1 :
    decode .mem 0b00_01_1_101_0010100_0000100_1010100101#32 none = some (.ld ⟨1#2, true, 5#3, 20#7, 4#7, 677#10⟩) ∧
    decode .mem 0b01_10_0_110_0010100_0000100_0101011010#32 none = some (.st ⟨2#2, false, 6#3, 20#7, 4#7, 346#10⟩) ∧
    decode .mem 0b10000_011_0010100_0000100_0100010001#32 none = some (.lduC ⟨3#3, 20#7, 4#7, 273#10⟩) ∧
    decode .mem 0b10001_101_0010100_0000100_1000100010#32 none = some (.lduG ⟨5#3, 20#7, 4#7, 546#10⟩) ∧
    decode .mem 0b10010_100_0010100_0000100_0001000_00_1#32 none = some (.ldxG ⟨4#3, 20#7, 4#7, .reg 8#7, true⟩) ∧
    decode .mem 0b10011_001_0010100_0000100_0001000_00_1#32 none = some (.ldxD ⟨1#3, 20#7, 4#7, .reg 8#7, true⟩) ∧
    decode .mem 0b10100_101_0010100_0000100_0001000_00_1#32 none = some (.stxG ⟨5#3, 20#7, 4#7, .reg 8#7, true⟩) ∧
    decode .mem 0b10101_010_0010100_0000100_0001000_00_1#32 none = some (.stxD ⟨2#3, 20#7, 4#7, .reg 8#7, true⟩) ∧
    decode .mem 0b1011_1001_0010100_0000100_0001000_01_0#32 none = some (.atom 9#4 ⟨20#7, 4#7, .reg 8#7, 1#2⟩) ∧
    decode .mem 0b1100_1111_0000000_0000100_0001000_10_0#32 none = some (.red 15#4 ⟨0#7, 4#7, .reg 8#7, 2#2⟩) ∧
    decode .mem 0b11010000_0010100_0000100_0001000_10_0#32 none = some (.atomcasN32 ⟨20#7, 4#7, .reg 8#7, 2#2⟩) ∧
    decode .mem 0b11010001_0010100_0000100_0001000_01_0#32 none = some (.atomcasN64 ⟨20#7, 4#7, .reg 8#7, 1#2⟩) := by decide

theorem test_decode_mem_2 :
    decode .mem 0b11010010_0101100_0000100_0001000_01_0#32 none = some (.redx ⟨44#7, 4#7, .reg 8#7, 1#2⟩) ∧
    decode .mem 0b110100110000000_0000100_0111111111#32 none = some (.pref 4#7 511#10) ∧
    decode .mem 0b1101100000000000000000_101_0000000#32 none = some (.fence 5#3) ∧
    decode .mem 0b11011001_0010100_0000100_100_100_0_10_0#32 none = some (.acq ⟨20#7, 4#7, 4#3, 4#3, 2#2⟩) ∧
    decode .mem 0b11011010_0010100_0000100_110_101_0_01_0#32 none = some (.rel ⟨20#7, 4#7, 6#3, 5#3, 1#2⟩) ∧
    decode .mem 0b11011011_0010100_0000100_101_100_0_00_0#32 none = some (.acqr ⟨20#7, 4#7, 5#3, 4#3, 0#2⟩) ∧
    decode .mem 0b110111000000000_0000100_0000_001_01_0#32 none = some (.cctl 4#7 1#3 1#2) ∧
    decode .mem 0b11011101_0010100_0000100_0001000_00_1#32 none = some (.p2g 20#7 4#7 (.reg 8#7) true) ∧
    decode .mem 0b11011110_0010100_0000100_0000000000#32 none = some (.qspace 20#7 4#7) ∧
    decode .mem 0b11100000_0010100_0010001_0000000000#32 none = some (.bararr 20#7 17#7) ∧
    decode .mem 0b111000010000000_0010000_0001000_000#32 none = some (.barwait 16#7 (.reg 8#7)) ∧
    decode .mem 0b111000100000000_0000011_0000000000#32 none = some (.barsync 3#7) := by decide

theorem test_decode_mem_3 :
    decode .mem 0b111000110000000_0010011_0001000_000#32 none = some (.barexp 19#7 (.reg 8#7)) ∧
    decode .mem 0b111001000000000_0000001_0001000_000#32 none = some (.barset 1#7 (.reg 8#7)) ∧
    decode .mem 0b11101000_0010100_0000111_0000000000#32 none = some (.stgacq 20#7 7#7) ∧
    decode .mem 0b11101001_0000110_0000100_00000000_1_0#32 none = some (.stgrel 6#7 ⟨4#7, true⟩) ∧
    decode .mem 0b111010100000000_0001111_0001000_100#32 none = some (.tlwait 15#7 ⟨.reg 8#7, true⟩) ∧
    decode .mem 0b11101011_0010100_0001110_0000000000#32 none = some (.tlread 20#7 14#7) := by decide

theorem test_decode_cpy_1 :
    decode .cpy 0b00000000_0000100_0001000_0001001_101#32 none = some (.cpl 4#7 8#7 9#7 5#3) ∧
    decode .cpy 0b00000001000000000000000000000_110#32 none = some (.tagwait 6#3) ∧
    decode .cpy 0b00000010_0000100_00000000000000_011#32 none = some (.tagcnt 4#7 3#3) ∧
    decode .cpy 0b00010000_0000100_0001000_0000000000#32 none = some (.tcopy 4#7 8#7) ∧
    decode .cpy 0b00010001_0000100_0001000_0000000000#32 none = some (.tsparse 4#7 8#7) ∧
    decode .cpy 0b00010010_0000100_0001000_0000000000#32 none = some (.tgather 4#7 8#7) ∧
    decode .cpy 0b00010011_0000100_0001000_0000000000#32 none = some (.tscatter 4#7 8#7) ∧
    decode .cpy 0b00010100_0000100_0001000_0000000000#32 none = some (.tfill 4#7 8#7) ∧
    decode .cpy 0b00010101_0000100_0001000_0000000000#32 none = some (.tcoll 4#7 8#7) ∧
    decode .cpy 0b00010110_0000100_0001011_0000000000#32 none = some (.tstat 4#7 11#7) := by decide

theorem test_decode_mtx_1 :
    decode .mtx 0b00000000_0000100_00000000000000_101#32 none = some (.mxarr 4#7 5#3) ∧
    decode .mtx 0b00000001_0000100_0001000_0000000000#32 none = some (.mxload 4#7 8#7) ∧
    decode .mtx 0b00000010_0000100_0001000_0000000000#32 none = some (.mxarow 4#7 8#7) ∧
    decode .mtx 0b00000011_0000100_0001000_0000110_101#32 none = some (.mxsign 4#7 8#7 6#7 5#3) ∧
    decode .mtx 0b00000100_0000100_00000000000000_110#32 none = some (.mxmma 4#7 6#3) ∧
    decode .mtx 0b00000101_0000100_00000000000000_001#32 none = some (.mxvalid 4#7 1#3) ∧
    decode .mtx 0b00000110000000000000000000000_010#32 none = some (.mxwait 2#3) ∧
    decode .mtx 0b00000111_0000100_000000000000000_1_0#32 none = some (.mxsave 4#7 true false) := by decide

theorem test_decode_sys_1 :
    decode .sys 0b00000000_0010110_0011000_0000000000#32 none = some (.spawn 22#7 24#7) ∧
    decode .sys 0b00000001_0010110_0011000_1011_000000#32 none = some (.spawnTry 22#7 24#7 11#4) ∧
    decode .sys 0b000000100000000_0000100_0000000000#32 none = some (.plvl 4#7) ∧
    decode .sys 0b0000100000000000_1011111011101111#32 none = some (.trap 48879#16) ∧
    decode .sys 0b00001001000000000000000000000000#32 none = some (.tret) ∧
    decode .sys 0b0000101000000000_0001001000110100#32 none = some (.brk 4660#16) ∧
    decode .sys 0b00010000_0010100_0000000_0000110000#32 none = some (.csrr 20#7 48#10) ∧
    decode .sys 0b000100010000000_0000100_0000001001#32 none = some (.csrw 4#7 9#10) ∧
    decode .sys 0b00010010_0010100_00000000000000000#32 none = some (.clock 20#7) ∧
    decode .sys 0b000110000000000_0000100_0001000_000#32 none = some (.entw 4#7 8#7) ∧
    decode .sys 0b000110010000000000000000000000_10#32 none = some (.migr 2#2) ∧
    decode .sys 0b00100000000000000000000000000000#32 none = some (.rdenter) := by decide

theorem test_decode_sys_2 :
    decode .sys 0b00100001000000000000000000000000#32 none = some (.rdexit) ∧
    decode .sys 0b00100010_0010100_00000000000000000#32 none = some (.gpstart 20#7) ∧
    decode .sys 0b001000110000000_0000100_0000000000#32 none = some (.waitgp 4#7) ∧
    decode .sys 0b00100100_1001_000_0100010_0100101_000#32 none = some (.dfree 9#4 34#7 37#7) := by decide

/-- Words with a literal word, words of the reference entries, and words with a reserved value, which are refused (03 R73). -/
theorem test_decode_literals_and_refusals :
    decode .alu 0x0F7003F8#32 (some 7#32) = some (.movl 56#7 false 7#32) ∧ decode .alu 0x160A1BF9#32 (some 0x804#32) = some (.bfx ⟨5#7, 6#7, .lit 0x804#32, 0#2, true⟩) ∧
    decode .alu 0x160A1BF9#32 none = none ∧ decode .alu 0x33281040#32 none = some (.addc 3#4 ⟨20#7, 4#7, .reg 8#7, 0#2, false⟩) ∧
    decode .alu 0x06281001#32 none = some (.abs ⟨20#7, 4#7, false, true⟩) ∧ decode .alu 0x06281000#32 none = none ∧ decode .alu 0xFF000000#32 none = none ∧
    decode .ctrl 0x13801000#32 none = none ∧ decode .mem 0x00000000#32 none ≠ decode .alu 0x00000000#32 none := by decide

/-! ## Worked examples of the manual, one step each -/

/-- The values of a register after an instruction, in the demo span of eight lanes. -/
def valsAfter (w : World) (i : Instr) (r : Nat) : Option (List Word) :=
  match exec i w.state with
  | .next t => (t.span? 4).map (fun x => (List.range 8).map (x.reg r))
  | _ => none
/-- Its shape code, and the span's octet slots in use. -/
def shapeAfter (w : World) (i : Instr) (r : Nat) : Option (Nat × Nat) :=
  match exec i w.state with
  | .next t => (t.span? 4).map (fun x => ((x.vreg r).code, x.used))
  | _ => none
def maskAfter (w : World) (i : Instr) (k : Nat) : Option LaneSet :=
  match exec i w.state with
  | .next t => (t.span? 4).map (fun x => x.mask k)
  | _ => none
def onR (l : List (Nat × VReg)) : World := onM.withSpan (setRegs l)
def onVR (l : List (Nat × VReg)) : World := onV.withSpan (setRegs l)
def vec (l : List Nat) : VReg := .vector 7 (l.map (BitVec.ofNat 32))

/-- The table of 01 R22: merges by some lanes of A and by all. -/
theorem test_merge_examples :
    (let w := (onR [(10, .affine 0#32 1#3)]).by_ 0xF0#64
     valsAfter w (.addImm ⟨10#7, 10#7, 16#10⟩) 10 = some [0#32, 2#32, 4#32, 6#32, 24#32, 26#32, 28#32, 30#32] ∧
       shapeAfter w (.addImm ⟨10#7, 10#7, 16#10⟩) 10 = some (2, 2)) ∧
    (let w := (onR [(12, .affine 0#32 0#3), (13, .affine 0#32 0#3)]).by_ 0x24#64
     shapeAfter w (.mov ⟨12#7, 13#7, false, false⟩) 12 = some (1, 1)) ∧
    (shapeAfter ((onR [(14, .uniform 7#32)]).by_ 0x09#64) (.movl 14#7 false 7#32) 14 = some (0, 1)) ∧
    (valsAfter ((onR [(16, .uniform 0#32)]).by_ 0x02#64) (.movl 16#7 false 5#32) 16 = some [0#32, 5#32, 0#32, 0#32, 0#32, 0#32, 0#32, 0#32]) ∧
    (shapeAfter (onR [(15, vec [1, 2, 3, 4, 5, 6, 7, 9])]) (.movl 15#7 false 0#32) 15 = some (2, 1)) ∧
    (shapeAfter (onR [(17, .affine 0#32 6#3)]) (.shlImm ⟨17#7, 17#7, 2#10⟩) 17 = some (2, 2)) := by decide +kernel

/-- The chain of 05 R85 on lane 0: carries 1, 1, 0. -/
theorem test_addc_chain :
    (let w := (onR [(4, .uniform 0xFFFFFFFF#32), (8, .uniform 1#32)]).by_ 1#64
     (valsAfter w (.addc 3#4 ⟨20#7, 4#7, .reg 8#7, 0#2, false⟩) 20).map (·.headD 1#32) = some 0#32 ∧
       maskAfter w (.addc 3#4 ⟨20#7, 4#7, .reg 8#7, 0#2, false⟩) 3 = some 1#64) ∧
    (let w := ((onR [(6, .uniform 1#32), (10, .uniform 0#32)]).withSpan (fun x => { x with masks := x.masks.set 3 0xFF#64 })).by_ 1#64
     (valsAfter w (.addc 3#4 ⟨22#7, 6#7, .reg 10#7, 0#2, false⟩) 22).map (·.headD 0#32) = some 2#32 ∧
       maskAfter w (.addc 3#4 ⟨22#7, 6#7, .reg 10#7, 0#2, false⟩) 3 = some 0xFE#64) := by decide +kernel

/-- Bits 11 to 4, sign-extended (05 R88); a shift by 32 (05 R86); the condition on a compare is signed where x is set (05 R91). -/
theorem test_fields_shifts_and_compares :
    valsAfter (onR [(6, .uniform 0x00000F40#32)]) (.bfx ⟨5#7, 6#7, .lit 0x804#32, 0#2, true⟩) 5 = some (List.replicate 8 0xFFFFFFF4#32) ∧
    valsAfter (onR [(6, .uniform 0x80000000#32)]) (.sar ⟨5#7, 6#7, .lit 32#32, 0#2, true⟩) 5 = some (List.replicate 8 0xFFFFFFFF#32) ∧
    valsAfter (onR [(6, .uniform 0x80000000#32)]) (.shr ⟨5#7, 6#7, .lit 32#32, 0#2, false⟩) 5 = some (List.replicate 8 0#32) ∧
    maskAfter (onR [(6, .uniform 0xFFFFFFFF#32), (7, .uniform 0#32)]) (.cmp ⟨2#4, 2#3, 6#7, .reg 7#7, 0#2, true⟩) 2 = some 0xFF#64 ∧
    maskAfter (onR [(6, .uniform 0xFFFFFFFF#32), (7, .uniform 0#32)]) (.cmp ⟨2#4, 2#3, 6#7, .reg 7#7, 0#2, false⟩) 2 = some 0#64 := by decide +kernel

/-- The tables of 06 R137 and R139-R141. -/
theorem test_lane_examples :
    (let w := (onR [(4, vec [9, 3, 7, 3, 5, 12, 0, 0]), (5, vec [0, 1, 2, 3, 4, 5, 0, 0]), (20, .uniform 77#32), (21, .uniform 77#32)]).by_ 0x3F#64
     valsAfter w (.lminx ⟨20#7, 4#7, false, false⟩) 20 = some [3#32, 3#32, 3#32, 3#32, 3#32, 3#32, 77#32, 77#32] ∧
     valsAfter w (.lminx ⟨20#7, 4#7, false, false⟩) 21 = some [1#32, 1#32, 1#32, 1#32, 1#32, 1#32, 77#32, 77#32]) ∧
    (let w := onVR [(4, .uniform 0xB6#32), (6, .uniform 0xE4#32), (20, vec [1, 2, 5, 6, 7, 1, 1, 1])]
     valsAfter w (.isect ⟨20#7, 4#7, 6#7, 0#2⟩) 20 = some [0xFFFFFFFF#32, 1#32, 3#32, 0xFFFFFFFF#32, 4#32, 0xFFFFFFFF#32, 0xFFFFFFFF#32, 0xFFFFFFFF#32] ∧
     valsAfter w (.isect ⟨20#7, 4#7, 6#7, 0#2⟩) 21 = some [0xFFFFFFFF#32, 0#32, 1#32, 0xFFFFFFFF#32, 3#32, 0xFFFFFFFF#32, 0xFFFFFFFF#32, 0xFFFFFFFF#32] ∧
     (valsAfter w (.union ⟨20#7, 4#7, 6#7, 0#2⟩) 20).map (·.take 5) = some [0#32, 1#32, 3#32, 4#32, 5#32] ∧
     (valsAfter w (.union ⟨20#7, 4#7, 6#7, 0#2⟩) 21).map (·.take 5) = some [0xFFFF0000#32, 1#32, 0x00010003#32, 0x0002FFFF#32, 0x00030004#32]) ∧
    (valsAfter (onVR [(4, .uniform 0xB6#32), (6, vec [5, 64, 0, 0, 0, 0, 0, 0])]) (.bpfx ⟨20#7, 4#7, 6#7, 0#2⟩) 20).map (·.take 2) = some [3#32, 5#32] := by
  decide +kernel

/-- The table of 02 R46: e2m1 codes under an extra value of -0.25 and a scale of 1, by `cvts` from f32. -/
def extra : World :=
  { onR [(20, vec [0xBE800000, 0xBE851EB8, 0xBE4CCCCD, 0x40A00000, 0x3F400000, 0x41180000, 0, 0])] with
    launch := { demoLaunch with slots := BitVec.ofNat 256 (0x3F800000 + 2 ^ 64 * 0xB400 + 2 ^ 80 * 7) :: List.replicate 7 0#256 } }
theorem test_e2m1_codes :
    valsAfter extra (.cvts ⟨30#7, 20#7, 10#4, 0#3, 0#2, true, 0#32⟩) 30 = some [8#32, 9#32, 0#32, 6#32, 2#32, 7#32, 0#32, 0#32] ∧
    (valsAfter extra (.cvts ⟨30#7, 20#7, 10#4, 0#3, 2#2, true, 0#32⟩) 30).map (·.getD 2 0#32) = some 9#32 ∧
    (valsAfter extra (.cvts ⟨30#7, 20#7, 10#4, 0#3, 1#2, true, 0#32⟩) 30).map (·.getD 5 0#32) = some 7#32 := by decide +kernel

/-- Lane-in-deck 70 of a deck in slot 5 of pier 37: the pointer of 07 R163. -/
def pointing : World :=
  { (onM.withSpan (fun x => { x with idx := 8, regs := x.regs.set 20 (.uniform 0x120#32) })).by_ 0x40#64 with
    deck := { demoDeck 37 with slot := 5 }, launch := { demoLaunch with priv := 1024 } }
theorem test_p2g_example :
    (valsAfter pointing (.p2g 30#7 20#7 (.reg 0#7) false) 30).map (·.getD 6 0#32) = some 0x84600120#32 ∧
    (valsAfter pointing (.p2g 30#7 20#7 (.reg 0#7) false) 31).map (·.getD 6 0#32) = some 0x01FFF12A#32 := by decide +kernel

/-- The descriptor of 08 R202: M = 2, N = 8, no accumulation, COL 0. -/
theorem test_slice_descriptor :
    (opM 0x0010000003820102#64, opN 0x0010000003820102#64, opMV 0x0010000003820102#64, opNV 0x0010000003820102#64, opCol 0x0010000003820102#64,
      opZero 0x0010000003820102#64) = (2, 8, 2, 7, 0, true) := by decide +kernel

/-- SHAKE256 of no bytes, from the standard that 20 R373 and R375 name. -/
theorem test_shake256_of_nothing : (shake256 []).take 4 = [0x46#8, 0xB9#8, 0xDD#8, 0x2B#8] := by decide +kernel

/-- The frame a trap leaves: cause 0x0001 of every lane, the handler's registers (15 R306). -/
theorem test_trap_entry :
    (match exec (.csrw 2#7 0x009#10) onM.state with
     | .next t => (t.span? 4).map (fun x => (x.reg 124 0, x.reg 125 0, x.reg 126 7, x.reg 127 7, (x.lane 3).pos.pc))
     | _ => none) = some (0x100000#32, 0#32, 1#32, 7#32, 0x14000) := by decide +kernel

end Sys2Proof.Tests
end

section
/-! What every instruction meets before its own meaning (O53; 01 R29, 15 R316, 21 R382). -/

namespace Sys2Proof.Machine

section
variable {i : Instr} {s : State} {c : Ctx} (al : Bool) (body : Ctx → Run Eff)

/-- An instruction that the pier's grade has passes the check of grades. -/
theorem grade_passes (hg : ∀ g, i.grade = some g → g = gradeOf c.deck.pier) :
    i.grade.elim false (fun g => g != gradeOf c.deck.pier) = false := by
  cases hi : i.grade with
  | none => rfl
  | some g => simp [hg g hi]

/-- On a pier of the wrong grade an instruction does not run (15 R316). -/
theorem instr_wrongGrade {g : Grade} (h : startCtx i s = some c) (hg : i.grade = some g) (hne : g ≠ gradeOf c.deck.pier) :
    instr i al s body = wrongGrade c 0 c.s g := by
  simp [instr, h, hg, hne]

/-- With no lane executing, an instruction that does not act for the span only passes (01 R29). -/
theorem instr_passes (h : startCtx i s = some c) (hg : ∀ g, i.grade = some g → g = gradeOf c.deck.pier) (ha : c.A = 0#64) :
    instr i false s body = .next (goOn c.s c.iss c.G) := by
  simp [instr, h, grade_passes hg, ha]

/-- A poisoned source of an executing lane raises POISON (21 R382). -/
theorem instr_poison (h : startCtx i s = some c) (hg : ∀ g, i.grade = some g → g = gradeOf c.deck.pier) (ha : c.A ≠ 0#64)
    (hp : poisonLanes c i ≠ 0#64) :
    instr i al s body = takeTrapFrom c.before c.s c.iss (TrapInfo.at 0x000C 0#64 (poisonLanes c i)) := by
  simp [instr, h, grade_passes hg, ha, hp]

end

/-- Settles O53: each branch of the checks of an issue, for the instruction's own body. -/
theorem issueRules : Obligations.IssueRules := by
  intro i s c hc hs
  obtain ⟨al, body, he, hal⟩ := exec_instr hc
  refine ⟨fun g hg hne => ?_, fun hg => ⟨fun ha h1 h2 h3 => ?_, fun ha hp => ?_⟩⟩
  · rw [he, instr_wrongGrade al body hs hg hne]
  · have hf : al = false := by
      by_contra hne
      rcases hal (by simpa using hne) with ⟨off, h⟩ | h | h
      exacts [h1 off h, h2 h, h3 h]
    subst hf
    rw [he, instr_passes body hs hg ha]; rfl
  · rw [he, instr_poison al body hs hg ha hp]

end Sys2Proof.Machine
end

section
/-! The checks of accesses, each with what its trap record names (07 R145, 15 R311). -/

namespace Sys2Proof.Machine

/-! ## The record of a trap at an access -/

/-- The record of a trap at an access: its cause, the lanes of the accesses that fail and the address of one of the lowest such lane. -/
structure TrapInfo.Names (t : TrapInfo) (cause access : Nat) (reqs : List Req) (bad : Req → Prop) : Prop where
  cause : t.cause = cause
  access : t.access = access
  lanes : ∀ l, hasLane t.lanes l = true ↔ ∃ q ∈ reqs, q.lane = l ∧ bad q
  lowest : ∃ q ∈ reqs, bad q ∧ t.addr = q.addr ∧ ∀ x ∈ reqs, bad x → q.lane ≤ x.lane
  plain : t.complete = false ∧ t.past = false ∧ t.boundary = none

theorem hasLane_foldl_oneLane (qs : List Req) (hq : ∀ q ∈ qs, q.lane < 64) (m : LaneSet) (l : Nat) :
    hasLane (qs.foldl (fun m r => m ||| oneLane r.lane) m) l = true ↔ hasLane m l = true ∨ ∃ q ∈ qs, q.lane = l := by
  induction qs generalizing m with
  | nil => simp
  | cons q qs ih =>
    have h64 := hq q List.mem_cons_self
    rw [List.foldl_cons, ih (fun r hr => hq r (List.mem_cons_of_mem q hr))]
    simp only [hasLane_or, hasLane_oneLane, Bool.or_eq_true, Bool.and_eq_true, decide_eq_true_eq, List.mem_cons, exists_eq_or_imp, or_assoc]
    refine or_congr_right (or_congr_left ⟨fun h => h.2.symm, fun h => ⟨h ▸ h64, h.symm⟩⟩)

/-- The record names exactly the accesses that it was made from. -/
theorem accessTrap_names {reqs bad : List Req} {p : Req → Prop} (cause access mt : Nat) (hl : ∀ q ∈ reqs, q.lane < 64)
    (hb : ∀ q, q ∈ bad ↔ q ∈ reqs ∧ p q) (hne : ∃ q ∈ reqs, p q) : (accessTrap cause access mt bad).Names cause access reqs p := by
  refine ⟨rfl, rfl, fun l => ?_, ?_, rfl, rfl, rfl⟩
  · refine (hasLane_foldl_oneLane bad (fun q hq => hl q ((hb q).mp hq).1) 0#64 l).trans ?_
    simp only [hasLane_zero, Bool.false_eq_true, false_or, hb, and_assoc]
    exact exists_congr fun q => and_congr_right fun _ => and_comm
  · obtain ⟨q, hq, hp⟩ := hne
    have hmem : q.lane ∈ bad.map (·.lane) := List.mem_map_of_mem ((hb q).mpr ⟨hq, hp⟩)
    obtain ⟨low, hlow⟩ := Option.isSome_iff_exists.mp (List.isSome_min?_of_mem hmem)
    obtain ⟨hin, hle⟩ := List.min?_eq_some_iff.mp hlow
    obtain ⟨y, hy, hyl⟩ := List.mem_map.mp hin
    obtain ⟨r, hr⟩ := Option.isSome_iff_exists.mp (List.find?_isSome (p := fun r : Req => r.lane == low).mpr ⟨y, hy, by simpa using hyl⟩)
    obtain ⟨hr1, hr2⟩ := (hb r).mp (List.mem_of_find?_eq_some hr)
    have hrl : r.lane = low := by simpa using List.find?_some hr
    refine ⟨r, hr1, hr2, by simp [accessTrap, hlow, hr], fun x hx hpx => ?_⟩
    rw [hrl]
    exact hle x.lane (List.mem_map_of_mem ((hb x).mpr ⟨hx, hpx⟩))

/-! ## The accesses that a check finds, each beside what it found -/

section
variable {β : Type} {f : Req → β} {p : β → Bool} {reqs : List Req}

/-- Some access satisfies the check's test of what was found for it. -/
theorem tagged_ne_nil (h : ∃ q ∈ reqs, p (f q) = true) : (reqs.map (fun q => (q, f q))).filter (fun x => p x.2) ≠ [] := by
  obtain ⟨q, hq, hp⟩ := h
  exact List.ne_nil_of_mem (List.mem_filter.mpr ⟨List.mem_map_of_mem hq, hp⟩)

/-- No access does. -/
theorem tagged_eq_nil (h : ∀ q ∈ reqs, p (f q) = false) : (reqs.map (fun q => (q, f q))).filter (fun x => p x.2) = [] := by
  simpa [List.filter_eq_nil_iff] using h

/-- The accesses alone, without what was found for them. -/
theorem map_fst_tagged : ((reqs.map (fun q => (q, f q))).filter (fun x => p x.2)).map (·.1) = reqs.filter (fun q => p (f q)) := by
  rw [List.filter_map, List.map_map]
  exact List.map_id _

end

/-! ## Which check an access fails -/

/-- What becomes of an access's address: its translation, none where it has no target. -/
def Ctx.trOf (c : Ctx) (s : State) (q : Req) : Tr := (resolve c s q.sp q.lane q.addr q.size).elim Tr.absent (translateTarget c s q.wr)

section
variable {c : Ctx} {s : State} {aligned : Req → Bool} {align : Req → Nat} {access mx : Nat} {rd : Bool} {reqs : List Req} {q : Req}

theorem Ctx.trOf_some {g : Target} (h : resolve c s q.sp q.lane q.addr q.size = some g) : c.trOf s q = translateTarget c s q.wr g := by
  simp [Ctx.trOf, h]

theorem Ctx.fails_protection : c.fails s align mx rd q 0x0006 ↔ (c.trOf s q).isProt mx = true := by
  unfold Ctx.fails Ctx.trOf
  cases resolve c s q.sp q.lane q.addr q.size with
  | none => simp [Tr.isProt]
  | some g => cases h : translateTarget c s q.wr g <;> simp [h, Tr.isProt]

theorem Ctx.fails_absent (hr : resolve c s q.sp q.lane q.addr q.size ≠ none) : c.fails s align mx rd q 0x0007 ↔ c.trOf s q = Tr.absent := by
  obtain ⟨g, hg⟩ := Option.ne_none_iff_exists'.mp hr
  simp [Ctx.fails, Ctx.trOf, hg]

theorem Ctx.fails_poison : c.fails s align mx rd q 0x000C ↔
    rd = true ∧ ∃ l mt, c.trOf s q = Tr.ok l mt ∧ stillPoisoned s c.u q.lane l q.size = true := by
  unfold Ctx.fails Ctx.trOf
  cases resolve c s q.sp q.lane q.addr q.size <;> simp

/-! ## The checks, one after another -/

/-- Check 2 of 07 R145: an access off its alignment is MISALIGNED. -/
theorem checkAllWith_misaligned (h : ∃ q ∈ reqs, aligned q = false) :
    checkAllWith aligned c s access mx rd reqs = .error (.trap s (accessTrap 0x0008 access 0 (reqs.filter (fun q => !aligned q)))) := by
  have hb : (reqs.filter (fun q => !aligned q) != []) = true := by
    obtain ⟨q, hq, ha⟩ := h
    exact bne_iff_ne.mpr (List.ne_nil_of_mem (List.mem_filter.mpr ⟨hq, by simp [ha]⟩))
  simp only [checkAllWith, hb, if_true]

/-- Check 3: with every access aligned, one without a target is at an ILLEGAL_ADDRESS. -/
theorem checkAllWith_unresolved (ha : ∀ q ∈ reqs, aligned q = true) (h : ∃ q ∈ reqs, resolve c s q.sp q.lane q.addr q.size = none) :
    checkAllWith aligned c s access mx rd reqs =
      .error (.trap s (accessTrap 0x0005 access 0 (reqs.filter (fun q => (resolve c s q.sp q.lane q.addr q.size).isNone)))) := by
  have e1 : reqs.filter (fun q => !aligned q) = [] := by simpa using ha
  have hb := tagged_ne_nil (f := fun q : Req => resolve c s q.sp q.lane q.addr q.size) (p := Option.isNone)
    (h.imp fun q hq => ⟨hq.1, by simp [hq.2]⟩)
  simp only [checkAllWith, e1, bne_self_eq_false, Bool.false_eq_true, if_false, map_fst_tagged]
  exact if_pos (bne_iff_ne.mpr hb)

/-- What an access hits, where it is translated. -/
def hitOfTr (x : Req × Tr) : Option Hit :=
  match x.2 with
  | Tr.ok l m => some ⟨x.1, l, m⟩
  | _ => none

theorem hitOfTr_eq_some {x : Req × Tr} {h : Hit} : hitOfTr x = some h ↔ x = (h.req, Tr.ok h.loc h.mtype) := by
  obtain ⟨q, t⟩ := x
  obtain ⟨q', l', m'⟩ := h
  cases t <;> simp [hitOfTr]

/-- What the checks of translations answer: the tail of `checkAllWith`, once every access is aligned, has a target and is translated. -/
def checkTranslated (c : Ctx) (s : State) (access mx : Nat) (rd : Bool) (reqs : List Req) : Run (List Hit) :=
  let us := reqs.map (fun q => (q, c.trOf s q))
  let badP := us.filter (fun x => x.2.isProt mx)
  if badP != [] then .error (.trap s (accessTrap 0x0006 access ((badP.head?).elim 0 (·.2.mtype)) (badP.map (·.1)))) else
  let badA := us.filter (fun x => x.2 == Tr.absent)
  if badA != [] then .error (.trap s (accessTrap 0x0007 access 0 (badA.map (·.1)))) else
  let hits := us.filterMap hitOfTr
  let bad5 := hits.filter (fun h => rd && stillPoisoned s c.u h.req.lane h.loc h.req.size)
  if bad5 != [] then .error (.trap s (accessTrap 0x000C access ((bad5.head?).elim 0 (fun h => h.loc.foundType h.mtype)) (bad5.map (·.req))))
  else .ok hits

/-- With every access aligned, resolved and translated, the checks of translations are left. -/
theorem checkAllWith_translated (ha : ∀ q ∈ reqs, aligned q = true) (hr : ∀ q ∈ reqs, resolve c s q.sp q.lane q.addr q.size ≠ none)
    (ht : c.translated s reqs) : checkAllWith aligned c s access mx rd reqs = checkTranslated c s access mx rd reqs := by
  have e1 : reqs.filter (fun q => !aligned q) = [] := by simpa using ha
  have e2 : (reqs.map (fun q => (q, resolve c s q.sp q.lane q.addr q.size))).filter (fun x => x.2.isNone) = [] := by
    simp only [List.filter_eq_nil_iff, List.mem_map, Option.isNone_iff_eq_none, forall_exists_index, and_imp, forall_apply_eq_imp_iff₂]
    exact hr
  have e3 : (reqs.map (fun q => (q, resolve c s q.sp q.lane q.addr q.size))).map (fun x =>
      (x.1, x.2.elim Tr.absent (translateTarget c s x.1.wr))) = reqs.map (fun q => (q, c.trOf s q)) := by
    rw [List.map_map]; rfl
  have tr : ∀ q ∈ reqs, (∀ p, c.trOf s q ≠ Tr.ask p) ∧ c.trOf s q ≠ Tr.noMem := fun q hq => by
    obtain ⟨g, hg⟩ := Option.ne_none_iff_exists'.mp (hr q hq)
    rw [Ctx.trOf_some hg]
    exact ht q hq g hg
  have e4 : (reqs.map (fun q => (q, c.trOf s q))).any (fun x => x.2 == Tr.noMem) = false := by
    simp only [List.any_eq_false, List.mem_map, beq_iff_eq, forall_exists_index, and_imp, forall_apply_eq_imp_iff₂]
    exact fun q hq => (tr q hq).2
  have e5 : ∀ x ∈ reqs.map (fun q => (q, c.trOf s q)), ∀ p, x.2 ≠ Tr.ask p := by
    simp only [List.mem_map, forall_exists_index, and_imp, forall_apply_eq_imp_iff₂]
    exact fun q hq => (tr q hq).1
  simp only [checkAllWith, e1, e2, e3, e4, bne_self_eq_false, Bool.false_eq_true, if_false]
  split
  · rename_i p hp
    obtain ⟨x, hx, hf⟩ := List.exists_of_findSome?_eq_some hp
    split at hf
    · rename_i p' he; exact absurd he (e5 x hx p')
    · cases hf
  · rfl

/-- Check 4: a translation that the access may not use raises PROTECTION. -/
theorem checkTranslated_protected (h : ∃ q ∈ reqs, (c.trOf s q).isProt mx = true) : ∃ mt, checkTranslated c s access mx rd reqs =
    .error (.trap s (accessTrap 0x0006 access mt (reqs.filter (fun q => (c.trOf s q).isProt mx)))) := by
  simp only [checkTranslated, map_fst_tagged]
  exact ⟨_, if_pos (bne_iff_ne.mpr (tagged_ne_nil h))⟩

/-- With none protected, one that is absent raises PAGE_NOT_PRESENT. -/
theorem checkTranslated_absent (hp : ∀ q ∈ reqs, (c.trOf s q).isProt mx = false) (h : ∃ q ∈ reqs, c.trOf s q = Tr.absent) :
    checkTranslated c s access mx rd reqs =
      .error (.trap s (accessTrap 0x0007 access 0 (reqs.filter (fun q => c.trOf s q == Tr.absent)))) := by
  have hb := tagged_ne_nil (f := c.trOf s) (p := (· == Tr.absent)) (h.imp fun q hq => ⟨hq.1, by simp [hq.2]⟩)
  simp only [checkTranslated, tagged_eq_nil hp, bne_self_eq_false, Bool.false_eq_true, if_false,
    map_fst_tagged (f := c.trOf s) (p := (· == Tr.absent))]
  exact if_pos (bne_iff_ne.mpr hb)

/-- Check 5: with every access reaching its location, a poisoned byte that is read raises POISON. -/
theorem checkTranslated_poisoned (hp : ∀ q ∈ reqs, (c.trOf s q).isProt mx = false) (ha : ∀ q ∈ reqs, c.trOf s q ≠ Tr.absent)
    (h : ∃ q ∈ reqs, ∃ l mt, c.trOf s q = Tr.ok l mt ∧ stillPoisoned s c.u q.lane l q.size = true) :
    ∃ mt bad, checkTranslated c s access mx true reqs = .error (.trap s (accessTrap 0x000C access mt bad)) ∧
      ∀ q, q ∈ bad ↔ q ∈ reqs ∧ ∃ l mt, c.trOf s q = Tr.ok l mt ∧ stillPoisoned s c.u q.lane l q.size = true := by
  have e1 := tagged_eq_nil hp
  have e2 := tagged_eq_nil (f := c.trOf s) (p := (· == Tr.absent)) (reqs := reqs) (by simpa using ha)
  have mem : ∀ q, q ∈ (((reqs.map (fun q => (q, c.trOf s q))).filterMap hitOfTr).filter (fun h =>
        stillPoisoned s c.u h.req.lane h.loc h.req.size)).map (·.req) ↔
      q ∈ reqs ∧ ∃ l mt, c.trOf s q = Tr.ok l mt ∧ stillPoisoned s c.u q.lane l q.size = true := by
    intro q
    simp only [List.mem_map, List.mem_filter, List.mem_filterMap, hitOfTr_eq_some, exists_exists_and_eq_and, Prod.mk.injEq]
    constructor
    · rintro ⟨x, ⟨⟨q, hq, rfl, he⟩, hs⟩, rfl⟩
      exact ⟨hq, x.loc, x.mtype, he, hs⟩
    · rintro ⟨hq, l, mt, he, hs⟩
      exact ⟨⟨q, l, mt⟩, ⟨⟨q, hq, rfl, he⟩, hs⟩, rfl⟩
  simp only [checkTranslated, e1, e2, bne_self_eq_false, Bool.false_eq_true, if_false, Bool.true_and]
  refine ⟨_, _, if_pos ?_, mem⟩
  obtain ⟨q, hq, hx⟩ := h
  exact bne_iff_ne.mpr (fun e => List.ne_nil_of_mem ((mem q).mpr ⟨hq, hx⟩) (congrArg (List.map (·.req)) e))

end

/-! ## An instruction whose accesses fail a check -/

/-- Accesses that are the same set are denied alike. -/
theorem DeniedWith.congr {addr : Nat → Req → DWord → Prop} {align : Req → Nat} {i : Instr} {s b : State} {c : Ctx} {own access mx : Nat}
    {rd : Bool} {reqs reqs' : List Req} (hm : ∀ q, q ∈ reqs' ↔ q ∈ reqs) (h : DeniedWith addr align i s c b own access mx rd reqs') :
    DeniedWith addr align i s c b own access mx rd reqs := by
  simpa only [DeniedWith, Ctx.translated, hm] using h

/-- The first check of 07 R145 that an access fails decides the trap, and its record names the accesses that fail it. -/
theorem checkAllWith_denied {c : Ctx} {b : State} {align : Req → Nat} {mx : Nat} {rd : Bool} {reqs : List Req} (access : Nat)
    (hl : ∀ q ∈ reqs, q.lane < 64) (before : List Nat) (k : Nat) (after : List Nat)
    (hs : [0x0008, 0x0005, 0x0006, 0x0007, 0x000C] = before ++ k :: after) (hb : ∀ j ∈ before, ∀ q ∈ reqs, ¬ c.fails b align mx rd q j)
    (hk : ∃ q ∈ reqs, c.fails b align mx rd q k) (ht : 2 ≤ before.length → c.translated b reqs) :
    ∃ t, checkAllWith (fun q => q.addr.toNat % align q == 0) c b access mx rd reqs = .error (.trap b t) ∧
      t.Names k access reqs (fun q => c.fails b align mx rd q k) := by
  have aligned : 0x0008 ∈ before → ∀ q ∈ reqs, (q.addr.toNat % align q == 0) = true := fun h q hq => by
    simpa [Ctx.fails] using hb _ h q hq
  have targets : 0x0005 ∈ before → ∀ q ∈ reqs, resolve c b q.sp q.lane q.addr q.size ≠ none := fun h q hq => hb _ h q hq
  have allowed : 0x0006 ∈ before → ∀ q ∈ reqs, (c.trOf b q).isProt mx = false := fun h q hq => by
    simpa using mt Ctx.fails_protection.mpr (hb _ h q hq)
  rcases before with _ | ⟨x, _ | ⟨y, _ | ⟨z, _ | ⟨u, _ | ⟨v, before⟩⟩⟩⟩⟩ <;>
    simp only [List.nil_append, List.cons_append, List.cons.injEq, List.nil_eq, List.append_eq_nil_iff, reduceCtorEq, and_false] at hs
  · obtain ⟨rfl, -⟩ := hs
    refine ⟨_, checkAllWith_misaligned (hk.imp fun q hq => ⟨hq.1, by simpa [Ctx.fails] using hq.2⟩), accessTrap_names _ _ _ hl ?_ hk⟩
    intro q
    simp [Ctx.fails]
  · obtain ⟨rfl, rfl, -⟩ := hs
    refine ⟨_, checkAllWith_unresolved (aligned (by simp)) hk, accessTrap_names _ _ _ hl ?_ hk⟩
    intro q
    simp [Ctx.fails]
  · obtain ⟨rfl, rfl, rfl, -⟩ := hs
    simp only [checkAllWith_translated (aligned (by simp)) (targets (by simp)) (ht (by simp))]
    obtain ⟨mt, e⟩ := checkTranslated_protected (access := access) (rd := rd) (hk.imp fun q hq => ⟨hq.1, Ctx.fails_protection.mp hq.2⟩)
    refine ⟨_, e, accessTrap_names _ _ _ hl ?_ hk⟩
    intro q
    rw [List.mem_filter, Ctx.fails_protection]
  · obtain ⟨rfl, rfl, rfl, rfl, -⟩ := hs
    have hr := targets (by simp)
    simp only [checkAllWith_translated (aligned (by simp)) hr (ht (by simp))]
    refine ⟨_, checkTranslated_absent (allowed (by simp)) (hk.imp fun q hq => ⟨hq.1, (Ctx.fails_absent (hr q hq.1)).mp hq.2⟩),
      accessTrap_names _ _ _ hl ?_ hk⟩
    intro q
    rw [List.mem_filter, beq_iff_eq]
    exact and_congr_right fun hq => (Ctx.fails_absent (hr q hq)).symm
  · obtain ⟨rfl, rfl, rfl, rfl, rfl, -⟩ := hs
    have hr := targets (by simp)
    have present : ∀ q ∈ reqs, c.trOf b q ≠ Tr.absent := fun q hq => mt (Ctx.fails_absent (hr q hq)).mpr (hb _ (by simp) q hq)
    have hrd : rd = true := hk.elim fun q hq => hq.2.1
    subst hrd
    simp only [checkAllWith_translated (aligned (by simp)) hr (ht (by simp))]
    obtain ⟨mt, bad, e, hbad⟩ := checkTranslated_poisoned (access := access) (allowed (by simp)) present
      (hk.imp fun q hq => ⟨hq.1, (Ctx.fails_poison.mp hq.2).2⟩)
    refine ⟨_, e, accessTrap_names _ _ _ hl ?_ hk⟩
    intro q
    rw [hbad, Ctx.fails_poison]
    simp

/-- An instruction that traps with what the checks of its accesses raise is denied as they say. -/
theorem Denied.of_check {i : Instr} {s b : State} {c : Ctx} {own access mx : Nat} {rd : Bool} {reqs : List Req}
    (hl : ∀ q ∈ reqs, q.lane < 64)
    (hx : ∀ t, t.access = access → checkAll c b access mx rd reqs = .error (.trap b t) → exec i s = takeTrapHolding own c.before b c.iss t) :
    Denied i s c b own access mx rd reqs := by
  intro before k after hs bad hb hk ht
  obtain ⟨t, e, h⟩ := checkAllWith_denied access hl before k after hs hb hk ht
  exact ⟨t, hx t h.access e, h.cause, h.access, h.lanes, h.lowest, h.plain⟩

/-- Accesses of distinct lanes that reach their locations are answered with them, lane by lane. -/
theorem checkAll_lanes {c : Ctx} {s : State} {access mx : Nat} {rd : Bool} (ls : List Nat) (req : Nat → Req) (loc : Nat → Loc)
    (mt : Nat → Nat) (hl : ∀ l, (req l).lane = l) (h : ∀ l ∈ ls, Reaches c s mx rd (req l) (loc l) (mt l)) :
    checkAll c s access mx rd (ls.map req) = .ok (ls.map (fun l => ⟨req l, loc l, mt l⟩)) := by
  rw [checkAll_ok access mx rd (ls.map req) (fun q => loc q.lane) (fun q => mt q.lane) (by
    simp only [List.mem_map, forall_exists_index, and_imp, forall_apply_eq_imp_iff₂, hl]
    exact h), List.map_map]
  simp only [Function.comp_def, hl]

end Sys2Proof.Machine
end

section
/-! What instructions share at their issue: slots taken, work that becomes outstanding, checks of lanes (01 R23-R25, 07 R144). -/

namespace Sys2Proof.Machine

/-! ## Slots taken at issue, and work that becomes outstanding -/

/-- What an instruction's issue leaves when it has taken the slots of its destinations. -/
structure Reserved (c : Ctx) (r : State) (n : Nat) : Prop where
  span : r.span? c.u = some { c.sp with grant := c.sp.grant + (n - c.sp.spare), used := c.sp.used + n }
  elsewhere : Elsewhere c.s r c.u
  alike : Alike c.s r
  drawn : Drawn c.s r c.deck.pier (n - c.sp.spare)

theorem Reserved.none {c : Ctx} (h : c.s.span? c.u = some c.sp) : Reserved c c.s 0 :=
  ⟨by simpa using h, Elsewhere.refl c.s c.u, Alike.refl c.s, fun _ => by simp, fun _ _ => rfl⟩

theorem Reserved.fresh {c : Ctx} {r : State} {n : Nat} (h : Reserved c r n) : r.fresh = c.s.fresh := by
  have := congrArg State.fresh h.elsewhere.state
  exact this

section
variable {c : Ctx} {b : State} {sp : Span} {d : Deck}

/-- With room, the slots of every compact destination are taken, in any state of the span (01 R24). -/
theorem reserve_takes (hs : b.span? c.u = some sp) (hd : b.deck? sp.deck = some d) (ds : List Nat)
    (room : Room { c with s := b, sp := sp, deck := d } (needAtIssue { c with s := b, sp := sp, deck := d } ds)) :
    ∃ r, c.reserve b ds = .ok (r, needAtIssue { c with s := b, sp := sp, deck := d } ds) ∧
      Reserved { c with s := b, sp := sp, deck := d } r (needAtIssue { c with s := b, sp := sp, deck := d } ds) := by
  obtain ⟨r, h1, h2, h3, h4, h5⟩ := reserve_ok (c := c) (s := b) hs ds (by rw [hd]; exact room)
  rw [hd] at h5
  exact ⟨r, h1, h2, h3, h4, h5⟩

/-- Without room none is, and SHAPE_STORAGE is raised (01 R25). -/
theorem reserve_refuses (hs : b.span? c.u = some sp) (hd : b.deck? sp.deck = some d) (ds : List Nat)
    (room : ¬ Room { c with s := b, sp := sp, deck := d } (needAtIssue { c with s := b, sp := sp, deck := d } ds)) :
    c.reserve b ds = .error (.trap b (storageTrap { c with s := b, sp := sp, deck := d }
      (compactOf { c with s := b, sp := sp, deck := d } ds))) :=
  reserve_trap (c := { c with s := b, sp := sp, deck := d }) hs hd ds room

end

/-- With room, an instruction takes the slots of its compact destinations (01 R24). -/
theorem Issues.reserves {s : State} {i : Instr} {c : Ctx} (h : Issues s i c) (ds : List Nat) (room : Room c (needAtIssue c ds)) :
    ∃ r, c.reserve c.s ds = .ok (r, needAtIssue c ds) ∧ Reserved c r (needAtIssue c ds) := by
  obtain ⟨-, -, h3, h4⟩ := h.spec
  exact reserve_takes h3 h4 ds room

/-- Work for which slots have been taken becomes outstanding, and the group goes on. -/
theorem Reserved.queues {c : Ctx} {r : State} {n : Nat} (h : Reserved c r n) (f : Nat → Work) (hn : (f r.fresh).resv = n) :
    Queued c (goOn (r.addWork f) c.iss c.G) (f c.s.fresh) c.advanced := by
  rw [← h.fresh]
  exact queued_of (sp := c.sp) h.span h.elsewhere rfl (by rw [hn]) (by rw [hn]) (by rw [hn]; exact h.drawn)

/-! ## Lanes of A -/

theorem Ctx.lane_lt {c : Ctx} {l : Nat} (h : l ∈ c.lanes) : l < 64 := hasLane_lt ((mem_lanesOf _ _).mp h)

/-- The lowest lane of a set that is not empty is one of it. -/
theorem lowestLane_mem {m : LaneSet} (h : m ≠ 0#64) : lowestLane m ∈ lanesOf m := by
  have hne : lanesOf m ≠ [] := fun e => h (laneSet_ext fun l _ => by
    have : l ∉ lanesOf m := by simp [e]
    simpa using this)
  obtain ⟨l, ls, e⟩ := List.exists_cons_of_ne_nil hne
  simp [lowestLane, e]

theorem Reaches.unique {c : Ctx} {s : State} {mx : Nat} {rd : Bool} {q : Req} {l l' : Loc} {mt mt' : Nat} (h : Reaches c s mx rd q l mt)
    (h' : Reaches c s mx rd q l' mt') : l' = l ∧ mt' = mt := by
  obtain ⟨-, -, -, g, hg, ht⟩ := h
  obtain ⟨-, -, -, g', hg', ht'⟩ := h'
  cases hg.symm.trans hg'
  cases ht.symm.trans ht'
  exact ⟨rfl, rfl⟩

/-! ## Checks of lanes -/

/-- The lowest lane of a set: one that has none below it. -/
theorem lowestLane_eq {m : LaneSet} {l : Nat} (h : hasLane m l = true) (hlow : ∀ k < l, hasLane m k = false) : lowestLane m = l := by
  have hf : (List.range 64).find? (fun k => hasLane m k) = some l :=
    List.find?_range_eq_some.mpr ⟨h, by simpa using hasLane_lt h, by simpa using hlow⟩
  simp [lowestLane, lanesOf, List.head?_filter, hf]

section
variable {c : Ctx} {cause : Nat} {m : LaneSet} {p : Nat → Bool} {addr : Nat → DWord}

theorem Ctx.check_ok (h : ∀ l, hasLane m l = true → p l = false) : c.check cause m p addr = .ok () := by
  have hz : Ctx.those m p = 0#64 := laneSet_ext fun l hl => by
    cases hm : hasLane m l with
    | false => simp [Ctx.those, hm]
    | true => simp [Ctx.those, h l hm]
  simp [Ctx.check, hz]

/-- A check that fails names the lanes that fail it, and the address of the lowest. -/
theorem Ctx.check_trap {l : Nat} (hm : hasLane m l = true) (hp : p l = true) (hlow : ∀ k < l, hasLane m k = true → p k = false) :
    c.check cause m p addr = .error (.trap c.s (TrapInfo.at cause (addr l) (laneSetOf (fun k => hasLane m k && p k)))) := by
  have hl : hasLane (Ctx.those m p) l = true := by simp [Ctx.those, hm, hp, hasLane_lt hm]
  have hz : (Ctx.those m p == 0#64) = false := by
    rw [beq_eq_false_iff_ne]
    intro e
    rw [e, hasLane_zero] at hl
    exact absurd hl (by simp)
  have hlo : lowestLane (Ctx.those m p) = l := lowestLane_eq hl fun k hk => by
    cases hmk : hasLane m k with
    | false => simp [Ctx.those, hmk]
    | true => simp [Ctx.those, hlow k hk hmk]
  simp only [Ctx.check, hz, hlo, Bool.false_eq_true, if_false]
  rfl

end

/-! ## Traps that an instruction's own part raises -/

section
variable {c : Ctx} {i : Instr} {s : State}

theorem settle_trap {b : State} {t : TrapInfo} (ha : t.access ≠ 10) :
    settleRun c (.error (.trap b t)) = takeTrapHolding 0 c.before b c.iss t := by
  simp [settleRun, ha, takeTrapFrom]

/-- Without room for its destinations an instruction that takes their slots first raises SHAPE_STORAGE (01 R24, R25). -/
theorem settle_noRoom (h : Issues s i c) (ds : List Nat) (room : ¬ Room c (needAtIssue c ds)) (rest : State × Nat → Run Eff) :
    settleRun c ((c.reserve c.s ds).bind rest) = takeTrapFrom c.before c.s c.iss (storageTrap c (compactOf c ds)) := by
  obtain ⟨-, -, h3, h4⟩ := h.spec
  rw [reserve_trap h3 h4 ds room]
  exact settle_trap (by simp [storageTrap, TrapInfo.at])

end

end Sys2Proof.Machine
end

section
/-! Atomics and reductions (O21; 07 R152-R156). -/

namespace Sys2Proof.Machine

section
variable {c : Ctx} {i : Instr} {s : State}

section
variable {f : FormAt} {op : BitVec 4} {cas wide noDeck : Bool} {b cmp : Nat → DWord} {size : Nat} {kind : WorkKind}

theorem atomic_noRoom (h : Issues s i c) (he : exec i s = settleRun c (c.atomic f op cas wide b cmp))
    (room : ¬ Room c (needAtIssue c (oneOrTwo wide f.d))) :
    exec i s = takeTrapFrom c.before c.s c.iss (storageTrap c (compactOf c (oneOrTwo wide f.d))) :=
  he.trans (settle_noRoom h _ room _)

theorem atomic_denied (he : exec i s = settleRun c (c.atomic f op cas wide b cmp)) {r : State} {n : Nat}
    (hr : c.reserve c.s (oneOrTwo wide f.d) = .ok (r, n)) : Denied i s c r n 3 0 true
      (c.lanes.map (fun l => atomicReq f.sp false (if wide then 8 else 4) l (c.ea f.sp f.a (fun _ => 0) l))) := by
  refine Denied.of_check ?_ fun t _ hc => ?_
  · simp only [List.mem_map, forall_exists_index, and_imp, forall_apply_eq_imp_iff₂]
    exact fun l hl => Ctx.lane_lt hl
  · rw [he]
    simp only [Ctx.atomic, hr, bind, Except.bind, owning_trap hc]; rfl

theorem atomic_queues (h : Issues s i c) (he : exec i s = settleRun c (c.atomic f op cas wide b cmp)) (loc : Nat → Loc)
    (room : Room c (needAtIssue c (oneOrTwo wide f.d)))
    (hl : ∀ l ∈ c.lanes, Reaches c c.s 0 true
      (atomicReq f.sp false (if wide then 8 else 4) l (c.ea f.sp f.a (fun _ => 0) l)) (loc l) 0) :
    ∃ t, exec i s = .next t ∧ Queued c t
      { id := c.s.fresh, span := c.u, lanes := c.A, dsts := oneOrTwo wide f.d, resv := needAtIssue c (oneOrTwo wide f.d),
        accs := c.lanes.map (fun l => Acc.mk l (loc l) (if wide then 8 else 4) 0 (natBytes (if wide then 8 else 4) (b l).toNat) (cmp l)
          (c.ea f.sp f.a (fun _ => 0) l) 0),
        kind := .atomic op cas wide, iss := some c.entry } c.advanced := by
  obtain ⟨r, hr, hres⟩ := h.reserves _ room
  have hc := checkAll_lanes (access := 3) c.lanes _ loc (fun _ => 0) (fun _ => rfl) (fun l hm => hres.alike.reaches (hl l hm))
  have hrun : c.atomic f op cas wide b cmp = .ok (.done (r.addWork (fun id =>
      { id := id, span := c.u, lanes := c.A, dsts := oneOrTwo wide f.d, resv := needAtIssue c (oneOrTwo wide f.d),
        accs := c.lanes.map (fun l => Acc.mk l (loc l) (if wide then 8 else 4) 0 (natBytes (if wide then 8 else 4) (b l).toNat) (cmp l)
          (c.ea f.sp f.a (fun _ => 0) l) 0),
        kind := .atomic op cas wide, iss := some c.entry }))) := by
    simp only [Ctx.atomic, hr, bind, Except.bind, owning_ok hc, List.map_map]; rfl
  exact ⟨_, by rw [he, hrun]; rfl, hres.queues _ rfl⟩

theorem reduce_denied (he : exec i s = settleRun c (c.reduce f noDeck size kind b)) :
    Denied i s c c.s 0 4 0 false (c.lanes.map (fun l => atomicReq f.sp noDeck size l (c.ea f.sp f.a (fun _ => 0) l))) := by
  refine Denied.of_check ?_ fun t ha hc => ?_
  · simp only [List.mem_map, forall_exists_index, and_imp, forall_apply_eq_imp_iff₂]
    exact fun l hl => Ctx.lane_lt hl
  · rw [he]
    simp only [Ctx.reduce, hc, bind, Except.bind]
    exact settle_trap (by simp [ha])

theorem reduce_queues (h : Issues s i c) (he : exec i s = settleRun c (c.reduce f noDeck size kind b)) (loc : Nat → Loc)
    (hl : ∀ l ∈ c.lanes, Reaches c c.s 0 false (atomicReq f.sp noDeck size l (c.ea f.sp f.a (fun _ => 0) l)) (loc l) 0) :
    ∃ t, exec i s = .next t ∧ Queued c t
      { id := c.s.fresh, span := c.u, lanes := c.A, dsts := [], resv := 0,
        accs := c.lanes.map (fun l => Acc.mk l (loc l) size 0 (natBytes size (b l).toNat) 0#64 (c.ea f.sp f.a (fun _ => 0) l) 0),
        kind := kind, iss := none } c.advanced := by
  obtain ⟨-, -, h3, -⟩ := h.spec
  have hc := checkAll_lanes (access := 4) c.lanes _ loc (fun _ => 0) (fun _ => rfl) hl
  have hrun : c.reduce f noDeck size kind b = .ok (.done (c.s.addWork (fun id =>
      { id := id, span := c.u, lanes := c.A, dsts := [], resv := 0,
        accs := c.lanes.map (fun l => Acc.mk l (loc l) size 0 (natBytes size (b l).toNat) 0#64 (c.ea f.sp f.a (fun _ => 0) l) 0),
        kind := kind, iss := none }))) := by
    simp only [Ctx.reduce, hc, bind, Except.bind, List.map_map]; rfl
  exact ⟨_, by rw [he, hrun]; rfl, (Reserved.none h3).queues _ rfl⟩

end

/-- Within its binary point's range `redx` is a reduction; beyond it, it is illegal (07 R156). -/
theorem redx_runs {f : FormAt} (h : Issues s (.redx f) c) (hf : f.d.toNat ≤ 62) :
    exec (.redx f) s = settleRun c (c.reduce f true 8 (.redx f.d.toNat) (fun l => toFx64 f.d.toNat (c.srcB f.b l))) :=
  (instr_runs h false _).trans (congrArg (settleRun c) (if_neg (Nat.not_lt.mpr hf)))

theorem redx_illegal {f : FormAt} (h : Issues s (.redx f) c) (hf : 62 < f.d.toNat) :
    exec (.redx f) s = takeTrapFrom c.before c.s c.iss (TrapInfo.at 0x0001 0#64 c.A) :=
  instr_trap h false _ (if_pos hf) (by simp [TrapInfo.at])

end

/-- Settles O21: every atomic is `Ctx.atomic` and every reduction `Ctx.reduce`; their slots and their checks decide. -/
theorem atomicsAreQueued : Obligations.AtomicsAreQueued := by
  refine ⟨?_, fun op f s c h => reduce_denied (instr_runs h false _), fun f s c h hf => reduce_denied (redx_runs h hf),
    fun op f s c loc h room hl => atomic_queues h (instr_runs h false _) loc room hl,
    fun f s c loc h room hl => atomic_queues (wide := false) h (instr_runs h false _) loc room hl,
    fun f s c loc h room hl => atomic_queues (wide := true) h (instr_runs h false _) loc room hl,
    fun op f s c loc h hl => reduce_queues h (instr_runs h false _) loc hl, fun f s c h hf => redx_illegal h hf,
    fun f s c loc h hf hl => reduce_queues h (redx_runs h hf) loc hl⟩
  intro i f wide s c h hi
  obtain ⟨op, cas, b, cmp, he⟩ : ∃ op cas b cmp, exec i s = settleRun c (c.atomic f op cas wide b cmp) := by
    rcases hi with ⟨op, rfl, rfl⟩ | ⟨rfl, rfl⟩ | ⟨rfl, rfl⟩ <;> exact ⟨_, _, _, _, instr_runs h false _⟩
  exact ⟨atomic_noRoom h he, fun r n hr => atomic_denied he hr⟩

end Sys2Proof.Machine
end

section
/-! Loads (O18; 07 R144-R149, R159, R160). -/

namespace Sys2Proof.Machine

/-- The location found for a lane among those of distinct lanes. -/
theorem hitOf_lanes {ls : List Nat} (req : Nat → Req) (loc : Nat → Loc) (mt : Nat → Nat) (hl : ∀ l, (req l).lane = l) {k : Nat} (hk : k ∈ ls) :
    hitOf (ls.map (fun l => ⟨req l, loc l, mt l⟩)) k = some ⟨req k, loc k, mt k⟩ := by
  obtain ⟨x, hx⟩ := Option.isSome_iff_exists.mp (List.find?_isSome (p := fun l => l == k).mpr ⟨k, hk, by simp⟩)
  have hxk : x = k := by simpa using List.find?_some hx
  simp only [hitOf, List.find?_map, Function.comp_def, hl, hx, hxk, Option.map_some]

/-- Every lane's address is that of a lane of A that gives its own. -/
def Ctx.Owned (c : Ctx) (owner : Nat → Nat) : Prop := ∀ l ∈ c.lanes, owner l ∈ c.lanes ∧ owner (owner l) = owner l

theorem Ctx.owned_self (c : Ctx) : c.Owned (fun l => l) := fun _ hl => ⟨hl, rfl⟩
theorem Ctx.owned_low {c : Ctx} (h : c.A ≠ 0#64) : c.Owned (fun _ => c.low) := fun _ _ => ⟨lowestLane_mem h, rfl⟩

section
variable {c : Ctx} {i : Instr} {s : State} {sp : Space} {sz : BitVec 3} {d : Reg} {ea : Nat → DWord} {owner : Nat → Nat} {now : Bool}

theorem load_noRoom (h : Issues s i c) (he : exec i s = settleRun c (c.load sp sz d ea owner now))
    (room : ¬ Room c (needAtIssue c (dataRegs sz d))) :
    exec i s = takeTrapFrom c.before c.s c.iss (storageTrap c (compactOf c (dataRegs sz d))) :=
  he.trans (settle_noRoom h _ room _)

theorem load_denied (ho : c.Owned owner) (he : exec i s = settleRun c (c.load sp sz d ea owner now)) {r : State} {n : Nat}
    (hr : c.reserve c.s (dataRegs sz d) = .ok (r, n)) :
    Denied i s c r n 1 3 true (c.lanes.map (fun l => ⟨owner l, ea (owner l), sizeBytes sz, sp, false⟩)) := by
  refine DeniedWith.congr (reqs' := ((c.lanes.map owner).dedup).map (fun l => Req.mk l (ea l) (sizeBytes sz) sp false)) (by simp)
    (Denied.of_check ?_ fun t _ hc => ?_)
  · intro q hq
    obtain ⟨k, hk, rfl⟩ := List.mem_map.mp hq
    obtain ⟨l, hl, rfl⟩ := List.mem_map.mp (List.mem_dedup.mp hk)
    exact Ctx.lane_lt (ho l hl).1
  · rw [he]
    simp only [Ctx.load, hr, bind, Except.bind, owning_trap hc]; rfl

/-- A load whose lanes' accesses reach their locations makes its work of them: at once where it orders or a page asks for it. -/
theorem load_run (ho : c.Owned owner) {r : State} (hr : c.reserve c.s (dataRegs sz d) = .ok (r, needAtIssue c (dataRegs sz d)))
    (loc : Nat → Loc) (mt : Nat → Nat)
    (hl : ∀ l ∈ c.lanes, Reaches c r 3 true ⟨owner l, ea (owner l), sizeBytes sz, sp, false⟩ (loc l) (mt l)) :
    c.load sp sz d ea owner now = .ok (.done (access c r (now || c.lanes.any (fun l => decide (2 ≤ mt l)))
      (c.loadWork sz d (fun l => ea (owner l)) loc mt))) := by
  have owned : ∀ l ∈ c.lanes, loc (owner l) = loc l ∧ mt (owner l) = mt l := fun l hm => by
    have h2 := hl _ (ho l hm).1
    rw [(ho l hm).2] at h2
    exact (hl l hm).unique h2
  have hc := checkAll_lanes (access := 1) ((c.lanes.map owner).dedup) (fun l => ⟨l, ea l, sizeBytes sz, sp, false⟩) loc mt (fun _ => rfl)
    (fun k hk => by
      obtain ⟨l, hm, rfl⟩ := List.mem_map.mp (List.mem_dedup.mp hk)
      rw [(owned l hm).1, (owned l hm).2]
      exact hl l hm)
  have hin : inOrder (((c.lanes.map owner).dedup).map (fun l => ⟨⟨l, ea l, sizeBytes sz, sp, false⟩, loc l, mt l⟩)) =
      c.lanes.any (fun l => decide (2 ≤ mt l)) := by
    rw [Bool.eq_iff_iff]
    simp only [inOrder, List.any_map, List.any_eq_true, List.mem_dedup, List.mem_map, Function.comp_apply, decide_eq_true_eq,
      exists_exists_and_eq_and]
    exact exists_congr fun l => and_congr_right fun hm => by rw [(owned l hm).2]
  have haccs : c.lanes.filterMap (fun l => (hitOf (((c.lanes.map owner).dedup).map
      (fun l => ⟨⟨l, ea l, sizeBytes sz, sp, false⟩, loc l, mt l⟩)) (owner l)).map
        (fun h => Acc.mk l h.loc (sizeBytes sz) h.mtype [] 0#64 (ea (owner l)) 0)) =
      c.lanes.map (fun l => Acc.mk l (loc l) (sizeBytes sz) (mt l) [] 0#64 (ea (owner l)) 0) := by
    refine List.filterMap_eq_map_iff_forall_eq_some.mpr fun l hm => ?_
    rw [hitOf_lanes _ loc mt (fun _ => rfl) (List.mem_dedup.mpr (List.mem_map_of_mem hm)), (owned l hm).1, (owned l hm).2]
    rfl
  simp only [Ctx.load, hr, bind, Except.bind, owning_ok hc, hin, haccs]
  rfl

end

/-- An instruction that is `Ctx.load` loads. -/
theorem load_loads {i : Instr} {now : Bool} {sp : Space} {sz : BitVec 3} {d : Reg} {ea : Ctx → Nat → DWord} {owner : Ctx → Nat → Nat}
    (he : ∀ s c, Issues s i c → exec i s = settleRun c (c.load sp sz d (ea c) (owner c) now))
    (ho : ∀ c : Ctx, c.A ≠ 0#64 → c.Owned (owner c)) : Loads i now sp sz d ea owner := by
  intro s c h req
  have hown := ho c h.some_lane
  refine ⟨fun loc mt room hl => ?_, load_noRoom h (he s c h), fun r n => load_denied hown (he s c h)⟩
  obtain ⟨r, hr, hres⟩ := h.reserves _ room
  have hrun := (he s c h).trans (congrArg (settleRun c) (load_run (now := now) hown hr loc mt fun l hm => hres.alike.reaches (hl l hm)))
  constructor
  · rintro rfl hlow
    have hq : c.lanes.any (fun l => decide (2 ≤ mt l)) = false := by simpa using hlow
    rw [hq] at hrun
    exact ⟨_, hrun, hres.queues _ rfl⟩
  · intro hnow
    have hq : (now || c.lanes.any (fun l => decide (2 ≤ mt l))) = true := by simpa using hnow
    rw [hq] at hrun
    exact ⟨r, _, hr, hrun⟩

/-- An `acqr` of deck or pier scope is illegal (07 R160). -/
theorem acqr_illegal {f : FormOrd} {s : State} {c : Ctx} (h : Issues s (.acqr f) c) (hf : f.scope.toNat < 3) :
    exec (.acqr f) s = takeTrapFrom c.before c.s c.iss (TrapInfo.at 0x0001 0#64 c.A) :=
  instr_trap h false _ (if_pos hf) (by simp [TrapInfo.at])

/-- Settles O18: each form is `Ctx.load`, with its own addresses, of its own lanes or of the lowest one. -/
theorem loadsAreQueued : Obligations.LoadsAreQueued := by
  have self := fun (c : Ctx) (_ : c.A ≠ 0#64) => c.owned_self
  have low := fun (c : Ctx) (h : c.A ≠ 0#64) => Ctx.owned_low h
  refine ⟨fun f => load_loads (fun s c h => instr_runs h false _) self, fun f => load_loads (fun s c h => instr_runs h false _) low,
    fun f => load_loads (fun s c h => instr_runs h false _) low, fun f => load_loads (fun s c h => instr_runs h false _) self,
    fun f => load_loads (fun s c h => instr_runs h false _) self, fun f => load_loads (fun s c h => instr_runs h false _) self,
    fun f hf => load_loads (fun s c h => (instr_runs h false _).trans (congrArg (settleRun c) (if_neg (Nat.not_lt.mpr hf)))) self,
    fun f s c h hf => acqr_illegal h hf⟩

end Sys2Proof.Machine
end

section
/-! Barriers (O25; 07 R165-R170). -/

namespace Sys2Proof.Machine

theorem Ctx.unbroken_ok {c : Ctx} {n : Nat} (h : (c.bar n).broken = false) : c.unbroken n = .ok () := by
  simp [Ctx.unbroken, h]

/-- Naming a broken barrier raises BARRIER_OVERFLOW (07 R169). -/
theorem Ctx.unbroken_trap {c : Ctx} {n : Nat} (h : (c.bar n).broken = true) :
    c.unbroken n = .error (.trap c.s (TrapInfo.at 0x0015 (BitVec.ofNat 64 (n + 256)) c.A)) := by
  simp [Ctx.unbroken, h, overflowAddr]

/-- A phase that is not done is one whose distance from the barrier's is negative (07 R168). -/
theorem not_phaseDone (gen v : Word) : (!phaseDone gen v) = decide ((gen - v - 1#32).toInt < 0) := by
  rw [phaseDone, ← decide_not]
  exact decide_eq_decide.mpr (Int.not_le)

theorem Ctx.arrive_none {c : Ctx} {s : State} {n : Nat} {m : LaneSet} (h : c.isMember n = false ∨ m = 0#64) : c.arrive s n m = s := by
  unfold Ctx.arrive
  rcases h with h | h <;> simp [h]

theorem Ctx.arrive_member {c : Ctx} {s : State} {n : Nat} {m : LaneSet} (h : c.isMember n = true) (hm : m ≠ 0#64) :
    c.arrive s n m = (drain s c.u m).modBar c.deck.uid c.girder.uid n (fun b => b.addMark c.u m) := by
  simp [Ctx.arrive, Ctx.modBar, h, hm]

@[simp] theorem Bar.mark_addMark_same (b : Bar) (u : Nat) (m : LaneSet) : (b.addMark u m).mark u = b.mark u ||| m := by
  simp [Bar.addMark, Bar.mark]

theorem Bar.mark_addMark_ne (b : Bar) {u v : Nat} (m : LaneSet) (h : v ≠ u) : (b.addMark u m).mark v = b.mark v := by
  have hu : (u == v) = false := by simpa using Ne.symm h
  have hf : (b.marks.filter (fun x => x.1 != u)).find? (fun x => x.1 == v) = b.marks.find? (fun x => x.1 == v) := by
    rw [List.find?_filter]
    congr 1
    funext x
    by_cases hx : x.1 = v
    · simp [hx, h]
    · simp [hx]
  simp [Bar.addMark, Bar.mark, hu, hf]

/-- An arrival with lanes marks the span: its own lanes, nobody else's. -/
theorem Bar.addMark_spec (b : Bar) (u : Nat) (m : LaneSet) (hm : m ≠ 0#64) :
    (b.addMark u m).mark u = b.mark u ||| m ∧ (∀ v, v ≠ u → (b.addMark u m).mark v = b.mark v) ∧
    (b.addMark u m).any = true ∧ { b.addMark u m with marks := b.marks, any := b.any } = b :=
  ⟨b.mark_addMark_same u m, fun _ h => b.mark_addMark_ne m h, by simp [Bar.addMark, hm], rfl⟩

section
variable {s : State} {c : Ctx} {n : Reg}

theorem bararr_arrives {d : Reg} {b : State} (h : Issues s (.bararr d n) c) (hb : (c.bar n.toNat).broken = false) :
    let again := c.marked n.toNat
    let go := c.A &&& ~~~again
    (if go = 0#64 then b = c.s else (c.only go).issueWrite c.s [(d.toNat, fun _ => (c.bar n.toNat).gen)] = .ok b) →
    exec (.bararr d n) s = .next (c.barCheck (hold (goOn (c.arrive b n.toNat go) c.iss (c.G &&& ~~~again)) c.iss again
      (fun _ => .barAgain n.toNat (c.bar n.toNat).gen)) n.toNat) := by
  intro again go hw
  refine instr_moved h false _ ?_
  simp only [Ctx.unbroken_ok hb, bind, Except.bind, pure, Except.pure, beq_iff_eq]
  split at hw
  case isTrue hgo => rw [if_pos hgo, hw]
  case isFalse hgo => rw [if_neg hgo, hw]

theorem bararr_noRoom {d : Reg} (h : Issues s (.bararr d n) c) (hb : (c.bar n.toNat).broken = false) :
    let go := c.A &&& ~~~(c.marked n.toNat)
    go ≠ 0#64 → ¬ Room c (needAtIssue c (one d)) →
    exec (.bararr d n) s = takeTrapFrom c.before c.s c.iss { storageTrap c (compactOf c (one d)) with lanes := go } := by
  intro go hgo room
  obtain ⟨-, -, h3, h4⟩ := h.spec
  have hw : (c.only go).issueWrite c.s [(d.toNat, fun _ => (c.bar n.toNat).gen)] = _ := issueWrite_trap (c := c.only go) _ h3 h4 room
  refine instr_trap h false _ ?_ (by simp [storageTrap, TrapInfo.at])
  simp only [Ctx.unbroken_ok hb, bind, Except.bind, pure, Except.pure, beq_iff_eq]
  rw [if_neg hgo, hw]
  rfl

theorem barwait_waits {b : SrcB} (h : Issues s (.barwait n b) c) (hb : (c.bar n.toNat).broken = false) :
    let stay := laneSetOf (fun l => hasLane c.A l && decide (((c.bar n.toNat).gen - c.srcB b l - 1#32).toInt < 0))
    ∃ t, exec (.barwait n b) s = .next t ∧
      Becomes c.s t c.u (c.split c.sp stay (fun l q => c.waiting q (.barPhase n.toNat (c.srcB b l) c.iss.lit.isSome))) := by
  obtain ⟨-, -, h3, -⟩ := h.spec
  intro stay
  have hs : Ctx.those c.A (fun l => !phaseDone (c.bar n.toNat).gen (c.srcB b l)) = stay := by
    simp only [Ctx.those, not_phaseDone]; rfl
  obtain ⟨g1, g2⟩ := hold_goOn (iss := c.iss) h3 c.G stay (fun l => .barPhase n.toNat (c.srcB b l) c.iss.lit.isSome)
  refine ⟨_, instr_moved h false _ ?_, ⟨g1, g2⟩⟩
  simp only [Ctx.unbroken_ok hb, bind, Except.bind, pure, Except.pure, hs]

theorem barsync_arrives (h : Issues s (.barsync n) c) (hb : (c.bar n.toNat).broken = false) :
    let again := c.marked n.toNat
    let go := c.A &&& ~~~again
    exec (.barsync n) s = .next (c.barCheck (hold (hold (goOn (c.arrive c.s n.toNat go) c.iss (c.G &&& ~~~c.A)) c.iss go
      (fun _ => .barPhase n.toNat (c.bar n.toNat).gen false)) c.iss again (fun _ => .barAgain n.toNat (c.bar n.toNat).gen)) n.toNat) := by
  refine instr_moved h false _ ?_
  simp only [Ctx.unbroken_ok hb, bind, Except.bind, pure, Except.pure]

theorem barexp_adds {b : SrcB} (h : Issues s (.barexp n b) c) (hb : (c.bar n.toNat).broken = false) :
    let v := (c.bar n.toNat).bal + (c.srcB b c.low).toInt
    (-(2 ^ 31) ≤ v → v < 2 ^ 31 →
      exec (.barexp n b) s = .next (goOn (c.barCheck (c.modBar c.s n.toNat (fun x => { x with bal := v })) n.toNat) c.iss c.G)) ∧
    ((v < -(2 ^ 31) ∨ 2 ^ 31 ≤ v) →
      exec (.barexp n b) s = takeTrapFrom c.before c.s c.iss (TrapInfo.at 0x0015 (BitVec.ofNat 64 n.toNat) c.A)) := by
  intro v
  constructor
  · intro hlo hhi
    have hr : ¬ ((decide (v < -(2 ^ 31)) || decide (2 ^ 31 ≤ v)) = true) := by simpa using ⟨hlo, hhi⟩
    refine instr_done h false _ ?_
    simp only [Ctx.unbroken_ok hb, bind, Except.bind, pure, Except.pure]
    exact if_neg hr
  · intro hr
    refine instr_trap h false _ ?_ (by simp [TrapInfo.at])
    simp only [Ctx.unbroken_ok hb, bind, Except.bind, pure, Except.pure]
    exact if_pos (by simpa using hr)

theorem barset_sets {b : SrcB} (h : Issues s (.barset n b) c) (hb : (c.bar n.toNat).broken = false) :
    let v := c.srcB b c.low
    ((c.bar n.toNat).any = false → exec (.barset n b) s = .next (goOn (c.modBar c.s n.toNat (fun x =>
      { x with members := memberValue c.s c.deck.uid c.girder.uid n.toNat v })) c.iss c.G)) ∧
    ((c.bar n.toNat).any = true → exec (.barset n b) s = .next (hold (c.modBar c.s n.toNat (fun x => { x with sets := x.sets ++ [v] }))
      c.iss c.G (fun _ => .barSet n.toNat (c.bar n.toNat).gen c.iss.lit.isSome))) := by
  intro v
  constructor
  · intro ha
    refine instr_done h false _ ?_
    simp only [Ctx.unbroken_ok hb, bind, Except.bind, pure, Except.pure, ha]; rfl
  · intro ha
    refine instr_moved h false _ ?_
    simp only [Ctx.unbroken_ok hb, bind, Except.bind, pure, Except.pure, ha]; rfl

/-- A meaning that looks at its barrier first raises BARRIER_OVERFLOW on a broken one. -/
theorem instr_broken {i : Instr} (body : Ctx → Run Eff) (h : Issues s i c) (hb : (c.bar n.toNat).broken = true)
    (rest : Unit → Run Eff) (he : body c = (c.unbroken n.toNat).bind rest) :
    instr i false s body = takeTrapFrom c.before c.s c.iss (TrapInfo.at 0x0015 (BitVec.ofNat 64 (n.toNat + 256)) c.A) :=
  instr_trap h false body (by rw [he, Ctx.unbroken_trap hb]; rfl) (by simp [TrapInfo.at])

end

/-- Settles O25: each instruction once its barrier is known not to be broken, and the one trap where it is. -/
theorem barrierInstructions : Obligations.BarrierInstructions := by
  refine ⟨⟨fun d n s c b h hb => bararr_arrives h hb, fun d n s c h hb => bararr_noRoom h hb,
    fun n b s c h hb => barwait_waits h hb, fun n s c h hb => barsync_arrives h hb, fun n b s c h hb => barexp_adds h hb,
    fun n b s c h hb => barset_sets h hb, fun c s n m => ⟨Ctx.arrive_none, Ctx.arrive_member⟩, fun c n => rfl, Bar.addMark_spec⟩, ?_⟩
  intro n d b s c hb t
  refine ⟨?_, ?_, ?_, ?_, ?_⟩ <;> exact fun h => instr_broken _ h hb _ rfl

end Sys2Proof.Machine
end

section
/-! Stage rings (O27; 07 R171, R172, 09 R234, R235). -/

namespace Sys2Proof.Machine

/-- A role that a ring names has its side. -/
theorem Ctx.ringRole_some {c : Ctx} {n : Nat} {side : Bool} (h : ringSide (c.launch.rings.getD n 0#64) c.sp.role = some side) :
    c.ringRole n = .ok (some side, c.launch.rings.getD n 0#64) := by
  simp only [Ctx.ringRole, h]

/-- A role that a ring does not name traps WRONG_ROLE (07 R171, 15 R313). -/
theorem Ctx.ringRole_none {c : Ctx} {n : Nat} (h : ringSide (c.launch.rings.getD n 0#64) c.sp.role = none) :
    c.ringRole n = .error (.trap c.s (TrapInfo.at 0x0003 (BitVec.ofNat 64 (c.sp.role.toNat + 16 * 7 + n * 256)) c.A)) := by
  simp only [Ctx.ringRole, h]

/-- Settles O27: the role's side decides, and then the slots of the destination. -/
theorem stageRings : Obligations.StageRings := by
  refine ⟨?_, ?_, ?_, ?_⟩
  · intro d n s c side r m h hside hr v ring slot next b
    refine instr_moved h false _ ?_
    simp only [Ctx.ringRole_some hside, hr]
    cases side <;> rfl
  · intro n a s c side i h hside v ring hi
    refine instr_done h false _ ?_
    have hprod : (some side == some true) = side := by cases side <;> rfl
    simp only [Ctx.ringRole_some hside, bind, Except.bind, hprod]
    rw [hi]; rfl
  · intro d n a s c hside t
    exact ⟨fun h => instr_trap h false _ (by simp only [Ctx.ringRole_none hside]; rfl) (by simp [t, TrapInfo.at]),
      fun h => instr_trap h false _ (by simp only [Ctx.ringRole_none hside]; rfl) (by simp [t, TrapInfo.at])⟩
  · intro d n s c side h hside room
    obtain ⟨-, -, h3, h4⟩ := h.spec
    exact instr_trap h false _ (by simp only [Ctx.ringRole_some hside, reserve_trap h3 h4 _ room]; rfl)
      (by simp [storageTrap, TrapInfo.at])

end Sys2Proof.Machine
end

section
/-! Generic pointers, classes of addresses, tag counts and timelines (O12; 07 R163, R164, R174, R177, R189). -/

namespace Sys2Proof.Machine

/-! ## Generic pointers (07 R163) -/

section
variable {s : State} {c : Ctx} {d a : Reg} {b : SrcB} {x : Bool}

theorem p2g_writes (h : Issues s (.p2g d a b x) c) (room : Room c (needAtIssue c (two d)))
    (hp : ∀ l ∈ c.lanes, (c.pointer x (c.src a l) (c.srcB b l) l).isSome = true) :
    ∃ t, exec (.p2g d a b x) s = .next t ∧
      Wrote c t (pairDst d (fun l => (c.pointer x (c.src a l) (c.srcB b l) l).getD 0#64)) (needAtIssue c (two d)) := by
  obtain ⟨-, -, h3, h4⟩ := h.spec
  obtain ⟨hr, hn⟩ := pair_regs (Bool.and_eq_true_iff.mp h.legal).1 (fun l => (c.pointer x (c.src a l) (c.srcB b l) l).getD 0#64)
  obtain ⟨r, hres, -⟩ := h.reserves _ room
  obtain ⟨t, hw, ht⟩ := issueWrite_ok _ h3 h.some_lane h4 (by rw [h.shaped.regs]; exact hr) hn room
  refine ⟨_, instr_done h false _ ?_, ht⟩
  have hc := Ctx.check_ok (c := { c with s := r }) (cause := 0x0005) (m := c.A) (p := fun l => (c.pointer x (c.src a l) (c.srcB b l) l).isNone)
    (addr := fun l => (c.src a l).zeroExtend 64) (fun l hl => by simpa using hp l ((mem_lanesOf _ _).mpr hl))
  simp only [hres, bind, Except.bind, owning_ok hc, hw]
  rfl

theorem p2g_noRoom (h : Issues s (.p2g d a b x) c) (room : ¬ Room c (needAtIssue c (two d))) :
    exec (.p2g d a b x) s = takeTrapFrom c.before c.s c.iss (storageTrap c (compactOf c (two d))) :=
  (instr_runs h false _).trans (settle_noRoom h _ room _)

theorem p2g_illegal (h : Issues s (.p2g d a b x) c) {r : State} {n l : Nat} (hr : c.reserve c.s (two d) = .ok (r, n)) (hl : l ∈ c.lanes)
    (hp : c.pointer x (c.src a l) (c.srcB b l) l = none)
    (hlow : ∀ k ∈ c.lanes, k < l → c.pointer x (c.src a k) (c.srcB b k) k ≠ none) :
    exec (.p2g d a b x) s = takeTrapHolding n c.before r c.iss (TrapInfo.at 0x0005 ((c.src a l).zeroExtend 64)
      (laneSetOf (fun k => hasLane c.A k && (c.pointer x (c.src a k) (c.srcB b k) k).isNone))) := by
  have hc := Ctx.check_trap (c := { c with s := r }) (cause := 0x0005) (p := fun k => (c.pointer x (c.src a k) (c.srcB b k) k).isNone)
    (addr := fun k => (c.src a k).zeroExtend 64) ((mem_lanesOf _ _).mp hl) (by simp [hp])
    (fun k hk hm => by simpa [Option.ne_none_iff_isSome] using hlow k ((mem_lanesOf _ _).mpr hm) hk)
  refine instr_holding h false _ ?_
  simp only [hr, bind, Except.bind, owning_trap hc]

end

/-- A field of a number below 2^64. -/
theorem toNat_extract_ofNat {n : Nat} (h : n < 2 ^ 64) (i k : Nat) : ((BitVec.ofNat 64 n).extractLsb' i k).toNat = n / 2 ^ i % 2 ^ k := by
  rw [BitVec.extractLsb'_toNat, BitVec.toNat_ofNat, Nat.mod_eq_of_lt h, Nat.shiftRight_eq_div_pow]

/-- The fields of an address that lies in `privWindow` (07 R146). -/
theorem privWindow_fields {pier slot lane off : Nat} (hp : pier < 2 ^ 9) (hs : slot < 2 ^ 4) (hl : lane < 2 ^ 11) (ho : off < 2 ^ 20) :
    let v := windowAddr 0x01FFF00000000000 pier slot (lane * 2 ^ 20 + off)
    v.extractLsb' 44 20 = 0x01FFF#20 ∧ (v.extractLsb' 35 9).toNat = pier ∧ (v.extractLsb' 31 4).toNat = slot ∧
      (v.extractLsb' 20 11).toNat = lane ∧ (v.extractLsb' 0 20).toNat = off := by
  have h64 : 0x01FFF00000000000 + pier * 2 ^ 35 + slot * 2 ^ 31 + (lane * 2 ^ 20 + off) < 2 ^ 64 := by omega
  refine ⟨BitVec.eq_of_toNat_eq ?_, ?_, ?_, ?_, ?_⟩ <;> rw [windowAddr, toNat_extract_ofNat h64]
  · simp only [BitVec.toNat_ofNat]; omega
  all_goals omega

/-- The fields of an address in the deck window (07 R146). -/
theorem deckWindow_fields {pier slot off : Nat} (hp : pier < 2 ^ 9) (hs : slot < 2 ^ 4) (ho : off < 2 ^ 19) :
    let v := windowAddr 0x01FFE00000000000 pier slot off
    v.extractLsb' 44 20 = 0x01FFE#20 ∧ (v.extractLsb' 35 9).toNat = pier ∧ (v.extractLsb' 31 4).toNat = slot ∧
      v.extractLsb' 19 12 = 0#12 ∧ (v.extractLsb' 0 19).toNat = off := by
  have h64 : 0x01FFE00000000000 + pier * 2 ^ 35 + slot * 2 ^ 31 + off < 2 ^ 64 := by omega
  refine ⟨BitVec.eq_of_toNat_eq ?_, ?_, ?_, BitVec.eq_of_toNat_eq ?_, ?_⟩ <;> rw [windowAddr, toNat_extract_ofNat h64]
  · simp only [BitVec.toNat_ofNat]; omega
  · omega
  · omega
  · simp only [BitVec.toNat_ofNat]; omega
  · omega

/-- Pointers into `privWindow`: none from the size of a lane's memory on. -/
theorem Ctx.pointer_priv (c : Ctx) (a b : Word) (l : Nat) :
    (c.launch.priv ≤ a.toNat → c.pointer false a b l = none) ∧
    (a.toNat < c.launch.priv → c.launch.priv ≤ 2 ^ 20 → c.deck.pier < 2 ^ 9 → c.deck.slot < 2 ^ 4 → c.sp.idx * c.W + l < 2 ^ 11 →
      ∃ v, c.pointer false a b l = some v ∧ v.extractLsb' 44 20 = 0x01FFF#20 ∧ (v.extractLsb' 35 9).toNat = c.deck.pier ∧
        (v.extractLsb' 31 4).toNat = c.deck.slot ∧ (v.extractLsb' 20 11).toNat = c.sp.idx * c.W + l ∧ (v.extractLsb' 0 20).toNat = a.toNat) := by
  refine ⟨fun h => ?_, fun h h20 hp hs hl => ⟨_, ?_, privWindow_fields hp hs hl (lt_of_lt_of_le h h20)⟩⟩
  · simp [Ctx.pointer, Nat.not_lt.mpr h]
  · simp [Ctx.pointer, h]

/-- Pointers into the deck window. -/
theorem Ctx.pointer_deck (c : Ctx) (a b : Word) (l : Nat) :
    (c.girder.size ≤ b.toNat → c.pointer true a b l = none) ∧
    ∀ d, (c.s.decksOf c.girder.uid).find? (fun d => d.member == b.toNat) = some d → b.toNat < c.girder.size →
      (d.memSize ≤ a.toNat → c.pointer true a b l = none) ∧
      (a.toNat < d.memSize → d.memSize ≤ 2 ^ 19 → d.pier < 2 ^ 9 → d.slot < 2 ^ 4 →
        ∃ v, c.pointer true a b l = some v ∧ v.extractLsb' 44 20 = 0x01FFE#20 ∧ (v.extractLsb' 35 9).toNat = d.pier ∧
          (v.extractLsb' 31 4).toNat = d.slot ∧ v.extractLsb' 19 12 = 0#12 ∧ (v.extractLsb' 0 19).toNat = a.toNat) := by
  refine ⟨fun h => by simp [Ctx.pointer, h], fun d hd hb => ⟨fun h => ?_, fun h h19 hp hs => ⟨_, ?_, deckWindow_fields hp hs (lt_of_lt_of_le h h19)⟩⟩⟩
  · simp [Ctx.pointer, Nat.not_le.mpr hb, hd, Nat.not_lt.mpr h]
  · simp [Ctx.pointer, Nat.not_le.mpr hb, hd, h]

/-! ## Classes of generic addresses (07 R164) -/

theorem toNat_extract (a : DWord) (i k : Nat) : (a.extractLsb' i k).toNat = bitsOf a.toNat i k := by
  simp [bitsOf, Nat.shiftRight_eq_div_pow]

section
variable {a : DWord}

theorem range_of_field {w : Nat} (h : (a.extractLsb' 44 20).toNat = w) : w * 2 ^ 44 ≤ a.toNat ∧ a.toNat < (w + 1) * 2 ^ 44 := by
  rw [toNat_extract, bitsOf] at h
  have := a.isLt
  omega

theorem deckWindow_of_field (h : a.extractLsb' 44 20 = 0x01FFE#20) :
    ¬ 2 ^ 57 ≤ a.toNat ∧ privWindow a.toNat = false ∧ deckWindow a.toNat = true := by
  have := range_of_field (congrArg BitVec.toNat h)
  simp only [BitVec.toNat_ofNat] at this
  simp only [privWindow, deckWindow, Bool.and_eq_true, Bool.and_eq_false_iff, decide_eq_true_eq, decide_eq_false_iff_not]
  omega

theorem privWindow_of_field (h : a.extractLsb' 44 20 = 0x01FFF#20) : ¬ 2 ^ 57 ≤ a.toNat ∧ privWindow a.toNat = true := by
  have := range_of_field (congrArg BitVec.toNat h)
  simp only [BitVec.toNat_ofNat] at this
  simp only [privWindow, Bool.and_eq_true, decide_eq_true_eq]
  omega

variable (c : Ctx) (l : Nat)

theorem Ctx.spaceClass_beyond (h : 2 ^ 57 ≤ a.toNat) : c.spaceClass a l = 5#32 := by
  simp only [Ctx.spaceClass, resolve, if_pos h]

theorem Ctx.spaceClass_global (h : a.toNat < 0x01FFE00000000000) : c.spaceClass a l = 0#32 := by
  have h1 : ¬ 2 ^ 57 ≤ a.toNat := by omega
  have h2 : privWindow a.toNat = false := by simp [privWindow]; omega
  have h3 : deckWindow a.toNat = false := by simp [deckWindow]; omega
  simp only [Ctx.spaceClass, resolve, if_neg h1, h2, h3, Bool.false_eq_true, if_false]

/-- An address in the deck window, by the deck that it names. -/
theorem Ctx.spaceClass_deckWindow (h : a.extractLsb' 44 20 = 0x01FFE#20) :
    let pier := (a.extractLsb' 35 9).toNat
    let slot := (a.extractLsb' 31 4).toNat
    let off := (a.extractLsb' 0 19).toNat
    (∀ d, (c.s.decksOf c.girder.uid).find? (fun d => d.pier == pier && d.slot == slot) = some d → a.extractLsb' 19 12 = 0#12 →
      off < d.memSize → c.spaceClass a l = if d.uid = c.deck.uid then 1#32 else 2#32) ∧
    ((a.extractLsb' 19 12 ≠ 0#12 ∨ ∀ d ∈ c.s.decksOf c.girder.uid, d.pier = pier → d.slot = slot → d.memSize ≤ off) →
      c.spaceClass a l = 5#32) := by
  obtain ⟨h1, h2, h3⟩ := deckWindow_of_field h
  have hz : a.extractLsb' 19 12 = 0#12 ↔ bitsOf a.toNat 19 12 = 0 := by
    rw [← toNat_extract, BitVec.toNat_eq]; rfl
  simp only [Ctx.spaceClass, resolve, if_neg h1, h2, h3, Bool.false_eq_true, if_false, if_true, toNat_extract, hz]
  refine ⟨fun d hd hb ho => ?_, fun hn => ?_⟩
  · simp [hb, hd, Nat.succ_le_of_lt ho]
  · by_cases hb : bitsOf a.toNat 19 12 = 0
    · have hs := hn.resolve_left (not_not.mpr (hz.mpr hb))
      cases hd : (c.s.decksOf c.girder.uid).find? (fun d => d.pier == bitsOf a.toNat 35 9 && d.slot == bitsOf a.toNat 31 4) with
      | none => simp [hb]
      | some d =>
        have hf := List.find?_some hd
        simp only [Bool.and_eq_true, beq_iff_eq] at hf
        have ho : ¬ bitsOf a.toNat 0 19 + 1 ≤ d.memSize := by
          have := hs d (List.mem_of_find?_eq_some hd) hf.1 hf.2
          omega
        simp [hb, ho]
    · simp [hb]

theorem liveInDeck_iff (s : State) (deck w n : Nat) :
    liveInDeck s deck w n = true ↔ ∃ x ∈ s.spansOf deck, x.idx = n / w ∧ hasLane x.live (n % w) = true := by
  simp [liveInDeck]

/-- An address in `privWindow`, by the lane that it names. -/
theorem Ctx.spaceClass_privWindow (h : a.extractLsb' 44 20 = 0x01FFF#20) :
    let n := (a.extractLsb' 20 11).toNat
    let legal : Prop := (a.extractLsb' 35 9).toNat = c.deck.pier ∧ (a.extractLsb' 31 4).toNat = c.deck.slot ∧
      (a.extractLsb' 0 20).toNat < c.launch.priv ∧ ∃ x ∈ c.s.spansOf c.deck.uid, x.idx = n / c.W ∧ hasLane x.live (n % c.W) = true
    (legal → c.spaceClass a l = if n = c.sp.idx * c.W + l then 3#32 else 4#32) ∧ (¬ legal → c.spaceClass a l = 5#32) := by
  obtain ⟨h1, h2⟩ := privWindow_of_field h
  simp only [Ctx.spaceClass, resolve, if_neg h1, h2, if_true, toNat_extract, ← liveInDeck_iff]
  have hiff : (bitsOf a.toNat 35 9 == c.deck.pier && bitsOf a.toNat 31 4 == c.deck.slot &&
      liveInDeck c.s c.deck.uid c.W (bitsOf a.toNat 20 11) && decide (bitsOf a.toNat 0 20 + 1 ≤ c.launch.priv)) = true ↔
      bitsOf a.toNat 35 9 = c.deck.pier ∧ bitsOf a.toNat 31 4 = c.deck.slot ∧ bitsOf a.toNat 0 20 < c.launch.priv ∧
        liveInDeck c.s c.deck.uid c.W (bitsOf a.toNat 20 11) = true := by
    simp only [Bool.and_eq_true, beq_iff_eq, decide_eq_true_eq, Nat.succ_le_iff, and_assoc]
    exact and_congr_right fun _ => and_congr_right fun _ => and_comm
  refine ⟨fun hl => ?_, fun hl => ?_⟩
  · rw [if_pos (hiff.mpr hl)]
    simp
  · rw [if_neg (mt hiff.mp hl)]

end

/-! ## Timelines (07 R189) -/

theorem loWord_append (hi lo : Word) : loWord (hi ++ lo) = lo := by
  rw [loWord, extract_append_low _ _ _ (by omega), extract_all]
theorem hiWord_append (hi lo : Word) : hiWord (hi ++ lo) = hi := by
  rw [hiWord, extract_append_high _ _ _ (by omega), extract_all]

/-- The status word of a timeline, field by field: 16 words in all. -/
theorem statBits (suspended bound : Bool) (kind : BitVec 2) :
    let v := BitVec.ofNat 32 ((if suspended = true then 1 else 0) + if bound = true then 2 + 16 * kind.toNat else 0)
    v.getLsbD 0 = suspended ∧ v.getLsbD 1 = bound ∧ v.extractLsb' 2 2 = 0#2 ∧ v.extractLsb' 8 24 = 0#24 ∧
      (v.extractLsb' 4 4).toNat = if bound = true then kind.toNat else 0 := by
  revert suspended bound kind
  decide

theorem tlSuspended_iff (s : State) (ctx k : Nat) :
    tlSuspended s ctx k = true ↔ ∃ w ∈ s.works, ∃ x, w.kind = .copy x ∧ x.ctx = ctx ∧ x.tl = k ∧ x.suspended = true := by
  simp only [tlSuspended, List.any_eq_true]
  refine exists_congr fun w => and_congr_right fun _ => ?_
  split
  · rename_i y hy
    simp [hy, and_assoc]
  · rename_i hne
    exact ⟨fun e => absurd e (by simp), fun ⟨x, hx, _⟩ => absurd hx (hne x)⟩

/-- What is outstanding on a timeline, and its status. -/
theorem Ctx.tlStat_spec (c : Ctx) (k : Nat) :
    let v := hiWord (c.tlStat k)
    (∀ t, c.cx.tl[k]? = some t → (loWord (c.tlStat k)).toNat = min (t.issued - t.value - t.early.length) 0xFFFFFFFF) ∧
    (v.getLsbD 0 = true ↔ ∃ w ∈ c.s.works, ∃ x, w.kind = .copy x ∧ x.ctx = c.cx.num ∧ x.tl = k ∧ x.suspended = true) ∧
    v.getLsbD 1 = c.launch.tlBound k ∧ v.extractLsb' 2 2 = 0#2 ∧ v.extractLsb' 8 24 = 0#24 ∧
    (v.extractLsb' 4 4).toNat = if c.launch.tlBound k then c.launch.tlKind k else 0 := by
  obtain ⟨b0, b1, b2, b8, b4⟩ := statBits (tlSuspended c.s c.cx.num k) (c.launch.tlBound k) (c.launch.tlbind.extractLsb' (3 * k) 2)
  simp only [Ctx.tlStat, hiWord_append, loWord_append]
  refine ⟨fun t ht => ?_, (iff_of_eq (congrArg (· = true) b0)).trans (tlSuspended_iff _ _ _), b1, b2, b8, b4⟩
  rw [ht, Option.getD_some, BitVec.toNat_ofNat]
  omega

/-! ## What is written at issue (O12) -/

/-- One register, with its slots taken at issue. -/
theorem computesAtIssue_one {i : Instr} {r : Reg} {f : Ctx → Nat → Word}
    (he : ∀ s, exec i s = instr i false s (fun c => (c.issueWrite c.s (put r (f c))).map .done)) : ComputesAtIssue i (fun c => put r (f c)) :=
  issueWrite_computes he (fun _ c => ⟨fun d hd => by simp only [put, List.mem_singleton] at hd; subst hd; exact r.isLt, by simp [put]⟩)

/-- A pair of registers, with their slots taken at issue. -/
theorem computesAtIssue_pair {i : Instr} {r : Reg} {f : Ctx → Nat → DWord} (hw : i.wf = true → evenReg r = true)
    (he : ∀ s, exec i s = instr i false s (fun c => (c.issueWrite c.s (pairDst r (f c))).map .done)) :
    ComputesAtIssue i (fun c => pairDst r (f c)) :=
  issueWrite_computes he (fun w c => pair_regs (hw w) (f c))

/-- Settles O12: slots, pointers, address classes, tag counts and timelines, each by its own lemmas. -/
theorem issueTimeResults : Obligations.IssueTimeResults := by
  refine ⟨fun c b sp d ds hs hd => ⟨fun room => ?_, reserve_refuses hs hd ds⟩,
    fun d a b x s c h => ⟨p2g_writes h, p2g_noRoom h, fun r n hr l hl hp hlow => p2g_illegal h hr hl hp hlow⟩,
    Ctx.pointer_priv, Ctx.pointer_deck, fun d a => computesAtIssue_one (fun _ => rfl), fun c a l => ?_,
    fun a t => computesAtIssue_one (fun _ => rfl),
    fun d n => computesAtIssue_pair (fun w => (Bool.and_eq_true_iff.mp w).1) (fun _ => rfl),
    fun a n => computesAtIssue_pair (fun w => (Bool.and_eq_true_iff.mp w).1) (fun _ => rfl), Ctx.tlStat_spec⟩
  · obtain ⟨r, h1, h2⟩ := reserve_takes hs hd ds room
    exact ⟨r, _, h1, h2.span, rfl, rfl, rfl, ⟨h2.drawn.1, h2.drawn.2⟩, h2.elsewhere⟩
  · exact ⟨c.spaceClass_beyond l, c.spaceClass_global l, c.spaceClass_deckWindow l, c.spaceClass_privWindow l⟩

end Sys2Proof.Machine
end

section
/-! Decoding and encoding agree (O55, O56; 03 R61-R73). -/

namespace Sys2Proof

/-- A word decodes to an instruction exactly where its class's map reads that instruction, which is legal and has that word. -/
theorem decode_eq_some_iff {c : Cls} {w : Word} {lit : Option Word} {i : Instr} :
    decode c w lit = some i ↔ rawDecode c w lit = some i ∧ i.wf = true ∧ i.encodeWord = w := by
  cases h : rawDecode c w lit with
  | none => simp [decode, h]
  | some j =>
    simp only [decode, h, Option.ite_none_right_eq_some, Option.some.injEq, Bool.and_eq_true, beq_iff_eq]
    exact and_comm.trans (and_congr_right fun e => e ▸ Iff.rfl)

/-! ## From an instruction to its words and back -/

namespace Laws.RoundTrip

/-- The constructors' own lemmas, in the order of the opcode table. -/
theorem rawDecode_encodeWord (i : Instr) : Statement i :=
  @Instr.casesOn Statement i
    -- ALU class
    add sub mul mulh mad madw abs min max and or xor not andn mov movl shl shr sar rot fshl fshr bfx bfi popc clz ctz brev permb lea cmp
    add64 sub64 shl64 shr64 cmp64 addc subb sel addImm mulImm andImm orImm xorImm shlImm shrImm sarImm rotImm minI32Imm minN32Imm
    maxI32Imm maxN32Imm cmpI32Imm cmpN32Imm cvt cvts planex planep qnt shfl bcast vote lred lminx lmaxx lscan laneMatch isect union bpfx
    fadd fsub fmul ffma fmin fmax fcmp fneg fabs frcp frsq fsqrt fexp2 flog2 fsin fcos frnd fclass fscale fdot2
    -- CTRL class
    shq shassert shforce shpack grow growTry shrink join leave waitm mset mskop mpopc mfind mskget mskput bra brai call calli ret ser endser
    exit nop yield pushv popv
    -- MEM class
    ld st lduC lduG ldxG ldxD stxG stxD atom red atomcasN32 atomcasN64 redx pref fence acq rel acqr cctl p2g qspace bararr barwait barsync
    barexp barset stgacq stgrel tlwait tlread
    -- CPY, MTX and SYS classes
    cpl tagwait tagcnt tcopy tsparse tgather tscatter tfill tcoll tstat
    mxarr mxload mxarow mxsign mxmma mxvalid mxwait mxsave
    spawn spawnTry plvl trap tret brk csrr csrw clock entw migr rdenter rdexit gpstart waitgp dfree
    -- The device's own steps
    issuePick clauseHeaderEntry clauseHeaderPass yieldExpiry loadReturn atomicPerform atomicReply reductionPerform wcFlush l2EvictionPromote
    cplLaneComplete copyPieceLanding copyCompletion engineCopyFault barrierPhaseComplete barrierReleaseWave waitmOpen stageSlotTurn
    growServed fillRowLanding broadcastRowLanding matrixOwnershipChange sliceStart sliceLanding entwWake trapEntry watchdogExpiry
    pageRequestResponse spanRetire parkedSpanRetire launchStart deckPlace deckMemoryCleared spawnOfferAccept overflowDrain
    spawnPackTimeout spawnSpanEmit spawnedSpanPlace launchComplete doorbell sliceExpiry parkleadReached deckQuiesced parkSaveDone
    deckResume deadlineExpiry migrationPlace gpQuiescenceChange gpComplete gpStall dfreeRelease relringRetry createContext
    destroyContext createQueue destroyQueue destroyQueueDone preempt invalidate invalidateDone setPeerGroup debugAttach debugDetach
    debugStop debugStep debugStepSpan debugContinue attest getCert fwDeliver resync registerWrite refsync refmapApplied hbmRefresh
    powerLimitTick currentLimitSkip levelChange undervoltAdjust eccCorrected eccUe thermal thermalRelease hostMemAccess
    atsInvalidation peerFailure deviceBoot matrixClearDone storePerformed linkReset ideKm atsTranslationCompletion uvRestoreDone

end Laws.RoundTrip

/-- A well-formed instruction of a class is decoded from the word and the literal that encode it. -/
theorem decode_of_encodeWord {i : Instr} {c : Cls} {w : Word} {lit : Option Word} (hw : i.wf = true) (hc : i.cls = some c)
    (he : i.encodeWord = w) (hl : i.literal = lit) : decode c w lit = some i := by
  subst he hl
  exact decode_eq_some_iff.mpr ⟨Laws.RoundTrip.rawDecode_encodeWord i c hw hc, hw, rfl⟩

/-! ## What a class's map reads -/

/-- A reading, with `lit` the word after the one read, answers nothing but an instruction of class c that takes no literal or that one. -/
def ReadsClass (c : Cls) (lit : Option Word) (r : Option Instr) : Prop :=
  ∀ i, r = some i → i.cls = some c ∧ (i.literal = none ∨ i.literal = lit)

/-- A row of an opcode table: the instruction of its code, or what the rows after it read. -/
theorem readsClass_ite {c : Cls} {lit : Option Word} {p : Bool} {r q : Option Instr} (hr : ReadsClass c lit r)
    (hq : ReadsClass c lit q) : ReadsClass c lit (if p then r else q) := by
  cases p
  exacts [hq, hr]

@[simp] theorem literal_srcB_none (w : Word) : (srcB w none).literal = none := by
  unfold srcB
  split <;> rfl

/-- Source b takes its literal, if any, from the word after (03 R63). -/
@[simp] theorem literal_srcB_some (w l : Word) : (srcB w (some l)).literal = none ∨ (srcB w (some l)).literal = some l := by
  unfold srcB
  split
  exacts [.inr rfl, .inl rfl]

/-- Every map is a chain of rows, through the parts that it is written in, and each row's instruction is of the map's class: its literal is
none, that of its source b, or the word after, without which the row reads nothing. -/
theorem rawDecode_reads (c : Cls) (w : Word) (lit : Option Word) : ReadsClass c lit (rawDecode c w lit) := by
  cases lit <;> cases c
  all_goals repeat' apply readsClass_ite
  all_goals rintro i ⟨⟩ <;> exact ⟨rfl, by simp [Instr.literal]⟩

/-! ## The statements -/

/-- Settles O56: an instruction is read back by its constructor's lemma, and each map reads only instructions of its own class. -/
theorem decodeInvertsEncode : Obligations.DecodeInvertsEncode := by
  refine ⟨fun i c hw hc => decode_of_encodeWord hw hc rfl rfl, fun c w lit i h => ?_⟩
  obtain ⟨hr, hw, he⟩ := decode_eq_some_iff.mp h
  obtain ⟨hc, hl⟩ := rawDecode_reads c w lit i hr
  exact ⟨hw, he, hc, hl⟩

/-- Settles O55: each word is that of its instruction, which is well formed; the header is read by computing its fields. -/
theorem tabledWordsDecode : Obligations.TabledWordsDecode := by
  refine ⟨?_, ?_, ?_, ?_, ?_, ?_, ?_, ?_, ?_, ?_, ?_, ?_, ?_, ?_, ?_, ?_, rfl⟩
  all_goals exact decode_of_encodeWord rfl rfl rfl rfl

end Sys2Proof
end

section
/-! Integer arithmetic, bitwise operations and shifts (O1, O2; 05 R84, R86). -/

namespace Sys2Proof.Machine

/-- One register, by values equal to those that the meaning writes. -/
theorem computes_put {i : Instr} {r : Reg} {f g : Ctx → Nat → Word}
    (he : ∀ s, Machine.exec i s = regInstr i s (fun c => [(r.toNat, f c)])) (hf : i.wf = true → ∀ c l, f c l = g c l) :
    Computes i (fun c => put r (g c)) :=
  (computes_one he).congr fun w c => congrArg (put r) (funext (hf w c))

/-- A pair of registers, by values equal to those that the meaning writes. -/
theorem computes_pairDst {i : Instr} {r : Reg} {f g : Ctx → Nat → DWord} (hw : i.wf = true → evenReg r = true)
    (he : ∀ s, Machine.exec i s = regInstr i s (fun c => pairDst r (f c))) (hf : ∀ c l, f c l = g c l) :
    Computes i (fun c => pairDst r (g c)) :=
  (computes_pair hw he).congr fun _ c => congrArg (pairDst r) (funext (hf c))

/-! ## Values of the 32-bit arithmetic (05 R84) -/

/-- The high word of a product of two words taken as numbers that lie in 64 bits. -/
theorem hiWord_ofInt (z : Int) : hiWord (BitVec.ofInt 64 z) = BitVec.ofInt 32 (z / 2 ^ 32) := by
  apply BitVec.eq_of_toNat_eq
  simp only [hiWord, BitVec.extractLsb'_toNat, BitVec.toNat_ofInt, Nat.shiftRight_eq_div_pow]
  omega

theorem mulHigh_eq (x : Bool) (a b : Word) : mulHigh x a b =
    if x then BitVec.ofInt 32 (a.toInt * b.toInt / 2 ^ 32) else BitVec.ofNat 32 (a.toNat * b.toNat / 2 ^ 32) := by
  cases x with
  | true =>
    have e : a.signExtend 64 * b.signExtend 64 = BitVec.ofInt 64 (a.toInt * b.toInt) := by
      rw [BitVec.ofInt_mul]; rfl
    simp only [mulHigh, if_true, e, hiWord_ofInt]
  | false =>
    have e : a.zeroExtend 64 * b.zeroExtend 64 = BitVec.ofInt 64 ((a.toNat * b.toNat : Nat) : Int) := by
      rw [BitVec.ofInt_natCast]
      apply BitVec.eq_of_toNat_eq
      simp
    simp only [mulHigh, Bool.false_eq_true, if_false, e, hiWord_ofInt]
    norm_cast

theorem abs_eq (a : Word) : a.abs = if a.toInt < 0 then -a else a := by
  rw [BitVec.abs, BitVec.msb_eq_toInt]
  exact if_congr decide_eq_true_iff rfl rfl

/-- The order that minimum and maximum go by. -/
theorem le_of_type (x : Bool) (a b : Word) :
    ((if x then a.sle b else a.ule b) = true) ↔ (if x then a.toInt ≤ b.toInt else a.toNat ≤ b.toNat) := by
  cases x <;> simp [BitVec.sle, BitVec.ule]

theorem minWord_eq (x : Bool) (a b : Word) :
    minWord x a b = if (if x then a.toInt ≤ b.toInt else a.toNat ≤ b.toNat) then a else b :=
  if_congr (le_of_type x a b) rfl rfl

theorem maxWord_eq (x : Bool) (a b : Word) :
    maxWord x a b = if (if x then a.toInt ≤ b.toInt else a.toNat ≤ b.toNat) then b else a :=
  if_congr (le_of_type x a b) rfl rfl

/-- Settles O1: each form is a write of one register or a pair, of the value that its equation gives. -/
theorem integerArithmeticResults : Obligations.IntegerArithmeticResults := by
  refine ⟨fun _ => computes_one fun _ => rfl, fun _ => computes_one fun _ => rfl, fun _ => computes_one fun _ => rfl,
    fun f => computes_put (fun _ => rfl) fun _ _ _ => mulHigh_eq f.x _ _, fun _ => computes_one fun _ => rfl,
    fun f => computes_pairDst (fun w => (Bool.and_eq_true_iff.mp w).1) (fun _ => rfl) fun _ _ => ?_,
    fun _ => computes_put (fun _ => rfl) fun _ _ _ => abs_eq _, fun f => computes_put (fun _ => rfl) fun _ _ _ => minWord_eq f.x _ _,
    fun f => computes_put (fun _ => rfl) fun _ _ _ => maxWord_eq f.x _ _, fun _ => computes_one fun _ => rfl,
    fun _ _ _ => computes_one fun _ => rfl, fun _ => computes_one fun _ => rfl⟩
  cases f.x <;> rfl

/-! ## Shifts by a count of any size (05 R86) -/

theorem sarWord_eq (a n : Word) :
    sarWord a n = if n.toNat < 32 then a.sshiftRight n.toNat else if a.msb then 0xFFFFFFFF#32 else 0#32 := by
  by_cases h : n.toNat < 32
  · rw [if_pos h, sarWord, Nat.min_eq_left (Nat.le_of_lt h)]
  · rw [if_neg h, sarWord, Nat.min_eq_right (Nat.le_of_not_lt h)]
    cases hm : a.msb with
    | false => simp [BitVec.sshiftRight_eq_of_msb_false hm, BitVec.ushiftRight_eq_zero]
    | true => simp [BitVec.sshiftRight_eq_of_msb_true hm, BitVec.ushiftRight_eq_zero]

/-- Settles O2: each operation is a write of one register. -/
theorem bitwiseAndShiftResults : Obligations.BitwiseAndShiftResults :=
  ⟨fun _ => computes_one fun _ => rfl, fun _ => computes_one fun _ => rfl, fun _ => computes_one fun _ => rfl,
    fun _ => computes_one fun _ => rfl, fun _ => computes_one fun _ => rfl, fun _ => computes_one fun _ => rfl,
    fun _ => computes_one fun _ => rfl, fun _ => computes_put (fun _ => rfl) fun _ _ _ => sarWord_eq _ _,
    fun _ => computes_one fun _ => rfl⟩

end Sys2Proof.Machine
end

section
/-! Funnel shifts, bit fields, counts and permutations (O3, O4; 05 R87-R90). -/

namespace Sys2Proof.Machine

/-! ## Funnel shifts (05 R87) -/

/-- A funnel shift of a word with itself is a rotation. -/
theorem funnel_self (a : Word) {n : Nat} (h : n < 32) : ((a ++ a : BitVec 64) <<< n).extractLsb' 32 32 = a.rotateLeft n := by
  apply BitVec.eq_of_getLsbD_eq
  intro i hi
  rw [BitVec.getLsbD_rotateLeft, Nat.mod_eq_of_lt h]
  simp only [BitVec.getLsbD_extractLsb', BitVec.getLsbD_shiftLeft, BitVec.getLsbD_append, hi, decide_true, Bool.true_and]
  have h1 : 32 + i < 64 := by omega
  have h2 : ¬ 32 + i < n := by omega
  by_cases hn : i < n
  · have h3 : 32 + i - n < 32 := by omega
    have h4 : 32 - n + i = 32 + i - n := by omega
    simp [h1, h2, h3, h4, hn]
  · have h3 : ¬ 32 + i - n < 32 := by omega
    have h4 : 32 + i - n - 32 = i - n := by omega
    simp [h1, h2, h3, h4, hn]

/-- Settles O3: a funnel shift is a write of a half of the shifted pair; its code is the top of its word. -/
theorem funnelShiftResults : Obligations.FunnelShiftResults := by
  refine ⟨fun _ => computes_one fun _ => rfl, fun _ => computes_one fun _ => rfl, fun f => ⟨?_, ?_⟩, fun a d => ⟨?_, ?_⟩,
    fun a n h => funnel_self a h⟩
  · exact fOp_packA ..
  · exact fOp_packA ..
  · rw [BitVec.shiftLeft_zero]
    exact (extract_append_high a d 32 (le_refl 32)).trans (extract_all a)
  · rw [BitVec.ushiftRight_zero]
    exact (extract_append_low d a 0 (by decide)).trans (extract_all a)

/-! ## Bit fields (05 R88) -/

/-- A value of n bits read with its sign. -/
theorem signedOf_eq_toInt {n : Nat} (hn : n ≠ 0) (v : Nat) : signedOf n v = (BitVec.ofNat n v).toInt := by
  obtain ⟨m, rfl⟩ := Nat.exists_eq_succ_of_ne_zero hn
  rw [BitVec.toInt_eq_toNat_cond, BitVec.toNat_ofNat, signedOf, Nat.succ_sub_one, Nat.cast_pow, Nat.cast_ofNat]
  exact if_congr (by rw [pow_succ]; omega) rfl rfl

/-- The bits of an extracted field: its own, then copies of its sign or zeros. -/
theorem bfxOf_eq (x : Bool) (a b : Word) : bfxOf x a b = wordOfBits (fun i =>
    if i < fieldLen b then a.getLsbD (fieldPos b + i) else fieldLen b != 0 && x && a.getLsbD (fieldPos b + fieldLen b - 1)) := by
  apply BitVec.eq_of_getLsbD_eq
  intro i hi
  simp only [getLsbD_wordOfBits, hi, decide_true, Bool.true_and, bfxOf]
  by_cases h0 : fieldLen b = 0
  · simp [h0]
  have field : ∀ j, ((a >>> fieldPos b).toNat % 2 ^ fieldLen b).testBit j = (decide (j < fieldLen b) && a.getLsbD (fieldPos b + j)) :=
    fun j => by rw [Nat.testBit_mod_two_pow, ← BitVec.getLsbD, BitVec.getLsbD_ushiftRight]
  rw [if_neg h0]
  cases x with
  | true =>
    rw [if_pos rfl, signedOf_eq_toInt h0, ← BitVec.signExtend, BitVec.getLsbD_signExtend, BitVec.msb_eq_getLsbD_last]
    simp only [BitVec.getLsbD_ofNat, field]
    have h1 : fieldLen b - 1 < fieldLen b := by omega
    have h2 : fieldPos b + (fieldLen b - 1) = fieldPos b + fieldLen b - 1 := by omega
    by_cases hl : i < fieldLen b <;> simp [hi, h0, h1, h2, hl]
  | false =>
    rw [if_neg Bool.false_ne_true, BitVec.getLsbD_ofNat, field]
    by_cases hl : i < fieldLen b <;> simp [hi, hl]

theorem fieldPos_add_fieldLen (b : Word) : fieldPos b + fieldLen b ≤ 32 := by
  have : fieldPos b < 32 := (b.extractLsb' 0 5).isLt
  unfold fieldLen
  omega

/-- The bits of a word with a field inserted: the field's within it, the old ones elsewhere. -/
theorem bfiOf_eq (a b d : Word) : bfiOf a b d = wordOfBits (fun i =>
    if fieldPos b ≤ i ∧ i < fieldPos b + fieldLen b then a.getLsbD (i - fieldPos b) else d.getLsbD i) := by
  apply BitVec.eq_of_getLsbD_eq
  intro i hi
  have hf := fieldPos_add_fieldLen b
  simp only [getLsbD_wordOfBits, bfiOf, BitVec.getLsbD_or, BitVec.getLsbD_and, BitVec.getLsbD_not, BitVec.getLsbD_shiftLeft,
    BitVec.getLsbD_ofNat, Nat.testBit_two_pow_sub_one, hi, decide_true, Bool.true_and]
  by_cases h1 : fieldPos b ≤ i
  · have h2 : (i - fieldPos b < fieldLen b) ↔ i < fieldPos b + fieldLen b := by omega
    have h3 : i - fieldPos b < 32 := by omega
    by_cases h4 : i < fieldPos b + fieldLen b <;> simp [Nat.not_lt.mpr h1, h1, h2, h3, h4]
  · simp [Nat.lt_of_not_le h1, h1]

/-! ## Counts, reversal and byte permutation (05 R89, R90) -/

/-- The first number below n that satisfies p, or n, is how many come before it. -/
theorem find?_range_getD (n : Nat) (p : Nat → Bool) :
    ((List.range n).find? p).getD n = ((List.range n).takeWhile (fun i => !p i)).length := by
  simp only [List.takeWhile_eq_take_findIdx_not, Bool.not_not, List.length_take, List.length_range]
  cases h : (List.range n).find? p with
  | none =>
    rw [List.findIdx_eq_length_of_false fun i hi => by simpa using List.find?_eq_none.mp h i hi]
    simp
  | some k =>
    obtain ⟨hp, hk, hlow⟩ := List.find?_range_eq_some.mp h
    have hk' : k < n := List.mem_range.mp hk
    have : (List.range n).findIdx p = k := (List.findIdx_eq (by simpa using hk')).mpr ⟨by simpa using hp, by simpa using hlow⟩
    simp [this, Nat.le_of_lt hk']

theorem reverse_eq (a : Word) : a.reverse = wordOfBits (fun i => a.getLsbD (31 - i)) := by
  apply BitVec.eq_of_getLsbD_eq
  intro i hi
  rw [BitVec.getLsbD_reverse, getLsbD_wordOfBits, BitVec.getMsbD_eq_getLsbD]

/-- The subfields of a selector. -/
theorem selector_fields (v : BitVec 4) : (v.extractLsb' 0 3).toNat = v.toNat % 8 ∧ v.getLsbD 3 = decide (8 ≤ v.toNat) := by
  revert v; decide

theorem permByte_eq (a b d : Word) (k : Nat) : permByte a b d k =
    let sel := (b.extractLsb' (4 * k) 4).toNat
    let y : BitVec 8 := (d ++ a : BitVec 64).extractLsb' (8 * (sel % 8)) 8
    if 8 ≤ sel then (if y.msb then 0xFF#8 else 0#8) else y := by
  obtain ⟨h1, h2⟩ := selector_fields (b.extractLsb' (4 * k) 4)
  simp only [permByte, h1, h2, decide_eq_true_eq, BitVec.msb_eq_getLsbD_last]
  rfl

/-- Settles O4: each result is a write of one register, and agrees with its meaning bit by bit or as a count. -/
theorem bitFieldAndCountResults : Obligations.BitFieldAndCountResults := by
  refine ⟨fun f => computes_put (fun _ => rfl) fun _ _ _ => bfxOf_eq f.x _ _, fun _ => computes_put (fun _ => rfl) fun _ _ _ => bfiOf_eq _ _ _,
    fun _ => computes_put (fun _ => rfl) fun _ _ _ => ?_, fun _ => computes_put (fun _ => rfl) fun _ _ _ => ?_,
    fun _ => computes_put (fun _ => rfl) fun _ _ _ => ?_, fun _ => computes_put (fun _ => rfl) fun _ _ _ => reverse_eq _,
    fun _ => computes_put (fun _ => rfl) fun _ _ _ => ?_⟩
  · exact congrArg (BitVec.ofNat 32) List.countP_eq_length_filter.symm
  · exact congrArg (BitVec.ofNat 32) (find?_range_getD 32 _)
  · exact congrArg (BitVec.ofNat 32) (find?_range_getD 32 _)
  · simp only [permbOf, permByte_eq]
    rfl

end Sys2Proof.Machine
end

section
/-! 64-bit and immediate forms (O5; 05 R93, R94). -/

namespace Sys2Proof.Machine

/-- A 64-bit form's destination names a pair. -/
theorem even_of_okPairs {f : FormA} (h : f.okPairs = true) : evenReg f.d = true := by
  simp only [FormA.okPairs, Bool.and_eq_true] at h
  exact h.1.1

theorem shl64Of_eq (a : DWord) (n : Word) : shl64Of a n = BitVec.ofNat 64 (if n.toNat < 64 then a.toNat * 2 ^ n.toNat else 0) := by
  unfold shl64Of
  split
  · exact BitVec.eq_of_toNat_eq (by rw [BitVec.toNat_shiftLeft, Nat.shiftLeft_eq, BitVec.toNat_ofNat])
  · rfl

theorem shr64Of_eq (a : DWord) (n : Word) : shr64Of a n = BitVec.ofNat 64 (if n.toNat < 64 then a.toNat / 2 ^ n.toNat else 0) := by
  unfold shr64Of
  split
  · exact BitVec.eq_of_toNat_eq (by
      rw [BitVec.toNat_ushiftRight, Nat.shiftRight_eq_div_pow, BitVec.toNat_ofNat,
        Nat.mod_eq_of_lt (Nat.lt_of_le_of_lt (Nat.div_le_self _ _) a.isLt)])
  · rfl

/-- A shift count in an immediate is less than 32, and its sign extension is the count. -/
theorem shiftImm {f : FormI} (h : f.okShift = true) : f.imm.toNat < 32 ∧ (f.imm.signExtend 32).toNat = f.imm.toNat := by
  have key : ∀ v : BitVec 10, v.extractLsb' 5 5 = 0#5 → v.toNat < 32 := by decide
  have hlt := key f.imm (by simpa [FormI.okShift] using h)
  refine ⟨hlt, ?_⟩
  have hm : f.imm.msb = false := by
    rw [BitVec.msb_eq_decide, decide_eq_false_iff_not]
    omega
  rw [BitVec.signExtend_eq_setWidth_of_msb_false hm, BitVec.toNat_setWidth]
  omega

/-- A shift or rotation by an immediate, as one by its count. -/
theorem computes_shiftImm {i : Instr} {f : FormI} {op : Word → Word → Word} {g : Word → Nat → Word}
    (he : ∀ s, Machine.exec i s = aluI i f s op) (hw : i.wf = f.okShift)
    (hg : ∀ a n : Word, n.toNat < 32 → op a n = g a n.toNat) : Computes i (fun c => put f.d (fun l => g (c.src f.a l) f.imm.toNat)) :=
  computes_put he fun w c l => by
    obtain ⟨hlt, e⟩ := shiftImm (hw ▸ w)
    rw [hg _ _ (e ▸ hlt), e]

/-- Settles O5: the 64-bit forms write a pair, the immediate forms one register with the extended immediate for b. -/
theorem pairAndImmediateResults : Obligations.PairAndImmediateResults := by
  have ext : ∀ v : BitVec 10, (v.signExtend 32).toInt = v.toInt := fun v => BitVec.toInt_signExtend_of_le (by decide)
  have even : ∀ {f : FormA}, (evenReg f.d && evenReg f.a && f.ok) = true → evenReg f.d = true := fun h => by
    simp only [Bool.and_eq_true] at h
    exact h.1.1
  refine ⟨⟨fun _ => computes_pair even_of_okPairs fun _ => rfl, fun _ => computes_pair even_of_okPairs fun _ => rfl,
    fun _ => computes_pairDst even (fun _ => rfl) fun _ _ => shl64Of_eq _ _,
    fun _ => computes_pairDst even (fun _ => rfl) fun _ _ => shr64Of_eq _ _⟩,
    fun _ => computes_one fun _ => rfl, fun _ => computes_one fun _ => rfl, fun _ => computes_one fun _ => rfl,
    fun _ => computes_one fun _ => rfl, fun _ => computes_one fun _ => rfl,
    fun _ => computes_shiftImm (fun _ => rfl) rfl fun a n h => if_pos h,
    fun _ => computes_shiftImm (fun _ => rfl) rfl fun a n h => if_pos h,
    fun _ => computes_shiftImm (fun _ => rfl) rfl fun a n h => (sarWord_eq a n).trans (if_pos h),
    fun _ => computes_shiftImm (fun _ => rfl) rfl fun a n h => congrArg a.rotateLeft (Nat.mod_eq_of_lt h),
    fun f => computes_put (fun _ => rfl) fun _ _ _ => (minWord_eq true _ _).trans ?_,
    fun _ => computes_put (fun _ => rfl) fun _ _ _ => minWord_eq false _ _,
    fun f => computes_put (fun _ => rfl) fun _ _ _ => (maxWord_eq true _ _).trans ?_,
    fun _ => computes_put (fun _ => rfl) fun _ _ _ => maxWord_eq false _ _⟩
  · simp only [if_true, ext]
  · simp only [if_true, ext]

end Sys2Proof.Machine
end

section
/-! What performing outstanding work leaves of every span (07 R144, 15 R300): all but what its accesses write. -/

namespace Sys2Proof.Machine

/-- Span y is span x but for what performing work changes: registers with their slots and poison, tags, %sp and a trap to be raised. -/
def Span.Performed (x y : Span) : Prop :=
  { y with regs := x.regs, used := x.used, poison := x.poison, tags := x.tags, pending := x.pending, lanes := x.lanes } = x

/-- Every span of t is one of s but for what performing work changes. -/
def SpansKept (s t : State) : Prop := ∃ g : Span → Span, (∀ x : Span, x.Performed (g x)) ∧ t.spans = s.spans.map g

theorem Span.Performed.trans {x y z : Span} (h : x.Performed y) (k : y.Performed z) : x.Performed z :=
  (congrArg (fun v : Span => ({ v with
    regs := x.regs, used := x.used, poison := x.poison, tags := x.tags, pending := x.pending, lanes := x.lanes } : Span)) k).trans h
theorem Span.Performed.uid {x y : Span} (h : x.Performed y) : y.uid = x.uid := by rw [← h]
theorem Span.Performed.masks {x y : Span} (h : x.Performed y) : y.masks = x.masks := by rw [← h]

namespace SpansKept
variable {s t w : State}

theorem of_spans (h : t.spans = s.spans) : SpansKept s t := ⟨id, fun _ => rfl, by rw [h, List.map_id]⟩
theorem refl (s : State) : SpansKept s s := of_spans rfl

theorem trans (h : SpansKept s t) (k : SpansKept t w) : SpansKept s w := by
  obtain ⟨f, hf, h⟩ := h
  obtain ⟨g, hg, k⟩ := k
  exact ⟨g ∘ f, fun x => (hf x).trans (hg (f x)), by rw [k, h, List.map_map]⟩

theorem modSpan (s : State) (u : Nat) {f : Span → Span} (hf : ∀ x : Span, x.Performed (f x)) : SpansKept s (s.modSpan u f) :=
  ⟨fun x => if x.uid == u then f x else x, fun x => by dsimp only; split; exacts [hf x, rfl], rfl⟩

/-- A chain of such changes is one. -/
theorem foldl {α : Type} {f : State → α → State} (hf : ∀ s a, SpansKept s (f s a)) : ∀ (l : List α) (s : State), SpansKept s (l.foldl f s)
  | [], s => refl s
  | a :: l, s => (hf s a).trans (foldl hf l _)

/-- Each span is found again under its name. -/
theorem span? (h : SpansKept s t) {u : Nat} {x : Span} (hx : s.span? u = some x) : ∃ y, t.span? u = some y ∧ x.Performed y := by
  obtain ⟨g, hg, h⟩ := h
  refine ⟨g x, ?_, hg x⟩
  rw [State.span?, h, find_map_uid Span.uid g fun x => (hg x).uid]
  exact congrArg (Option.map g) hx

end SpansKept

/-! ## Registers and memory -/

theorem landReg_kept (s : State) (u d : Nat) (new : Nat → Word) (a : LaneSet) (resv : Bool) : SpansKept s (landReg s u d new a resv) := by
  unfold landReg
  split
  · exact .refl s
  · split
    · exact .refl s
    · exact (SpansKept.of_spans rfl).trans (SpansKept.modSpan _ u fun _ => rfl)

theorem landRegs_kept (s : State) (w : Work) (f : Nat → Nat → Word) : SpansKept s (landRegs s w f) :=
  SpansKept.foldl (fun _ _ => landReg_kept ..) _ s

@[simp] theorem writeLoc_spans (s : State) (l : Loc) (b : Byte) : (writeLoc s l b).spans = s.spans := by
  cases l with
  | dev pa => simp only [writeLoc]; split <;> rfl
  | host ha => rfl
  | deck u o => rfl
  | priv u l o => rfl

@[simp] theorem writeLocs_spans (s : State) (l : Loc) (bs : List Byte) : (writeLocs s l bs).spans = s.spans := by
  induction bs generalizing s l with
  | nil => rfl
  | cons b bs ih => rw [writeLocs, ih, writeLoc_spans]

@[simp] theorem writeKeeping_spans (s : State) (l : Loc) (bs : List Byte) : (writeKeeping s l bs).spans = s.spans := by
  simp only [writeKeeping]
  split <;> exact writeLocs_spans ..

@[simp] theorem poisonLocs_spans (s : State) (l : Loc) (n : Nat) : (poisonLocs s l n).spans = s.spans := by cases l <;> rfl

/-- A chain of changes of memory and its directory leaves the spans. -/
theorem foldl_spans {α : Type} {f : State → α → State} (hf : ∀ s a, (f s a).spans = s.spans) (l : List α) (s : State) :
    (l.foldl f s).spans = s.spans := by
  induction l generalizing s with
  | nil => rfl
  | cons a l ih => rw [List.foldl_cons, ih, hf]

@[simp] theorem notePatches_spans (s : State) (accs : List Acc) : (notePatches s accs).spans = s.spans :=
  foldl_spans (fun s a => by unfold notePatch; split <;> rfl) accs s

@[simp] theorem noteWrite_spans (s : State) (ctx : Option Nat) (l : Loc) : (noteWrite s ctx l).spans = s.spans := by
  unfold noteWrite; split <;> rfl

@[simp] theorem setOwner_spans (s : State) (l : Loc) (pier scope : Nat) : (setOwner s l pier scope).spans = s.spans := by
  unfold setOwner
  split
  · split
    · rfl
    · split <;> rfl
  · rfl

@[simp] theorem noteLines_spans (s : State) (u : Nat) (accs : List Acc) : (noteLines s u accs).spans = s.spans :=
  foldl_spans (fun s a => by simp) accs s

@[simp] theorem applyRed_spans (f : DWord → DWord → DWord) (s : State) (accs : List Acc) : (applyRed f s accs).spans = s.spans :=
  foldl_spans (fun s a => by simp) _ s

@[simp] theorem atomicLanes_spans (op : BitVec 4) (cas : Bool) (accs : List Acc) (s : State) (out : List (Nat × DWord)) :
    (atomicLanes op cas accs s out).1.spans = s.spans := by
  induction accs generalizing s out with
  | nil => rfl
  | cons a accs ih =>
    simp only [atomicLanes, ih]
    split <;> simp

/-! ## Work -/

theorem raiseAtRead_kept (s : State) (w : Work) (bad : List Acc) : SpansKept s (raiseAtRead s w bad) := by
  have h : SpansKept s (unreserve s w.span w.resv) := SpansKept.modSpan s w.span fun _ => rfl
  exact h.trans ((SpansKept.of_spans (t := (unreserve s w.span w.resv).dropWork w.id) rfl).trans (SpansKept.modSpan _ w.span fun _ => rfl))

theorem readCpl_kept (s : State) (w : Work) : SpansKept s (readCpl s w) := by
  unfold readCpl
  split <;> exact .of_spans rfl

theorem performAccess_kept (s : State) (w : Work) : SpansKept s (performAccess s w) := by
  have dropped : ∀ t : State, SpansKept s t → SpansKept s (t.dropWork w.id) := fun t h => h.trans (.of_spans rfl)
  unfold performAccess
  split
  · exact raiseAtRead_kept ..
  · split
    case h_1 => exact dropped _ (landRegs_kept ..)
    case h_2 =>
      refine dropped _ (.of_spans ?_)
      rw [noteLines_spans, foldl_spans fun s (a : Acc) => writeLocs_spans s a.loc a.data, notePatches_spans]
    case h_3 => exact .of_spans ((noteLines_spans ..).trans ((atomicLanes_spans ..).trans (notePatches_spans ..)))
    case h_4 => exact dropped _ (landRegs_kept ..)
    case h_5 => exact dropped _ (.of_spans (by simp))
    case h_6 => exact dropped _ (.of_spans (by simp))
    case h_7 => exact dropped _ (landRegs_kept ..)
    case h_8 => exact .refl s

theorem performNeedBy_kept {f : State → Work → State} (hf : ∀ s w, SpansKept s (f s w)) (s : State) (x : Work × Bool) :
    SpansKept s (performNeedBy f s x) := by
  unfold performNeedBy
  split
  · exact .refl s
  · split
    · exact readCpl_kept ..
    · dsimp only
      split
      · exact (hf _ _).trans (hf _ _)
      · exact hf _ _

theorem poisoning_kept {f : State → State} (hf : ∀ s, SpansKept s (f s)) (s : State) : SpansKept s (poisoning s f) :=
  (SpansKept.foldl (fun s _ => (SpansKept.foldl (performNeedBy_kept performAccess_kept) _ s).trans
    (performNeedBy_kept performAccess_kept _ _)) _ s).trans (hf _)

theorem performWork_kept (s : State) (w : Work) : SpansKept s (performWork s w) := by
  unfold performWork
  split
  · unfold cplLand
    refine SpansKept.trans ?_ ((SpansKept.of_spans rfl).trans (SpansKept.modSpan _ w.span fun _ => rfl))
    split
    · exact poisoning_kept (fun s => .of_spans (by simp)) s
    · exact .of_spans (by simp)
  · exact performAccess_kept s w

/-- Performing a span's work leaves every span but for what its accesses write. -/
theorem drain_kept (s : State) (u : Nat) (m : LaneSet) : SpansKept s (drain s u m) :=
  SpansKept.foldl (performNeedBy_kept performWork_kept) _ s

/-- The executing span is there once its lanes' earlier accesses have been performed. -/
theorem Issues.drained {s : State} {i : Instr} {c : Ctx} (h : Issues s i c) (m : LaneSet) :
    ∃ x, (drain c.s c.u m).span? c.u = some x ∧ c.sp.Performed x := by
  obtain ⟨-, -, h3, -⟩ := h.spec
  exact (drain_kept c.s c.u m).span? h3

end Sys2Proof.Machine
end

section
/-! Compares, mask registers and carry chains (O13, O52, O6; 05 R85, R91, R101-R105). -/

namespace Sys2Proof.Machine

/-! ## Conditions (05 R91) -/

/-- A condition code by its code, on the order and the equality of exact values. -/
theorem holdsOn_eq (cond : BitVec 3) (x y : Int) : holdsOn cond x y =
    if cond == 0#3 then decide (x = y) else if cond == 1#3 then !decide (x = y) else if cond == 2#3 then decide (x < y)
    else if cond == 3#3 then decide (x < y) || decide (x = y) else if cond == 4#3 then !(decide (x < y) || decide (x = y)) else !decide (x < y) := by
  have le : decide (x ≤ y) = (decide (x < y) || decide (x = y)) := by rw [Bool.eq_iff_iff]; simp [Int.le_iff_lt_or_eq]
  have gt : decide (x > y) = !(decide (x < y) || decide (x = y)) := by rw [← le, ← decide_not]; simp
  have ge : decide (x ≥ y) = !decide (x < y) := by rw [← decide_not]; simp
  have codes : ∀ k : BitVec 3, k = 0#3 ∨ k = 1#3 ∨ k = 2#3 ∨ k = 3#3 ∨ k = 4#3 ∨ k = 5#3 ∨ k = 6#3 ∨ k = 7#3 := by decide
  rcases codes cond with rfl | rfl | rfl | rfl | rfl | rfl | rfl | rfl
  · rfl
  · exact decide_not
  · rfl
  · exact le
  · exact gt
  all_goals exact ge

theorem toInt_beq {w : Nat} (a b : BitVec w) : (a == b) = decide (a.toInt = b.toInt) := by
  rw [Bool.eq_iff_iff]; simp [BitVec.toInt_inj]
theorem toNat_beq {w : Nat} (a b : BitVec w) : (a == b) = decide ((a.toNat : Int) = b.toNat) := by
  rw [Bool.eq_iff_iff]; simp [BitVec.toNat_inj]
theorem ult_eq {w : Nat} (a b : BitVec w) : a.ult b = decide ((a.toNat : Int) < b.toNat) := by
  rw [Bool.eq_iff_iff]; simp [BitVec.ult]

theorem condWord_eq (cond : BitVec 3) (x : Bool) (a b : Word) :
    condWord cond x a b = if x then holdsOn cond a.toInt b.toInt else holdsOn cond a.toNat b.toNat := by
  cases x with
  | true => simp only [if_true, holdsOn_eq, condWord, toInt_beq, BitVec.slt]
  | false => simp only [Bool.false_eq_true, if_false, holdsOn_eq, condWord, toNat_beq, ult_eq]

theorem condDWord_eq (cond : BitVec 3) (x : Bool) (a b : DWord) :
    condDWord cond x a b = if x then holdsOn cond a.toInt b.toInt else holdsOn cond a.toNat b.toNat := by
  cases x with
  | true => simp only [if_true, holdsOn_eq, condDWord, toInt_beq, BitVec.slt]
  | false => simp only [Bool.false_eq_true, if_false, holdsOn_eq, condDWord, toNat_beq, ult_eq]

/-! ## Mask bits -/

theorem maskNum_lt {k : BitVec 4} (h : maskNum k = true) : k.toNat < 12 := Nat.lt_succ_of_le (of_decide_eq_true h)
theorem maskReg_lt {k : Reg} (h : maskReg k = true) : k.toNat < 12 := Nat.lt_succ_of_le (of_decide_eq_true h)
/-- The number of a mask select that must name a mask. -/
theorem maskSelSome_lt {k : BitVec 4} (h : maskSelSome k = true) : k.toNat - 1 < 12 := by
  simp only [maskSelSome, Bool.and_eq_true, decide_eq_true_eq] at h
  omega

theorem maskBits_true (old a : LaneSet) : maskBits old a (fun _ => true) = old ||| a := laneSet_ext fun l hl => by
  cases h : hasLane a l <;> simp [maskBits, h, hl]
theorem maskBits_false (old a : LaneSet) : maskBits old a (fun _ => false) = old &&& ~~~a := laneSet_ext fun l hl => by
  cases h : hasLane a l <;> simp [maskBits, h, hl]

/-- An instruction that writes one bit of its mask for each lane of A, by a condition equal to the one of its meaning. -/
theorem marks_bits {i : Instr} {k : Nat} {f g : Ctx → Nat → Bool} (he : ∀ s, Machine.exec i s = maskInstr i s k f)
    (hk : i.wf = true → k < 12) (hf : ∀ c l, f c l = g c l) : Marks i k (fun c => c.bits k (g c)) := by
  rw [← show f = g from funext fun c => funext (hf c)]
  exact maskInstr_marks he hk

/-- The operations on masks by their codes (05 R105). -/
theorem maskOp_eq (op : BitVec 3) (x y : Bool) : maskOp op x y = match op.toNat with
    | 0 => x && y
    | 1 => x || y
    | 2 => x != y
    | 3 => x && !y
    | 4 => !x
    | 5 => x
    | 6 => false
    | _ => true := by
  revert op x y; decide

/-- A value of the mask taken whole. -/
theorem marks_put {i : Instr} {k : Nat} {m : Ctx → LaneSet}
    (he : ∀ s, Machine.exec i s = instr i false s (fun c => .ok (.done (putMask c.s c.u k (m c))))) (hk : i.wf = true → k < 12) :
    Marks i k m := by
  intro s c h
  obtain ⟨-, -, h3, -⟩ := h.spec
  exact ⟨_, (he s).trans (instr_done h false _ rfl), masked_of h3 (h.shaped.masks ▸ hk h.legal)⟩

/-- A leave clears its lanes in the state that their earlier accesses leave (05 R102). -/
theorem leave_marks {k : BitVec 4} {s : State} {c : Ctx} (h : Issues s (.leave k) c) :
    ∃ x t, (drain c.s c.u c.A).span? c.u = some x ∧ exec (.leave k) s = .next t ∧
      Masked c (drain c.s c.u c.A) x t (k.toNat - 1) (x.mask (k.toNat - 1) &&& ~~~c.A) := by
  obtain ⟨x, hx, hkept⟩ := h.drained c.A
  refine ⟨x, _, hx, instr_done h false _ rfl, ?_⟩
  rw [Ctx.setBits, hx, Option.elim_some, maskOf, maskBits_false]
  exact masked_of hx (by rw [hkept.masks, h.shaped.masks]; exact maskSelSome_lt h.legal)

theorem fmtOf_f64 {ty : BitVec 2} (h : (ty == 3#2) = true) : fmtOf ty = .f64 := by
  rw [beq_iff_eq] at h
  subst h; rfl

/-- Settles O13: each compare is a condition on exact values, lane by lane; the others give their mask's value. -/
theorem maskResults : Obligations.MaskResults := by
  have num : ∀ {k : BitVec 4} {p q : Bool}, (maskNum k && p && q) = true → k.toNat < 12 := fun h => by
    simp only [Bool.and_eq_true] at h
    exact maskNum_lt h.1.1
  have imm : ∀ v : BitVec 10, (v.signExtend 32).toInt = v.toInt := fun v => BitVec.toInt_signExtend_of_le (by decide)
  refine ⟨⟨fun f => marks_bits (fun _ => rfl) num fun _ _ => condWord_eq ..,
    fun f => marks_bits (fun _ => rfl) (fun w => num (Bool.and_eq_true_iff.mp w).1) fun c l => ?_,
    fun f => marks_bits (fun _ => rfl) (fun w => maskNum_lt (Bool.and_eq_true_iff.mp w).1) fun c l => ?_,
    fun f => marks_bits (fun _ => rfl) (fun w => maskNum_lt (Bool.and_eq_true_iff.mp w).1) fun _ _ => condWord_eq ..,
    fun f => marks_bits (fun _ => rfl) (fun w => num (Bool.and_eq_true_iff.mp w).1) fun c l => ?_⟩,
    fun k => ?_, fun op k a b => marks_bits (fun _ => rfl) (fun w => num (Bool.and_eq_true_iff.mp w).1) fun _ _ => maskOp_eq ..,
    fun k a h => marks_put (fun _ => rfl) fun w => ?_, fun k s c h => leave_marks h⟩
  · rw [condDWord_eq]
    cases f.x with
    | true => simp only [if_true]
    | false => simp only [Bool.false_eq_true, if_false]
  · rw [condWord_eq, if_pos rfl, imm]
  · split
    case isTrue h => rw [fmtOf_f64 h]
    case isFalse h => rfl
  · have := maskInstr_marks (i := .join k) (k := k.toNat - 1) (f := fun _ _ => true) (fun _ => rfl) maskSelSome_lt
    simpa only [maskBits_true] using this
  · simp only [Instr.wf, Bool.and_eq_true] at w
    exact maskReg_lt w.1.1

/-! ## mset (05 R103) -/

/-- Settles O52: mset writes its mask's bits, and its code's words are read as mset or not at all. -/
theorem msetSetsMaskBits : Obligations.MsetSetsMaskBits := by
  have raw : ∀ (w : Word) lit, fOp w = 0x13#8 → rawDecode .ctrl w lit = some (.mset (fD w) (fA w) (fHa w)) := fun w lit h => by
    simp [rawDecode, rawCtrl, h]
  refine ⟨fun k a h => marks_bits (fun _ => rfl) maskReg_lt fun _ _ => rfl, fun k a h hk => decode_of_encodeWord hk rfl rfl rfl,
    fun w lit hop hbad => ?_, fun w lit i hop hi => ?_⟩
  · rw [Option.eq_none_iff_forall_ne_some]
    intro i hi
    obtain ⟨hr, hw, he⟩ := decode_eq_some_iff.mp hi
    obtain rfl : i = .mset (fD w) (fA w) (fHa w) := Option.some.inj (hr.symm.trans (raw w lit hop))
    have hk : (fD w).toNat < 12 := maskReg_lt hw
    rcases hbad with hb | hx | hd
    · exact hb (by rw [← he]; exact fB_packA ..)
    · exact Bool.false_ne_true ((fX_packA (y := false) ..).symm.trans ((congrArg fX he).trans hx))
    · omega
  · obtain ⟨hr, -, -⟩ := decode_eq_some_iff.mp hi
    exact Option.some.inj (hr.symm.trans (raw w lit hop))

end Sys2Proof.Machine
end

section
/-! Carry and borrow chains (O6; 05 R85, 01 R23, R25). -/

namespace Sys2Proof.Machine

/-! ## A write before the group goes on -/

/-- With no lane to change, a span is as it was. -/
@[simp] theorem Span.modLanes_none (sp : Span) (f : Nat → Lane → Lane) : sp.modLanes 0#64 f = sp := by
  simp [Span.modLanes]

/-- Where no lane goes on, nothing changes. -/
theorem goOn_none (s : State) (iss : Issue) : goOn s iss 0#64 = s := by
  simp [goOn, State.modSpan]

/-- The registers of a context are the executing span's, whichever lanes its group has. -/
def Ctx.groupless (c : Ctx) : Ctx := { c with iss := { c.iss with gset := 0#64 } }

/-- What a write of registers leaves before the group goes on. -/
structure WroteHere (c : Ctx) (t : State) (ds : List (Nat × (Nat → Word))) : Prop where
  span : ∃ x, t.span? c.u = some x ∧ Written c x ds (needOf c ds) ∧
    { x with regs := c.sp.regs, used := c.sp.used, grant := c.sp.grant, poison := c.sp.poison } = c.sp
  pool : Drew c t (needOf c ds)
  elsewhere : Elsewhere c.s t c.u

/-- With room, a write of distinct registers is made whole: `write_spec` of a group that has no lane to go on. -/
theorem write_here {c : Ctx} {ds : List (Nat × (Nat → Word))} (hs : c.s.span? c.u = some c.sp) (hd : c.s.deck? c.sp.deck = some c.deck)
    (ha : c.A ≠ 0#64) (hr : ∀ d ∈ ds, d.1 < c.sp.regs.length) (hn : (ds.map (·.1)).Nodup) (room : Room c (needOf c ds)) :
    ∃ t, c.write c.s ds = .ok t ∧ WroteHere c t ds := by
  obtain ⟨t, hw, hx⟩ := write_spec (c := c.groupless) hs hd ha hr hn room
  have hgo : goOn t c.groupless.iss c.groupless.G = t := goOn_none t _
  rw [hgo] at hx
  obtain ⟨⟨x, h1, ⟨w1, w2, w3, w4, w5, w6, w7⟩, h3⟩, ⟨p1, p2⟩, he⟩ := hx
  have hadv : c.groupless.advanced = c.sp := by simp [Ctx.advanced, Ctx.onward, Ctx.groupless, Ctx.G]
  exact ⟨t, hw, ⟨x, h1, ⟨w1, w2, w3, w4, w5, w6, w7⟩, h3.trans hadv⟩, ⟨p1, p2⟩, he⟩

/-! ## A register and a mask together (05 R85) -/

section
variable {i : Instr} {s : State} {c : Ctx} {k : Nat} {d : Reg} {v : Nat → Word} {b : Nat → Bool}

/-- A register has been written and the bits of mask k follow, and the group goes on. -/
theorem WroteHere.carried {t : State} (h : WroteHere c t (put d v)) (hk : k < c.sp.masks.length) :
    Carried c (goOn (c.setBits t k b) c.iss c.G) k d v b := by
  obtain ⟨⟨x, hx, ⟨w1, w2, w3, w4, w5, w6, w7⟩, hrest⟩, ⟨p1, p2⟩, he⟩ := h
  have hmask : x.masks = c.sp.masks := by rw [← hrest]
  have hset : c.setBits t k b = putMask t c.u k (maskBits (c.sp.mask k) c.A b) := by
    rw [Ctx.setBits, hx, Option.elim_some, Span.mask, hmask, ← Span.mask]
  rw [hset]
  obtain ⟨⟨y, hy, m1, m2, m3, m4⟩, me⟩ := masked_of (c := c) (m := maskBits (c.sp.mask k) c.A b) hx (hmask ▸ hk)
  have hy' : { y with masks := x.masks, lanes := x.lanes } = x := m3
  refine ⟨⟨y, hy, ?_, ?_, fun j hj => ?_, ?_, ?_⟩, ⟨p1, p2⟩, he.trans me⟩
  · rw [← hy'] at w1 w2 w3 w4 w5 w6 w7
    exact ⟨w1, w2, w3, w4, w5, w6, w7⟩
  · rw [m1, ← hrest]; rfl
  · rw [m2 j hj, ← hrest]; rfl
  · rw [← hy'] at hrest
    rw [← hrest]
  · rw [m4, ← hrest]; rfl

/-- An instruction that writes a register and then the bits of a mask carries; without room it writes neither. -/
theorem carries (h : Issues s i c) (hk : i.wf = true → k < 12)
    (he : exec i s = settleRun c ((c.write c.s (put d v)).bind fun t => .ok (.done (c.setBits t k b)))) :
    (Room c (needOf c (put d v)) → ∃ t, exec i s = .next t ∧ Carried c t k d v b) ∧
    (¬ Room c (needOf c (put d v)) → exec i s = takeTrapFrom c.before c.s c.iss (storageTrap c (wideOf c (put d v)))) := by
  obtain ⟨-, -, h3, h4⟩ := h.spec
  constructor
  · intro room
    have hr : ∀ e ∈ put d v, e.1 < c.sp.regs.length := fun e he => by
      rw [List.mem_singleton.mp he, h.shaped.regs]
      exact d.isLt
    obtain ⟨t, hw, ht⟩ := write_here h3 h4 h.some_lane hr (List.nodup_singleton _) room
    exact ⟨_, he.trans (by rw [hw]; rfl), ht.carried (h.shaped.masks ▸ hk h.legal)⟩
  · intro room
    rw [he, write_trap h3 h4 room]
    exact settle_trap (by simp [storageTrap, TrapInfo.at])

end

/-! ## Values -/

/-- The exact sum with a carry, and its carry. -/
theorem addc_value (a b : Word) (k : Bool) :
    let t : Int := a.toNat + b.toNat + (if k then 1 else 0)
    a + b + (if k then 1#32 else 0#32) = BitVec.ofInt 32 t ∧ carryOut a b k = decide (2 ^ 32 ≤ t) := by
  cases k with
  | true =>
    refine ⟨BitVec.eq_of_toNat_eq ?_, ?_⟩
    · simp only [BitVec.toNat_add, BitVec.toNat_ofInt, if_true, BitVec.toNat_ofNat]; omega
    · simp only [carryOut, if_true, Bool.toNat_true]; exact decide_eq_decide.mpr (by omega)
  | false =>
    refine ⟨BitVec.eq_of_toNat_eq ?_, ?_⟩
    · simp only [BitVec.toNat_add, BitVec.toNat_ofInt, Bool.false_eq_true, if_false, BitVec.toNat_ofNat]; omega
    · simp only [carryOut, Bool.false_eq_true, if_false, Bool.toNat_false]; exact decide_eq_decide.mpr (by omega)

/-- The exact difference with a borrow, and its borrow. -/
theorem subb_value (a b : Word) (k : Bool) :
    let t : Int := a.toNat - b.toNat - (if k then 1 else 0)
    a - b - (if k then 1#32 else 0#32) = BitVec.ofInt 32 t ∧ borrowOut a b k = decide (t < 0) := by
  have ha := a.isLt
  have hb := b.isLt
  cases k with
  | true =>
    refine ⟨BitVec.eq_of_toNat_eq ?_, ?_⟩
    · simp only [BitVec.toNat_sub, BitVec.toNat_ofInt, if_true, BitVec.toNat_ofNat]; omega
    · simp only [borrowOut, if_true, Bool.toNat_true]; exact decide_eq_decide.mpr (by omega)
  | false =>
    refine ⟨BitVec.eq_of_toNat_eq ?_, ?_⟩
    · simp only [BitVec.toNat_sub, BitVec.toNat_ofInt, Bool.false_eq_true, if_false, BitVec.toNat_ofNat]; omega
    · simp only [borrowOut, Bool.false_eq_true, if_false, Bool.toNat_false]; exact decide_eq_decide.mpr (by omega)

/-- Settles O6: both are a write of a register followed by the bits of a mask, by the exact sum or difference. -/
theorem carryChainResults : Obligations.CarryChainResults := by
  refine ⟨fun k f s c h => ?_, fun k f s c h => ?_⟩
  · intro t ds
    refine carries h (fun w => maskNum_lt (Bool.and_eq_true_iff.mp w).1) ((instr_runs h false _).trans ?_)
    simp only [(addc_value _ _ _).1, (addc_value _ _ _).2]
    rfl
  · intro t ds
    refine carries h (fun w => maskNum_lt (Bool.and_eq_true_iff.mp w).1) ((instr_runs h false _).trans ?_)
    simp only [(subb_value _ _ _).1, (subb_value _ _ _).2]
    rfl

end Sys2Proof.Machine
end

section
/-! Reads of masks, shapes, the clock, the matrix unit's report and system registers (O7; 05 R92, R95, R104, 08 R203, R206, R211). -/

namespace Sys2Proof.Machine

theorem laneCount_eq (m : LaneSet) : laneCount m = (List.range 64).countP (hasLane m) := List.countP_eq_length_filter.symm

/-- The lowest set bit of a mask, or all ones where it has none (05 R104). -/
theorem mfind_value (m : LaneSet) : (if m == 0#64 then 0xFFFFFFFF#32 else BitVec.ofNat 32 (lowestLane m)) =
    match (List.range 64).find? (hasLane m) with
    | some l => BitVec.ofNat 32 l
    | none => 0xFFFFFFFF#32 := by
  cases h : (List.range 64).find? (hasLane m) with
  | none =>
    obtain rfl : m = 0#64 := laneSet_ext fun l hl => by simpa using List.find?_range_eq_none.mp h l hl
    rfl
  | some l =>
    obtain ⟨hl, -, hlow⟩ := List.find?_range_eq_some.mp h
    have hm : (m == 0#64) = false := by
      rw [beq_eq_false_iff_ne]
      rintro rfl
      exact Bool.false_ne_true ((hasLane_zero l).symm.trans hl)
    rw [hm, lowestLane_eq hl (by simpa using hlow)]
    rfl

/-- What shq writes of each shape (05 R95). -/
theorem shq_value (v : VReg) : v.shq = match v with
    | .uniform _ => 0#32
    | .affine _ e => BitVec.ofNat 32 (1 + 256 * e.toNat)
    | .vector _ _ => 2#32 := by
  cases v with
  | uniform b => rfl
  | affine b e =>
    have : ∀ e : BitVec 3, 1#32 ||| (e.zeroExtend 32 <<< 8) = BitVec.ofNat 32 (1 + 256 * e.toNat) := by decide
    exact this e
  | vector slot m => rfl

/-- The system registers, one by one (08 R206). -/
theorem csr_values (c : Ctx) (l : Nat) :
    c.csr 0x000 l = BitVec.ofNat 64 l ∧ c.csr 0x001 l = BitVec.ofNat 64 c.sp.idx ∧ c.csr 0x002 l = BitVec.ofNat 64 c.deck.slot ∧
    c.csr 0x003 l = BitVec.ofNat 64 c.deck.member ∧ c.csr 0x004 l = BitVec.ofNat 64 c.deck.pier ∧
    c.csr 0x005 l = BitVec.ofNat 64 (segOf c.deck.pier + if gradeOf c.deck.pier = .v then 256 else 0) ∧
    c.csr 0x006 l = BitVec.ofNat 64 c.cx.num ∧ c.csr 0x008 l = (c.sp.lane l).sp.zeroExtend 64 ∧
    c.csr 0x009 l = (c.sp.lane l).splim.zeroExtend 64 ∧ c.csr 0x00A l = (c.sp.lane l).rsn.zeroExtend 64 ∧
    (∀ t, c.sp.trap = some t → c.csr 0x010 l = BitVec.ofNat 64 t.cause ∧ c.csr 0x011 l = t.faddr) ∧
    (c.sp.trap = none → c.csr 0x010 l = 0#64 ∧ c.csr 0x011 l = 0#64) ∧
    c.csr 0x018 l = BitVec.ofNat 64 (c.sp.grant % 65536 + c.sp.spare * 65536) ∧ c.csr 0x019 l = BitVec.ofNat 64 c.sp.ceil ∧
    c.csr 0x020 l = BitVec.ofNat 64 ((c.s.seg (segOf c.deck.pier)).level + c.sp.request * 256) ∧
    (∀ n < 8, c.csr (0x030 + n) l = (c.key n).word) := by
  refine ⟨rfl, rfl, rfl, rfl, rfl, rfl, rfl, rfl, rfl, rfl, fun t ht => ?_, fun ht => ?_, rfl, rfl, rfl, fun n hn => ?_⟩
  · simp [Ctx.csr, ht]
  · simp [Ctx.csr, ht]
  · interval_cases n <;> rfl

/-- A csrr of a 64-bit register names a pair. -/
theorem even_of_csrWide {d : Reg} {num : BitVec 10} (h : (Instr.csrr d num).wf = true) (hw : csrWide num = true) : evenReg d = true := by
  simp only [Instr.wf, Bool.and_eq_true, hw, Bool.not_true, Bool.false_or] at h
  exact h.2

/-- Settles O7: each read is a write of one value, or of each lane's, to a register or a pair. -/
theorem machineStateReads : Obligations.MachineStateReads := by
  refine ⟨⟨fun _ _ => computes_one fun _ => rfl, fun _ _ => computes_put (fun _ => rfl) fun _ _ _ => ?_,
    fun _ _ => computes_put (fun _ => rfl) fun _ _ _ => mfind_value _, fun _ _ => computes_pair (fun w => (Bool.and_eq_true_iff.mp w).1) fun _ => rfl,
    fun _ _ => computes_put (fun _ => rfl) fun _ _ _ => shq_value _, fun _ => computes_pair (fun w => w) fun _ => rfl,
    fun _ _ => computes_pair (fun w => (Bool.and_eq_true_iff.mp w).1) fun _ => rfl⟩,
    fun _ _ => computes_sized even_of_csrWide fun _ => rfl, csr_values⟩
  exact congrArg (BitVec.ofNat 32) (laneCount_eq _)

end Sys2Proof.Machine
end

section
/-! Instructions that change no value (O17; 05 R96, R113, 07 R151, R161, R162). -/

namespace Sys2Proof.Machine

/-! ## States that differ in one span -/

theorem Becomes.trans {s t w : State} {u : Nat} {x y : Span} (h : Becomes s t u x) (k : Becomes t w u y) : Becomes s w u y :=
  ⟨k.span, h.elsewhere.trans k.elsewhere⟩

theorem Becomes.refl {s : State} {u : Nat} {x : Span} (h : s.span? u = some x) : Becomes s s u x := ⟨h, Elsewhere.refl s u⟩

/-- A change of the span that keeps its name. -/
theorem Becomes.modSpan {s : State} {u : Nat} {x : Span} (h : s.span? u = some x) {f : Span → Span} (hf : ∀ y, (f y).uid = y.uid) :
    Becomes s (s.modSpan u f) u (f x) :=
  ⟨State.span?_modSpan_same f hf h, Elsewhere.modSpan s u f hf⟩

/-- The group goes on. -/
theorem Becomes.goOn {s : State} {c : Ctx} {x : Span} (h : s.span? c.u = some x) : Becomes s (goOn s c.iss c.G) c.u (c.onward x) :=
  ⟨(goOn_spec h c.G).1, (goOn_spec h c.G).2⟩

/-- An instruction whose meaning leaves the state as it is: its group goes on. -/
theorem only_goes_on {i : Instr} {s : State} {c : Ctx} (h : Issues s i c) (he : exec i s = settleRun c (.ok (.done c.s))) :
    ∃ t, exec i s = .next t ∧ Becomes c.s t c.u c.advanced := by
  obtain ⟨-, -, h3, -⟩ := h.spec
  exact ⟨_, he, Becomes.goOn h3⟩

/-! ## Asserted shapes (05 R96) -/

/-- The assertion of shassert that a register's shape meets. -/
theorem shapeHolds_iff {b : Reg} (hb : b.toNat ≤ 3) (v : VReg) : shapeHolds b.toNat v = true ↔ match v with
    | .uniform _ => b = 0#7 ∨ b = 3#7
    | .affine _ _ => b = 1#7 ∨ b = 3#7
    | .vector _ _ => b = 2#7 := by
  have code : ∀ b : BitVec 7, b.toNat ≤ 3 → (b = 0#7 ∨ b = 1#7 ∨ b = 2#7 ∨ b = 3#7) := by decide
  cases v <;> rcases code b hb with rfl | rfl | rfl | rfl <;> simp [shapeHolds, VReg.code]

section
variable {a b : Reg} {s : State} {c : Ctx}

theorem shassert_holds (h : Issues s (.shassert a b) c) (hv : shapeHolds b.toNat (c.sp.vreg a.toNat) = true) :
    ∃ t, exec (.shassert a b) s = .next t ∧ Becomes c.s t c.u c.advanced :=
  only_goes_on h ((instr_runs h false _).trans (congrArg (settleRun c) (if_pos hv)))

theorem shassert_fails (h : Issues s (.shassert a b) c) (hv : shapeHolds b.toNat (c.sp.vreg a.toNat) = false) :
    exec (.shassert a b) s = takeTrapFrom c.before c.s c.iss
      (TrapInfo.at 0x000B (BitVec.ofNat 64 (a.toNat + (c.sp.vreg a.toNat).code * 2 ^ 8 + b.toNat * 2 ^ 12)) c.A) :=
  instr_trap h false _ (if_neg (by simp [hv])) (by simp [TrapInfo.at])

end

/-- Settles O17: each goes on from the state that its meaning leaves, and shassert by whether the shape holds. -/
theorem instructionsThatOnlyGoOn : Obligations.InstructionsThatOnlyGoOn := by
  refine ⟨fun s c h => only_goes_on h (instr_runs h false _), fun a off s c h => only_goes_on h (instr_runs h false _),
    fun a op sp s c h => only_goes_on h (instr_runs h false _), fun s c h => ?_, fun scope s c h => ?_, fun a b s c h hv => ?_,
    fun a b s c h code hv => ?_⟩
  · obtain ⟨-, -, h3, -⟩ := h.spec
    have hm := Becomes.modSpan (f := fun x => x.modLanes c.G (fun _ l => { l with yieldTill := some (c.s.steps + 16) })) h3 fun _ => rfl
    exact ⟨_, instr_done h false _ rfl, hm.trans (Becomes.goOn hm.span)⟩
  · obtain ⟨x, hx, -⟩ := h.drained c.A
    have hm := Becomes.modSpan (f := fun x => x.modLanes c.A (fun _ l => l.fenced scope.toNat)) hx fun _ => rfl
    refine ⟨x, _, hx, instr_done h false _ rfl, ?_⟩
    have hf : ∀ l : Lane, l.fenced scope.toNat = { l with rel := if 2 ≤ scope.toNat then scope.toNat else l.rel } := fun l => by
      unfold Lane.fenced
      split <;> rfl
    simp only [← hf]
    exact hm.trans (Becomes.goOn hm.span)
  · exact shassert_holds h ((shapeHolds_iff (of_decide_eq_true h.legal) _).mpr hv)
  · have hc : (c.sp.vreg a.toNat).code = code := by
      cases hr : c.sp.vreg a.toNat <;> rw [hr] at hv <;> exact hv.1.symm
    have hf : shapeHolds b.toNat (c.sp.vreg a.toNat) = false := by
      rw [Bool.eq_false_iff, Ne, shapeHolds_iff (of_decide_eq_true h.legal)]
      cases hr : c.sp.vreg a.toNat <;> rw [hr] at hv
      · exact fun e => e.elim hv.2.1 hv.2.2
      · exact fun e => e.elim hv.2.1 hv.2.2
      · exact hv.2
    rw [shassert_fails h hf, hc]

end Sys2Proof.Machine
end

section
/-! Membership sets, and waiting lanes that are served (O41; 05 R99, R102, R113, 07 R167, R172, 01 R27). -/

namespace Sys2Proof.Machine

/-! ## Open sets (05 R102) -/

/-- A lane after a change of every lane. -/
theorem Span.lane_map (sp : Span) (f : Lane → Lane) {l : Nat} (hl : l < sp.lanes.length) :
    Span.lane { sp with lanes := sp.lanes.map f } l = f (sp.lane l) := by
  simp [Span.lane, hl]

/-- A set is open where each of its lanes waits in it. -/
theorem setIsOpen_iff (sp : Span) (p k : Nat) : setIsOpen sp p k = true ↔ ∀ i ∈ lanesOf (sp.mask k), inSet sp p k i = true :=
  List.all_eq_true

/-- What a test of every membership set does to a lane's position: out of an open set, and else nothing. -/
theorem settleSets_pos (z : Span) {l : Nat} (hl : l < z.lanes.length) :
    ((settleSets z).lane l).pos = match (z.lane l).pos.st with
      | .waiting (.setOpen j) => if setIsOpen z (z.lane l).pos.pc j then (z.lane l).pos.step 1 else (z.lane l).pos
      | _ => (z.lane l).pos := by
  rw [settleSets, Span.leaveIf, Span.lane_map z _ hl]
  simp only [Lane.mapPos, Pos.leaveIf]
  cases (z.lane l).pos.st with
  | waiting w => cases w <;> rfl
  | standing => rfl
  | exited => rfl

/-- The lanes of every open set go on, and nothing else changes (05 R101, R102). -/
theorem settleSets_spec (z : Span) : { settleSets z with lanes := z.lanes } = z ∧ (settleSets z).lanes.length = z.lanes.length ∧
    ∀ l < z.lanes.length,
      (∀ j, (z.lane l).pos.st = .waiting (.setOpen j) →
        ((∀ i ∈ lanesOf (z.mask j), inSet z (z.lane l).pos.pc j i = true) → ((settleSets z).lane l).pos = (z.lane l).pos.step 1) ∧
        ((∃ i ∈ lanesOf (z.mask j), inSet z (z.lane l).pos.pc j i = false) → ((settleSets z).lane l).pos = (z.lane l).pos)) ∧
      ((∀ j, (z.lane l).pos.st ≠ .waiting (.setOpen j)) → ((settleSets z).lane l).pos = (z.lane l).pos) := by
  refine ⟨rfl, List.length_map _, fun l hl => ⟨fun j hj => ⟨fun hall => ?_, fun ⟨i, hi, hin⟩ => ?_⟩, fun hno => ?_⟩⟩
  · rw [settleSets_pos z hl]
    simp only [hj, (setIsOpen_iff z _ j).mpr hall, if_true]
  · have hshut : setIsOpen z (z.lane l).pos.pc j = false := by
      rw [Bool.eq_false_iff, Ne, setIsOpen_iff]
      exact fun h => Bool.false_ne_true (hin.symm.trans (h i hi))
    rw [settleSets_pos z hl]
    simp only [hj, hshut, Bool.false_eq_true, if_false]
  · rw [settleSets_pos z hl]
    split
    case h_1 j hj => exact absurd hj (hno j)
    case h_2 => rfl

/-! ## Rings and grows -/

theorem ringReady_shut {s : State} {deck : Nat} (h : imageShut s deck = true) (ring : Nat) : ringReady s deck ring = none := by
  simp [ringReady, h]

/-- The grow at the head of a pier's order is served, traps on the ceiling, or waits for slots (01 R27). -/
theorem growServed_head {s : State} {pier u req n : Nat} {rest : List (Nat × Nat)} {sp : Span} {e : Issue}
    (hq : (s.pier pier).growQ = (u, req) :: rest) (hs : s.span? u = some sp) (hw : growWait sp req = some (e, n)) :
    exec (.growServed pier) s =
      let drop := s.modPier pier (fun p => { p with growQ := rest })
      if (s.pier pier).pool < n then .next s
      else if sp.ceil < sp.grant + n then takeTrap (drop.modSpan u (fun x => releaseGrows x [e])) e (growTrap n e.aset)
      else .next ((grantSlots drop u pier n).modSpan u (Span.leaveIf (fun _ v => v == .grow n req))) := by
  show execGrowServed pier s = _
  simp only [execGrowServed, hq, hs, hw]

/-- A yield's hold ends for the lanes that it keeps back till the same step (05 R113). -/
theorem yieldExpiry_becomes {s : State} {span lane : Nat} {sp : Span} (hs : s.span? span = some sp) :
    ∃ t x, exec (.yieldExpiry span lane) s = .next t ∧ Becomes s t span x ∧
      (∀ l < sp.lanes.length, (x.lane l).yieldTill =
        if (sp.lane l).yieldTill = (sp.lane lane).yieldTill then none else (sp.lane l).yieldTill) ∧
      (∀ l < sp.lanes.length, { x.lane l with yieldTill := (sp.lane l).yieldTill } = sp.lane l) := by
  have hexec : exec (.yieldExpiry span lane) s = .next (s.modSpan span fun x =>
      { x with lanes := x.lanes.map (fun l => if l.yieldTill == (sp.lane lane).yieldTill then { l with yieldTill := none } else l) }) := by
    show execYieldExpiry span lane s = _
    simp only [execYieldExpiry, hs]
  refine ⟨_, _, hexec, Becomes.modSpan hs fun _ => rfl, fun l hl => ?_, fun l hl => ?_⟩
  · rw [Span.lane_map sp _ hl]
    by_cases h : (sp.lane l).yieldTill = (sp.lane lane).yieldTill <;> simp [h]
  · rw [Span.lane_map sp _ hl]
    split <;> rfl

/-- Settles O41: each row looks up what waits and serves it; a test of membership sets lets the open ones go. -/
theorem waitingLanesAreServed : Obligations.WaitingLanesAreServed := by
  refine ⟨fun s d n hd hn => ?_, fun s g d ds n hd h1 h2 => ?_, fun s truss w rest hw => ?_, fun s u k sp hs hk => ?_,
    fun s deck ring w slot off hr => ?_, fun s deck ring hshut => ?_, fun s pier hq => ?_, fun s pier u req rest sp e n hq hs hw => ?_,
    fun s span lane sp hs => yieldExpiry_becomes hs⟩
  · show execBarrierPhaseComplete d.uid n s = _
    simp only [execBarrierPhaseComplete, if_pos hn, hd]
  · show execBarrierPhaseComplete g n s = _
    simp only [execBarrierPhaseComplete, if_neg (Nat.not_lt.mpr h1), if_pos h2, hd, List.head?_cons]
  · show execBarrierReleaseWave truss s = _
    unfold execBarrierReleaseWave
    split
    case h_1 h => cases hw.symm.trans h
    case h_2 h => cases hw.symm.trans h; rfl
  · obtain ⟨hrest, hlen, hpos⟩ := settleSets_spec sp
    refine ⟨s.modSpan u settleSets, settleSets sp, congrArg Host.Outcome.next (if_pos hk), Becomes.modSpan hs fun _ => rfl, hrest, hlen,
      fun l hl => (hpos l hl).1, fun l hl => (hpos l hl).2⟩
  · show Host.Outcome.next (ringTurn s deck ring) = _
    simp only [ringTurn, hr]
  · show Host.Outcome.next (ringTurn s deck ring) = _
    simp only [ringTurn, ringReady_shut hshut]
  · show execGrowServed pier s = _
    simp only [execGrowServed, hq]
  · have hserved := growServed_head hq hs hw
    refine ⟨fun hn hc => ?_, fun hn hc => ?_, fun hn => hserved.trans (if_pos hn)⟩
    · exact hserved.trans ((if_neg (Nat.not_lt.mpr hn)).trans (if_neg (Nat.not_lt.mpr hc)))
    · exact hserved.trans ((if_neg (Nat.not_lt.mpr hn)).trans (if_pos hc))

end Sys2Proof.Machine
end

section
/-! Membership sets that lanes wait in, and serial sections (O16; 05 R102, R111). -/

namespace Sys2Proof.Machine

/-! ## What acts for the span whatever its executing set (01 R29) -/

section
variable {s : State} {i : Instr} {c : Ctx}

theorem PassesBy.span (h : PassesBy s i c) : c.s.span? c.u = some c.sp := (startCtx_spec h.picked).2.2.2.1
theorem Issues.span (h : Issues s i c) : c.s.span? c.u = some c.sp := (startCtx_spec h.picked).2.2.2.1

/-- With no lane executing no source is read, so none is poisoned. -/
theorem poisonLanes_none (c : Ctx) (i : Instr) (ha : c.A = 0#64) : poisonLanes c i = 0#64 := by
  unfold poisonLanes
  split
  · rfl
  · split
    · rfl
    · exact laneSet_ext fun l _ => by simp [ha]

/-- With no lane executing, an instruction that acts for the span runs its meaning all the same. -/
theorem PassesBy.runs (h : PassesBy s i c) (body : Ctx → Run Eff) : instr i true s body = settleRun c (body c) := by
  simp [instr, h.picked, grade_passes h.grade, poisonLanes_none c i h.no_lane]

theorem runs_always (h : Issues s i c ∨ PassesBy s i c) (body : Ctx → Run Eff) : instr i true s body = settleRun c (body c) :=
  h.elim (fun k => instr_runs k true body) (fun k => k.runs body)

theorem span_always (h : Issues s i c ∨ PassesBy s i c) : c.s.span? c.u = some c.sp := h.elim Issues.span PassesBy.span

end

/-! ## Lanes that wait -/

/-- Lanes of m wait at the instruction, the rest of the group goes on. -/
theorem holds_split {b : State} {c : Ctx} {x : Span} (h : b.span? c.u = some x) (m : LaneSet) (w : Nat → Wait) :
    Becomes b (hold (goOn b c.iss (c.G &&& ~~~m)) c.iss m w) c.u (c.split x m fun l q => c.waiting q (w l)) :=
  ⟨(hold_goOn h c.G m w).1, (hold_goOn h c.G m w).2⟩

/-- The whole group waits at the instruction. -/
theorem holds_group {b : State} {c : Ctx} {x : Span} (h : b.span? c.u = some x) (w : Nat → Wait) :
    Becomes b (hold b c.iss c.G w) c.u (c.split x c.G fun l q => c.waiting q (w l)) := by
  have hk := holds_split h c.G w
  rwa [show c.G &&& ~~~c.G = 0#64 from BitVec.and_not_self _, goOn_none] at hk

/-- An instruction that is illegal here raises ILLEGAL_INSTRUCTION of the lanes it names. -/
theorem settle_illegal (c : Ctx) (m : LaneSet) :
    settleRun c (c.illegal m) = takeTrapFrom c.before c.s c.iss (TrapInfo.at 0x0001 0#64 m) :=
  settle_trap (by simp [TrapInfo.at])

/-- No section is open: no lane is the run lane. -/
theorem Ctx.byRunLane_none {c : Ctx} (hz : c.sp.serial = none) : c.byRunLane = false := by simp [Ctx.byRunLane, hz]

theorem Ctx.byRunLane_some {c : Ctx} {z : Serial} (hz : c.sp.serial = some z) : c.byRunLane = hasLane c.G z.run := by
  simp [Ctx.byRunLane, hz]

/-! ## Opening a section (05 R111) -/

/-- The lanes of the group beside the lowest executing one wait for a section to close. -/
def Ctx.heldBack (c : Ctx) (x : Span) : Span :=
  x.modLanes (c.G &&& ~~~(oneLane c.low) &&& x.live) (fun _ l => { l with pos := { l.pos with st := .waiting .serial } })

/-- The span of a section that has been opened: its lowest lane goes on, and the others of the group wait past it. -/
def Ctx.opened (c : Ctx) (z : Serial) : Span := c.heldBack (c.onward { c.sp with serial := some z })

/-- Lanes that go on stay live. -/
theorem Ctx.onward_live (c : Ctx) (x : Span) : (c.onward x).live = x.live :=
  Span.live_modLanes _ _ _ (fun l h => by simp at h; exact h.2) (fun _ _ _ h => by unfold Issue.after; split <;> simp [h])

theorem Ctx.opened_lane (c : Ctx) (z : Serial) {l : Nat} (hl : l < c.sp.lanes.length) :
    (c.opened z).lane l = if hasLane (c.G &&& c.sp.live) l = true
      then { c.sp.lane l with pos := if l = c.low then c.iss.after (c.sp.lane l).pos
        else { c.iss.after (c.sp.lane l).pos with st := .waiting .serial } }
      else c.sp.lane l := by
  have hlen : l < (c.onward { c.sp with serial := some z }).lanes.length := by
    simpa [Ctx.onward, Span.modLanes] using hl
  have hon : (c.onward { c.sp with serial := some z }).lane l = if hasLane (c.G &&& c.sp.live) l = true
      then { c.sp.lane l with pos := c.iss.after (c.sp.lane l).pos } else c.sp.lane l :=
    Span.lane_modLanes { c.sp with serial := some z } _ _ l hl
  have hlive : (c.onward { c.sp with serial := some z }).live = c.sp.live := c.onward_live _
  rw [Ctx.opened, Ctx.heldBack, Span.lane_modLanes _ _ _ l hlen, hlive, hon]
  by_cases hg : hasLane (c.G &&& c.sp.live) l = true
  · have h64 := hasLane_lt hg
    by_cases hlow : l = c.low
    · simp [hlow]
    · simp only [hasLane_and, Bool.and_eq_true] at hg
      simp [hg, hlow, h64]
  · have hout : ¬ hasLane (c.G &&& ~~~(oneLane c.low) &&& c.sp.live) l = true := by
      simp only [hasLane_and, Bool.and_eq_true] at hg ⊢
      exact fun h => hg ⟨h.1.1, h.2⟩
    rw [if_neg hout, if_neg hg, if_neg hg]

/-- A section that opens: the run lane goes on alone. -/
theorem ser_opens {off : BitVec 20} {s : State} {c : Ctx} (h : Issues s (.ser off) c) (hz : c.sp.serial = none) :
    ∃ t, exec (.ser off) s = .next t ∧ Becomes c.s t c.u (c.opened ⟨c.sp.trap.isSome, c.A, c.low, 0#64, c.iss.pc + 4 * off.toNat + 4,
      some ⟨c.iss.cls, c.iss.next⟩, false, c.G⟩) := by
  have ha : (c.A == 0#64) = false := by simpa using h.some_lane
  have hopen := Becomes.modSpan (f := fun x => { x with serial := some ⟨c.sp.trap.isSome, c.A, c.low, 0#64, c.iss.pc + 4 * off.toNat + 4,
    some ⟨c.iss.cls, c.iss.next⟩, false, c.G⟩ }) h.span fun _ => rfl
  have hon := Becomes.goOn hopen.span
  refine ⟨_, instr_moved h true _ ?_, hopen.trans (hon.trans (Becomes.modSpan (f := c.heldBack) hon.span fun _ => rfl))⟩
  simp only [c.byRunLane_none hz, hz, ha, Option.isSome_none, Bool.false_eq_true, if_false]
  rfl

/-- The live lanes of the group stand at the word at e, in clause k. -/
def Ctx.skipTo (c : Ctx) (e : Nat) (k : Option Clause) (x : Span) : Span :=
  x.modLanes (c.G &&& x.live) (fun _ l => { l with pos := { l.pos with pc := e, clause := k, st := .standing } })

/-- With no lane executing, the lanes go to the word after the endser, once its clause is known. -/
theorem ser_skips {off : BitVec 20} {s : State} {c : Ctx} (h : PassesBy s (.ser off) c) (hz : c.sp.serial = none) :
    exec (.ser off) s = settleRun c ((c.walkTo (c.iss.pc + 4 * off.toNat + 4) ⟨c.iss.cls, c.iss.next⟩).bind fun k =>
      .ok (.moved (c.s.modSpan c.u (c.skipTo (c.iss.pc + 4 * off.toNat + 4) k)))) := by
  refine (h.runs _).trans (congrArg (settleRun c) ?_)
  simp only [c.byRunLane_none hz, hz, h.no_lane, Option.isSome_none, Bool.false_eq_true, if_false, beq_self_eq_true, if_true]
  rfl

/-! ## The clause in which the lanes go on -/

theorem walkTo_ok {c : Ctx} {e : Nat} {q : Clause} {k : Option Clause}
    (h : clauseAt c.s c.cx c.launch.uid c.G e ((e - q.next) / 4 + 2) q = .ok k) : c.walkTo e q = .ok k := by
  rw [Ctx.walkTo, h]

theorem walkTo_asks {c : Ctx} {e : Nat} {q : Clause} {p : Nat}
    (h : clauseAt c.s c.cx c.launch.uid c.G e ((e - q.next) / 4 + 2) q = .error p) : c.walkTo e q = .error (.retry c.before (some p)) := by
  rw [Ctx.walkTo, h]

/-- A free clause holds the word that it is asked for. -/
theorem freeClause_holds {s : State} {e : Nat} {k : Clause} (h : freeClause s e = some k) :
    e < k.next ∧ k.next < e + 60 ∧ k.next % 4 = e % 4 := by
  simp only [freeClause] at h
  split at h
  · cases h
  · cases h
    dsimp only
    omega

section
variable {s : State} {cx : Context} {u : Nat} {g : LaneSet} {e n : Nat} {q : Clause}

theorem clauseAt_in (h : e < q.next) : clauseAt s cx u g e (n + 1) q = .ok (some q) := by
  rw [clauseAt, if_pos h]

theorem clauseAt_header (h : e = q.next) : clauseAt s cx u g e (n + 1) q = .ok none := by
  rw [clauseAt, if_neg (by omega), if_pos h]

/-- Past a clause the walk goes on from the next header. -/
theorem clauseAt_walks {w : Word} {d : Header} (h : q.next < e) (hf : fetchWord s cx u q.next g = .word w) (hd : decodeHeader w = some d) :
    clauseAt s cx u g e (n + 1) q = clauseAt s cx u g e n ⟨d.cls, q.next + 4 * (d.count + 1)⟩ := by
  simp only [clauseAt, if_neg (Nat.not_lt.mpr h.le), if_neg h.ne', hf, hd]

/-- A word on the way that is no header loses it. -/
theorem clauseAt_noHeader {w : Word} (h : q.next < e) (hf : fetchWord s cx u q.next g = .word w) (hd : decodeHeader w = none) :
    clauseAt s cx u g e (n + 1) q = .ok (freeClause s e) := by
  simp only [clauseAt, if_neg (Nat.not_lt.mpr h.le), if_neg h.ne', hf, hd]

/-- So does one that cannot be fetched. -/
theorem clauseAt_noWord (h : q.next < e) (hw : ∀ w, fetchWord s cx u q.next g ≠ .word w) (hp : ∀ p, fetchWord s cx u q.next g ≠ .ask p) :
    clauseAt s cx u g e (n + 1) q = .ok (freeClause s e) := by
  rw [clauseAt, if_neg (Nat.not_lt.mpr h.le), if_neg h.ne']
  split
  · exact absurd ‹_› (hw _)
  · exact absurd ‹_› (hp _)
  · rfl

/-- One that the host has still to be asked for is asked for. -/
theorem clauseAt_asks {p : Nat} (h : q.next < e) (hf : fetchWord s cx u q.next g = .ask p) : clauseAt s cx u g e (n + 1) q = .error p := by
  simp only [clauseAt, if_neg (Nat.not_lt.mpr h.le), if_neg h.ne', hf]

end

/-! ## The end of a pass (05 R111) -/

/-- The run lane's endser ends its pass, once the clause in which the lanes go on is known. -/
theorem endser_ends {s : State} {c : Ctx} {z : Serial} (h : Issues s .endser c ∨ PassesBy s .endser c) (hz : c.sp.serial = some z)
    (hrun : hasLane c.G z.run = true) (ha : c.A &&& ~~~(oneLane z.run) = 0#64) :
    exec .endser s = settleRun c ((c.settleResume (hold (goOn (resumeIn (drain c.s c.u (oneLane z.run)) c.iss) c.iss
      (c.G &&& ~~~(oneLane z.run))) c.iss (oneLane z.run) (fun _ => .serial))).bind fun t => .ok (.moved (endPass t c.u))) := by
  refine (runs_always h _).trans (congrArg (settleRun c) ?_)
  simp only [hz, ha, hrun, bne_self_eq_false, Bool.false_eq_true, if_false, if_true]
  rfl

section
variable {c : Ctx} {s : State} {sp : Span}

theorem settleResume_closed (hs : s.span? c.u = some sp) (hz : sp.serial = none) : c.settleResume s = .ok s := by
  simp only [Ctx.settleResume, hs, hz]

variable {z : Serial}

theorem settleResume_known (hs : s.span? c.u = some sp) (hz : sp.serial = some z)
    (h : z.known = true ∨ z.group &&& sp.live = 0#64 ∨ z.set &&& ~~~(z.done ||| oneLane z.run) &&& sp.live ≠ 0#64) :
    c.settleResume s = .ok s := by
  simp only [Ctx.settleResume, hs, hz]
  exact if_pos (by simpa [or_assoc] using h)

theorem settleResume_walks (hs : s.span? c.u = some sp) (hz : sp.serial = some z) (hk : z.known = false)
    (hg : z.group &&& sp.live ≠ 0#64) (hl : z.set &&& ~~~(z.done ||| oneLane z.run) &&& sp.live = 0#64) {q : Clause} (hq : z.clause = some q) :
    c.settleResume s = (c.walkTo z.resume q).bind fun k =>
      .ok (s.modSpan c.u (fun x => { x with serial := some { z with clause := k, known := true } })) := by
  simp only [Ctx.settleResume, hs, hz]
  rw [if_neg (by simp [hk, hg, hl]), hq]
  rfl

end

section
variable {s : State} {u : Nat} {sp : Span} {z : Serial}

/-- The run lane passes on while lanes of the section are left. -/
theorem endPass_next (hs : s.span? u = some sp) (hz : sp.serial = some z) (hl : z.set &&& ~~~(z.done ||| oneLane z.run) &&& sp.live ≠ 0#64) :
    let run := lowestLane (z.set &&& ~~~(z.done ||| oneLane z.run) &&& sp.live)
    Becomes s (endPass s u) u ({ sp with serial := some { z with done := z.done ||| oneLane z.run, run := run } }.modLane run
      (Lane.inSection z.handler (fun q => { q with st := .standing }))) := by
  have he : (z.set &&& ~~~(z.done ||| oneLane z.run) &&& sp.live != 0#64) = true := by simpa using hl
  simp only [endPass, hs, hz, he, if_true]
  exact Becomes.modSpan hs fun _ => rfl

/-- The section closes when none is left: every lane of the group stands at the resume address. -/
theorem endPass_closes (hs : s.span? u = some sp) (hz : sp.serial = some z)
    (hl : z.set &&& ~~~(z.done ||| oneLane z.run) &&& sp.live = 0#64) :
    Becomes s (endPass s u) u ({ sp with serial := none }.modLanes (z.group &&& sp.live) (fun i => Lane.inSection z.handler (fun q =>
      { pc := z.resume, clause := z.clause, st := .standing, p := if hasLane z.set i then q.p else false }))) := by
  simp only [endPass, hs, hz, hl, bne_self_eq_false, Bool.false_eq_true, if_false]
  exact Becomes.modSpan hs fun _ => rfl

/-- A lane after a change of one lane. -/
theorem Span.lane_modLane (sp : Span) (k : Nat) (f : Lane → Lane) {l : Nat} (hl : l < sp.lanes.length) :
    (sp.modLane k f).lane l = if l = k then f (sp.lane l) else sp.lane l := by
  simp only [Span.lane, Span.modLane, List.getElem?_modify, List.getElem?_eq_getElem hl, eq_comm, Option.map_eq_map, Option.map_some,
    Option.getD_some]

end

/-- Settles O16: waitm holds its lanes and tests the sets; ser opens, skips or waits; endser passes on or closes. -/
theorem waitSetsAndSerialSections : Obligations.WaitSetsAndSerialSections := by
  refine ⟨⟨fun k s c h hrun => ?_, fun k s c h hrun => ?_⟩, ⟨fun off s c h hz => ?_, fun off s c h hz => ?_, fun c e q => ?_,
    fun s cx u g e n q => ?_, fun s e k h => freeClause_holds h, fun off s c z h hz => ?_, fun s c h hz => ?_, fun s c h hz => ?_,
    fun s c z h hz hrun ha => ?_, fun c s sp hs => ?_, fun s iss sp z hs hz => ?_, fun s u sp z hs hz hl => ?_, fun s u sp z hs hz hl => ?_⟩⟩
  · obtain ⟨x, hx, -⟩ := h.drained c.A
    have hw := holds_split hx c.A fun _ => .setOpen (k.toNat - 1)
    exact ⟨x, _, hx, instr_moved h false _ (if_neg (by simp [hrun])), hw.trans (Becomes.modSpan hw.span fun _ => rfl)⟩
  · exact (instr_runs h false _).trans ((congrArg (settleRun c) (if_pos hrun)).trans (settle_illegal c c.A))
  · obtain ⟨t, ht, hb⟩ := ser_opens h hz
    refine ⟨_, t, ht, hb, ⟨_, rfl, rfl, rfl, rfl, rfl, rfl, rfl, rfl, rfl⟩, ?_, fun l hl => c.opened_lane _ hl⟩
    show { c.sp with serial := none } = c.sp
    rw [← hz]
  · refine ⟨fun k hk => ⟨_, _, (ser_skips h hz).trans (by rw [hk]; rfl), Becomes.modSpan (f := c.skipTo _ k) h.span fun _ => rfl, rfl,
      fun l hl => Span.lane_modLanes c.sp _ _ l hl⟩, fun r hr => (ser_skips h hz).trans (by rw [hr]; rfl)⟩
  · exact ⟨fun k hk => walkTo_ok hk, fun p hp => walkTo_asks hp⟩
  · refine ⟨clauseAt_in, clauseAt_header, fun hpast => ⟨fun w d => clauseAt_walks hpast, fun w => clauseAt_noHeader hpast, fun t hf => ?_,
      fun hf => ?_, fun p => clauseAt_asks hpast⟩⟩
    · exact clauseAt_noWord hpast (fun w => by simp [hf]) (fun p => by simp [hf])
    · exact clauseAt_noWord hpast (fun w => by simp [hf]) (fun p => by simp [hf])
  · refine ⟨fun hrun => ⟨_, (runs_always h _).trans ?_, holds_group (span_always h) fun _ => .serBusy⟩,
      fun hrun => (runs_always h _).trans ?_⟩
    · simp only [c.byRunLane_some hz, hrun, hz, Option.isSome_some, Bool.false_eq_true, if_false, if_true]
      rfl
    · exact (congrArg (settleRun c) (if_pos ((c.byRunLane_some hz).trans hrun))).trans (settle_illegal c c.G)
  · refine ⟨_, (h.runs _).trans ?_, Becomes.goOn h.span⟩
    cases hs : c.sp.serial with
    | none =>
      simp only [h.no_lane, beq_self_eq_true, if_true]
      rfl
    | some z =>
      simp only [h.no_lane, hz z hs, BitVec.zero_and, bne_self_eq_false, Bool.false_eq_true, if_false]
      rfl
  · refine (instr_runs h true _).trans (Eq.trans (congrArg (settleRun c) ?_) (settle_illegal c c.A))
    cases hs : c.sp.serial with
    | none => simp only [beq_eq_false_iff_ne.mpr h.some_lane, Bool.false_eq_true, if_false]
    | some z => simp only [bne_iff_ne.mpr (hz z hs), if_true]
  · exact ⟨fun t ht => (endser_ends h hz hrun ha).trans (by rw [ht]; rfl), fun r hr => (endser_ends h hz hrun ha).trans (by rw [hr]; rfl)⟩
  · refine ⟨settleResume_closed hs, fun z hz => ⟨settleResume_known hs hz, fun hk hg hl q hq => ⟨fun k hw => ?_, fun r hw => ?_⟩⟩⟩
    · rw [settleResume_walks hs hz hk hg hl hq, hw]; rfl
    · rw [settleResume_walks hs hz hk hg hl hq, hw]; rfl
  · have hb := Becomes.modSpan (f := fun x => { x with serial := x.serial.map (fun z =>
      if iss.nextPc = z.resume then { z with clause := iss.nextClause, known := true } else z) }) hs fun _ => rfl
    rwa [hz] at hb
  · have hb := endPass_next hs hz hl
    exact ⟨_, _, hb.span, rfl, rfl, rfl, fun l h => Span.lane_modLane _ _ _ h, hb.elsewhere⟩
  · have hb := endPass_closes hs hz hl
    exact ⟨_, hb.span, rfl, rfl, fun l h => Span.lane_modLanes _ _ _ l h, hb.elsewhere⟩

end Sys2Proof.Machine
end

section
/-! Registers that change their shape and keep their values (05 R97, R98). -/

namespace Sys2Proof.Machine

/-- Span x is span sp but for the shapes of the registers of rs, and what they use: every value is as it was. -/
structure Span.Reshaped (sp x : Span) (rs : List Nat) : Prop where
  vals : ∀ r, ∀ l < sp.width, x.reg r l = sp.reg r l
  others : ∀ r, r ∉ rs → x.vreg r = sp.vreg r
  length : x.regs.length = sp.regs.length
  rest : { x with regs := sp.regs, used := sp.used } = sp

namespace Span.Reshaped
variable {sp x y : Span} {rs qs : List Nat}

theorem refl (sp : Span) (rs : List Nat) : sp.Reshaped sp rs := ⟨fun _ _ _ => rfl, fun _ _ => rfl, rfl, rfl⟩

theorem width (h : sp.Reshaped x rs) : x.width = sp.width := by rw [← h.rest]
theorem octets (h : sp.Reshaped x rs) : x.octets = sp.octets := congrArg (· / 8) h.width

theorem vals_eq (h : sp.Reshaped x rs) (r : Nat) : x.vals r = sp.vals r := by
  rw [Span.vals, Span.vals, h.width]
  exact List.map_congr_left fun l hl => h.vals r l (List.mem_range.mp hl)

theorem cons (h : sp.Reshaped x [d]) (k : x.Reshaped y rs) : sp.Reshaped y (d :: rs) where
  vals r l hl := (k.vals r l (h.width ▸ hl)).trans (h.vals r l hl)
  others r hr := (k.others r fun m => hr (List.mem_cons_of_mem d m)).trans (h.others r fun m =>
    hr (by rw [List.mem_singleton.mp m]; exact List.mem_cons_self))
  length := k.length.trans h.length
  rest := (congrArg (fun v : Span => ({ v with regs := sp.regs, used := sp.used } : Span)) k.rest).trans h.rest

/-- One register takes another shape of the same values. -/
theorem setReg (sp : Span) {d : Nat} (hd : d < sp.regs.length) {v : VReg} (hv : ∀ l < sp.width, v.get l = sp.reg d l) (n : Nat) :
    sp.Reshaped { sp.setReg d v with used := n } [d] where
  vals r l hl := by
    show ((sp.setReg d v).vreg r).get l = _
    rw [Span.vreg_setReg _ _ _ _ hd]
    split
    case isTrue h => rw [hv l hl, h]
    case isFalse h => rfl
  others r hr := by
    show (sp.setReg d v).vreg r = _
    rw [Span.vreg_setReg _ _ _ _ hd, if_neg fun h => hr (by simp [h])]
  length := List.length_set
  rest := rfl

theorem eq (h : sp.Reshaped x rs) : x = { sp with regs := x.regs, used := x.used } := by rw [← h.rest]

/-- A span in which registers have changed shape, once the group goes on. -/
theorem onward {c : Ctx} (h : c.sp.Reshaped x rs) : { c.onward x with regs := c.sp.regs, used := c.sp.used } = c.advanced := by
  rw [h.eq]
  rfl

end Span.Reshaped

/-! ## Packing -/

/-- The values of a register in order. -/
theorem Span.vals_getD (sp : Span) (d : Nat) {l : Nat} (hl : l < sp.width) : (sp.vals d)[l]'(by simpa [Span.vals] using hl) = sp.reg d l := by
  simp [Span.vals]

/-- A register after it has been packed: compact where it was or where the checker gives it a shape, its slots spare then. -/
theorem packReg_spec (sp : Span) {d : Nat} (hd : d < sp.regs.length) :
    sp.Reshaped (packReg sp d) [d] ∧
    ((sp.vreg d).isVector = false ∨ (checker (sp.vals d)).isSome = true → ((packReg sp d).vreg d).isVector = false) ∧
    (((sp.vreg d).isVector = true → (checker (sp.vals d)).isSome = true) →
      (packReg sp d).used = sp.used - if (sp.vreg d).isVector then sp.octets else 0) := by
  cases hv : sp.vreg d with
  | uniform b =>
    have hp : packReg sp d = sp := by simp only [packReg, hv]
    rw [hp, hv]
    exact ⟨.refl .., fun _ => rfl, fun _ => rfl⟩
  | affine b e =>
    have hp : packReg sp d = sp := by simp only [packReg, hv]
    rw [hp, hv]
    exact ⟨.refl .., fun _ => rfl, fun _ => rfl⟩
  | vector slot vs =>
    cases hc : checker (sp.vals d) with
    | none =>
      have hp : packReg sp d = sp := by simp only [packReg, hv, hc, Option.elim_none]
      rw [hp]
      exact ⟨.refl .., fun h => by simp at h, fun h => by simp at h⟩
    | some v =>
      have hp : packReg sp d = { sp.setReg d v with used := sp.used - sp.octets } := by simp only [packReg, hv, hc, Option.elim_some]
      rw [hp]
      refine ⟨.setReg sp hd (fun l hl => ?_) _, fun _ => ?_, fun _ => rfl⟩
      · rw [checker_get hc (by simpa [Span.vals] using hl), sp.vals_getD d hl]
      · show ((sp.setReg d v).vreg d).isVector = false
        rw [Span.vreg_setReg _ _ _ _ hd, if_pos rfl]
        exact checker_compact hc

/-- Registers packed one after another, each once. -/
theorem packRegs_spec : ∀ (rs : List Nat) (sp : Span), (∀ r ∈ rs, r < sp.regs.length) → rs.Nodup →
    sp.Reshaped (rs.foldl packReg sp) rs ∧
    (∀ r ∈ rs, (sp.vreg r).isVector = false ∨ (checker (sp.vals r)).isSome = true → ((rs.foldl packReg sp).vreg r).isVector = false) ∧
    ((∀ r ∈ rs, (sp.vreg r).isVector = true → (checker (sp.vals r)).isSome = true) →
      (rs.foldl packReg sp).used = sp.used - (rs.filter (fun r => (sp.vreg r).isVector)).length * sp.octets)
  | [], sp, _, _ => ⟨.refl .., by simp, by simp⟩
  | d :: rs, sp, hlt, hnd => by
    obtain ⟨hout, hnd⟩ := List.nodup_cons.mp hnd
    obtain ⟨h1, h2, h3⟩ := packReg_spec sp (hlt d List.mem_cons_self)
    obtain ⟨k1, k2, k3⟩ := packRegs_spec rs (packReg sp d) (fun r hr => h1.length ▸ hlt r (List.mem_cons_of_mem d hr)) hnd
    have same : ∀ r ∈ rs, (packReg sp d).vreg r = sp.vreg r := fun r hr => h1.others r fun m => hout (List.mem_singleton.mp m ▸ hr)
    refine ⟨h1.cons k1, fun r hr hpack => ?_, fun hall => ?_⟩
    · rcases List.mem_cons.mp hr with rfl | hr
      · rw [List.foldl_cons, k1.others r hout]
        exact h2 hpack
      · exact k2 r hr (by rwa [same r hr, h1.vals_eq])
    · rw [List.foldl_cons, k3 fun r hr => by rw [same r hr, h1.vals_eq]; exact hall r (List.mem_cons_of_mem d hr),
        h3 (hall d List.mem_cons_self), h1.octets, List.filter_congr fun r hr => by rw [same r hr], Nat.sub_sub, List.filter_cons]
      split
      · rw [List.length_cons]; ring_nf
      · rw [Nat.zero_add]

/-! ## Widening -/

/-- A compact register moved into slots: a VECTOR of the values that it had. -/
theorem widenReg_spec {s : State} {u d : Nat} {sp : Span} (hs : s.span? u = some sp) (hd : d < sp.regs.length)
    (hc : (sp.vreg d).isVector = false) :
    ∃ x, Becomes s (widenReg s u d) u x ∧ sp.Reshaped x [d] ∧ (x.vreg d).isVector = true ∧ x.used = sp.used + sp.octets ∧
      ∀ p, (widenReg s u d).pier p = s.pier p := by
  have hkeep : ∀ y : Span, (match y.vreg d with
      | .vector _ _ => y
      | _ => { y.setReg d (.vector (Config.freeSlot s.free % 24576) (y.vals d)) with used := y.used + y.octets }).uid = y.uid := fun y => by
    split <;> rfl
  have hb := Becomes.modSpan hs hkeep
  refine ⟨_, ⟨hb.span, hb.elsewhere.trans (Elsewhere.free _ u _)⟩, ?_⟩
  have hx : (match sp.vreg d with
      | .vector _ _ => sp
      | _ => { sp.setReg d (.vector (Config.freeSlot s.free % 24576) (sp.vals d)) with used := sp.used + sp.octets }) =
      { sp.setReg d (.vector (Config.freeSlot s.free % 24576) (sp.vals d)) with used := sp.used + sp.octets } := by
    cases hv : sp.vreg d with
    | vector slot vs => rw [hv] at hc; cases hc
    | uniform b => rfl
    | affine b e => rfl
  rw [hx]
  refine ⟨.setReg sp hd (fun l hl => ?_) _, ?_, rfl, fun _ => rfl⟩
  · exact (List.getD_eq_getElem _ _ (by simpa [Span.vals] using hl)).trans (sp.vals_getD d hl)
  · show ((sp.setReg d _).vreg d).isVector = true
    rw [Span.vreg_setReg _ _ _ _ hd, if_pos rfl]
    rfl

/-- Compact registers moved into slots one after another, each once. -/
theorem widenRegs_spec {u : Nat} : ∀ (rs : List Nat) (s : State) (sp : Span), s.span? u = some sp →
    (∀ r ∈ rs, r < sp.regs.length) → rs.Nodup → (∀ r ∈ rs, (sp.vreg r).isVector = false) → ∃ x, Becomes s (rs.foldl (fun t r => widenReg t u r) s) u x ∧ sp.Reshaped x rs ∧
      (∀ r ∈ rs, (x.vreg r).isVector = true) ∧ x.used = sp.used + rs.length * sp.octets ∧
      ∀ p, (rs.foldl (fun t r => widenReg t u r) s).pier p = s.pier p
  | [], s, sp, hs, _, _, _ => ⟨sp, .refl hs, .refl .., by simp, by simp, fun _ => rfl⟩
  | d :: rs, s, sp, hs, hlt, hnd, hc => by
    obtain ⟨hout, hnd⟩ := List.nodup_cons.mp hnd
    obtain ⟨x, hb, h1, h2, h3, hp⟩ := widenReg_spec hs (hlt d List.mem_cons_self) (hc d List.mem_cons_self)
    have same : ∀ r ∈ rs, x.vreg r = sp.vreg r := fun r hr => h1.others r fun m => hout (List.mem_singleton.mp m ▸ hr)
    obtain ⟨y, kb, k1, k2, k3, kp⟩ := widenRegs_spec rs _ x hb.span (fun r hr => h1.length ▸ hlt r (List.mem_cons_of_mem d hr)) hnd
      fun r hr => (congrArg VReg.isVector (same r hr)).trans (hc r (List.mem_cons_of_mem d hr))
    refine ⟨y, hb.trans kb, h1.cons k1, fun r hr => ?_, ?_, fun p => (kp p).trans (hp p)⟩
    · rcases List.mem_cons.mp hr with rfl | hr
      · rw [k1.others r hout]
        exact h2
      · exact k2 r hr
    · rw [k3, h3, h1.octets, List.length_cons]
      ring

/-! ## Ranges of registers -/

theorem regRange_lt {d n : Reg} (h : rangeOk d n = true) {r : Nat} (hr : r ∈ regRange d.toNat n.toNat) : r < 128 := by
  simp only [rangeOk, Bool.and_eq_true, decide_eq_true_eq] at h
  obtain ⟨k, hk, rfl⟩ := List.mem_map.mp hr
  have := List.mem_range.mp hk
  omega

theorem regRange_ascends (d n : Nat) : (regRange d n).Pairwise (· < ·) :=
  List.pairwise_map.mpr (List.pairwise_lt_range.imp fun h => Nat.add_lt_add_left h d)

theorem regRange_nodup (d n : Nat) : (regRange d n).Nodup := (regRange_ascends d n).imp Nat.ne_of_lt

/-- The lowest of some registers of a range is the first. -/
theorem regRange_low (d n : Nat) (p : Nat → Bool) : ((regRange d n).filter p).min?.getD 0 = ((regRange d n).filter p).headD 0 := by
  have h : ((regRange d n).filter p).min? = ((regRange d n).filter p).head? :=
    List.min?_eq_head? (((regRange_ascends d n).filter p).imp fun h => min_eq_left h.le)
  rw [h, List.headD_eq_head?_getD]

/-- The end of latch entries leaves the spans and every pool. -/
theorem dropLatch_becomes {s : State} {u : Nat} {x : Span} (hs : s.span? u = some x) (sp : Span) (p : Nat → Bool) :
    Becomes s (dropLatch s sp p) u x :=
  ⟨hs, Elsewhere.modPier _ u _ _ (by intro _; rfl)⟩

theorem dropLatch_pool (s : State) (sp : Span) (p : Nat → Bool) (q : Nat) : ((dropLatch s sp p).pier q).pool = (s.pier q).pool :=
  State.pier_modPier_keeps (·.pool) s _ _ (by intro _; rfl) q

end Sys2Proof.Machine
end

section
/-! Shapes and grants (O23; 05 R97-R100, 01 R18, R23, R25, R27). -/

namespace Sys2Proof.Machine

/-! ## shforce and shpack (05 R97, R98) -/

section
variable {d n b : Reg} {s : State} {c : Ctx}

/-- A range packed, and the group goes on. -/
theorem packs {i : Instr} (h : Issues s i c)
    (he : exec i s = .next (goOn ((dropLatch c.s c.sp (regRange d.toNat n.toNat).contains).modSpan c.u
      (fun x => (regRange d.toNat n.toNat).foldl packReg x)) c.iss c.G)) :
    ∃ t, exec i s = .next t ∧ Becomes c.s t c.u (c.onward ((regRange d.toNat n.toNat).foldl packReg c.sp)) := by
  have huid : ∀ (rs : List Nat) (x : Span), (rs.foldl packReg x).uid = x.uid := by
    intro rs
    induction rs with
    | nil => exact fun _ => rfl
    | cons r rs ih =>
      intro x
      rw [List.foldl_cons, ih]
      unfold packReg
      split
      · cases checker (x.vals r) <;> rfl
      · rfl
  have h1 := dropLatch_becomes h.span c.sp (regRange d.toNat n.toNat).contains
  have h2 := h1.trans (Becomes.modSpan (f := fun x => (regRange d.toNat n.toNat).foldl packReg x) h1.span (huid _))
  exact ⟨_, he, h2.trans (Becomes.goOn h2.span)⟩

theorem shforce_exec (h : Issues s (.shforce d n 0#7) c) :
    exec (.shforce d n 0#7) s = settleRun c
      ((cover c.s c.u (needAtIssue c (regRange d.toNat n.toNat)) ((compactOf c (regRange d.toNat n.toNat)).headD 0) c.A).bind fun t =>
        .ok (.done ((compactOf c (regRange d.toNat n.toNat)).foldl (fun t r => widenReg t c.u r)
          (dropLatch t c.sp (regRange d.toNat n.toNat).contains)))) :=
  (instr_runs h false _).trans (congrArg (settleRun c) (if_pos rfl))

theorem shforce_rangeOk (h : Issues s (.shforce d n b) c) : rangeOk d n = true := (Bool.and_eq_true_iff.mp h.legal).1

/-- A range forced into slots: its compact registers widen, with room for them. -/
theorem shforce_widens (h : Issues s (.shforce d n 0#7) c) (room : Room c (needAtIssue c (regRange d.toNat n.toNat))) :
    ∃ t y, exec (.shforce d n 0#7) s = .next t ∧ Becomes c.s t c.u (c.onward y) ∧
      (c.sp.granted (c.sp.grant + (needAtIssue c (regRange d.toNat n.toNat) - c.sp.spare))).Reshaped y (compactOf c (regRange d.toNat n.toNat)) ∧
      (∀ r ∈ compactOf c (regRange d.toNat n.toNat), (y.vreg r).isVector = true) ∧
      y.used = c.sp.used + needAtIssue c (regRange d.toNat n.toNat) ∧ Drew c t (needAtIssue c (regRange d.toNat n.toNat)) := by
  obtain ⟨-, -, h3, h4⟩ := h.spec
  obtain ⟨t, hcov, ht, hel, hdr⟩ := cover_ok (c := c) h3 (needAtIssue c (regRange d.toNat n.toNat))
    ((compactOf c (regRange d.toNat n.toNat)).headD 0) (by rw [h4]; exact room)
  rw [h4] at hdr
  have h1 : Becomes c.s t c.u _ := ⟨ht, hel⟩
  have h2 := h1.trans (dropLatch_becomes h1.span c.sp (regRange d.toNat n.toNat).contains)
  obtain ⟨y, hy, hres, hvec, hused, hpier⟩ := widenRegs_spec (compactOf c (regRange d.toNat n.toNat)) _ _ h2.span
    (fun r hr => h.shaped.regs ▸ regRange_lt (shforce_rangeOk h) (List.mem_of_mem_filter hr)) ((regRange_nodup _ _).filter _)
    (fun r hr => show (c.sp.vreg r).isVector = false by simpa using (List.mem_filter.mp hr).2)
  have h3 := h2.trans hy
  refine ⟨_, y, (shforce_exec h).trans (by rw [hcov]; rfl), h3.trans (Becomes.goOn h3.span), hres, hvec, hused, ?_, ?_⟩
  all_goals have hpool : ∀ p, ((goOn (List.foldl (fun t r => widenReg t c.u r) (dropLatch t c.sp (regRange d.toNat n.toNat).contains)
      (compactOf c (regRange d.toNat n.toNat))) c.iss c.G).pier p).pool = (t.pier p).pool := fun p =>
    (congrArg Pier.pool (hpier p)).trans (dropLatch_pool t _ _ p)
  · exact fun hp => (hpool _).trans (hdr.1 hp)
  · exact fun p hp => (hpool p).trans (hdr.2 p hp)

theorem shforce_noRoom (h : Issues s (.shforce d n 0#7) c) (room : ¬ Room c (needAtIssue c (regRange d.toNat n.toNat))) :
    exec (.shforce d n 0#7) s = takeTrapFrom c.before c.s c.iss (storageTrap c (compactOf c (regRange d.toNat n.toNat))) := by
  obtain ⟨-, -, h3, h4⟩ := h.spec
  have htrap := cover_trap h3 h4 room
  rw [compactOf, regRange_low] at htrap
  rw [shforce_exec h, needAtIssue, compactOf, htrap]
  exact settle_trap (by simp [storageTrap, TrapInfo.at])

/-- A range forced into compact registers: one that no compact shape holds raises SHAPE_ASSERT. -/
theorem shforce_asserts {r : Nat} (h : Issues s (.shforce d n b) c) (hb : b ≠ 0#7)
    (hf : (regRange d.toNat n.toNat).find? (fun r => (c.sp.vreg r).isVector && (checker (c.sp.vals r)).isNone) = some r) :
    exec (.shforce d n b) s = takeTrapFrom c.before c.s c.iss (TrapInfo.at 0x000B (shapeAddr r 2 3) c.A) := by
  refine (instr_runs h false _).trans ?_
  simp only [beq_eq_false_iff_ne.mpr hb, Bool.false_eq_true, if_false, hf]
  exact settle_trap (by simp [TrapInfo.at])

theorem shforce_packs (h : Issues s (.shforce d n b) c) (hb : b ≠ 0#7)
    (hall : ∀ r ∈ regRange d.toNat n.toNat, (c.sp.vreg r).isVector = true → (checker (c.sp.vals r)).isSome = true) :
    exec (.shforce d n b) s = .next (goOn ((dropLatch c.s c.sp (regRange d.toNat n.toNat).contains).modSpan c.u
      (fun x => (regRange d.toNat n.toNat).foldl packReg x)) c.iss c.G) := by
  have hf : (regRange d.toNat n.toNat).find? (fun r => (c.sp.vreg r).isVector && (checker (c.sp.vals r)).isNone) = none :=
    List.find?_eq_none.mpr fun r hr hbad => by
      obtain ⟨hv, hn⟩ := Bool.and_eq_true_iff.mp hbad
      have := hall r hr hv
      rw [Option.isNone_iff_eq_none.mp hn] at this
      exact Bool.false_ne_true this
  refine (instr_runs h false _).trans ?_
  simp only [beq_eq_false_iff_ne.mpr hb, Bool.false_eq_true, if_false, hf]
  rfl

end

/-! ## Grants (01 R27, 05 R99) -/

/-- Slots given to a span come from its pier's pool. -/
theorem grantSlots_becomes {s : State} {u : Nat} {x : Span} (hs : s.span? u = some x) (pier n : Nat) :
    Becomes s (grantSlots s u pier n) u { x with grant := x.grant + n } := by
  have h1 : Becomes s (s.modPier pier (fun p => { p with pool := p.pool - n })) u x := ⟨hs, Elsewhere.modPier s u _ _ (by intro _; rfl)⟩
  exact h1.trans (Becomes.modSpan (f := fun y => { y with grant := y.grant + n }) h1.span fun _ => rfl)

theorem grow_exec {n : BitVec 9} {s : State} {c : Ctx} (h : Issues s (.grow n) c) : exec (.grow n) s = settleRun c (
    if n.toNat == 0 then .ok (.done c.s)
    else if c.sp.ceil < c.sp.grant + n.toNat then .error (.trap c.s (growTrap n.toNat c.A))
    else if (c.s.pier c.deck.pier).growQ == [] && decide (n.toNat ≤ (c.s.pier c.deck.pier).pool) then
      .ok (.done (grantSlots c.s c.u c.deck.pier n.toNat))
    else .ok (.moved (hold ({ c.s with fresh := c.s.fresh + 1 }.modPier c.deck.pier (fun x =>
        { x with growQ := x.growQ ++ [(c.u, c.s.fresh)] })) c.iss c.G (fun _ => .grow n.toNat c.s.fresh)))) :=
  instr_runs h false _

/-- Whether grow.try fails: the ceiling, the pool or those who wait forbid it (05 R99). -/
def Ctx.growFails (c : Ctx) (n : Nat) : Bool :=
  n != 0 && (decide (c.sp.ceil < c.sp.grant + n) || decide ((c.s.pier c.deck.pier).pool < n) || (c.s.pier c.deck.pier).growQ != [])

theorem growTry_exec {k : Reg} {n : BitVec 9} {s : State} {c : Ctx} (h : Issues s (.growTry k n) c) : exec (.growTry k n) s =
    .next (goOn (c.setBits (if c.growFails n.toNat then c.s else grantSlots c.s c.u c.deck.pier n.toNat) k.toNat
      (fun _ => c.growFails n.toNat)) c.iss c.G) :=
  instr_done h false _ rfl

theorem toNat_ne_zero {w : Nat} {n : BitVec w} : n.toNat ≠ 0 ↔ n ≠ 0#w := by
  rw [Ne, Ne, ← BitVec.toNat_inj]; simp

theorem growFails_iff {c : Ctx} {n : BitVec 9} : c.growFails n.toNat = true ↔
    n ≠ 0#9 ∧ (c.sp.ceil < c.sp.grant + n.toNat ∨ (c.s.pier c.deck.pier).pool < n.toNat ∨ (c.s.pier c.deck.pier).growQ ≠ []) := by
  simp only [Ctx.growFails, Bool.and_eq_true, Bool.or_eq_true, bne_iff_ne, decide_eq_true_eq, toNat_ne_zero, or_assoc]

/-! ## Slots given back (05 R100) -/

/-- A change of one span by functions that agree on it. -/
theorem State.modSpan_congr {s : State} {u : Nat} {f g : Span → Span} (h : ∀ x : Span, x.uid = u → f x = g x) :
    s.modSpan u f = s.modSpan u g := by
  have hl : s.spans.map (fun x => if x.uid == u then f x else x) = s.spans.map (fun x => if x.uid == u then g x else x) :=
    List.map_congr_left fun x _ => by
      split
      case isTrue hu => exact h x (beq_iff_eq.mp hu)
      case isFalse => rfl
  exact congrArg (fun l => ({ s with spans := l } : State)) hl

/-- A span replaced by one of its name is found under it, and every other span as it was. -/
theorem State.span?_replace {s : State} {u : Nat} {x z : Span} (hx : s.span? u = some x) (hz : z.uid = u) :
    (s.modSpan u fun _ => z).span? u = some z ∧ ∀ v ≠ u, (s.modSpan u fun _ => z).span? v = s.span? v := by
  have hsame : s.modSpan u (fun _ => z) = s.modSpan u (fun y => { z with uid := y.uid }) :=
    State.modSpan_congr fun y hy => by rw [hy, ← hz]
  rw [hsame]
  refine ⟨?_, fun v hv => State.span?_modSpan_ne _ _ (by intro _; rfl) hv⟩
  rw [State.span?_modSpan_same (x := x) _ (by intro _; rfl) hx, State.span?_uid hx, ← hz]

/-- What leaves all but span u leaves it, with another span replaced on both sides. -/
theorem Elsewhere.replaced {s b : State} {u v : Nat} {x z : Span} {f : Span → Span} (h : Elsewhere s b u) (hx : s.span? v = some x)
    (hz : z.uid = v) (hf : ∀ y, (f y).uid = y.uid) (hb : v ≠ u → (b.modSpan v f).span? v = some z) :
    Elsewhere (s.modSpan v fun _ => z) (b.modSpan v f) u where
  state := congrArg (fun t : State => ({ t with spans := (s.modSpan v fun _ => z).spans } : State)) h.state
  mgmt := h.mgmt
  piers := h.piers
  segs := h.segs
  bytes := h.bytes
  spans w hw := by
    obtain ⟨hsame, hother⟩ := State.span?_replace hx hz
    by_cases hv : w = v
    · subst hv
      rw [hb hw, hsame]
    · rw [hother w hv, State.span?_modSpan_ne _ _ hf hv, h.spans w hw]

/-- Slots that are covered leave the number of piers. -/
theorem cover_piers {s t : State} {u need low : Nat} {a : LaneSet} (h : cover s u need low a = .ok t) : t.piers.length = s.piers.length := by
  unfold cover at h
  split at h
  · cases h; rfl
  · split at h
    · cases h; rfl
    · dsimp only at h
      split at h
      · cases h; simp
      · split at h
        · cases h
        · split at h
          · cases h
          · cases h; simp [State.modPier, State.modSpan]

section
variable {f : FormR} {s : State} {c : Ctx}

/-- A span that has given k of its slots back. -/
def Span.lessGrant (k : Nat) (x : Span) : Span := { x with grant := x.grant - k }

/-- k slots of span u go back to the pool, and the destination takes their number, its slots covered before where `wide`. -/
def Ctx.givesBack (c : Ctx) (b : State) (u d k : Nat) (wide : Bool) : State :=
  landReg ((b.modSpan u (Span.lessGrant k)).modPier c.deck.pier (fun p => { p with pool := p.pool + k }))
    c.u d (fun _ => BitVec.ofNat 32 k) c.A wide

theorem shrink_none (h : Issues s (.shrink f) c) (hf : (c.s.spansOf c.deck.uid).find? (fun x => x.idx == (c.src f.a c.low).toNat) = none) :
    exec (.shrink f) s = settleRun c ((c.write c.s (put f.d (fun _ => 0#32))).map .done) := by
  refine (instr_runs h false _).trans ?_
  simp only [hf]
  rfl

theorem shrink_fits {x : Span} (h : Issues s (.shrink f) c)
    (hf : (c.s.spansOf c.deck.uid).find? (fun x => x.idx == (c.src f.a c.low).toNat) = some x) (hx : c.s.span? x.uid = some x)
    (hw : widens c.sp f.d.toNat (fun _ => BitVec.ofNat 32 (min (c.src f.b c.low).toNat x.spare)) c.A = false) :
    exec (.shrink f) s = .next (goOn (c.givesBack c.s x.uid f.d.toNat (min (c.src f.b c.low).toNat x.spare) false) c.iss c.G) := by
  refine (instr_runs h false _).trans ?_
  simp only [hf, hw, Bool.false_eq_true, if_false]
  show settleRun c (.ok (.done (c.givesBack c.s x.uid f.d.toNat (min (c.src f.b c.low).toNat ((c.s.span? x.uid).elim 0 (·.spare))) false))) = _
  rw [hx]
  rfl

theorem shrink_widens {x : Span} (h : Issues s (.shrink f) c)
    (hf : (c.s.spansOf c.deck.uid).find? (fun x => x.idx == (c.src f.a c.low).toNat) = some x)
    (hw : widens c.sp f.d.toNat (fun _ => BitVec.ofNat 32 (min (c.src f.b c.low).toNat x.spare)) c.A = true) :
    exec (.shrink f) s = settleRun c ((cover c.s c.u c.sp.octets f.d.toNat c.A).bind fun t =>
      let b := t.modSpan c.u (fun x => { x with used := x.used + x.octets })
      .ok (.done (c.givesBack b x.uid f.d.toNat (min (c.src f.b c.low).toNat ((b.span? x.uid).elim 0 (·.spare))) true))) := by
  refine (instr_runs h false _).trans ?_
  simp only [hf, hw, if_true]
  rfl

end

/-! ## A shrink whose destination widens (05 R100) -/

/-- The executing span with slots drawn and its destination's taken, and k of them given back again where it names itself. -/
def Ctx.lent (c : Ctx) (drawn k : Nat) : Span := { c.sp with grant := c.sp.grant + drawn - k, used := c.sp.used + c.sp.octets }

/-- Once the destination has landed and the group has gone on, the values, the other registers and the grant of the executing span. -/
theorem givesBack_spec {c : Ctx} {b : State} {v d k drawn own : Nat} (hs : c.sp.Shaped) (ha : c.A ≠ 0#64) (hd : d < 128)
    (hb : (b.modSpan v (Span.lessGrant k)).span? c.u = some (c.lent drawn own)) :
    ∃ y, (goOn (c.givesBack b v d k true) c.iss c.G).span? c.u = some y ∧
      Elsewhere (b.modSpan v (Span.lessGrant k)) (goOn (c.givesBack b v d k true) c.iss c.G) c.u ∧
      (∀ l < c.W, y.reg d l = if hasLane c.A l then BitVec.ofNat 32 k else c.sp.reg d l) ∧
      (∀ r, r ≠ d → y.vreg r = c.sp.vreg r) ∧ y.grant = c.sp.grant + drawn - own ∧
      (c.deck.pier < b.piers.length → ((goOn (c.givesBack b v d k true) c.iss c.G).pier c.deck.pier).pool = (b.pier c.deck.pier).pool + k) := by
  have hp : Becomes (b.modSpan v (Span.lessGrant k)) ((b.modSpan v (Span.lessGrant k)).modPier
    c.deck.pier (fun p => { p with pool := p.pool + k })) c.u (c.lent drawn own) := ⟨hb, Elsewhere.modPier _ _ _ _ (by intro _; rfl)⟩
  obtain ⟨x, hx, hland, hel, hpool⟩ := landReg_spec (d := d) (fun _ => BitVec.ofNat 32 k) c.A true hp.span ha
    (show d < c.sp.regs.length from hs.regs ▸ hd)
  have hy := hp.trans ((Becomes.mk hx hel).trans (Becomes.goOn (c := c) hx))
  refine ⟨_, hy.span, hy.elsewhere, fun l hl => hland.vals _ (List.mem_singleton_self _) l hl, fun r hr => hland.others r (by simpa using hr),
    hland.grant, fun hlen => (hpool _).trans ?_⟩
  exact congrArg Pier.pool (State.pier_modPier_same _ _ hlen)

/-- A shrink whose destination widens has its slots covered first. -/
theorem shrink_covers {f : FormR} {s : State} {c : Ctx} {x : Span} (h : Issues s (.shrink f) c)
    (hf : (c.s.spansOf c.deck.uid).find? (fun y => y.idx == (c.src f.a c.low).toNat) = some x)
    (hw : widens c.sp f.d.toNat (fun _ => BitVec.ofNat 32 (min (c.src f.b c.low).toNat x.spare)) c.A = true) (room : Room c c.sp.octets) :
    ∃ b, Becomes c.s b c.u (c.lent (c.sp.octets - c.sp.spare) 0) ∧
      exec (.shrink f) s = .next (goOn (c.givesBack b x.uid f.d.toNat
        (min (c.src f.b c.low).toNat ((b.span? x.uid).elim 0 (·.spare))) true) c.iss c.G) ∧
      (c.deck.pier < c.s.piers.length → c.deck.pier < b.piers.length ∧
        (b.pier c.deck.pier).pool + (c.sp.octets - c.sp.spare) = (c.s.pier c.deck.pier).pool) := by
  obtain ⟨-, -, h3, h4⟩ := h.spec
  obtain ⟨t, hcov, ht, hel, hdr⟩ := cover_ok (c := c) h3 c.sp.octets f.d.toNat (by rw [h4]; exact room)
  rw [h4] at hdr
  have hdrawn : c.sp.octets - c.sp.spare ≤ (c.s.pier c.deck.pier).pool := room.elim (fun h => by omega) And.right
  refine ⟨_, (Becomes.mk ht hel).trans (Becomes.modSpan (f := fun x => { x with used := x.used + x.octets }) ht fun _ => rfl),
    (shrink_widens h hf hw).trans (by rw [hcov]; rfl), fun hp => ⟨(cover_piers hcov).symm ▸ hp, ?_⟩⟩
  have hpool : (t.pier c.deck.pier).pool = (c.s.pier c.deck.pier).pool - (c.sp.octets - c.sp.spare) := hdr.1 hp
  show (t.pier c.deck.pier).pool + _ = _
  omega

/-- Then it gives back what is spare, of its own span what is left after that. -/
theorem shrink_gives {f : FormR} {s : State} {c : Ctx} {x : Span} (h : Issues s (.shrink f) c)
    (hf : (c.s.spansOf c.deck.uid).find? (fun y => y.idx == (c.src f.a c.low).toNat) = some x) (hx : c.s.span? x.uid = some x)
    (hw : widens c.sp f.d.toNat (fun _ => BitVec.ofNat 32 (min (c.src f.b c.low).toNat x.spare)) c.A = true) (room : Room c c.sp.octets) :
    let k := min (c.src f.b c.low).toNat (if x.uid = c.u then x.spare - c.sp.octets else x.spare)
    let drawn := c.sp.octets - c.sp.spare
    ∃ t y z, exec (.shrink f) s = .next t ∧ t.span? c.u = some y ∧ t.span? x.uid = some z ∧
      Elsewhere (c.s.modSpan x.uid (fun _ => z)) t c.u ∧
      (∀ l < c.W, y.reg f.d.toNat l = if hasLane c.A l then BitVec.ofNat 32 k else c.sp.reg f.d.toNat l) ∧
      (∀ r, r ≠ f.d.toNat → y.vreg r = c.sp.vreg r) ∧
      z.grant + k = x.grant + (if x.uid = c.u then drawn else 0) ∧
      (x.uid ≠ c.u → y.grant = c.sp.grant + drawn ∧ { z with grant := x.grant } = x) ∧
      (c.deck.pier < c.s.piers.length → (t.pier c.deck.pier).pool + drawn = (c.s.pier c.deck.pier).pool + k) := by
  obtain ⟨b, hb, hexec, hlen⟩ := shrink_covers h hf hw room
  by_cases hown : x.uid = c.u
  · obtain rfl : c.sp = x := Option.some.inj (h.span.symm.trans (hown ▸ hx))
    have hspare : (c.lent (c.sp.octets - c.sp.spare) 0).spare = c.sp.spare - c.sp.octets := by
      simp only [Ctx.lent, Span.spare]; omega
    rw [hown] at hexec hx
    rw [hb.span, Option.elim_some, hspare] at hexec
    simp only [hown, if_true]
    have hk : min (c.src f.b c.low).toNat (c.sp.spare - c.sp.octets) ≤ c.sp.grant + (c.sp.octets - c.sp.spare) := by
      simp only [Span.spare]; omega
    have hmod : (b.modSpan c.u (Span.lessGrant (min (c.src f.b c.low).toNat (c.sp.spare - c.sp.octets)))).span? c.u =
        some (c.lent (c.sp.octets - c.sp.spare) (min (c.src f.b c.low).toNat (c.sp.spare - c.sp.octets))) :=
      State.span?_modSpan_same _ (by intro _; rfl) hb.span
    obtain ⟨y, hy, hel, hv, ho, hg, hp⟩ := givesBack_spec h.shaped h.some_lane f.d.isLt hmod
    refine ⟨_, y, y, hexec, hy, hy,
      (hb.elsewhere.replaced (f := Span.lessGrant _) h.span (State.span?_uid hy) (fun _ => rfl) fun e => absurd rfl e).trans hel, hv, ho,
      by omega, fun e => absurd rfl e, fun hpier => ?_⟩
    obtain ⟨h1, h2⟩ := hlen hpier
    have h3 := hp h1
    omega
  · have hxb : b.span? x.uid = some x := (hb.elsewhere.spans _ hown).trans hx
    rw [hxb, Option.elim_some] at hexec
    simp only [hown, if_false]
    have hk : min (c.src f.b c.low).toNat x.spare ≤ x.grant := by simp only [Span.spare]; omega
    have hmod : (b.modSpan x.uid (Span.lessGrant (min (c.src f.b c.low).toNat x.spare))).span? c.u =
        some (c.lent (c.sp.octets - c.sp.spare) 0) :=
      (State.span?_modSpan_ne _ _ (by intro _; rfl) (Ne.symm hown)).trans hb.span
    have hz : (b.modSpan x.uid (Span.lessGrant (min (c.src f.b c.low).toNat x.spare))).span? x.uid =
        some (x.lessGrant (min (c.src f.b c.low).toNat x.spare)) :=
      State.span?_modSpan_same _ (by intro _; rfl) hxb
    obtain ⟨y, hy, hel, hv, ho, hg, hp⟩ := givesBack_spec h.shaped h.some_lane f.d.isLt hmod
    refine ⟨_, y, _, hexec, hy, (hel.spans _ hown).trans hz,
      (hb.elsewhere.replaced (z := x.lessGrant _) (f := Span.lessGrant _) hx rfl (fun _ => rfl) fun _ => hz).trans hel, hv, ho,
      Nat.sub_add_cancel hk, fun _ => ⟨hg, rfl⟩, fun hpier => ?_⟩
    obtain ⟨h1, h2⟩ := hlen hpier
    have h3 := hp h1
    omega

/-- Settles O23: forced and packed ranges keep their values; grows, and slots given back, by the branches of their meanings. -/
theorem shapeAndGrantChanges : Obligations.ShapeAndGrantChanges := by
  refine ⟨⟨fun d n s c h room => ?_, fun d n s c h => shforce_noRoom h, fun d n b s c h hb hall => ?_,
    fun d n b s c r h hb hf => shforce_asserts h hb hf,
    fun d n s c h => ?_⟩, fun n s c h hn hc hq hp => ?_, fun n s c h hn hc hw => ?_, fun s c h => ?_, fun n s c h hn hc => ?_,
    fun k n s c h => ?_, fun f s c h hno => ?_, fun f s c x h hf hx hw => shrink_fits h hf hx hw,
    fun f s c x h hf hx hw => ⟨fun room => ?_, fun room => shrink_gives h hf hx hw room⟩⟩
  · obtain ⟨t, y, he, ⟨ht, hel⟩, hres, hvec, hused, hdrew⟩ := shforce_widens h room
    refine ⟨t, c.onward y, he, ht, hel, fun r hr => ⟨?_, fun l hl => hres.vals r l hl⟩,
      fun r hr => hres.others r fun m => hr (List.mem_of_mem_filter m),
      hused, ?_, hdrew, ?_⟩
    · by_cases hm : r ∈ compactOf c (regRange d.toNat n.toNat)
      · exact hvec r hm
      · show (y.vreg r).isVector = true
        rw [hres.others r hm]
        show (c.sp.vreg r).isVector = true
        simpa [compactOf, hr] using hm
    · exact congrArg Span.grant hres.rest
    · rw [hres.eq]
      rfl
  · obtain ⟨t, he, ht, hel⟩ := packs h (shforce_packs h hb hall)
    obtain ⟨hres, hcomp, hused⟩ := packRegs_spec (regRange d.toNat n.toNat) c.sp
      (fun _ hm => h.shaped.regs ▸ regRange_lt (shforce_rangeOk h) hm) (regRange_nodup _ _)
    refine ⟨t, _, he, ht, hel, fun r hr => ⟨hcomp r hr ?_, hres.vals r⟩, hres.others, hused hall, hres.onward⟩
    cases hv : (c.sp.vreg r).isVector with
    | false => exact .inl rfl
    | true => exact .inr (hall r hr hv)
  · obtain ⟨t, he, ht, hel⟩ := packs h (instr_done h false _ rfl)
    obtain ⟨hres, hcomp, -⟩ := packRegs_spec (regRange d.toNat n.toNat) c.sp
      (fun _ hm => h.shaped.regs ▸ regRange_lt h.legal hm) (regRange_nodup _ _)
    exact ⟨t, _, he, ht, hel, fun r _ => hres.vals r, fun r hr hs => hcomp r hr (.inr hs), hres.others, hres.onward⟩
  · have hb := grantSlots_becomes h.span c.deck.pier n.toNat
    have hn0 : (n.toNat == 0) = false := beq_eq_false_iff_ne.mpr (toNat_ne_zero.mpr hn)
    refine ⟨_, (grow_exec h).trans ?_, hb.trans (Becomes.goOn hb.span), fun hlen => ?_⟩
    · rw [hn0, if_neg Bool.false_ne_true, if_neg (Nat.not_lt.mpr hc), hq, if_pos (by simpa using hp)]
      rfl
    · exact congrArg Pier.pool (State.pier_modPier_same _ _ hlen)
  · have hn0 : (n.toNat == 0) = false := beq_eq_false_iff_ne.mpr (toNat_ne_zero.mpr hn)
    rw [grow_exec h, hn0, if_neg Bool.false_ne_true, if_neg (Nat.not_lt.mpr hc), if_neg]
    · rfl
    · simp only [Bool.and_eq_true, beq_iff_eq, decide_eq_true_eq, not_and, Nat.not_le]
      exact fun hq => hw.resolve_left fun hne => hne hq
  · exact grow_exec h
  · have hn0 : (n.toNat == 0) = false := beq_eq_false_iff_ne.mpr (toNat_ne_zero.mpr hn)
    rw [grow_exec h, hn0, if_neg Bool.false_ne_true, if_pos hc]
    exact settle_trap (by simp [growTrap, TrapInfo.at])
  · have hk : k.toNat < c.sp.masks.length := h.shaped.masks ▸ maskReg_lt h.legal
    have he := growTry_exec h
    refine ⟨fun hfail => ⟨_, he, ?_⟩, fun hfail => ⟨_, he, ?_⟩⟩
    · rw [growFails_iff.mpr hfail, if_pos rfl, Ctx.setBits, h.span, Option.elim_some, maskBits_true]
      exact masked_of h.span hk
    · have hg := (grantSlots_becomes h.span c.deck.pier n.toNat).span
      rw [Bool.eq_false_iff.mpr fun e => hfail (growFails_iff.mp e), if_neg Bool.false_ne_true, Ctx.setBits, hg, Option.elim_some, maskBits_false]
      exact masked_of hg hk
  · obtain ⟨-, -, h3, h4⟩ := h.spec
    have hf : (c.s.spansOf c.deck.uid).find? (fun x => x.idx == (c.src f.a c.low).toNat) = none :=
      List.find?_eq_none.mpr fun x hm => by simpa using hno x hm
    refine ⟨fun room => ?_, fun room => ?_⟩
    · obtain ⟨t, hw, hx⟩ := write_spec h3 h4 h.some_lane (by simpa [put, h.shaped.regs] using f.d.isLt) (by simp [put]) room
      exact ⟨_, (shrink_none h hf).trans (by rw [hw]; rfl), hx⟩
    · rw [shrink_none h hf, write_trap h3 h4 room]
      exact settle_trap (by simp [storageTrap, TrapInfo.at])
  · obtain ⟨-, -, h3, h4⟩ := h.spec
    have htrap := cover_trap (wide := [f.d.toNat]) h3 h4 (by simpa using room)
    simp only [List.length_singleton, Nat.one_mul] at htrap
    rw [shrink_widens h hf hw]
    rw [show cover c.s c.u c.sp.octets f.d.toNat c.A = _ from htrap]
    exact settle_trap (by simp [storageTrap, TrapInfo.at])

end Sys2Proof.Machine
end

section
/-! Checks of an instruction's own part, and accesses to the stack (05 R107-R109, R114, 07 R145). -/

namespace Sys2Proof.Machine

/-! ## Lanes that an instruction rejects -/

section
variable {i : Instr} {s b : State} {c k : Ctx} {cause : Nat} {m : LaneSet} {p q : Nat → Bool} {addr v : Nat → DWord}

/-- An instruction whose next step is a check of lanes rejects as the check says. -/
theorem Rejects.of_check {rest : Unit → Run Eff} (hb : k.s = b) (he : exec i s = settleRun c ((k.check cause m p addr).bind rest)) :
    Rejects i s c b cause m p addr := by
  intro l hm hp hlow
  rw [he, Ctx.check_trap hm hp hlow, hb]
  exact settle_trap (by simp [TrapInfo.at])

/-- What is checked matters in the lanes checked alone. -/
theorem Rejects.congr (h : Rejects i s c b cause m p addr) (hp : ∀ l, hasLane m l = true → p l = q l)
    (ha : ∀ l, hasLane m l = true → addr l = v l) : Rejects i s c b cause m q v := by
  intro l hm hq hlow
  have hset : laneSetOf (fun k => hasLane m k && p k) = laneSetOf (fun k => hasLane m k && q k) := laneSet_ext fun k hk => by
    cases hmk : hasLane m k with
    | false => simp [hmk]
    | true => simp [hmk, hp k hmk]
  rw [h l hm ((hp l hm).trans hq) fun k hk hmk => (hp k hmk).trans (hlow k hk hmk), hset, ha l hm]

/-! ## Targets (05 R107) -/

theorem misaligned_iff (a : DWord) : (a.extractLsb' 0 2 != 0#2) = (a.toNat % 4 != 0) := by
  rw [Bool.eq_iff_iff, bne_iff_ne, bne_iff_ne, Ne, ← BitVec.toNat_inj, BitVec.extractLsb'_toNat]
  simp

theorem beyond_iff (a : DWord) : (a.extractLsb' 57 7 != 0#7) = decide (2 ^ 57 ≤ a.toNat) := by
  have h := a.isLt
  rw [Bool.eq_iff_iff, bne_iff_ne, decide_eq_true_eq, Ne, ← BitVec.toNat_inj, BitVec.extractLsb'_toNat, Nat.shiftRight_eq_div_pow,
    BitVec.toNat_ofNat]
  omega

/-- Targets that are word addresses below 2^57 pass. -/
theorem targets_ok (h : ∀ l ∈ lanesOf m, goodTarget (v l)) : k.targets m v = .ok () := by
  have h1 : k.check 0x0008 m (fun l => (v l).extractLsb' 0 2 != 0#2) v = .ok () := Ctx.check_ok fun l hl => by
    rw [misaligned_iff, (h l ((mem_lanesOf _ _).mpr hl)).1]; rfl
  have h2 : k.check 0x0005 m (fun l => (v l).extractLsb' 57 7 != 0#7) v = .ok () := Ctx.check_ok fun l hl => by
    rw [beyond_iff, decide_eq_false (Nat.not_le.mpr (h l ((mem_lanesOf _ _).mpr hl)).2)]
  rw [Ctx.targets, h1, h2]
  rfl

/-- An instruction whose next step is the check of its targets tests them. -/
theorem TestsTargets.of_check {rest : Unit → Run Eff} (hb : k.s = b) (he : exec i s = settleRun c ((k.targets c.A v).bind rest)) :
    TestsTargets i s c b v := by
  have off : (fun l => (v l).extractLsb' 0 2 != 0#2) = fun l => (v l).toNat % 4 != 0 := funext fun l => misaligned_iff _
  have high : (fun l => (v l).extractLsb' 57 7 != 0#7) = fun l => decide (2 ^ 57 ≤ (v l).toNat) := funext fun l => beyond_iff _
  have hsplit : (k.targets c.A v).bind rest = (k.check 0x0008 c.A (fun l => (v l).toNat % 4 != 0) v).bind fun _ =>
      (k.check 0x0005 c.A (fun l => decide (2 ^ 57 ≤ (v l).toNat)) v).bind rest := by
    rw [Ctx.targets, off, high]
    cases k.check 0x0008 c.A (fun l => (v l).toNat % 4 != 0) v <;> rfl
  rw [hsplit] at he
  refine ⟨.of_check hb he, fun hal => .of_check (rest := rest) hb ?_⟩
  rw [he, Ctx.check_ok fun l hl => by rw [hal l ((mem_lanesOf _ _).mpr hl)]; rfl]
  rfl

theorem TestsTargets.congr {w : Nat → DWord} (h : TestsTargets i s c b v) (hv : ∀ l ∈ c.lanes, v l = w l) : TestsTargets i s c b w := by
  have hl : ∀ l, hasLane c.A l = true → v l = w l := fun l hl => hv l ((mem_lanesOf _ _).mpr hl)
  obtain ⟨h1, h2⟩ := h
  exact ⟨h1.congr (fun l hm => by rw [hl l hm]) hl,
    fun hal => (h2 fun l hm => by rw [hv l hm]; exact hal l hm).congr (fun l hm => by rw [hl l hm]) hl⟩

end

/-! ## Accesses to the stack -/

/-- The first of several accesses of a lane among those of many. -/
theorem find_lane {n : Nat} (hn : 0 < n) (g : Nat → Nat → Req) (hg : ∀ x i, (g x i).lane = x) (l : Nat) :
    ∀ ls : List Nat, l ∈ ls → (ls.flatMap (fun x => (List.range n).map (g x))).find? (fun q => q.lane == l) = some (g l 0)
  | x :: ls, hl => by
    obtain ⟨j, rfl⟩ := Nat.exists_eq_succ_of_ne_zero (Nat.pos_iff_ne_zero.mp hn)
    rw [List.flatMap_cons, List.find?_append]
    by_cases hx : x = l
    · subst hx
      rw [List.range_succ_eq_map, List.map_cons, List.find?_cons_of_pos (by simp [hg])]
      rfl
    · have hnone : ((List.range (j + 1)).map (g x)).find? (fun q => q.lane == l) = none :=
        List.find?_eq_none.mpr fun q hq => by
          obtain ⟨i, -, rfl⟩ := List.mem_map.mp hq
          simp [hg, hx]
      rw [hnone, Option.none_or]
      exact find_lane hn g hg l ls ((List.mem_cons.mp hl).resolve_left fun e => hx e.symm)

theorem Loc.plus_plus (l : Loc) (i j : Nat) : (l.plus i).plus j = l.plus (i + j) := by
  cases l <;> simp [Loc.plus, Nat.add_assoc]

/-- Bytes of which none is poisoned have no poisoned part. -/
theorem stillPoisoned_part {s : State} {u lane n i k : Nat} {l : Loc} (h : stillPoisoned s u lane l n = false) (hk : i + k ≤ n) :
    stillPoisoned s u lane (l.plus i) k = false := by
  simp only [stillPoisoned, List.any_eq_false, List.mem_range] at h ⊢
  intro j hj
  rw [Loc.plus_plus]
  exact h (i + j) (by omega)

/-- The accesses of lanes to words of their own memory, once they have passed their checks: one of each lane. -/
def Ctx.stackHits (c : Ctx) (m : LaneSet) (base : Nat → Nat) (n : Nat) (data : Nat → List Byte) : List Acc :=
  (lanesOf m).map (fun l => Acc.mk l (c.privAt l (base l)) (4 * n) 0 (data l) 0#64 (wide64 (base l)) 0)

/-- What becomes of the accesses that have passed their checks. -/
def Ctx.stackFound (m : LaneSet) (base : Nat → Nat) (n : Nat) (data : Nat → List Byte) (hits : List Hit) : Run (List Acc) :=
  .ok ((lanesOf m).filterMap (fun l =>
    (hits.find? (fun h => h.req.lane == l)).map (fun h => Acc.mk l h.loc (4 * n) 0 (data l) 0#64 (wide64 (base l)) 0)))

section
variable {c : Ctx} {s : State} {m : LaneSet} {wr : Bool} {base : Nat → Nat} {n : Nat}

theorem stackAccs_eq (data : Nat → List Byte) : c.stackAccs s m wr base n data =
    (checkAll c s 9 0 (!wr) (stackReqs m wr base n)).bind (Ctx.stackFound m base n data) := rfl

theorem stackReqs_lane {q : Req} (h : q ∈ stackReqs m wr base n) : q.lane < 64 := by
  obtain ⟨l, hl, hq⟩ := List.mem_flatMap.mp h
  obtain ⟨i, -, rfl⟩ := List.mem_map.mp hq
  exact hasLane_lt ((mem_lanesOf _ _).mp hl)

/-- Aligned words inside the lanes' own memory, of which none that is read is poisoned, pass their checks. -/
theorem stackAccs_ok (data : Nat → List Byte) (hn : 0 < n) (ha : ∀ l ∈ lanesOf m, base l % 4 = 0)
    (hp : ∀ l ∈ lanesOf m, base l + 4 * n ≤ c.launch.priv) (hw : ∀ l ∈ lanesOf m, base l + 4 * n ≤ 2 ^ 64)
    (hc : wr = false → ∀ l ∈ lanesOf m, stillPoisoned s c.u l (c.privAt l (base l)) (4 * n) = false) :
    c.stackAccs s m wr base n data = .ok (c.stackHits m base n data) := by
  have haddr : ∀ l ∈ lanesOf m, ∀ i < n, (wide64 (base l + 4 * i)).toNat = base l + 4 * i := fun l hl i hi => by
    have := hw l hl
    rw [wide64, BitVec.toNat_ofNat, Nat.mod_eq_of_lt (by omega)]
  have hreach : ∀ q ∈ stackReqs m wr base n, Reaches c s 0 (!wr) q (c.privAt q.lane q.addr.toNat) 0 := fun q hq => by
    obtain ⟨l, hl, hq⟩ := List.mem_flatMap.mp hq
    obtain ⟨i, hi, rfl⟩ := List.mem_map.mp hq
    have hi := List.mem_range.mp hi
    have hal := ha l hl
    have hpl := hp l hl
    simp only [Reaches, haddr l hl i hi]
    refine ⟨by omega, Nat.le_refl 0, fun hr => ?_, .here (c.privAt l (base l + 4 * i)), ?_, rfl⟩
    · exact stillPoisoned_part (i := 4 * i) (hc (by simpa using hr) l hl) (by omega)
    · simp only [resolve, haddr l hl i hi]
      exact if_pos (by omega)
  rw [stackAccs_eq, checkAll_ok 9 0 (!wr) _ (fun q => c.privAt q.lane q.addr.toNat) (fun _ => 0) hreach]
  refine congrArg Except.ok ((List.filterMap_congr fun l hl => ?_).trans (congrFun (List.filterMap_eq_map (f := fun l =>
    Acc.mk l (c.privAt l (base l)) (4 * n) 0 (data l) 0#64 (wide64 (base l)) 0)) _))
  rw [List.find?_map]
  have hfind := find_lane hn (fun x i => ⟨x, wide64 (base x + 4 * i), 4, .priv, wr⟩) (fun _ _ => rfl) l (lanesOf m) hl
  rw [show (fun h : Hit => h.req.lane == l) ∘ (fun r => (⟨r, c.privAt r.lane r.addr.toNat, 0⟩ : Hit)) = fun q => q.lane == l from rfl,
    stackReqs, hfind, Option.map_some, Option.map_some, haddr l hl 0 hn]
  rfl

end

end Sys2Proof.Machine
end

section
/-! Calls, returns and the stacks (O15; 05 R107-R109, R114, R115). -/

namespace Sys2Proof.Machine

/-! ## %sp (05 R108) -/

section
variable {c : Ctx} {m : LaneSet}

theorem Ctx.stack_lt (c : Ctx) (l : Nat) : c.stack l < 2 ^ 32 := (c.sp.lane l).sp.isLt

theorem stackAligned_ok (h : ∀ l ∈ lanesOf m, c.stack l % 16 = 0) : c.stackAligned m = .ok () :=
  Ctx.check_ok fun l hl => by rw [h l ((mem_lanesOf _ _).mpr hl)]; rfl

theorem stackRoom_ok {size : Nat} (h : ∀ l ∈ lanesOf m, (c.sp.lane l).splim.toNat + size ≤ c.stack l) : c.stackRoom m size = .ok () :=
  Ctx.check_ok fun l hl => decide_eq_false (Nat.not_lt.mpr (h l ((mem_lanesOf _ _).mpr hl)))

theorem stackAccs_trap {s : State} {wr : Bool} {base : Nat → Nat} {n : Nat} {t : TrapInfo} (data : Nat → List Byte)
    (h : checkAll c s 9 0 (!wr) (stackReqs m wr base n) = .error (.trap s t)) : c.stackAccs s m wr base n data = .error (.trap s t) := by
  rw [stackAccs_eq, h]
  rfl

/-- The span whose lanes of m have their %sp moved. -/
def Span.stackMoved (x : Span) (m : LaneSet) (by_ : Word) : Span := x.modLanes m (fun _ y => { y with sp := y.sp + by_ })

theorem Span.stackMoved_neg (x : Span) (m : LaneSet) (k : Word) : x.stackMoved m (-k) = x.modLanes m (fun _ y => { y with sp := y.sp - k }) := by
  simp only [Span.stackMoved, BitVec.sub_eq_add_neg]

theorem moveStack_becomes {s : State} {u : Nat} {x : Span} (h : s.span? u = some x) (m : LaneSet) (by_ : Word) :
    Becomes s (moveStack s u m by_) u (x.stackMoved m by_) :=
  Becomes.modSpan (f := fun x => x.stackMoved m by_) h fun _ => rfl

/-- Lanes of m stand at their targets, the rest of the group goes on. -/
theorem jumps_split {b : State} {x : Span} (h : b.span? c.u = some x) (m : LaneSet) (f : Nat → Nat) :
    Becomes b (jump (goOn b c.iss (c.G &&& ~~~m)) c.iss m f) c.u (c.split x m fun l q => q.at_ (f l)) :=
  ⟨(jump_goOn h c.G m f).1, (jump_goOn h c.G m f).2⟩

/-- Targets matter in the lanes that go to them alone. -/
theorem Ctx.split_congr (x : Span) {f g : Nat → Pos → Pos} (h : ∀ l, hasLane m l = true → ∀ q, f l q = g l q) :
    c.split x m f = c.split x m g := by
  have hfg : (fun l y => if hasLane m l then f l y else c.iss.after y) = fun l y => if hasLane m l then g l y else c.iss.after y :=
    funext fun l => funext fun y => by
      by_cases hl : hasLane m l = true
      · rw [if_pos hl, if_pos hl, h l hl]
      · rw [if_neg hl, if_neg hl]
  have hfg : ∀ l y, (if hasLane m l then f l y else c.iss.after y) = if hasLane m l then g l y else c.iss.after y :=
    fun l y => congrFun (congrFun hfg l) y
  simp only [Ctx.split, hfg]

end

/-! ## Calls (05 R107, R108) -/

section
variable {i : Instr} {s : State} {c : Ctx} {m : LaneSet} {checks : Run Unit} {target : Nat → Nat}

/-- What follows the checks of a call's %sp. -/
def Ctx.callRest (c : Ctx) (m : LaneSet) (target : Nat → Nat) (accs : List Acc) : Run Eff :=
  .ok (.moved (jump (goOn (moveStack (addStore c.s c.u m accs) c.u m (-16#32)) c.iss (c.G &&& ~~~m)) c.iss m target))

theorem callLanes_eq : callLanes c m checks target = (c.stackAligned m).bind fun _ => (c.stackRoom m 16).bind fun _ => checks.bind fun _ =>
    (c.stackAccs c.s m true (fun l => c.stack l - 16) 4 (fun _ => natBytes 8 c.iss.next ++ natBytes 8 0)).bind (c.callRest m target) := rfl

theorem calls_testStack (he : exec i s = settleRun c (callLanes c m checks target)) : TestsStack i s c m ∧ TestsRoom i s c m 16 := by
  rw [callLanes_eq] at he
  refine ⟨Rejects.of_check rfl he, fun hal => ?_⟩
  rw [stackAligned_ok hal] at he
  exact Rejects.of_check rfl he

/-- A call whose %sp are aligned and have room goes on to its targets and its frame. -/
theorem calls_onward (he : exec i s = settleRun c (callLanes c m checks target))
    (hal : ∀ l ∈ lanesOf m, c.stack l % 16 = 0 ∧ (c.sp.lane l).splim.toNat + 16 ≤ c.stack l) :
    exec i s = settleRun c (checks.bind fun _ =>
      (c.stackAccs c.s m true (fun l => c.stack l - 16) 4 (fun _ => natBytes 8 c.iss.next ++ natBytes 8 0)).bind (c.callRest m target)) := by
  rw [he, callLanes_eq, stackAligned_ok fun l hl => (hal l hl).1, stackRoom_ok fun l hl => (hal l hl).2]
  rfl

/-- With good targets a frame outside the lane's own memory is denied. -/
theorem calls_denied (he : exec i s = settleRun c (callLanes c m checks target)) (hchk : checks = .ok ())
    (hal : ∀ l ∈ lanesOf m, c.stack l % 16 = 0 ∧ (c.sp.lane l).splim.toNat + 16 ≤ c.stack l) :
    Denied i s c c.s 0 9 0 false (stackReqs m true (fun l => c.stack l - 16) 4) :=
  Denied.of_check (fun _ => stackReqs_lane) fun t ht hc => by
    rw [calls_onward he hal, hchk, stackAccs_trap _ hc]
    exact settle_trap (by omega)

/-- A call whose checks pass has called. -/
theorem calls_called (h : c.s.span? c.u = some c.sp) (he : exec i s = settleRun c (callLanes c m checks target)) (hchk : checks = .ok ())
    (hcall : c.callable m) : ∃ t, exec i s = .next t ∧ Called c t m target := by
  have haccs : c.stackAccs c.s m true (fun l => c.stack l - 16) 4 (fun _ => natBytes 8 c.iss.next ++ natBytes 8 0) =
      .ok (c.stackHits m (fun l => c.stack l - 16) 4 (fun _ => natBytes 8 c.iss.next ++ natBytes 8 0)) := by
    refine stackAccs_ok _ (by omega) (fun l hl => ?_) (fun l hl => ?_) (fun l hl => ?_) (fun e => by cases e)
    all_goals obtain ⟨h1, h2, h3⟩ := hcall l hl
    · omega
    · omega
    · have := c.stack_lt l
      omega
  have hstep := fun (b : State) (hb : b.span? c.u = some c.sp) =>
    (moveStack_becomes hb m (-16#32)).trans (jumps_split (c := c) (moveStack_becomes hb m (-16#32)).span m target)
  rw [Span.stackMoved_neg] at hstep
  refine ⟨_, (calls_onward he fun l hl => ⟨(hcall l hl).1, (hcall l hl).2.1⟩).trans (by rw [hchk, haccs]; rfl), rfl, ?_,
    (hstep c.s h).elsewhere⟩
  exact (hstep (addStore c.s c.u m _) h).span

end

/-! ## Returns (05 R109) -/

section
variable {s : State} {c : Ctx}

/-- What follows the check of the accesses of a return: the lanes' older accesses, then the targets. -/
def Ctx.returnTo (c : Ctx) (v : Nat → DWord) : Run Eff :=
  ({ c with s := drain c.s c.u c.A }.targets c.A v).bind fun _ =>
    .ok (.moved (jump (goOn (moveStack (drain c.s c.u c.A) c.u c.A 16#32) c.iss (c.G &&& ~~~c.A)) c.iss c.A (fun l => (v l).toNat)))

/-- The return address that an access of a lane finds. -/
def Ctx.returned (c : Ctx) (accs : List Acc) (l : Nat) : DWord :=
  (accs.find? (fun a => a.lane == l)).elim 0#64 (fun a => valueAt (drain c.s c.u c.A) a.loc 8)

theorem ret_exec (h : Issues s .ret c) : exec .ret s = settleRun c ((c.stackAligned c.A).bind fun _ =>
    (c.stackAccs c.s c.A false c.stack 2 (fun _ => [])).bind fun accs => c.returnTo (c.returned accs)) := instr_runs h false _

theorem returned_of_hits {l : Nat} (hl : l ∈ c.lanes) :
    c.returned (c.stackHits c.A c.stack 2 fun _ => []) l = valueAt (drain c.s c.u c.A) (c.privAt l (c.stack l)) 8 := by
  obtain ⟨x, hx⟩ := Option.isSome_iff_exists.mp (List.find?_isSome (p := fun k => k == l).mpr ⟨l, hl, by simp⟩)
  obtain rfl : x = l := by simpa using List.find?_some hx
  simp only [Ctx.returned, Ctx.stackHits, List.find?_map, Function.comp_def, show (lanesOf c.A).find? (fun k => k == x) = some x from hx,
    Option.map_some, Option.elim_some]

/-- A return whose addresses can be read comes to its targets. -/
theorem ret_reads (h : Issues s .ret c) (hal : ∀ l ∈ c.lanes, c.stack l % 16 = 0)
    (hp : ∀ l ∈ c.lanes, c.stack l + 8 ≤ c.launch.priv ∧ stillPoisoned c.s c.u l (c.privAt l (c.stack l)) 8 = false) :
    exec .ret s = settleRun c (c.returnTo (c.returned (c.stackHits c.A c.stack 2 fun _ => []))) := by
  rw [ret_exec h, stackAligned_ok hal, stackAccs_ok (fun _ => []) (by omega) (fun l hl => ?_) (fun l hl => (hp l hl).1) (fun l _ => ?_)
    fun _ l hl => (hp l hl).2]
  · rfl
  · have := hal l hl
    omega
  · have := c.stack_lt l
    omega

end

/-! ## Registers on the stack (05 R114) -/

section
variable {d n : Reg} {s : State} {c : Ctx}

theorem stackSize_bounds (n : Nat) : 4 * n ≤ stackSize n ∧ stackSize n % 16 = 0 ∧ stackSize n ≤ 4 * n + 12 := by
  simp only [stackSize]
  omega

theorem rangeOk_count (h : rangeOk d n = true) : 0 < n.toNat ∧ n.toNat ≤ 6 := by
  simp only [rangeOk, Bool.and_eq_true, decide_eq_true_eq] at h
  omega

/-- Work becomes outstanding for which slots have been taken, with %sp moved, and the group goes on. -/
theorem Reserved.queues_stack {r : State} {k : Nat} (h : Reserved c r k) (f : Nat → Work) (hk : (f r.fresh).resv = k) (by_ : Word) :
    Queued c (goOn (moveStack (r.addWork f) c.u c.A by_) c.iss c.G) (f c.s.fresh) (c.onward (c.sp.stackMoved c.A by_)) := by
  rw [← h.fresh]
  have hm := moveStack_becomes h.span c.A by_
  have hdrawn : Drawn c.s (moveStack r c.u c.A by_) c.deck.pier ((f r.fresh).resv - c.sp.spare) := hk ▸ h.drawn
  have hq := queued_of (f := f) (sp := c.sp.stackMoved c.A by_) hm.span (h.elsewhere.trans hm.elsewhere) rfl
    (congrArg (c.sp.used + ·) hk.symm) (congrArg (fun j => c.sp.grant + (j - c.sp.spare)) hk.symm) hdrawn
  exact hq

/-- The work of a store of the lanes of A to their stacks. -/
def Ctx.pushWork (c : Ctx) (accs : List Acc) (id : Nat) : Work :=
  { id := id, span := c.u, lanes := c.A, dsts := [], resv := 0, accs := accs, kind := .store, iss := none }

/-- The work of a load of a range of registers from there, with the slots taken for it. -/
def Ctx.popWork (c : Ctx) (d n : Reg) (resv : Nat) (accs : List Acc) (id : Nat) : Work :=
  { id := id, span := c.u, lanes := c.A, dsts := regRange d.toNat n.toNat, resv := resv, accs := accs, kind := .load 4#3, iss := some c.entry }

/-- The bytes of a range of registers of a lane. -/
def Ctx.rangeBytes (c : Ctx) (d n : Reg) (l : Nat) : List Byte := (regRange d.toNat n.toNat).flatMap (fun r => natBytes 4 (c.regVal r l).toNat)

theorem pushv_exec (h : Issues s (.pushv d n) c) : exec (.pushv d n) s = settleRun c ((c.stackAligned c.A).bind fun _ =>
    (c.stackRoom c.A (stackSize n.toNat)).bind fun _ =>
    (c.stackAccs c.s c.A true (fun l => c.stack l - stackSize n.toNat) n.toNat (c.rangeBytes d n)).bind fun accs =>
      .ok (.done (moveStack (addStore c.s c.u c.A accs) c.u c.A (-(BitVec.ofNat 32 (stackSize n.toNat)))))) := instr_runs h false _

theorem popv_exec (h : Issues s (.popv d n) c) : exec (.popv d n) s = settleRun c ((c.stackAligned c.A).bind fun _ =>
    (c.reserve c.s (regRange d.toNat n.toNat)).bind fun r =>
    (owning r.2 (c.stackAccs r.1 c.A false c.stack n.toNat (fun _ => []))).bind fun accs =>
      .ok (.done (moveStack (r.1.addWork (c.popWork d n r.2 accs)) c.u c.A (BitVec.ofNat 32 (stackSize n.toNat))))) := instr_runs h false _

/-- A pushv whose %sp are aligned and have room comes to its accesses. -/
theorem pushv_onward (h : Issues s (.pushv d n) c)
    (hal : ∀ l ∈ c.lanes, c.stack l % 16 = 0 ∧ (c.sp.lane l).splim.toNat + stackSize n.toNat ≤ c.stack l) :
    exec (.pushv d n) s = settleRun c ((c.stackAccs c.s c.A true (fun l => c.stack l - stackSize n.toNat) n.toNat (c.rangeBytes d n)).bind
      fun accs => .ok (.done (moveStack (addStore c.s c.u c.A accs) c.u c.A (-(BitVec.ofNat 32 (stackSize n.toNat)))))) := by
  rw [pushv_exec h, stackAligned_ok fun l hl => (hal l hl).1, stackRoom_ok fun l hl => (hal l hl).2]
  rfl

/-- A popv whose %sp are aligned comes to its accesses once it has taken its slots. -/
theorem popv_onward (h : Issues s (.popv d n) c) (hal : ∀ l ∈ c.lanes, c.stack l % 16 = 0) {r : State} {k : Nat}
    (hr : c.reserve c.s (regRange d.toNat n.toNat) = .ok (r, k)) :
    exec (.popv d n) s = settleRun c ((owning k (c.stackAccs r c.A false c.stack n.toNat (fun _ => []))).bind fun accs =>
      .ok (.done (moveStack (r.addWork (c.popWork d n k accs)) c.u c.A (BitVec.ofNat 32 (stackSize n.toNat))))) := by
  rw [popv_exec h, stackAligned_ok hal, hr]
  rfl

theorem pushv_accs (h : Issues s (.pushv d n) c)
    (hal : ∀ l ∈ c.lanes, c.stack l % 16 = 0 ∧ (c.sp.lane l).splim.toNat + stackSize n.toNat ≤ c.stack l ∧ c.stack l ≤ c.launch.priv) :
    c.stackAccs c.s c.A true (fun l => c.stack l - stackSize n.toNat) n.toNat (c.rangeBytes d n) =
      .ok (c.stackHits c.A (fun l => c.stack l - stackSize n.toNat) n.toNat (c.rangeBytes d n)) := by
  obtain ⟨s1, s2, -⟩ := stackSize_bounds n.toNat
  refine stackAccs_ok _ (rangeOk_count h.legal).1 (fun l hl => ?_) (fun l hl => ?_) (fun l hl => ?_) fun e => by cases e
  all_goals obtain ⟨h1, h2, h3⟩ := hal l hl
  · omega
  · omega
  · have := c.stack_lt l
    omega

theorem popv_accs (h : Issues s (.popv d n) c) {r : State} (hr : Alike c.s r)
    (hal : ∀ l ∈ c.lanes, c.stack l % 16 = 0 ∧ c.stack l + 4 * n.toNat ≤ c.launch.priv)
    (hp : ∀ l ∈ c.lanes, stillPoisoned c.s c.u l (c.privAt l (c.stack l)) (4 * n.toNat) = false) :
    c.stackAccs r c.A false c.stack n.toNat (fun _ => []) = .ok (c.stackHits c.A c.stack n.toNat (fun _ => [])) := by
  obtain ⟨n1, n2⟩ := rangeOk_count h.legal
  refine stackAccs_ok _ n1 (fun l hl => ?_) (fun l hl => (hal l hl).2) (fun l hl => ?_) fun _ l hl => ?_
  · have := (hal l hl).1
    omega
  · have := c.stack_lt l
    omega
  · rw [hr.stillPoisoned]
    exact hp l hl

end

/-- Settles O15: the checks of each in their order, then its accesses and where the lanes go. -/
theorem stackInstructions : Obligations.StackInstructions := by
  have hcall : ∀ {k off s c}, Issues s (.call k off) c → c.chosen k ≠ 0#64 →
      exec (.call k off) s = settleRun c (callLanes c (c.chosen k) (.ok ()) (fun _ => c.target off)) := fun h hne =>
    (instr_runs h false _).trans (congrArg (settleRun _) (if_neg (by simpa using hne)))
  have hcalli : ∀ {a hh s c}, Issues s (.calli a hh) c →
      exec (.calli a hh) s = settleRun c (callLanes c c.A (c.targets c.A (c.pair a)) (fun l => (c.pair a l).toNat)) := fun h => instr_runs h false _
  refine ⟨⟨fun k off s c h hne hc => calls_called h.span (hcall h hne) rfl hc, fun k off s c h hz => ?_,
    fun a hh s c h hc ht => calls_called h.span (hcalli h) (targets_ok ht) hc, fun i s c h m v hi => ?_⟩,
    ⟨fun s c h => ⟨Rejects.of_check rfl (ret_exec h), fun hal => ⟨?_, fun hp => ?_⟩⟩, fun s c h hal ht hp => ?_⟩,
    ⟨fun d n s c h => ⟨Rejects.of_check rfl (pushv_exec h), fun hal => ?_, fun hal => ?_⟩,
      fun d n s c h => ⟨Rejects.of_check rfl (popv_exec h), fun hal => ⟨fun room => ?_, fun r k hr => ?_⟩⟩,
      fun d n s c h hal => ?_, fun d n s c h room hal hp => ?_⟩⟩
  · exact instr_done h false _ (if_pos (by simpa using hz))
  · rcases hi with ⟨k, off, rfl, rfl, hne, rfl⟩ | ⟨a, hh, rfl, rfl, rfl⟩
    · obtain ⟨h1, h2⟩ := calls_testStack (hcall h hne)
      exact ⟨h1, h2, fun hal => ⟨fun ⟨_, _, e⟩ => (by cases e), fun _ => calls_denied (hcall h hne) rfl hal⟩⟩
    · obtain ⟨h1, h2⟩ := calls_testStack (hcalli h)
      exact ⟨h1, h2, fun hal => ⟨fun _ => .of_check rfl (calls_onward (hcalli h) hal),
        fun ht => calls_denied (hcalli h) (targets_ok ht) hal⟩⟩
  · refine Denied.of_check (fun _ => stackReqs_lane) fun t ht hc => ?_
    rw [ret_exec h, stackAligned_ok hal, stackAccs_trap _ hc]
    exact settle_trap (by omega)
  · exact (TestsTargets.of_check (k := { c with s := drain c.s c.u c.A }) rfl (ret_reads h hal hp)).congr fun l hl => returned_of_hits hl
  · obtain ⟨x, hx, -⟩ := h.drained c.A
    have hv : ∀ l ∈ c.lanes, c.returned (c.stackHits c.A c.stack 2 fun _ => []) l = valueAt (drain c.s c.u c.A) (c.privAt l (c.stack l)) 8 :=
      fun l hl => returned_of_hits hl
    have hm := moveStack_becomes hx c.A 16#32
    have hj := hm.trans (jumps_split (c := c) hm.span c.A fun l => (c.returned (c.stackHits c.A c.stack 2 fun _ => []) l).toNat)
    rw [Ctx.split_congr (g := fun l q => q.at_ (valueAt (drain c.s c.u c.A) (c.privAt l (c.stack l)) 8).toNat) _
      fun l hl q => by rw [hv l ((mem_lanesOf _ _).mpr hl)]] at hj
    refine ⟨x, _, hx, ?_, hj⟩
    rw [ret_reads h (fun l hl => (hal l hl).1) fun l hl => ⟨(hal l hl).2, hp l hl⟩, Ctx.returnTo,
      targets_ok fun l hl => by rw [hv l hl]; exact ht l hl]
    rfl
  · have he := pushv_exec h
    rw [stackAligned_ok hal] at he
    exact Rejects.of_check rfl he
  · refine Denied.of_check (fun _ => stackReqs_lane) fun t ht hc => ?_
    rw [pushv_onward h hal, stackAccs_trap _ hc]
    exact settle_trap (by omega)
  · rw [popv_exec h, stackAligned_ok hal]
    exact settle_noRoom h _ room _
  · refine Denied.of_check (fun _ => stackReqs_lane) fun t ht hc => ?_
    rw [popv_onward h hal hr, owning_trap (stackAccs_trap _ hc)]
    rfl
  · have hq := (Reserved.none h.span).queues_stack (c.pushWork (c.stackHits c.A (fun l => c.stack l - stackSize n.toNat)
      n.toNat (c.rangeBytes d n))) rfl (-(BitVec.ofNat 32 (stackSize n.toNat)))
    rw [Span.stackMoved_neg] at hq
    refine ⟨_, ?_, hq⟩
    rw [pushv_onward h fun l hl => ⟨(hal l hl).1, (hal l hl).2.1⟩, pushv_accs h hal]
    rfl
  · obtain ⟨r, hr, hres⟩ := h.reserves (regRange d.toNat n.toNat) room
    refine ⟨_, ?_, hres.queues_stack (c.popWork d n (needAtIssue c (regRange d.toNat n.toNat))
      (c.stackHits c.A c.stack n.toNat (fun _ => []))) rfl (BitVec.ofNat 32 (stackSize n.toNat))⟩
    rw [popv_onward h (fun l hl => (hal l hl).1) hr, popv_accs h hres.alike hal hp]
    rfl

end Sys2Proof.Machine
end

section
/-! Branches, and lanes that end (O14; 05 R106, R107, R111, R112). -/

namespace Sys2Proof.Machine

/-! ## Spans whose lanes move -/

/-- Span y is span x but for where its lanes stand, and a lane has exited in one where it has in the other. -/
def Span.Moved (x y : Span) : Prop :=
  ∃ f : Pos → Pos, (∀ q, (f q).st = .exited ↔ q.st = .exited) ∧ y = { x with lanes := x.lanes.map (Lane.mapPos f) }

namespace Span.Moved
variable {x y z : Span}

theorem refl (x : Span) : x.Moved x := by
  have hid : Lane.mapPos id = id := funext fun l => by
    cases l
    simp [Lane.mapPos]
  exact ⟨id, fun _ => Iff.rfl, by rw [hid, List.map_id]⟩

theorem trans (h : x.Moved y) (k : y.Moved z) : x.Moved z := by
  obtain ⟨f, hf, rfl⟩ := h
  obtain ⟨g, hg, rfl⟩ := k
  have hfg : Lane.mapPos g ∘ Lane.mapPos f = Lane.mapPos (g ∘ f) := funext fun l => by
    cases l
    simp [Lane.mapPos]
  exact ⟨g ∘ f, fun q => (hg (f q)).trans (hf q), by rw [List.map_map, hfg]⟩

theorem uid (h : x.Moved y) : y.uid = x.uid := by
  obtain ⟨f, -, rfl⟩ := h
  rfl

/-- All but the lanes is as it was. -/
theorem same {α : Type} (h : x.Moved y) (p : Span → α) (hp : ∀ (v : Span) (ls : List Lane), p { v with lanes := ls } = p v) : p y = p x := by
  obtain ⟨f, -, rfl⟩ := h
  exact hp x _

/-- A lane has exited where it had, and its %rsn is as it was. -/
theorem lane (h : x.Moved y) (l : Nat) : ((y.lane l).pos.st = .exited ↔ (x.lane l).pos.st = .exited) ∧ (y.lane l).rsn = (x.lane l).rsn := by
  obtain ⟨f, hf, rfl⟩ := h
  by_cases hl : l < x.lanes.length
  · rw [Span.lane_map x _ hl]
    exact ⟨hf _, rfl⟩
  · simp [Span.lane, hl]

theorem live (h : x.Moved y) : y.live = x.live := laneSet_ext fun l hl => by
  have hw : y.width = x.width := h.same Span.width fun _ _ => rfl
  simp only [Span.live, hasLane_laneSetOf, hw]
  congr 2
  rw [Bool.eq_iff_iff, bne_iff_ne, bne_iff_ne]
  exact not_congr (h.lane l).1

theorem leaveIf (x : Span) (p : Nat → Wait → Bool) : x.Moved (x.leaveIf p) := by
  refine ⟨_, fun q => ?_, rfl⟩
  cases hq : q.st with
  | waiting w => cases hp : p q.pc w <;> simp [Pos.leaveIf, hq, hp, Pos.step]
  | standing => simp [Pos.leaveIf, hq]
  | exited => simp [Pos.leaveIf, hq]

theorem joinWave (x : Span) (n : Nat) (gen : Word) : x.Moved { x with lanes := x.lanes.map (Lane.mapPos (Machine.joinWave n gen)) } := by
  refine ⟨_, fun q => ?_, rfl⟩
  cases hq : q.st with
  | waiting w => cases hp : phaseOver n gen q.pc w <;> simp [Machine.joinWave, hq, hp]
  | standing => simp [Machine.joinWave, hq]
  | exited => simp [Machine.joinWave, hq]

end Span.Moved

/-- Span u is in t as it is in s but for where its lanes stand. -/
def LanesMove (u : Nat) (s t : State) : Prop := ∀ x, s.span? u = some x → ∃ y, t.span? u = some y ∧ x.Moved y

namespace LanesMove
variable {u : Nat} {s t w : State}

theorem of_spans (h : t.spans = s.spans) : LanesMove u s t := fun x hx => ⟨x, (State.span?_congr h u).trans hx, .refl x⟩

theorem trans (h : LanesMove u s t) (k : LanesMove u t w) : LanesMove u s w := fun x hx => by
  obtain ⟨y, hy, hxy⟩ := h x hx
  obtain ⟨z, hz, hyz⟩ := k y hy
  exact ⟨z, hz, hxy.trans hyz⟩

theorem modSpan (s : State) (v : Nat) {f : Span → Span} (hf : ∀ x : Span, x.Moved (f x)) : LanesMove u s (s.modSpan v f) := fun x hx => by
  rw [State.span?_modSpan _ _ _ _ fun x => (hf x).uid, hx]
  split
  · exact ⟨f x, rfl, hf x⟩
  · exact ⟨x, rfl, .refl x⟩

theorem foldl {α : Type} {f : State → α → State} (hf : ∀ s a, LanesMove u s (f s a)) :
    ∀ (l : List α) (s : State), LanesMove u s (l.foldl f s)
  | [], _ => of_spans rfl
  | a :: l, s => (hf s a).trans (foldl hf l _)

end LanesMove

/-! ## Barriers that are tested (07 R166, R167) -/

@[simp] theorem modBar_spans (s : State) (deck girder n : Nat) (f : Bar → Bar) : (s.modBar deck girder n f).spans = s.spans := by
  unfold State.modBar
  split <;> rfl

theorem barComplete_moves (u : Nat) (s : State) (deck girder n : Nat) : LanesMove u s (barComplete s deck girder n).1 := by
  unfold barComplete
  dsimp only
  split
  · exact .of_spans rfl
  · exact (LanesMove.of_spans (modBar_spans ..)).trans
      (LanesMove.foldl (fun s x => LanesMove.modSpan s _ fun y => (Span.Moved.joinWave y _ _).trans (Span.Moved.leaveIf _ _)) _ _)

theorem releaseWaves_moves (u : Nat) (s : State) (deck : Nat) (out : List (Nat × Nat)) : LanesMove u s (releaseWaves s deck out) := by
  unfold releaseWaves
  split
  · exact .of_spans rfl
  · dsimp only
    split
    · exact LanesMove.foldl (fun s x => LanesMove.modSpan s _ fun y => Span.Moved.leaveIf y _) _ _
    · exact .of_spans rfl

/-- One barrier of several is tested, and the spans that it releases are noted. -/
def barStep (deck girder : Nat) (x : State × List (Nat × Nat)) (n : Nat) : State × List (Nat × Nat) :=
  let y := barComplete x.1 deck girder n
  (y.1, x.2 ++ y.2)

theorem barCheckList_eq (s : State) (deck girder : Nat) (ns : List Nat) : barCheckList s deck girder ns =
    releaseWaves (ns.foldl (barStep deck girder) (s, [])).1 deck (ns.foldl (barStep deck girder) (s, [])).2 := rfl

theorem barSteps_move (u deck girder : Nat) : ∀ (ns : List Nat) (x : State × List (Nat × Nat)),
    LanesMove u x.1 (ns.foldl (barStep deck girder) x).1
  | [], _ => .of_spans rfl
  | n :: ns, x => LanesMove.trans (barComplete_moves u x.1 deck girder n) (barSteps_move u deck girder ns (barStep deck girder x n))

/-- A test of barriers changes of a span only where its lanes stand. -/
theorem barCheckList_moves (u : Nat) (s : State) (deck girder : Nat) (ns : List Nat) : LanesMove u s (barCheckList s deck girder ns) := by
  rw [barCheckList_eq]
  exact LanesMove.trans (barSteps_move u deck girder ns (s, [])) (releaseWaves_moves u _ deck _)

/-! ## Lanes that end (05 R112) -/

/-- A lane that has ended. -/
def Lane.ended (now : Nat) (l : Lane) : Lane :=
  { l with pos := { l.pos with st := .exited }, held := none, rsn := 0#4, exitAt := if l.rsn == 0#4 then l.exitAt else now, plvl := none }

/-- A span whose lanes of m have ended, before the masks lose them. -/
def Span.ending (sp : Span) (now : Nat) (m : LaneSet) : Span :=
  { sp.modLanes m (fun _ l => l.ended now) with ended := sp.ended ||| m }

/-- A span whose lanes of m have ended and left every mask. -/
def Span.withEnded (sp : Span) (now : Nat) (m : LaneSet) : Span :=
  { sp.ending now m with masks := sp.masks.map (fun k => k &&& (sp.ending now m).maskable) }

theorem endLanes_eq {s : State} {u : Nat} {sp : Span} (hs : s.span? u = some sp) (m : LaneSet) :
    endLanes s u m = barCheckAll (s.modSpan u (fun x => settleSets (x.withEnded s.fresh m))) sp.deck ((s.deck? sp.deck).elim 0 (·.girder)) := by
  simp only [endLanes, hs]
  rfl

section
variable {sp : Span} {now : Nat} {m : LaneSet}

theorem ended_lane (hlen : sp.lanes.length = sp.width) {l : Nat} (hl : l < sp.width) :
    (sp.withEnded now m).lane l = if hasLane m l = true then (sp.lane l).ended now else sp.lane l :=
  Span.lane_modLanes sp m (fun _ l => l.ended now) l (hlen ▸ hl)

theorem ended_live (hlen : sp.lanes.length = sp.width) : (sp.withEnded now m).live = sp.live &&& ~~~m := laneSet_ext fun l hl => by
  simp only [Span.live, hasLane_and, hasLane_laneSetOf, hasLane_not, hl, decide_true, Bool.true_and]
  show (decide (l < sp.width) && _) = _
  by_cases hw : l < sp.width
  · rw [ended_lane hlen hw]
    cases hm : hasLane m l <;> simp [Lane.ended]
  · simp [hw]

theorem ended_maskable (hlen : sp.lanes.length = sp.width) : (sp.withEnded now m).maskable = sp.maskable &&& ~~~m := by
  show (sp.withEnded now m).live &&& ~~~(sp.ended ||| m) = sp.live &&& ~~~sp.ended &&& ~~~m
  rw [ended_live hlen]
  refine laneSet_ext fun l hl => ?_
  simp only [hasLane_and, hasLane_not, hasLane_or, hl, decide_true, Bool.true_and]
  cases hasLane sp.live l <;> cases hasLane m l <;> cases hasLane sp.ended l <;> rfl

theorem ended_mask (k : Nat) : (sp.withEnded now m).mask k = sp.mask k &&& (sp.withEnded now m).maskable := by
  show (sp.masks.map (fun j => j &&& (sp.ending now m).maskable)).getD k 0#64 = sp.masks.getD k 0#64 &&& (sp.ending now m).maskable
  by_cases hk : k < sp.masks.length <;> simp [List.getD_eq_getElem?_getD, hk]

end

/-- Ended lanes stay so while the barriers are tested, and the masks stay without them. -/
theorem endLanes_ends {s : State} {u : Nat} {m : LaneSet} {sp : Span} (hs : s.span? u = some sp) (hlen : sp.lanes.length = sp.width) :
    ∃ x, (endLanes s u m).span? u = some x ∧ x.live = sp.live &&& ~~~m ∧ x.maskable = sp.maskable &&& ~~~m ∧
      (∀ k, x.mask k = sp.mask k &&& x.maskable) ∧ x.regs = sp.regs ∧
      (∀ l < sp.width, hasLane m l = true → (x.lane l).rsn = 0#4 ∧ (x.lane l).pos.st = .exited) := by
  have hb := Becomes.modSpan (f := fun x => settleSets (x.withEnded s.fresh m)) hs fun _ => rfl
  obtain ⟨x, hx, hmoved⟩ := barCheckList_moves u _ sp.deck ((s.deck? sp.deck).elim 0 (·.girder)) (List.range 20) _ hb.span
  have hmoved : (sp.withEnded s.fresh m).Moved x := (Span.Moved.leaveIf _ _).trans hmoved
  have hmask : x.maskable = (sp.withEnded s.fresh m).maskable := by
    rw [Span.maskable, hmoved.live, hmoved.same Span.ended fun _ _ => rfl]
    rfl
  refine ⟨x, (congrArg (·.span? u) (endLanes_eq hs m)).trans hx, hmoved.live.trans (ended_live hlen), hmask.trans (ended_maskable hlen),
    fun k => ?_, hmoved.same Span.regs fun _ _ => rfl, fun l hl hm => ?_⟩
  · rw [hmask, ← ended_mask]
    exact hmoved.same (·.mask k) fun _ _ => rfl
  · obtain ⟨h1, h2⟩ := hmoved.lane l
    rw [ended_lane hlen hl, if_pos hm] at h1 h2
    exact ⟨h2, h1.mpr rfl⟩

/-! ## Exits -/

section
variable {k : BitVec 4} {s : State} {c : Ctx}

/-- The lanes of an exit end, which is an endser where the run lane is one of them (05 R111, R112). -/
def Ctx.exited (c : Ctx) (e : LaneSet) : Run State := match c.sp.serial with
  | some z => if hasLane e z.run = true
      then (c.settleResume (endLanes (goOn (drain c.s c.u (oneLane z.run)) c.iss (c.G &&& ~~~e)) c.u e)).map (fun t => endPass t c.u)
      else .ok (endLanes (goOn c.s c.iss (c.G &&& ~~~e)) c.u e)
  | none => .ok (endLanes (goOn c.s c.iss (c.G &&& ~~~e)) c.u e)

/-- What follows the end of the lanes: the handler's end, once the pages of its frame have been asked for. -/
def Ctx.leaves (c : Ctx) (t : State) : Run Eff := match exitAsks t c.cx c.u with
  | some p => .error (.retry c.before (some p))
  | none => .ok (.moved (endTrapByExit t c.u))

theorem leaves_moved {t : State} (h : exitAsks t c.cx c.u = none) : c.leaves t = .ok (.moved (endTrapByExit t c.u)) := by
  rw [Ctx.leaves, h]

theorem leaves_asks {t : State} {page : Nat} (h : exitAsks t c.cx c.u = some page) : c.leaves t = .error (.retry c.before (some page)) := by
  rw [Ctx.leaves, h]

theorem exit_exec (h : Issues s (.exit k) c) : exec (.exit k) s = settleRun c ((c.exited (c.chosen k)).bind c.leaves) := by
  refine (instr_runs h false _).trans (congrArg (settleRun c) ?_)
  cases hz : c.sp.serial with
  | none =>
    simp only [Ctx.exited, hz, Option.any_none, Bool.false_eq_true, if_false]
    rfl
  | some z =>
    cases hr : hasLane (c.chosen k) z.run with
    | false =>
      simp only [Ctx.exited, hz, Option.any_some, hr, Bool.false_eq_true, if_false]
      rfl
    | true =>
      simp only [Ctx.exited, hz, Option.any_some, hr, if_true]
      rfl

/-- A span that runs no handler has no frame that an exit reads. -/
theorem exitAsks_none {cx : Context} {u : Nat} (h : ∀ sp, s.span? u = some sp → sp.trap = none) : exitAsks s cx u = none := by
  cases hs : s.span? u with
  | none => simp [exitAsks, hs]
  | some sp => simp [exitAsks, hs, h sp hs]

theorem endTrapByExit_none {u : Nat} (h : ∀ sp, s.span? u = some sp → sp.trap = none) : endTrapByExit s u = s := by
  cases hs : s.span? u with
  | none => simp only [endTrapByExit, hs]
  | some sp => simp only [endTrapByExit, hs, h sp hs]

end

/-- Settles O14: the lanes of each go where it sends them; those of an exit end, and the barriers are tested. -/
theorem branchesAndExits : Obligations.BranchesAndExits := by
  refine ⟨⟨fun k off s c h => ?_, fun a hh s c h ht => ?_, fun a hh s c h => .of_check rfl (instr_runs h false _)⟩,
    fun k s c h => ⟨fun t hr => ⟨fun ha => ?_, fun page ha => ?_⟩, fun r hr => ?_⟩, fun s cx u h => exitAsks_none h,
    fun s u h => endTrapByExit_none h, fun s u m sp d hs hd hlen hw => ?_, settleSets_spec, fun s u m sp hs hlen hw => endLanes_ends hs hlen⟩
  · have hm : (if k.toNat = 0 then c.A else c.A &&& c.sp.mask (k.toNat - 1)) = c.chosen k := by
      by_cases hk : k = 0#4
      · simp [Ctx.chosen, hk]
      · rw [Ctx.chosen, if_neg (toNat_ne_zero.mpr hk), if_neg (by simpa using hk)]
        rfl
    rw [hm]
    exact ⟨_, instr_moved h false _ rfl, jumps_split h.span (c.chosen k) fun _ => c.target off⟩
  · exact ⟨_, instr_moved h false _ (by rw [targets_ok ht]; rfl), jumps_split h.span c.A fun l => (c.pair a l).toNat⟩
  · rw [exit_exec h, show c.exited (c.chosen k) = .ok t from hr]
    exact congrArg (settleRun c) (leaves_moved ha)
  · rw [exit_exec h, show c.exited (c.chosen k) = .ok t from hr]
    exact congrArg (settleRun c) (leaves_asks ha)
  · rw [exit_exec h, show c.exited (c.chosen k) = .error r from hr]
    rfl
  · refine ⟨sp.withEnded s.fresh m, _, (endLanes_eq hs m).trans (by rw [hd]; rfl),
      Becomes.modSpan (f := fun x => settleSets (x.withEnded s.fresh m)) hs fun _ => rfl, ended_live hlen, rfl, ended_mask, rfl, fun l hl => ?_⟩
    rw [ended_lane hlen hl]
    simp only [Lane.ended, beq_iff_eq]

end Sys2Proof.Machine
end

section
/-! Lane exchange, votes and matches (O10; 06 R132-R135, R138). -/

namespace Sys2Proof.Machine

/-- The source lane by the mode's number (06 R133): `up` and `down` stay at l where they would leave the span. -/
theorem shflLane_eq (mode : BitVec 2) (w l n : Nat) : shflLane mode w l n = match mode.toNat with
    | 0 => n % w
    | 1 => if n ≤ l then l - n else l
    | 2 => if l + n < w then l + n else l
    | _ => l ^^^ (n % w) := by
  have modes : ∀ m : BitVec 2, m = 0#2 ∨ m = 1#2 ∨ m = 2#2 ∨ m = 3#2 := by decide
  rcases modes mode with rfl | rfl | rfl | rfl <;> rfl

section
variable (c : Ctx) (a : Reg)

/-- `vote.any` tests that some executing lane's value is not zero (06 R135). -/
theorem any_nonzero_iff : c.lanes.any (fun j => c.src a j != 0#32) = true ↔ ∃ j ∈ c.lanes, c.src a j ≠ 0#32 := by
  simp only [List.any_eq_true, bne_iff_ne]

/-- `vote.all` tests that no executing lane's value is zero (06 R135). -/
theorem all_nonzero_iff : c.lanes.all (fun j => c.src a j != 0#32) = true ↔ ∀ j ∈ c.lanes, c.src a j ≠ 0#32 := by
  simp only [List.all_eq_true, bne_iff_ne]

/-- `vote.uni` compares every executing lane with the lowest (06 R135). -/
theorem all_as_lowest_iff : c.lanes.all (fun j => c.src a j == c.src a c.low) = true ↔ ∀ j ∈ c.lanes, c.src a j = c.src a c.low := by
  simp only [List.all_eq_true, beq_iff_eq]

end

/-- The destination of a ballot is a pair. -/
theorem even_of_ballot {d a : Reg} (h : (Instr.vote d a 2#2).wf = true) : evenReg d = true := by
  simpa [Instr.wf] using h

/-- The destination of match is a pair. -/
theorem even_of_laneMatch {f : FormU} (h : (Instr.laneMatch f).wf = true) : evenReg f.d = true := (Bool.and_eq_true_iff.mp h).1

/-- Settles O10: each form is a write of one register or a pair; shfl by its source lane, a vote by the condition that it tests. -/
theorem laneExchangeResults : Obligations.LaneExchangeResults := by
  refine ⟨fun f => computes_put (fun _ => rfl) fun _ c l => ?_, fun _ => computes_one fun _ => rfl,
    fun d a => computes_put (fun _ => rfl) fun _ c _ => if_congr (any_nonzero_iff c a) rfl rfl,
    fun d a => computes_put (fun _ => rfl) fun _ c _ => if_congr (all_nonzero_iff c a) rfl rfl,
    fun _ _ => computes_pair even_of_ballot fun _ => rfl,
    fun d a => computes_put (fun _ => rfl) fun _ c _ => if_congr (all_as_lowest_iff c a) rfl rfl,
    fun _ => computes_pair even_of_laneMatch fun _ => rfl⟩
  exact congrArg (c.src f.a) (shflLane_eq f.h c.W l (c.srcB f.b l).toNat)

end Sys2Proof.Machine
end

section
/-! Stores and releases (O19; 07 R145, R148, R160, 10 R256). -/

namespace Sys2Proof.Machine

/-! ## Stores -/

section
variable {c : Ctx} {i : Instr} {s : State} {sp : Space} {sz : BitVec 3} {d : Reg} {ea : Nat → DWord} {rel : Nat → Nat} {now : Bool}

theorem store_denied (he : exec i s = settleRun c (c.store sp sz d ea rel now)) :
    Denied i s c c.s 0 2 3 false (c.lanes.map (fun l => ⟨l, ea l, sizeBytes sz, sp, true⟩)) := by
  refine Denied.of_check ?_ fun t ha hc => ?_
  · simp only [List.mem_map, forall_exists_index, and_imp, forall_apply_eq_imp_iff₂]
    exact fun l hl => Ctx.lane_lt hl
  · rw [he]
    simp only [Ctx.store, hc, bind, Except.bind]
    exact settle_trap (by simp [ha])

/-- A store whose lanes' accesses reach their locations makes its work of them: at once where it orders or a page asks for it. -/
theorem store_run (loc : Nat → Loc) (mt : Nat → Nat) (hl : ∀ l ∈ c.lanes, Reaches c c.s 3 false ⟨l, ea l, sizeBytes sz, sp, true⟩ (loc l) (mt l)) :
    c.store sp sz d ea rel now = .ok (.done (access c c.s (now || c.lanes.any (fun l => decide (2 ≤ mt l)))
      (fun id => { c.storeWork sz d ea loc mt id with
        accs := c.lanes.map (fun l => Acc.mk l (loc l) (sizeBytes sz) (mt l) (c.storeBytes sz d l) 0#64 (ea l) (rel l)) }))) := by
  have hc := checkAll_lanes (access := 2) c.lanes _ loc mt (fun _ => rfl) hl
  simp only [Ctx.store, hc, bind, Except.bind, inOrder, List.any_map, List.map_map]
  rfl

/-- A plain store becomes outstanding; on device and strongly ordered pages it is performed as it issues (10 R246). -/
theorem store_stores {sp : Space} {ea : Ctx → Nat → DWord}
    (he : ∀ s c, Issues s i c → exec i s = settleRun c (c.store sp sz d (ea c) c.fenceScope false)) : Stores i sp sz d ea := by
  intro s c h req
  refine ⟨fun loc mt hl => ?_, store_denied (he s c h)⟩
  have hrun := (he s c h).trans (congrArg (settleRun c) (store_run (now := false) loc mt hl))
  constructor
  · intro hlow
    have hq : c.lanes.any (fun l => decide (2 ≤ mt l)) = false := by simpa using hlow
    rw [hq] at hrun
    exact ⟨_, hrun, (Reserved.none h.spec.2.2.1).queues (c.storeWork sz d (ea c) loc mt) rfl⟩
  · intro hdev
    have hq : c.lanes.any (fun l => decide (2 ≤ mt l)) = true := by simpa using hdev
    rw [hq] at hrun
    exact hrun

end

/-! ## The owner of a line (10 R256) -/

/-- Setting or taking away a key's value leaves every other key's. -/
theorem mem_putKey {k : Nat} {v : Option Nat} {l : List (Nat × Nat)} {x : Nat × Nat} (hx : x.1 ≠ k) : x ∈ putKey k v l ↔ x ∈ l := by
  have hv : x ∉ v.elim [] (fun y => [(k, y)]) := by
    cases v with
    | none => simp
    | some y => simpa using fun e => hx (by rw [e])
  simp [putKey, hv, hx]

theorem find?_putKey_some (k v : Nat) (l : List (Nat × Nat)) : (putKey k (some v) l).find? (fun x => x.1 == k) = some (k, v) := by
  simp [putKey]

theorem key_ne_of_mem_putKey_none {k : Nat} {l : List (Nat × Nat)} {x : Nat × Nat} (h : x ∈ putKey k none l) : x.1 ≠ k := by
  simpa using (List.mem_filter.mp h).2

section
variable {s : State} {l : Loc} {k pier scope : Nat}

/-- A release of pier scope names its pier, a wider one none, and one of deck scope leaves the owner. -/
theorem setOwner_eq (hk : lineOf l = some k) : setOwner s l pier scope = { s with owners := (
    if scope = 2 then putKey k (some pier) s.owners else if 3 ≤ scope then putKey k none s.owners else s.owners) } := by
  by_cases h2 : scope = 2
  · simp [setOwner, hk, h2]
  · by_cases h3 : 3 ≤ scope <;> simp [setOwner, hk, h2, h3]

theorem mem_setOwner (hk : lineOf l = some k) {x : Nat × Nat} (hx : x.1 ≠ k) : x ∈ (setOwner s l pier scope).owners ↔ x ∈ s.owners := by
  rw [setOwner_eq hk]
  dsimp only
  split
  · exact mem_putKey hx
  · split
    · exact mem_putKey hx
    · exact .rfl

end

/-- Settles O19: each form is `Ctx.store`, a release one that is performed as it issues; an owner is the value of its line's key. -/
theorem storesAreQueued : Obligations.StoresAreQueued := by
  refine ⟨fun f => store_stores fun s c h => instr_runs h false _, fun f => store_stores fun s c h => instr_runs h false _,
    fun f => store_stores fun s c h => instr_runs h false _, fun f s c loc mt h hl => ?_, fun f s c h => store_denied (instr_runs h false _),
    fun s pier scope l k hk => ⟨?_, ?_, fun x hx => mem_setOwner hk hx, by rw [setOwner_eq hk]⟩⟩
  · exact (instr_runs h false _).trans (congrArg (settleRun c) (store_run (now := true) loc mt hl))
  · rintro rfl
    rw [setOwner_eq hk]
    exact find?_putKey_some k pier s.owners
  · intro h3 x hx
    rw [setOwner_eq hk] at hx
    simp only [if_neg (by omega : scope ≠ 2), if_pos h3] at hx
    exact key_ne_of_mem_putKey_none hx

end Sys2Proof.Machine
end

section
/-! Waits that hold or let go (O28; 07 R174, R177, 08 R204, R212, R216). -/

namespace Sys2Proof.Machine

section
variable {s : State} {c : Ctx}

/-- The group goes on where a condition holds, and waits where it does not. -/
theorem settle_waits (h : c.s.span? c.u = some c.sp) (w : Wait) (p : Prop) [Decidable p] :
    ∃ t, settleRun c (.ok (if p then .done c.s else .moved (hold c.s c.iss c.G (fun _ => w)))) = .next t ∧
      Becomes c.s t c.u (if p then c.advanced else c.split c.sp c.G (fun _ q => c.waiting q w)) := by
  by_cases hp : p
  · simp only [if_pos hp]
    exact ⟨_, rfl, Becomes.goOn h⟩
  · simp only [if_neg hp]
    exact ⟨_, rfl, holds_group h fun _ => w⟩

theorem tlwait_waits {n : Reg} {b : HeldB} (h : Issues s (.tlwait n b) c) (hb : c.launch.tlBound n.toNat = true) :
    ∃ t, exec (.tlwait n b) s = .next t ∧
      Becomes c.s t c.u (c.split c.sp (Ctx.those c.A (fun l => decide (c.timeline n.toNat < (c.pairB b.src false l).toNat)))
        (fun l q => c.waiting q (.timeline n.toNat (c.pairB b.src false l).toNat c.iss.lit.isSome))) := by
  refine ⟨_, instr_moved h false _ ?_, holds_split h.spec.2.2.1 _ fun l => .timeline n.toNat (c.pairB b.src false l).toNat c.iss.lit.isSome⟩
  simp [hb]

theorem tagwait_waits {t : BitVec 3} (h : Issues s (.tagwait t) c) : ∃ r, exec (.tagwait t) s = .next r ∧
    Becomes c.s r c.u (if c.sp.tag t.toNat = 0 then c.advanced else c.split c.sp c.G (fun _ q => c.waiting q (.tag t.toNat))) := by
  have hw := settle_waits h.spec.2.2.1 (.tag t.toNat) (c.sp.tag t.toNat = 0)
  rwa [show exec (.tagwait t) s = _ from (instr_runs h false _).trans (by simp only [beq_iff_eq]; rfl)]

/-- A deck that owns its unit runs the body. -/
theorem Ctx.owned_owner (ho : c.owns) (body : Ctx → Run Eff) : c.owned body = body c := by
  obtain ⟨h1, h2⟩ := ho
  simp [Ctx.owned, Ctx.takeUnit, h1, h2]

/-- Outstanding matrix work is what an mxwait waits for (08 R204). -/
theorem waitOver_mxwait (kind before : Nat) : waitOver c.s c.sp c.cx (.mxwait kind before) = true ↔
    ¬ ((kind ≠ 2 ∧ fillOutstanding c.s c.sp.deck before = true) ∨ (kind ≠ 1 ∧ opOutstanding c.s c.sp.deck before = true)) := by
  simp [waitOver, or_iff_not_imp_left]

theorem mxwait_waits {m : BitVec 3} (h : Issues s (.mxwait m) c) (ho : c.owns) : ∃ r, exec (.mxwait m) s = .next r ∧ Becomes c.s r c.u
    (if (m.toNat ≠ 2 ∧ fillOutstanding c.s c.sp.deck c.s.fresh = true) ∨ (m.toNat ≠ 1 ∧ opOutstanding c.s c.sp.deck c.s.fresh = true)
     then c.split c.sp c.G (fun _ q => c.waiting q (.mxwait m.toNat c.s.fresh)) else c.advanced) := by
  have hw := settle_waits h.spec.2.2.1 (.mxwait m.toNat c.s.fresh) (waitOver c.s c.sp c.cx (.mxwait m.toNat c.s.fresh) = true)
  simp only [waitOver_mxwait, ite_not] at hw
  rwa [show exec (.mxwait m) s = _ from (instr_runs h false _).trans
    (by simp only [Ctx.owned_owner ho, waitOver_mxwait, ite_not]; rfl)]

theorem waitgp_waits {a : Reg} (h : Issues s (.waitgp a) c) (hr : ∀ l ∈ c.lanes, (c.sp.lane l).rsn = 0#4)
    (hg : (c.pair a c.low).toNat ≤ c.cx.gp.started + (if c.cx.gp.pend then 1 else 0)) :
    ∃ r, exec (.waitgp a) s = .next r ∧ Becomes c.s r c.u
      (if (c.pair a c.low).toNat ≤ c.cx.gp.completed then c.advanced
       else c.split c.sp c.G (fun _ q => c.waiting q (.gp (c.pair a c.low).toNat))) := by
  have hw := settle_waits h.spec.2.2.1 (.gp (c.pair a c.low).toNat) ((c.pair a c.low).toNat ≤ c.cx.gp.completed)
  have hc : c.check 0x0001 c.A (fun l => c.rsn l != 0) (fun _ => 0#64) = .ok () :=
    Ctx.check_ok fun l hl => by
      have := hr l ((mem_lanesOf _ _).mpr hl)
      simp [Ctx.rsn, this]
  rwa [show exec (.waitgp a) s = _ from (instr_runs h false _).trans
    (by simp only [hc, if_neg (Nat.not_lt.mpr hg), bind, Except.bind]; rfl)]

theorem entw_waits {a b : Reg} {loc : Loc} {mt : Nat} (h : Issues s (.entw a b) c)
    (hl : Reaches c c.s 3 true ⟨c.low, c.pair a c.low, 8, .global, false⟩ loc mt) :
    let w := drain c.s c.u (oneLane c.low)
    exec (.entw a b) s = .next (if valueAt w loc 8 = c.pair b c.low
      then hold w c.iss c.G (fun _ => .entw (c.pair a c.low).toNat (c.pair b c.low)) else goOn w c.iss c.G) := by
  intro w
  have hc := checkAll_ok 1 3 true [⟨c.low, c.pair a c.low, 8, .global, false⟩] (fun _ => loc) (fun _ => mt) (by simpa using hl)
  refine (instr_runs h false _).trans ?_
  simp only [hc, bind, Except.bind, List.map_cons, List.map_nil, List.all_cons, List.all_nil, Bool.and_true, beq_iff_eq]
  by_cases hv : valueAt w loc 8 = c.pair b c.low
  · simp only [w, if_pos hv]; rfl
  · simp only [w, if_neg hv]; rfl

end

/-- Settles O28: each wait holds the lanes whose condition does not hold yet, and lets the others go on. -/
theorem waitsHoldOrGoOn : Obligations.WaitsHoldOrGoOn :=
  ⟨fun _ _ _ _ h hb => tlwait_waits h hb, fun _ _ _ h => tagwait_waits h, fun _ _ _ h h1 h2 => mxwait_waits h ⟨h1, h2⟩,
    fun _ _ _ h hr hg => waitgp_waits h hr hg, fun _ _ _ _ _ _ h hl => entw_waits h hl⟩

end Sys2Proof.Machine
end

section
/-! Phases of barriers that complete, and the waves in which spans leave them (O26; 07 R166, R167, 21 R381). -/

namespace Sys2Proof.Machine

/-! ## A barrier after a change -/

/-- A deck after a change of deck u that keeps its name. -/
theorem State.deck?_modDeck (s : State) (u v : Nat) (f : Deck → Deck) (hf : ∀ x, (f x).uid = x.uid) :
    (s.modDeck u f).deck? v = if u = v then (s.deck? v).map f else s.deck? v := by
  refine (find_map_at Deck.uid f hf u v s.decks).trans ?_
  show (s.deck? v).map _ = _
  cases h : s.deck? v with
  | none => simp
  | some d =>
    have hd : d.uid = v := find_key (key := Deck.uid) h
    by_cases huv : u = v
    · simp [hd, huv]
    · simp [hd, huv, Ne.symm huv]

theorem State.deck?_modDeck_same {s : State} {u : Nat} {d : Deck} {f : Deck → Deck} (h : s.deck? u = some d) (hf : ∀ x, (f x).uid = x.uid) :
    (s.modDeck u f).deck? u = some (f d) := by
  rw [State.deck?_modDeck s u u f hf, if_pos rfl, h, Option.map_some]

theorem State.girder?_modGirder_same {s : State} {u : Nat} {g : Girder} {f : Girder → Girder} (h : s.girder? u = some g)
    (hf : ∀ x, (f x).uid = x.uid) : (s.modGirder u f).girder? u = some (f g) := by
  have hu : g.uid = u := find_key (key := Girder.uid) h
  refine (find_map_at Girder.uid f hf u u s.girders).trans ?_
  rw [show s.girders.find? (fun x => x.uid == u) = some g from h]
  simp [hu]

theorem barOf_congr {s t : State} (hd : t.decks = s.decks) (hg : t.girders = s.girders) (deck girder n : Nat) :
    barOf t deck girder n = barOf s deck girder n := by
  simp only [barOf, State.deck?, State.girder?, hd, hg]

/-- A barrier that a deck or girder has is found as it was changed. -/
theorem barOf_modBar {s : State} {deck girder n : Nat} {d : Deck} {g : Girder} (hd : s.deck? deck = some d) (hg : s.girder? girder = some g)
    (hdl : d.bars.length = 16) (hgl : g.bars.length = 4) (hn : n < 20) (f : Bar → Bar) :
    barOf (s.modBar deck girder n f) deck girder n = f (barOf s deck girder n) := by
  by_cases h : n < 16
  · have hm := State.deck?_modDeck_same (f := fun x => { x with bars := x.bars.modify n f }) hd fun _ => rfl
    simp [barOf, State.modBar, h, hm, hd, hdl]
  · have hm := State.girder?_modGirder_same (f := fun x => { x with bars := x.bars.modify (n - 16) f }) hg fun _ => rfl
    have hlt : n - 16 < 4 := by omega
    simp [barOf, State.modBar, h, hm, hg, hgl, hlt]

/-! ## The phase that completes (07 R167) -/

theorem spanArrived_iff (b : Bar) (x : Span) : spanArrived b x = true ↔ x.live &&& ~~~(b.mark x.uid) = 0#64 := by simp [spanArrived]

/-- Every member has arrived: the live lanes of its spans have. -/
theorem allArrived_iff (s : State) (deck girder n : Nat) (b : Bar) : allArrived s deck girder n b = true ↔
    if n < 16 then ∀ x ∈ s.spansOf deck, b.members.getLsbD x.idx = true → x.live &&& ~~~(b.mark x.uid) = 0#64
    else ∀ e ∈ s.decksOf girder, b.members.getLsbD e.member = true → ∀ x ∈ s.spansOf e.uid, x.live &&& ~~~(b.mark x.uid) = 0#64 := by
  unfold allArrived
  split <;> simp only [List.all_eq_true, Bool.or_eq_true, Bool.not_eq_true', spanArrived_iff, ← Bool.not_eq_true, ← imp_iff_not_or]

/-- Somebody has arrived and nobody is awaited: the phase of a barrier is complete. -/
def Bar.Full (b : Bar) (s : State) (deck girder n : Nat) : Prop :=
  b.any = true ∧ b.broken = false ∧ b.bal = 0 ∧
    (if n < 16 then ∀ x ∈ s.spansOf deck, b.members.getLsbD x.idx = true → x.live &&& ~~~(b.mark x.uid) = 0#64
     else ∀ e ∈ s.decksOf girder, b.members.getLsbD e.member = true → ∀ x ∈ s.spansOf e.uid, x.live &&& ~~~(b.mark x.uid) = 0#64)

theorem Bar.full_iff (b : Bar) (s : State) (deck girder n : Nat) :
    (b.any && !b.broken && b.bal == 0 && allArrived s deck girder n b) = true ↔ b.Full s deck girder n := by
  simp only [Bool.and_eq_true, Bool.not_eq_true', beq_iff_eq, allArrived_iff, Bar.Full, and_assoc]

/-- A barrier whose phase has completed (07 R167, R170). -/
def Bar.completed (s : State) (deck girder n : Nat) (b : Bar) : Bar :=
  { b with gen := b.gen + 1#32, marks := [], any := false, sets := [],
           members := ((b.sets.getLast?).map (memberValue s deck girder n)).getD b.members }

section
variable {s : State} {deck girder n : Nat}

theorem barComplete_incomplete (h : ¬ (barOf s deck girder n).Full s deck girder n) : barComplete s deck girder n = (s, []) := by
  rw [← Bar.full_iff, Bool.not_eq_true] at h
  simp only [barComplete, h, Bool.not_false, if_true]

theorem barComplete_eq (h : (barOf s deck girder n).Full s deck girder n) : barComplete s deck girder n =
    let gen := (barOf s deck girder n).gen + 1#32
    let t := s.modBar deck girder n (fun b => { Bar.completed s deck girder n b with gen := gen })
    ((barSpans t deck girder n).foldl (fun s x => s.modSpan x.uid (fun y =>
        Span.leaveIf (fun _ w => match w with
          | .barSet k _ _ => k == n
          | _ => false) { y with lanes := y.lanes.map (Lane.mapPos (joinWave n gen)) })) t,
      ((barSpans t deck girder n).filter (fun x => x.lanes.any (Lane.waits (phaseOver n gen)))).map (fun x => (x.uid, n))) := by
  rw [← Bar.full_iff] at h
  simp only [barComplete, h, Bool.not_true, Bool.false_eq_true, if_false]
  rfl

/-- Changes of spans leave decks and girders. -/
theorem foldl_modSpan_parts {α : Type} (u : α → Nat) (f : α → Span → Span) (l : List α) (s : State) :
    (l.foldl (fun s x => s.modSpan (u x) (f x)) s).decks = s.decks ∧ (l.foldl (fun s x => s.modSpan (u x) (f x)) s).girders = s.girders := by
  induction l generalizing s with
  | nil => exact ⟨rfl, rfl⟩
  | cons x l ih => exact ih _

theorem barOf_releaseWaves (s : State) (deck girder n : Nat) (k : Nat) (out : List (Nat × Nat)) :
    barOf (releaseWaves s k out) deck girder n = barOf s deck girder n := by
  unfold releaseWaves
  split
  · rfl
  · dsimp only
    split
    · obtain ⟨h1, h2⟩ := foldl_modSpan_parts (fun x : Nat × Nat => x.1) (fun x => Span.leaveIf (leavesWave x.2)) out s
      exact barOf_congr h1 h2 ..
    · exact barOf_congr rfl rfl ..

theorem barCheck_eq (s : State) (deck girder n : Nat) :
    barCheck s deck girder n = releaseWaves (barComplete s deck girder n).1 deck (barComplete s deck girder n).2 := rfl

theorem barCheck_incomplete (h : ¬ (barOf s deck girder n).Full s deck girder n) : barCheck s deck girder n = s := by
  rw [barCheck_eq, barComplete_incomplete h]
  rfl

/-- The barrier whose phase has completed, as it is found after the test. -/
theorem barOf_barCheck {d : Deck} {g : Girder} (hd : s.deck? deck = some d) (hg : s.girder? girder = some g)
    (hdl : d.bars.length = 16) (hgl : g.bars.length = 4) (hn : n < 20) (h : (barOf s deck girder n).Full s deck girder n) :
    barOf (barCheck s deck girder n) deck girder n = Bar.completed s deck girder n (barOf s deck girder n) := by
  rw [barCheck_eq, barOf_releaseWaves, barComplete_eq h]
  dsimp only
  obtain ⟨h1, h2⟩ := foldl_modSpan_parts Span.uid (fun (_ : Span) y => Span.leaveIf (fun _ w => match w with
          | .barSet k _ _ => k == n
          | _ => false) { y with lanes := y.lanes.map (Lane.mapPos (joinWave n ((barOf s deck girder n).gen + 1#32))) })
    (barSpans (s.modBar deck girder n (fun b => { Bar.completed s deck girder n b with gen := (barOf s deck girder n).gen + 1#32 })) deck girder n)
    (s.modBar deck girder n (fun b => { Bar.completed s deck girder n b with gen := (barOf s deck girder n).gen + 1#32 }))
  rw [barOf_congr h1 h2, barOf_modBar hd hg hdl hgl hn]
  rfl

/-- A change of barrier n leaves the spans that it gathers. -/
theorem barSpans_modBar (f : Bar → Bar) : barSpans (s.modBar deck girder n f) deck girder n = barSpans s deck girder n := by
  by_cases h : n < 16 <;> simp only [barSpans, State.modBar, h, if_true, if_false] <;> rfl

/-- The spans that leave are those with a lane that waits for a phase now over (07 R168). -/
theorem barComplete_released (h : (barOf s deck girder n).Full s deck girder n) : (barComplete s deck girder n).2 =
    ((barSpans s deck girder n).filter (fun x => x.lanes.any (Lane.waits (phaseOver n ((barOf s deck girder n).gen + 1#32))))).map
      (fun x => (x.uid, n)) := by
  rw [barComplete_eq h]
  dsimp only
  rw [barSpans_modBar]

end

/-! ## The order of release (21 R381) -/

/-- The pier of a span's deck. -/
def Span.pierIn (s : State) (x : Span) : Nat := (s.deck? x.deck).elim 0 (·.pier)
/-- Ascending pier, then resident-span slot. -/
def Span.Before (s : State) (x y : Span) : Prop := x.pierIn s < y.pierIn s ∨ (x.pierIn s = y.pierIn s ∧ x.rslot ≤ y.rslot)

theorem Span.Before.trans {s : State} {x y z : Span} (h : x.Before s y) (k : y.Before s z) : x.Before s z := by
  unfold Span.Before at *
  omega

theorem insertSpan_perm (s : State) (x : Span) : ∀ l, (insertSpan s x l).Perm (x :: l)
  | [] => .refl _
  | y :: t => by
    simp only [insertSpan]
    split
    · exact .refl _
    · exact ((insertSpan_perm s x t).cons y).trans (.swap x y t)

theorem insertSpan_sorted (s : State) (x : Span) : ∀ l : List Span, l.Pairwise (Span.Before s) → (insertSpan s x l).Pairwise (Span.Before s)
  | [], _ => List.pairwise_singleton ..
  | y :: t, h => by
    obtain ⟨hy, ht⟩ := List.pairwise_cons.mp h
    simp only [insertSpan]
    split
    case isTrue hlt =>
      have hxy : x.Before s y := by
        simp only [Bool.or_eq_true, Bool.and_eq_true, decide_eq_true_eq, beq_iff_eq] at hlt
        exact hlt.imp_right fun e => ⟨e.1, Nat.le_of_lt e.2⟩
      exact List.pairwise_cons.mpr ⟨List.forall_mem_cons.mpr ⟨hxy, fun z hz => hxy.trans (hy z hz)⟩, h⟩
    case isFalse hge =>
      have hyx : y.Before s x := by
        simp only [Bool.or_eq_true, Bool.and_eq_true, decide_eq_true_eq, beq_iff_eq] at hge
        unfold Span.Before Span.pierIn
        omega
      refine List.pairwise_cons.mpr ⟨fun z hz => ?_, insertSpan_sorted s x t ht⟩
      rcases List.mem_cons.mp ((insertSpan_perm s x t).mem_iff.mp hz) with rfl | hz
      · exact hyx
      · exact hy z hz

/-- Spans inserted one by one stand in the order of release. -/
theorem foldl_insertSpan (s : State) : ∀ l acc : List Span, acc.Pairwise (Span.Before s) →
    (l.foldl (fun acc x => insertSpan s x acc) acc).Perm (l ++ acc) ∧ (l.foldl (fun acc x => insertSpan s x acc) acc).Pairwise (Span.Before s)
  | [], acc, h => ⟨.refl _, h⟩
  | x :: l, acc, h => by
    obtain ⟨h1, h2⟩ := foldl_insertSpan s l (insertSpan s x acc) (insertSpan_sorted s x acc h)
    exact ⟨h1.trans (((insertSpan_perm s x acc).append_left l).trans List.perm_middle), h2⟩

/-- Spans found under names have these names. -/
theorem map_uid_filterMap_span? {s : State} : ∀ us : List Nat, (∀ u ∈ us, (s.span? u).isSome = true) →
    (us.filterMap s.span?).map (·.uid) = us
  | [], _ => rfl
  | u :: us, h => by
    obtain ⟨x, hx⟩ := Option.isSome_iff_exists.mp (h u List.mem_cons_self)
    rw [List.filterMap_cons_some hx, List.map_cons, State.span?_uid hx,
      map_uid_filterMap_span? us fun v hv => h v (List.mem_cons_of_mem u hv)]

/-! ## Waves (21 R381) -/

/-- Pairs gathered by their first parts, each once, are those whose first part is named. -/
theorem flatMap_filter_perm (out : List (Nat × Nat)) : ∀ us : List Nat, us.Nodup →
    (us.flatMap (fun u => out.filter (fun y => y.1 == u))).Perm (out.filter (fun y => us.contains y.1))
  | [], _ => by simp
  | u :: us, h => by
    obtain ⟨hu, hus⟩ := List.nodup_cons.mp h
    have hl : (out.filter (fun y => (u :: us).contains y.1)).filter (fun y => y.1 == u) = out.filter (fun y => y.1 == u) := by
      rw [List.filter_filter]
      exact List.filter_congr fun y _ => by by_cases hy : y.1 = u <;> simp [hy]
    have hr : (out.filter (fun y => (u :: us).contains y.1)).filter (fun y => !(y.1 == u)) = out.filter (fun y => us.contains y.1) := by
      rw [List.filter_filter]
      refine List.filter_congr fun y _ => ?_
      by_cases hy : y.1 = u
      · simp [hy, hu]
      · simp [hy]
    rw [List.flatMap_cons]
    refine ((flatMap_filter_perm out us hus).append_left _).trans ?_
    rw [← hl, ← hr]
    exact List.filter_append_perm ..

/-- Groups with distinct first parts hold as many first parts as there are groups. -/
theorem dedup_groups {α : Type} {key : α → Nat} {grp : α → List (Nat × Nat)} {xs : List α} (hn : (xs.map key).Nodup)
    (hg : ∀ x ∈ xs, grp x ≠ [] ∧ ∀ y ∈ grp x, y.1 = key x) : (((xs.map grp).flatten.map (·.1)).dedup).length = xs.length := by
  have hs : ((xs.map grp).flatten.map (·.1)).toFinset = (xs.map key).toFinset := by
    ext u
    simp only [List.mem_toFinset, List.mem_map, List.mem_flatten, exists_exists_and_eq_and]
    constructor
    · rintro ⟨y, ⟨x, hx, hy⟩, rfl⟩
      exact ⟨x, hx, ((hg x hx).2 y hy).symm⟩
    · rintro ⟨x, hx, rfl⟩
      obtain ⟨y, hy⟩ := List.exists_mem_of_ne_nil _ (hg x hx).1
      exact ⟨y, ⟨x, hx, hy⟩, (hg x hx).2 y hy⟩
  rw [← List.card_toFinset, hs, List.toFinset_card_of_nodup hn, List.length_map]

section
variable {α : Type} {key : α → Nat} {grp : α → List (Nat × Nat)} {w : Nat}

theorem chunk_flatten (hw : 0 < w) : ∀ (n : Nat) (l : List (List (Nat × Nat))), l.length ≤ n → (chunk w n l).flatMap (·.spans) = l.flatten
  | 0, l, h => by simp [chunk, List.eq_nil_of_length_eq_zero (Nat.le_zero.mp h)]
  | n + 1, [], _ => rfl
  | n + 1, x :: l, h => by
    have hd : ((x :: l).drop w).length ≤ n := by
      simp only [List.length_drop, List.length_cons] at h ⊢
      omega
    rw [chunk, List.flatMap_cons, chunk_flatten hw n _ hd, ← List.flatten_append, List.take_append_drop]
    simp

/-- Every wave has at most w spans, and every one but the last has w. -/
theorem chunk_sizes (hw : 0 < w) : ∀ (n : Nat) (xs : List α), xs.length ≤ n → (xs.map key).Nodup →
    (∀ x ∈ xs, grp x ≠ [] ∧ ∀ y ∈ grp x, y.1 = key x) →
    (∀ v ∈ chunk w n (xs.map grp), ((v.spans.map (·.1)).dedup).length ≤ w) ∧
    ∀ v ∈ (chunk w n (xs.map grp)).dropLast, ((v.spans.map (·.1)).dedup).length = w
  | 0, xs, _, _, _ => by simp [chunk]
  | n + 1, [], _, _, _ => by simp [chunk]
  | n + 1, x :: xs, h, hn, hg => by
    have htake := dedup_groups (xs := (x :: xs).take w) (by rw [List.map_take]; exact hn.sublist (List.take_sublist ..))
      fun y hy => hg y (List.mem_of_mem_take hy)
    have hlen : ((x :: xs).drop w).length ≤ n := by
      simp only [List.length_drop, List.length_cons] at h ⊢
      omega
    obtain ⟨h1, h2⟩ := chunk_sizes hw n ((x :: xs).drop w) hlen (by rw [List.map_drop]; exact hn.sublist (List.drop_sublist ..))
      fun y hy => hg y (List.mem_of_mem_drop hy)
    have hc : chunk w (n + 1) ((x :: xs).map grp) = ⟨(((x :: xs).take w).map grp).flatten⟩ :: chunk w n (((x :: xs).drop w).map grp) := by
      rw [List.map_take, List.map_drop]; rfl
    rw [hc]
    refine ⟨List.forall_mem_cons.mpr ⟨?_, h1⟩, ?_⟩
    · rw [htake]
      exact List.length_take_le ..
    · rcases hr : (x :: xs).drop w with _ | ⟨z, zs⟩
      · cases n <;> simp [chunk]
      · rw [hr] at h2 hlen
        obtain ⟨m, rfl⟩ : ∃ m, n = m + 1 := ⟨n - 1, by simp only [List.length_cons] at hlen; omega⟩
        have hw' : w < (x :: xs).length := by
          by_contra hle
          rw [List.drop_eq_nil_of_le (Nat.le_of_not_lt hle)] at hr
          cases hr
        rw [List.dropLast_cons_of_ne_nil (by simp [chunk])]
        refine List.forall_mem_cons.mpr ⟨?_, h2⟩
        rw [htake, List.length_take]
        omega

end

/-- The spans that leave, in the order of release. -/
def releaseOrder (s : State) (out : List (Nat × Nat)) : List Span :=
  ((out.map (·.1)).dedup.filterMap s.span?).foldl (fun acc x => insertSpan s x acc) []

section
variable {s : State} {deck : Nat} {d : Deck} {out : List (Nat × Nat)}

theorem releaseWaves_gap (hd : s.deck? deck = some d) (ho : out ≠ []) (hg : (s.mgmt.tslope.getD (trussOf d.pier) 0x0410#16).toNat / 256 ≠ 0) :
    releaseWaves s deck out = { s with waves := (s.waves.modify (trussOf d.pier)
      (· ++ chunk (max ((s.mgmt.tslope.getD (trussOf d.pier) 0x0410#16).toNat % 256) 1) (releaseOrder s out).length
        ((releaseOrder s out).map (fun x => out.filter (fun y => y.1 == x.uid))))) } := by
  have hb : (out == []) = false := beq_eq_false_iff_ne.mpr ho
  simp only [releaseWaves, hb, hd, Option.elim_some, if_neg hg, Bool.false_eq_true, if_false, List.length_map]
  rfl

theorem releaseWaves_at_once (hd : s.deck? deck = some d) (ho : out ≠ [])
    (hg : (s.mgmt.tslope.getD (trussOf d.pier) 0x0410#16).toNat / 256 = 0) :
    releaseWaves s deck out = out.foldl (fun s x => s.modSpan x.1 (Span.leaveIf (leavesWave x.2))) s := by
  have hb : (out == []) = false := beq_eq_false_iff_ne.mpr ho
  simp only [releaseWaves, hb, hd, Option.elim_some, if_pos hg, Bool.false_eq_true, if_false]

/-- Every span that leaves stands once in the order of release. -/
theorem releaseOrder_uids (h : ∀ x ∈ out, (s.span? x.1).isSome = true) : ((releaseOrder s out).map (·.uid)).Perm (out.map (·.1)).dedup := by
  have hp := ((foldl_insertSpan s ((out.map (·.1)).dedup.filterMap s.span?) [] .nil).1).map (·.uid)
  rw [List.append_nil, map_uid_filterMap_span? _ fun u hu => by
    obtain ⟨x, hx, rfl⟩ := List.mem_map.mp (List.mem_dedup.mp hu)
    exact h x hx] at hp
  exact hp

theorem releaseOrder_sorted (s : State) (out : List (Nat × Nat)) : (releaseOrder s out).Pairwise (Span.Before s) :=
  (foldl_insertSpan s _ [] .nil).2

/-- Each with its own barriers, the spans that leave are all of `out`. -/
theorem releaseOrder_covers (h : ∀ x ∈ out, (s.span? x.1).isSome = true) :
    ((releaseOrder s out).flatMap (fun x => out.filter (fun y => y.1 == x.uid))).Perm out := by
  have hp := releaseOrder_uids h
  have hf := flatMap_filter_perm out ((releaseOrder s out).map (·.uid)) (hp.nodup_iff.mpr (List.nodup_dedup _))
  rw [List.flatMap_map] at hf
  refine hf.trans (.of_eq (List.filter_eq_self.mpr fun y hy => ?_))
  exact List.contains_iff_mem.mpr (hp.mem_iff.mpr (List.mem_dedup.mpr (List.mem_map_of_mem hy)))

/-- The waves of a truss in which the spans of `out` leave. -/
theorem releaseWaves_waves (hd : s.deck? deck = some d) (ho : out ≠ []) (h : ∀ x ∈ out, (s.span? x.1).isSome = true)
    (hg : (s.mgmt.tslope.getD (trussOf d.pier) 0x0410#16).toNat / 256 ≠ 0) :
    ∃ ws : List Wave, releaseWaves s deck out =
        { s with waves := s.waves.set (trussOf d.pier) (s.waves.getD (trussOf d.pier) [] ++ ws) } ∧
      ws.flatMap (·.spans) = (releaseOrder s out).flatMap (fun x => out.filter (fun y => y.1 == x.uid)) ∧
      (∀ w ∈ ws, ((w.spans.map (·.1)).dedup).length ≤ max ((s.mgmt.tslope.getD (trussOf d.pier) 0x0410#16).toNat % 256) 1) ∧
      ∀ w ∈ ws.dropLast, ((w.spans.map (·.1)).dedup).length = max ((s.mgmt.tslope.getD (trussOf d.pier) 0x0410#16).toNat % 256) 1 := by
  have hp := releaseOrder_uids h
  have hw : 0 < max ((s.mgmt.tslope.getD (trussOf d.pier) 0x0410#16).toNat % 256) 1 := by omega
  obtain ⟨h1, h2⟩ := chunk_sizes hw (releaseOrder s out).length (releaseOrder s out) (key := Span.uid)
    (grp := fun x => out.filter (fun y => y.1 == x.uid)) le_rfl (hp.nodup_iff.mpr (List.nodup_dedup _)) fun x hx => by
      obtain ⟨y, hy, he⟩ := List.mem_map.mp (List.mem_dedup.mp (hp.mem_iff.mp (List.mem_map_of_mem hx)))
      exact ⟨List.ne_nil_of_mem (List.mem_filter.mpr ⟨hy, by simpa using he⟩), fun z hz => by simpa using (List.mem_filter.mp hz).2⟩
  refine ⟨_, (releaseWaves_gap hd ho hg).trans ?_, chunk_flatten hw _ _ (by rw [List.length_map]), h1, h2⟩
  simp only [List.modify_eq_set, List.getD_eq_getElem?_getD]
  rfl

end

/-- Settles O26: a test of a barrier is `Bar.Full`; the spans it releases stand in the order of release, cut into waves. -/
theorem barrierPhasesComplete : Obligations.BarrierPhasesComplete := by
  refine ⟨fun s deck girder n d g hd hg hdl hgl hn => ⟨barCheck_incomplete, fun h => ⟨_, barOf_barCheck hd hg hdl hgl hn h, rfl, rfl, rfl, rfl, rfl, rfl⟩,
    barComplete_incomplete, fun h => ?_, fun ns => rfl⟩, fun s deck d out hd ho h => ⟨fun hg => ?_, fun hg _ => ?_⟩⟩
  · rw [barComplete_released h]
    have hover : phaseOver n ((barOf s deck girder n).gen + 1#32) = fun _ w => match w with
        | .barPhase k v _ => k == n && decide (0 ≤ ((barOf s deck girder n).gen + 1#32 - v - 1#32).toInt)
        | _ => false := funext fun _ => funext fun w => by cases w <;> rfl
    rw [hover]
    rfl
  · have hleave : ∀ k, leavesWave k = fun _ v => match v with
        | .barWave n _ => n == k
        | _ => false := fun k => funext fun _ => funext fun v => by cases v <;> rfl
    rw [releaseWaves_at_once hd ho hg]
    simp only [hleave] <;> rfl
  · obtain ⟨ws, he, hf, h1, h2⟩ := releaseWaves_waves hd ho h hg
    exact ⟨ws, releaseOrder s out, he, hf ▸ releaseOrder_covers h, releaseOrder_uids h, releaseOrder_sorted s out, hf, h1, h2⟩

end Sys2Proof.Machine
end

section
/-! The bytes of every memory: what they depend on, and what a write leaves of them (07 R144, R148, 10 R242, 21 R382, R387). -/

namespace Sys2Proof.Machine

/-- A chain of steps keeps what each of them keeps. -/
theorem foldl_keeps {α β : Type} {p : State → β} {f : State → α → State} (hf : ∀ s a, p (f s a) = p s) (l : List α) (s : State) :
    p (l.foldl f s) = p s := by
  induction l generalizing s with
  | nil => rfl
  | cons a l ih => rw [List.foldl_cons, ih, hf]

/-! ## States with the same bytes -/

/-- A deck's name and its two memories. -/
def Deck.held (d : Deck) : Nat × Memory × Memory := (d.uid, d.mem, d.priv)

/-- t has the byte memories of s, read through the same refresh map. -/
structure SameBytes (s t : State) : Prop where
  mem : t.mem = s.mem
  hostMem : t.hostMem = s.hostMem
  decks : t.decks.map Deck.held = s.decks.map Deck.held
  off : ∀ pa, declaredOff t pa = declaredOff s pa

/-- A deck found by its name, with its memories alone. -/
theorem deck?_held (s : State) (u : Nat) : (s.deck? u).map Deck.held = (s.decks.map Deck.held).find? (fun x => x.1 == u) := by
  rw [List.find?_map]
  rfl

namespace SameBytes
variable {s t w : State}

theorem refl (s : State) : SameBytes s s := ⟨rfl, rfl, rfl, fun _ => rfl⟩
theorem trans (h : SameBytes s t) (k : SameBytes t w) : SameBytes s w :=
  ⟨k.mem.trans h.mem, k.hostMem.trans h.hostMem, k.decks.trans h.decks, fun pa => (k.off pa).trans (h.off pa)⟩

theorem deck? (h : SameBytes s t) (u : Nat) : (t.deck? u).map Deck.held = (s.deck? u).map Deck.held := by
  rw [deck?_held, deck?_held, h.decks]

theorem readLoc (h : SameBytes s t) (l : Loc) : readLoc t l = readLoc s l := by
  have hd : ∀ (u : Nat) (g : Nat × Memory × Memory → Byte), (t.deck? u).elim 0#8 (fun d => g d.held) = (s.deck? u).elim 0#8 (fun d => g d.held) :=
    fun u g => by
      have := congrArg (fun o => o.elim 0#8 g) (h.deck? u)
      simpa only [Option.elim_map, Function.comp_def] using this
  cases l with
  | dev pa => simp only [Machine.readLoc, devByte, h.off, h.mem]
  | host ha => simp only [Machine.readLoc, h.hostMem]
  | deck u o => exact hd u fun x => x.2.1.read o
  | priv u l o => exact hd u fun x => x.2.2.read (l * 2 ^ 20 + o)

theorem readLocs (h : SameBytes s t) (l : Loc) (n : Nat) : readLocs t l n = readLocs s l n := by simp only [Machine.readLocs, h.readLoc]
theorem valueAt (h : SameBytes s t) (l : Loc) (n : Nat) : valueAt t l n = valueAt s l n := by simp only [Machine.valueAt, h.readLocs]

/-- A change of one deck's memories. -/
theorem modDeck (h : SameBytes s t) (u : Nat) {f g : Deck → Deck} (k : Nat × Memory × Memory → Nat × Memory × Memory)
    (hf : ∀ d, (f d).held = k d.held) (hg : ∀ d, (g d).held = k d.held) : SameBytes (s.modDeck u f) (t.modDeck u g) := by
  refine ⟨h.mem, h.hostMem, ?_, h.off⟩
  have key : ∀ (q : Deck → Deck), (∀ d, (q d).held = k d.held) → ∀ l : List Deck,
      (l.map (fun x => if x.uid == u then q x else x)).map Deck.held = (l.map Deck.held).map (fun x => if x.1 == u then k x else x) :=
    fun q hq l => by
      rw [List.map_map, List.map_map]
      refine List.map_congr_left fun d _ => ?_
      have hu : d.held.1 = d.uid := rfl
      simp only [Function.comp_apply, hu]
      split
      · exact hq d
      · rfl
  exact (key g hg t.decks).trans ((congrArg _ h.decks).trans (key f hf s.decks).symm)

/-- A change of what a deck has beside its memories. -/
theorem modDeck_self (s : State) (u : Nat) {f : Deck → Deck} (hf : ∀ d, (f d).held = d.held) : SameBytes s (s.modDeck u f) := by
  refine ⟨rfl, rfl, ?_, fun _ => rfl⟩
  simp only [State.modDeck, List.map_map]
  refine List.map_congr_left fun d _ => ?_
  simp only [Function.comp_apply]
  split
  · exact hf d
  · rfl

theorem writeLoc (h : SameBytes s t) (l : Loc) (b : Byte) : SameBytes (writeLoc s l b) (writeLoc t l b) := by
  cases l with
  | dev pa =>
    simp only [Machine.writeLoc, h.off]
    split
    · exact h
    · exact ⟨by rw [← h.mem], h.hostMem, h.decks, h.off⟩
  | host ha => exact ⟨h.mem, by simp only [Machine.writeLoc, h.hostMem], h.decks, h.off⟩
  | deck u o => exact h.modDeck u (fun x => (x.1, x.2.1.write o b, x.2.2)) (fun _ => rfl) fun _ => rfl
  | priv u l o => exact h.modDeck u (fun x => (x.1, x.2.1, x.2.2.write (l * 2 ^ 20 + o) b)) (fun _ => rfl) fun _ => rfl

theorem writeLocs (h : SameBytes s t) (l : Loc) (bs : List Byte) : SameBytes (writeLocs s l bs) (writeLocs t l bs) := by
  induction bs generalizing s t l with
  | nil => exact h
  | cons b bs ih => exact ih (h.writeLoc l b) _

/-- Two chains whose steps keep the bytes the same. -/
theorem foldl {α : Type} {f g : State → α → State} (hf : ∀ s t a, SameBytes s t → SameBytes (f s a) (g t a)) (l : List α)
    (h : SameBytes s t) : SameBytes (l.foldl f s) (l.foldl g t) := by
  induction l generalizing s t with
  | nil => exact h
  | cons a l ih => exact ih (hf s t a h)

/-- A chain whose steps change no byte. -/
theorem foldl_self {α : Type} {f : State → α → State} (hf : ∀ s a, SameBytes s (f s a)) (l : List α) (s : State) :
    SameBytes s (l.foldl f s) := by
  induction l generalizing s with
  | nil => exact refl s
  | cons a l ih => exact (hf s a).trans (ih _)

end SameBytes

theorem Elsewhere.sameBytes {s t : State} {u : Nat} (h : Elsewhere s t u) : SameBytes s t := by
  have get : ∀ {β : Type} (p : State → β), p { t with spans := s.spans, piers := s.piers, segs := s.segs, mgmt := s.mgmt, free := s.free } = p s :=
    fun p => congrArg p h.state
  have mgmt : ∀ {β : Type} (p : Mgmt → β), p { t.mgmt with cnt := s.mgmt.cnt, sel := s.mgmt.sel } = p s.mgmt := fun p => congrArg p h.mgmt
  have h1 : t.refreshOff = s.refreshOff := get State.refreshOff
  have h2 : t.steps = s.steps := get State.steps
  have h3 : t.mgmt.refsync = s.mgmt.refsync := mgmt Mgmt.refsync
  have h4 : t.mgmt.nextOff = s.mgmt.nextOff := mgmt Mgmt.nextOff
  exact ⟨get State.mem, get State.hostMem, congrArg (·.map Deck.held) (get State.decks), fun pa => by simp only [declaredOff, h1, h2, h3, h4]⟩

section
variable (s : State)

theorem notePatches_same (accs : List Acc) : SameBytes s (notePatches s accs) :=
  SameBytes.foldl_self (fun s a => by unfold notePatch; split <;> exact ⟨rfl, rfl, rfl, fun _ => rfl⟩) accs s

theorem noteWrite_same (ctx : Option Nat) (l : Loc) : SameBytes s (noteWrite s ctx l) := by
  unfold noteWrite; split <;> exact ⟨rfl, rfl, rfl, fun _ => rfl⟩

theorem setOwner_same (l : Loc) (pier scope : Nat) : SameBytes s (setOwner s l pier scope) := by
  cases h : lineOf l with
  | none => simp only [setOwner, h]; exact .refl s
  | some k => rw [setOwner_eq h]; exact ⟨rfl, rfl, rfl, fun _ => rfl⟩

theorem noteLines_same (u : Nat) (accs : List Acc) : SameBytes s (noteLines s u accs) :=
  SameBytes.foldl_self (f := fun s (a : Acc) => setOwner (noteWrite s (ctxNum s u) a.loc) a.loc (pierOf s u) a.rel)
    (fun s a => (noteWrite_same s _ a.loc).trans (setOwner_same _ ..)) accs s

theorem dropWork_same (i : Nat) : SameBytes s (s.dropWork i) := ⟨rfl, rfl, rfl, fun _ => rfl⟩
theorem modWork_same (i : Nat) (f : Work → Work) : SameBytes s (s.modWork i f) := ⟨rfl, rfl, rfl, fun _ => rfl⟩
theorem modSpan_same (u : Nat) (f : Span → Span) : SameBytes s (s.modSpan u f) := ⟨rfl, rfl, rfl, fun _ => rfl⟩

theorem poisonLocs_same (l : Loc) (n : Nat) : SameBytes s (poisonLocs s l n) := by
  cases l with
  | dev pa => exact ⟨rfl, rfl, rfl, fun _ => rfl⟩
  | host ha => exact .refl s
  | deck u o => exact .modDeck_self s u fun _ => rfl
  | priv u l o => exact .modDeck_self s u fun _ => rfl

/-- A reduction's write leaves the bytes of any write; poisoned bytes stay poisoned (21 R382). -/
theorem writeKeeping_same (l : Loc) (bs : List Byte) : SameBytes (writeLocs s l bs) (writeKeeping s l bs) := by
  simp only [writeKeeping]
  split
  · refine ⟨rfl, rfl, ?_, fun _ => rfl⟩
    rw [List.map_map]
    refine List.map_congr_left fun d _ => ?_
    simp only [Function.comp_apply]
    split <;> rfl
  · exact .refl _

end

/-! ## Bytes written one by one -/

/-- Bytes written one after another, each at its own location. -/
def writeEach (s : State) (ws : List (Loc × Byte)) : State := ws.foldl (fun s w => writeLoc s w.1 w.2) s

theorem writeEach_append (s : State) (ws vs : List (Loc × Byte)) : writeEach s (ws ++ vs) = writeEach (writeEach s ws) vs := List.foldl_append ..

@[simp] theorem Loc.plus_zero (l : Loc) : l.plus 0 = l := by cases l <;> rfl

theorem Loc.plus_inj {l : Loc} {i j : Nat} (h : l.plus i = l.plus j) : i = j := by
  cases l <;> simpa [Loc.plus] using h

/-- A string of bytes is written byte by byte. -/
theorem writeLocs_eq_each (bs : List Byte) : ∀ (s : State) (l : Loc),
    writeLocs s l bs = writeEach s (((List.range bs.length).map l.plus).zip bs) := by
  induction bs with
  | nil => intro s l; rfl
  | cons b bs ih =>
    intro s l
    rw [writeLocs, ih, List.length_cons, List.range_succ_eq_map, List.map_cons, List.zip_cons_cons, List.map_map]
    have hp : l.plus ∘ Nat.succ = (l.plus 1).plus := funext fun i => by
      rw [Function.comp_apply, Loc.plus_plus, Nat.add_comm, Nat.succ_eq_add_one]
    rw [hp, Loc.plus_zero]
    rfl

/-- What a write may change of the state: memories, the marks of poison and what is noted of writes, and the outstanding work. -/
def State.memless (s : State) : State :=
  { s with mem := .empty, hostMem := .empty, poison := [], decks := [], works := [], owners := [], writers := [], code := [] }

/-- States that agree on everything else are made the same by putting these back. -/
theorem State.restore_of_memless {s t : State} (h : t.memless = s.memless) :
    { t with
      mem := s.mem, hostMem := s.hostMem, poison := s.poison, decks := s.decks, works := s.works, owners := s.owners, writers := s.writers,
      code := s.code } = s :=
  congrArg (fun x : State =>
    { x with
      mem := s.mem, hostMem := s.hostMem, poison := s.poison, decks := s.decks, works := s.works, owners := s.owners, writers := s.writers,
      code := s.code }) h

section
variable {s : State}

/-- A byte written in a deck there is. -/
theorem deck?_isSome_modDeck (u v : Nat) (f : Deck → Deck) (hf : ∀ x, (f x).uid = x.uid) :
    ((s.modDeck u f).deck? v).isSome = (s.deck? v).isSome := by
  rw [State.deck?_modDeck s u v f hf]
  split <;> simp

theorem declaredOff_writeLoc (l : Loc) (b : Byte) (pa : Nat) : declaredOff (writeLoc s l b) pa = declaredOff s pa := by
  cases l with
  | dev p => simp only [writeLoc]; split <;> rfl
  | host ha => rfl
  | deck u o => rfl
  | priv u l o => rfl

theorem there_writeLoc (l : Loc) (b : Byte) (k : Loc) : k.there (writeLoc s l b) ↔ k.there s := by
  have hd : ∀ v, ((writeLoc s l b).deck? v).isSome = (s.deck? v).isSome := fun v => by
    cases l with
    | dev p => simp only [writeLoc]; split <;> rfl
    | host ha => rfl
    | deck u o => exact deck?_isSome_modDeck u v _ fun _ => rfl
    | priv u l o => exact deck?_isSome_modDeck u v _ fun _ => rfl
  cases k with
  | dev pa => simp only [Loc.there, declaredOff_writeLoc]
  | host ha => rfl
  | deck v o => simp only [Loc.there, hd]
  | priv v k o => simp only [Loc.there, hd]

theorem Canon.modDeck (h : Canon s) (u : Nat) (f : Deck → Deck) (hf : ∀ d, d.mem.wf = true ∧ d.priv.wf = true → (f d).mem.wf = true ∧ (f d).priv.wf = true) :
    Canon (s.modDeck u f) := by
  refine ⟨h.mem, h.host, fun d hd => ?_⟩
  obtain ⟨e, he, rfl⟩ := List.mem_map.mp hd
  split
  · exact hf e (h.decks e he)
  · exact h.decks e he

theorem Canon.writeLoc (h : Canon s) (l : Loc) (b : Byte) : Canon (writeLoc s l b) := by
  cases l with
  | dev pa =>
    simp only [Machine.writeLoc]
    split
    · exact h
    · exact ⟨s.mem.write_wf pa b h.mem, h.host, h.decks⟩
  | host ha => exact ⟨h.mem, s.hostMem.write_wf ha b h.host, h.decks⟩
  | deck u o => exact h.modDeck u _ fun d hd => ⟨d.mem.write_wf o b hd.1, hd.2⟩
  | priv u l o => exact h.modDeck u _ fun d hd => ⟨hd.1, d.priv.write_wf _ b hd.2⟩

theorem Canon.writeEach (h : Canon s) (ws : List (Loc × Byte)) : Canon (writeEach s ws) := by
  induction ws generalizing s with
  | nil => exact h
  | cons w ws ih => exact ih (h.writeLoc w.1 w.2)

/-- The memories of a deck that is found are in canonical form. -/
theorem Canon.deck? (h : Canon s) {u : Nat} {d : Deck} (hd : s.deck? u = some d) : d.mem.wf = true ∧ d.priv.wf = true :=
  h.decks d (List.mem_of_find?_eq_some hd)

/-- A byte written where there is memory is read back. -/
theorem readLoc_writeLoc_same (h : Canon s) {l : Loc} (ht : l.there s) (b : Byte) : readLoc (writeLoc s l b) l = b := by
  cases l with
  | dev pa =>
    have ht : declaredOff s pa = false := ht
    have hoff := declaredOff_writeLoc (s := s) (.dev pa) b pa
    simp only [readLoc, devByte, hoff, ht, Bool.false_eq_true, if_false]
    simp only [writeLoc, ht, Bool.false_eq_true, if_false, Memory.read_write _ _ _ _ h.mem, if_true]
  | host ha => simp only [readLoc, writeLoc, Memory.read_write _ _ _ _ h.host, if_true]
  | deck u o =>
    obtain ⟨d, hd⟩ := Option.isSome_iff_exists.mp ht
    have hm := State.deck?_modDeck_same (f := fun d => { d with mem := d.mem.write o b, poison := d.poison.filter (fun x => x != o) }) hd fun _ => rfl
    simp only [readLoc, writeLoc, hm, Option.elim_some, Memory.read_write _ _ _ _ (h.deck? hd).1, if_true]
  | priv u k o =>
    obtain ⟨d, hd⟩ := Option.isSome_iff_exists.mp ht
    have hm := State.deck?_modDeck_same (f := fun d =>
      { d with priv := d.priv.write (k * 2 ^ 20 + o) b, poisonP := d.poisonP.filter (fun x => x != k * 2 ^ 20 + o) }) hd fun _ => rfl
    simp only [readLoc, writeLoc, hm, Option.elim_some, Memory.read_write _ _ _ _ (h.deck? hd).2, if_true]

/-- Private bytes that lie in their lanes' 1 MiB have keys of their own (07 R146). -/
theorem privKey_inj {k o m p : Nat} (ho : o < 2 ^ 20) (hp : p < 2 ^ 20) (h : k * 2 ^ 20 + o = m * 2 ^ 20 + p) : k = m ∧ o = p := by omega

/-- A write leaves every other byte. -/
theorem readLoc_writeLoc_ne (h : Canon s) {l k : Loc} (hl : l.good) (hk : k.good) (hne : l ≠ k) (b : Byte) :
    readLoc (writeLoc s l b) k = readLoc s k := by
  have hdeck : ∀ (u v : Nat) (f : Deck → Deck) (q : Deck → Byte), (∀ d, (f d).uid = d.uid) → (u = v → ∀ d, s.deck? u = some d → q (f d) = q d) →
      ((s.modDeck u f).deck? v).elim 0#8 q = (s.deck? v).elim 0#8 q := fun u v f q hf hq => by
    rw [State.deck?_modDeck s u v f hf]
    split
    · rename_i huv
      subst huv
      cases hd : s.deck? u with
      | none => rfl
      | some d => exact hq rfl d hd
    · rfl
  cases l with
  | dev pa =>
    simp only [writeLoc]
    split
    · rfl
    · cases k with
      | dev pb =>
        have hab : pa ≠ pb := fun e => hne (congrArg Loc.dev e)
        show (if declaredOff s pb then _ else _) = _
        simp only [Memory.read_write _ _ _ _ h.mem, if_neg hab]
        rfl
      | _ => rfl
  | host ha =>
    cases k with
    | host hb =>
      have hab : ha ≠ hb := fun e => hne (congrArg Loc.host e)
      simp only [readLoc, writeLoc, Memory.read_write _ _ _ _ h.host, if_neg hab]
    | _ => rfl
  | deck u o =>
    cases k with
    | deck v p =>
      refine hdeck u v _ (fun d => d.mem.read p) (fun _ => rfl) fun huv d hd => ?_
      have hop : o ≠ p := fun e => hne (by rw [huv, e])
      simp only [Memory.read_write _ _ _ _ (h.deck? hd).1, if_neg hop]
    | priv v j p => exact hdeck u v _ (fun d => d.priv.read (j * 2 ^ 20 + p)) (fun _ => rfl) fun _ _ _ => rfl
    | _ => rfl
  | priv u j o =>
    cases k with
    | deck v p => exact hdeck u v _ (fun d => d.mem.read p) (fun _ => rfl) fun _ _ _ => rfl
    | priv v m p =>
      refine hdeck u v _ (fun d => d.priv.read (m * 2 ^ 20 + p)) (fun _ => rfl) fun huv d hd => ?_
      have hop : j * 2 ^ 20 + o ≠ m * 2 ^ 20 + p := fun e => by
        obtain ⟨e1, e2⟩ := privKey_inj hl hk e
        exact hne (by rw [huv, e1, e2])
      simp only [Memory.read_write _ _ _ _ (h.deck? hd).2, if_neg hop]
    | _ => rfl

/-- Bytes written elsewhere leave a byte. -/
theorem readLoc_writeEach_other (h : Canon s) {l : Loc} (hl : l.good) (ws : List (Loc × Byte)) (hw : ∀ w ∈ ws, w.1.good ∧ w.1 ≠ l) :
    readLoc (writeEach s ws) l = readLoc s l := by
  induction ws generalizing s with
  | nil => rfl
  | cons w ws ih =>
    obtain ⟨h1, h2⟩ := hw w List.mem_cons_self
    exact (ih (h.writeLoc w.1 w.2) fun v hv => hw v (List.mem_cons_of_mem w hv)).trans (readLoc_writeLoc_ne h h1 hl h2 w.2)

/-- The last byte written at a location is read there. -/
theorem readLoc_writeEach_last (h : Canon s) {l : Loc} {b : Byte} (ht : l.there s) :
    ∀ (ws : List (Loc × Byte)) (i : Nat), (∀ w ∈ ws, w.1.good) → ws[i]? = some (l, b) → (∀ j, i < j → ∀ w, ws[j]? = some w → w.1 ≠ l) →
      readLoc (writeEach s ws) l = b := by
  intro ws
  induction ws generalizing s with
  | nil => intro i _ hi; simp at hi
  | cons w ws ih =>
    intro i hg hi hj
    have hgs : ∀ v ∈ ws, v.1.good := fun v hv => hg v (List.mem_cons_of_mem w hv)
    cases i with
    | zero =>
      obtain rfl : w = (l, b) := by simpa using hi
      refine (readLoc_writeEach_other (h.writeLoc l b) (hg (l, b) List.mem_cons_self) ws fun v hv => ⟨hgs v hv, ?_⟩).trans
        (readLoc_writeLoc_same h ht b)
      obtain ⟨j, hjl, rfl⟩ := List.mem_iff_getElem.mp hv
      exact hj (j + 1) (Nat.succ_pos j) _ (by simp [hjl])
    | succ i =>
      refine ih (h.writeLoc w.1 w.2) ((there_writeLoc w.1 w.2 l).mpr ht) i hgs (by simpa using hi) fun j hij v hv => ?_
      exact hj (j + 1) (Nat.succ_lt_succ hij) v (by simpa using hv)

@[simp] theorem writeLoc_memless (l : Loc) (b : Byte) : (writeLoc s l b).memless = s.memless := by
  cases l with
  | dev pa => simp only [writeLoc]; split <;> rfl
  | host ha => rfl
  | deck u o => rfl
  | priv u l o => rfl

@[simp] theorem writeEach_memless (ws : List (Loc × Byte)) : (writeEach s ws).memless = s.memless :=
  foldl_keeps (p := State.memless) (fun _ _ => writeLoc_memless ..) ws s

@[simp] theorem writeLoc_works (l : Loc) (b : Byte) : (writeLoc s l b).works = s.works := by
  cases l with
  | dev pa => simp only [writeLoc]; split <;> rfl
  | host ha => rfl
  | deck u o => rfl
  | priv u l o => rfl

@[simp] theorem writeEach_works (ws : List (Loc × Byte)) : (writeEach s ws).works = s.works :=
  foldl_keeps (p := State.works) (fun _ _ => writeLoc_works ..) ws s

@[simp] theorem writeLocs_memless (l : Loc) (bs : List Byte) : (writeLocs s l bs).memless = s.memless := by simp [writeLocs_eq_each]
@[simp] theorem writeLocs_works (l : Loc) (bs : List Byte) : (writeLocs s l bs).works = s.works := by simp [writeLocs_eq_each]

theorem Canon.writeLocs (h : Canon s) (l : Loc) (bs : List Byte) : Canon (writeLocs s l bs) := by
  rw [writeLocs_eq_each]
  exact h.writeEach _

/-- A string's locations and its bytes, paired. -/
theorem mem_locs_zip {l : Loc} {bs : List Byte} {w : Loc × Byte} (h : w ∈ ((List.range bs.length).map l.plus).zip bs) :
    ∃ i < bs.length, w.1 = l.plus i := by
  obtain ⟨i, hi, he⟩ := List.mem_map.mp (List.of_mem_zip (show (w.1, w.2) ∈ _ from h)).1
  exact ⟨i, List.mem_range.mp hi, he.symm⟩

theorem locs_zip_getElem? {l : Loc} {bs : List Byte} {i : Nat} (h : i < bs.length) :
    (((List.range bs.length).map l.plus).zip bs)[i]? = some (l.plus i, bs[i]) := by simp [h]

theorem readLoc_writeLocs_other (h : Canon s) {l k : Loc} (hk : k.good) (bs : List Byte) (hl : ∀ i < bs.length, (l.plus i).good ∧ l.plus i ≠ k) :
    readLoc (writeLocs s l bs) k = readLoc s k := by
  rw [writeLocs_eq_each]
  refine readLoc_writeEach_other h hk _ fun w hw => ?_
  obtain ⟨i, hi, he⟩ := mem_locs_zip hw
  rw [he]
  exact hl i hi

theorem readLoc_writeLocs_at (h : Canon s) {l : Loc} (bs : List Byte) (hl : ∀ i < bs.length, (l.plus i).good) {i : Nat} (hi : i < bs.length)
    (ht : (l.plus i).there s) : readLoc (writeLocs s l bs) (l.plus i) = bs[i] := by
  rw [writeLocs_eq_each]
  refine readLoc_writeEach_last h ht _ i (fun w hw => ?_) (locs_zip_getElem? hi) fun j hij w hw => ?_
  · obtain ⟨j, hj, he⟩ := mem_locs_zip hw
    rw [he]
    exact hl j hj
  · obtain ⟨hj, -⟩ := List.getElem?_eq_some_iff.mp hw
    have hjb : j < bs.length := by simpa using hj
    rw [locs_zip_getElem? hjb, Option.some.injEq] at hw
    rw [← hw]
    exact fun e => absurd (Loc.plus_inj e) (by omega)

theorem there_writeLocs (l : Loc) (bs : List Byte) (k : Loc) : k.there (writeLocs s l bs) ↔ k.there s := by
  induction bs generalizing s l with
  | nil => rfl
  | cons b bs ih => rw [writeLocs, ih, there_writeLoc]

end

end Sys2Proof.Machine
end

section
/-! What performed loads and stores change (O20; 07 R144, R147, R148, 15 R301). -/

namespace Sys2Proof.Machine

/-! ## Registers of outstanding work -/

/-- A register write leaves the width of its span. -/
theorem Landed.width {a : LaneSet} {resv : Nat → Bool} {ds : List (Nat × (Nat → Word))} {sp x : Span} (h : Landed a resv ds sp x) :
    x.width = sp.width := by
  have := congrArg Span.width h.rest
  exact this.symm

/-- Distinct registers written one after another, each by its place: their values, and every other register as it was. -/
theorem landFold_spec {u : Nat} {a : LaneSet} (ha : a ≠ 0#64) (f : Nat → Nat → Word) (resv : State → Nat → Bool) :
    ∀ (ps : List (Nat × Nat)) (s : State) (sp : Span), s.span? u = some sp → (ps.map (·.1)).Nodup → (∀ p ∈ ps, p.1 < sp.regs.length) →
      ∃ x, (ps.foldl (fun s p => landReg s u p.1 (f p.2) a (resv s p.1)) s).span? u = some x ∧
        (∀ p ∈ ps, ∀ l < sp.width, x.reg p.1 l = if hasLane a l then f p.2 l else sp.reg p.1 l) ∧
        (∀ r, r ∉ ps.map (·.1) → x.vreg r = sp.vreg r) ∧ Elsewhere s (ps.foldl (fun s p => landReg s u p.1 (f p.2) a (resv s p.1)) s) u
  | [], s, sp, hs, _, _ => ⟨sp, hs, by simp, fun _ _ => rfl, .refl s u⟩
  | p :: ps, s, sp, hs, hn, hlt => by
    obtain ⟨y, hy, hl, he, -⟩ := landReg_spec (f p.2) a (resv s p.1) hs ha (hlt p List.mem_cons_self)
    obtain ⟨hp, hps⟩ := List.nodup_cons.mp hn
    obtain ⟨x, hx, h1, h2, h3⟩ := landFold_spec ha f resv ps _ y hy hps fun q hq => by
      rw [hl.length]
      exact hlt q (List.mem_cons_of_mem p hq)
    have hother : ∀ r, r ≠ p.1 → y.vreg r = sp.vreg r := fun r hr => hl.others r (by simpa using hr)
    refine ⟨x, hx, ?_, fun r hr => ?_, he.trans h3⟩
    · refine List.forall_mem_cons.mpr ⟨fun l hlw => ?_, fun q hq l hlw => ?_⟩
      · rw [Span.reg, h2 p.1 hp]
        exact hl.vals (p.1, f p.2) List.mem_cons_self l hlw
      · have hne : q.1 ≠ p.1 := fun e => hp (List.mem_map.mpr ⟨q, hq, e⟩)
        rw [h1 q hq l (by rw [hl.width]; exact hlw), Span.reg, hother q.1 hne, ← Span.reg]
    · obtain ⟨hrp, hrs⟩ := not_or.mp (mt List.mem_cons.mpr hr)
      rw [h2 r hrs, hother r hrp]

/-- The registers that outstanding work writes. -/
theorem landRegs_spec {s : State} {w : Work} {sp : Span} (f : Nat → Nat → Word) (hs : s.span? w.span = some sp) (hl : w.lanes ≠ 0#64)
    (hn : w.dsts.Nodup) (hlt : ∀ d ∈ w.dsts, d < sp.regs.length) :
    ∃ x, (landRegs s w f).span? w.span = some x ∧
      (∀ i d, w.dsts[i]? = some d → ∀ l < sp.width, x.reg d l = if hasLane w.lanes l then f i l else sp.reg d l) ∧
      (∀ r, r ∉ w.dsts → x.vreg r = sp.vreg r) ∧ Elsewhere s (landRegs s w f) w.span := by
  have hm : w.dsts.zipIdx.map (·.1) = w.dsts := by simp
  obtain ⟨x, hx, h1, h2, h3⟩ := landFold_spec hl f
    (fun s d => w.resv != 0 && !((s.span? w.span).elim true (fun sp => (sp.vreg d).isVector))) w.dsts.zipIdx s sp hs (by rwa [hm])
    fun p hp => hlt p.1 (hm ▸ List.mem_map_of_mem hp)
  refine ⟨x, hx, fun i d hd l hlw => h1 (d, i) ?_ l hlw, fun r hr => h2 r (by rwa [hm]), h3⟩
  exact List.mem_zipIdx_iff_getElem?.mpr hd

/-! ## Work that is over -/

theorem mem_dropWork {s : State} {i : Nat} {v : Work} : v ∈ (s.dropWork i).works ↔ v ∈ s.works ∧ v.id ≠ i := by simp [State.dropWork]

/-- Work that has written one span's registers and is over. -/
theorem Elsewhere.dropped {s t : State} {u : Nat} (h : Elsewhere s t u) (i : Nat) : Elsewhere s { t.dropWork i with works := s.works } u := by
  have hw : t.works = s.works := by have := congrArg State.works h.state; exact this
  rw [← hw]
  exact h

/-! ## Performing, kind by kind -/

section
variable {s : State} {w : Work}

/-- Only a `cpl` is performed otherwise than as an access. -/
theorem performWork_access (h : w.isCpl = false) : performWork s w = performAccess s w := by
  unfold performWork
  split
  · simp [Work.isCpl, *] at h
  · rfl

/-- A read of poisoned bytes raises POISON. -/
theorem performWork_bad (hc : w.isCpl = false) (h : badReads s w ≠ []) : performWork s w = raiseAtRead s w (badReads s w) := by
  rw [performWork_access hc, performAccess]
  exact if_pos (bne_iff_ne.mpr h)

/-- What is performed where no byte read is poisoned. -/
theorem performWork_good (hc : w.isCpl = false) (h : badReads s w = []) : performWork s w = match w.kind with
    | .load sz =>
      let data := w.accs.map (fun a => (a.lane, readLocs s a.loc a.size))
      (landRegs s w (fun i l => loadWord sz (((data.find? (fun x => x.1 == l)).map (·.2)).getD []) i)).dropWork w.id
    | .store => (noteLines (w.accs.foldl (fun s a => writeLocs s a.loc a.data) (notePatches s w.accs)) w.span w.accs).dropWork w.id
    | .atomic op cas wide =>
      let r := atomicLanes op cas w.accs (notePatches s w.accs) []
      (noteLines r.1 w.span (w.accs.filter (fun a => !cas || r.2.any (fun x => x.1 == a.lane && x.2 == a.cmp)))).modWork w.id
        (fun x => { x with kind := .reply r.2 wide, accs := [] })
    | .reply vals _ =>
      (landRegs s w (fun i l => let v := ((vals.find? (fun x => x.1 == l)).map (·.2)).getD 0#64
        if i == 0 then loWord v else hiWord v)).dropWork w.id
    | .red op => (noteLines (applyRed (atomicValue op) (notePatches s w.accs) w.accs) w.span w.accs).dropWork w.id
    | .redx _ => (noteLines (applyRed (fun a b => a + b) (notePatches s w.accs) w.accs) w.span w.accs).dropWork w.id
    | _ => performAccess s w := by
  rw [performWork_access hc, performAccess, h, bne_self_eq_false]
  simp only [Bool.false_eq_true, if_false]
  cases w.kind <;> rfl

theorem badReads_load {sz : BitVec 3} (hk : w.kind = .load sz) (h : ∀ a ∈ w.accs, poisoned s a.loc a.size = false) : badReads s w = [] := by
  have hf : w.accs.filter (fun a => poisoned s a.loc a.size) = [] := by simpa using h
  simp only [badReads, hk, hf, List.take_nil, ite_self]

theorem badReads_load_ne {sz : BitVec 3} (hk : w.kind = .load sz) (h : ∃ a ∈ w.accs, poisoned s a.loc a.size = true) : badReads s w ≠ [] := by
  have hf : w.accs.filter (fun a => poisoned s a.loc a.size) ≠ [] := by simpa [List.filter_eq_nil_iff] using h
  simp only [badReads, hk]
  split
  · simpa [List.take_eq_nil_iff] using hf
  · exact hf

theorem performWork_load {sz : BitVec 3} (hk : w.kind = .load sz) (h : ∀ a ∈ w.accs, poisoned s a.loc a.size = false) : performWork s w =
    (landRegs s w (fun i l => loadWord sz ((w.accs.find? (fun a => a.lane == l)).elim [] (fun a => readLocs s a.loc a.size)) i)).dropWork w.id := by
  rw [performWork_good (by simp [Work.isCpl, hk]) (badReads_load hk h), hk]
  have helim : ∀ o : Option Acc, (o.map (fun a => readLocs s a.loc a.size)).getD [] = o.elim [] (fun a => readLocs s a.loc a.size) :=
    fun o => by cases o <;> rfl
  simp only [List.find?_map, Function.comp_def, Option.map_map, helim]

theorem performWork_store (hk : w.kind = .store) : performWork s w =
    (noteLines (w.accs.foldl (fun s a => writeLocs s a.loc a.data) (notePatches s w.accs)) w.span w.accs).dropWork w.id := by
  rw [performWork_good (by simp [Work.isCpl, hk]) (by simp [badReads, hk]), hk]

end

/-- The bytes of a register by the size code (03 R64). -/
theorem loadWord_eq (sz : BitVec 3) (bs : List Byte) (i : Nat) : loadWord sz bs i =
    match sz.toNat with
    | 1 => (BitVec.ofNat 8 (bytesNat ((bs.drop (4 * i)).take 4))).signExtend 32
    | 3 => (BitVec.ofNat 16 (bytesNat ((bs.drop (4 * i)).take 4))).signExtend 32
    | _ => BitVec.ofNat 32 (bytesNat ((bs.drop (4 * i)).take 4)) := by
  split
  · rename_i h
    obtain rfl : sz = 1#3 := BitVec.eq_of_toNat_eq h
    rfl
  · rename_i h
    obtain rfl : sz = 3#3 := BitVec.eq_of_toNat_eq h
    rfl
  · rename_i h1 h3
    have e1 : (sz == 1#3) = false := beq_eq_false_iff_ne.mpr fun e => h1 (by rw [e]; rfl)
    have e3 : (sz == 3#3) = false := beq_eq_false_iff_ne.mpr fun e => h3 (by rw [e]; rfl)
    simp [loadWord, e1, e3]

/-! ## A load -/

theorem load_lands {s : State} {w : Work} {sz : BitVec 3} {sp : Span} (hk : w.kind = .load sz) (hs : s.span? w.span = some sp)
    (hl : w.lanes ≠ 0#64) (hn : w.dsts.Nodup) (hlt : ∀ d ∈ w.dsts, d < sp.regs.length)
    (hp : ∀ a ∈ w.accs, poisoned s a.loc a.size = false) :
    ∃ x, (performWork s w).span? w.span = some x ∧
      (∀ i d, w.dsts[i]? = some d → ∀ l < sp.width, x.reg d l = if hasLane w.lanes l then
        loadWord sz ((w.accs.find? (fun a => a.lane == l)).elim [] (fun a => readLocs s a.loc a.size)) i else sp.reg d l) ∧
      (∀ r, r ∉ w.dsts → x.vreg r = sp.vreg r) ∧
      (∀ v ∈ (performWork s w).works, v.id ≠ w.id) ∧ Elsewhere s { performWork s w with works := s.works } w.span := by
  rw [performWork_load hk hp]
  obtain ⟨x, hx, h1, h2, h3⟩ := landRegs_spec (fun i l => loadWord sz
    ((w.accs.find? (fun a => a.lane == l)).elim [] (fun a => readLocs s a.loc a.size)) i) hs hl hn hlt
  exact ⟨x, hx, h1, h2, fun v hv => (mem_dropWork.mp hv).2, h3.dropped w.id⟩

/-! ## A read of poisoned bytes (15 R301) -/

/-- Nothing of the span but its slots in use, the %sp of the lanes and the cause to be raised changes. -/
theorem raiseAtRead_spec {s : State} {w : Work} {sp : Span} (hs : s.span? w.span = some sp) (hp : sp.pending = none) (bad : List Acc) :
    let back : Word := BitVec.ofNat 32 ((w.iss.bind Issue.popped).getD 0)
    ∃ x p, (raiseAtRead s w bad).span? w.span = some x ∧ x.pending = some p ∧ p.cause = 0x000C ∧ p.access = w.access ∧
      p.time = some s.time ∧ p.entry = w.iss.toList.map (fun i => (w.id, { i with late := true })) ∧
      { x with pending := none, used := sp.used } = sp.modLanes w.lanes (fun _ y => { y with sp := y.sp - back }) ∧
      (∀ v ∈ (raiseAtRead s w bad).works, v.id ≠ w.id) ∧ Elsewhere s { raiseAtRead s w bad with works := s.works } w.span := by
  intro back
  have hsp : sp = { sp with pending := none } := by rw [← hp]
  rw [hsp] at hs ⊢
  have h1 := State.span?_modSpan_same (fun x => { x with used := x.used - w.resv }) (fun _ => rfl) hs
  have he := Elsewhere.modSpan s w.span (fun x => { x with used := x.used - w.resv }) fun _ => rfl
  refine ⟨_, _, State.span?_modSpan_same (s := (unreserve s w.span w.resv).dropWork w.id) _ (by intro _; rfl) h1, rfl, rfl, rfl, rfl, rfl, rfl,
    fun v hv => (mem_dropWork.mp hv).2, he.trans (Elsewhere.modSpan (unreserve s w.span w.resv) w.span _ (by intro _; rfl))⟩

/-! ## A store -/

@[simp] theorem foldl_writeLocs_works (accs : List Acc) (s : State) :
    (accs.foldl (fun s a => writeLocs s a.loc a.data) s).works = s.works :=
  foldl_keeps (p := State.works) (f := fun s (a : Acc) => writeLocs s a.loc a.data) (fun _ _ => writeLocs_works ..) accs s

@[simp] theorem notePatches_works (s : State) (accs : List Acc) : (notePatches s accs).works = s.works :=
  foldl_keeps (p := State.works) (f := fun s (a : Acc) => notePatch s a.loc a.size) (fun s a => by unfold notePatch; split <;> rfl) accs s

@[simp] theorem noteLines_works (s : State) (u : Nat) (accs : List Acc) : (noteLines s u accs).works = s.works :=
  foldl_keeps (p := State.works) (f := fun s (a : Acc) => setOwner (noteWrite s (ctxNum s u) a.loc) a.loc (pierOf s u) a.rel) (fun s a => by
    unfold setOwner noteWrite
    cases lineOf a.loc <;> dsimp only
    split_ifs <;> rfl) accs s

theorem notePatches_memless (s : State) (accs : List Acc) : (notePatches s accs).memless = s.memless :=
  foldl_keeps (p := State.memless) (f := fun s (a : Acc) => notePatch s a.loc a.size) (fun s a => by unfold notePatch; split <;> rfl) accs s

theorem noteLines_memless (s : State) (u : Nat) (accs : List Acc) : (noteLines s u accs).memless = s.memless :=
  foldl_keeps (p := State.memless) (f := fun s (a : Acc) => setOwner (noteWrite s (ctxNum s u) a.loc) a.loc (pierOf s u) a.rel) (fun s a => by
    unfold setOwner noteWrite
    cases lineOf a.loc <;> dsimp only
    split_ifs <;> rfl) accs s

section
variable {s : State}

/-- The accesses of a store leave every byte that none of them writes. -/
theorem readLoc_store_other (h : Canon s) {l : Loc} (hl : l.good) (accs : List Acc)
    (hw : ∀ a ∈ accs, ∀ i < a.data.length, (a.loc.plus i).good ∧ a.loc.plus i ≠ l) :
    readLoc (accs.foldl (fun s a => writeLocs s a.loc a.data) s) l = readLoc s l := by
  induction accs generalizing s with
  | nil => rfl
  | cons a accs ih =>
    exact (ih (h.writeLocs a.loc a.data) fun b hb => hw b (List.mem_cons_of_mem a hb)).trans
      (readLoc_writeLocs_other h hl a.data (hw a List.mem_cons_self))

/-- A byte of an access that no later one writes again is read back. -/
theorem readLoc_store_at (h : Canon s) : ∀ (accs : List Acc) (k : Nat) (a : Acc) (i : Nat) (hi : i < a.data.length),
    (∀ b ∈ accs, ∀ j < b.data.length, (b.loc.plus j).good) → accs[k]? = some a → (a.loc.plus i).there s →
    (∀ (m : Nat) (b : Acc), k < m → accs[m]? = some b → ∀ j < b.data.length, b.loc.plus j ≠ a.loc.plus i) →
    readLoc (accs.foldl (fun s a => writeLocs s a.loc a.data) s) (a.loc.plus i) = a.data[i] := by
  intro accs
  induction accs generalizing s with
  | nil => intro k a i _ _ hk; simp at hk
  | cons c accs ih =>
    intro k a i hi hg hk ht hm
    have hgs : ∀ b ∈ accs, ∀ j < b.data.length, (b.loc.plus j).good := fun b hb => hg b (List.mem_cons_of_mem c hb)
    cases k with
    | zero =>
      obtain rfl : c = a := by simpa using hk
      refine (readLoc_store_other (h.writeLocs c.loc c.data) (hg c List.mem_cons_self i hi) accs fun b hb j hj => ⟨hgs b hb j hj, ?_⟩).trans
        (readLoc_writeLocs_at h c.data (hg c List.mem_cons_self) hi ht)
      obtain ⟨m, hml, rfl⟩ := List.mem_iff_getElem.mp hb
      exact hm (m + 1) _ (Nat.succ_pos m) (by simp [hml]) j hj
    | succ k =>
      refine ih (h.writeLocs c.loc c.data) k a i hi hgs (by simpa using hk) ((there_writeLocs c.loc c.data _).mpr ht) fun m b hkm hb => ?_
      exact hm (m + 1) b (Nat.succ_lt_succ hkm) (by simpa using hb)

/-- A performed store has the bytes of its accesses written one after another. -/
theorem performWork_store_same {w : Work} (hk : w.kind = .store) :
    SameBytes (w.accs.foldl (fun s a => writeLocs s a.loc a.data) s) (performWork s w) := by
  rw [performWork_store hk]
  exact ((SameBytes.foldl (fun _ _ a h => h.writeLocs a.loc a.data) w.accs (notePatches_same s w.accs)).trans (noteLines_same _ w.span w.accs)).trans
    (dropWork_same _ w.id)

/-- A performed store leaves everything but memories, what is noted of writes, and the outstanding work. -/
theorem performWork_store_memless {w : Work} (hk : w.kind = .store) : (performWork s w).memless = s.memless := by
  rw [performWork_store hk]
  show State.memless (noteLines _ w.span w.accs) = _
  rw [noteLines_memless, foldl_keeps (p := State.memless) (f := fun s (a : Acc) => writeLocs s a.loc a.data) (fun _ _ => writeLocs_memless ..),
    notePatches_memless]

theorem mem_works_performWork_store {w v : Work} (hk : w.kind = .store) : v ∈ (performWork s w).works ↔ v ∈ s.works ∧ v.id ≠ w.id := by
  rw [performWork_store hk, mem_dropWork, noteLines_works, foldl_writeLocs_works, notePatches_works]

end

/-- Settles O20: a load lands its registers or raises POISON, and a store's bytes are those of its accesses, one after another. -/
theorem performedAccesses : Obligations.PerformedAccesses := by
  refine ⟨⟨fun s w sz sp hk hs hl hn hlt hp => ?_, fun s w sz sp hk hs hpd hb => ?_⟩, fun s w hk hc hg => ?_⟩
  · have h := load_lands hk hs hl hn hlt hp
    simp only [loadWord_eq] at h
    exact h
  · rw [performWork_bad (by simp [Work.isCpl, hk]) (badReads_load_ne hk hb)]
    have ha : w.access = if w.isPop = true then 9 else 1 := by simp only [Work.access, hk]
    rw [← ha]
    exact raiseAtRead_spec hs hpd _
  · have hsame := performWork_store_same (s := s) hk
    refine ⟨fun l hl hne => ?_, fun k a i hi hka ht hm => ?_, ?_, fun v => mem_works_performWork_store hk⟩
    · rw [hsame.readLoc]
      exact readLoc_store_other hc hl w.accs fun a ha i hi => ⟨hg a ha i hi, hne a ha i hi⟩
    · rw [hsame.readLoc]
      exact readLoc_store_at hc w.accs k a i hi hg hka ht hm
    · exact State.restore_of_memless (performWork_store_memless hk)

end Sys2Proof.Machine
end

section
/-! What atomics and reductions do to memory (O22; 07 R152-R156). -/

namespace Sys2Proof.Machine

/-! ## The operations (07 R153) -/

theorem loWord_zeroExtend (o : Word) : loWord (o.zeroExtend 64) = o := by
  apply BitVec.eq_of_toNat_eq
  simpa [loWord] using o.isLt

theorem sle_iff {w : Nat} (a b : BitVec w) : a.sle b = true ↔ a.toInt ≤ b.toInt := by simp [BitVec.sle]
theorem ule_iff {w : Nat} (a b : BitVec w) : a.ule b = true ↔ a.toNat ≤ b.toNat := by simp [BitVec.ule]

/-! ## Memory after reads and writes of atomics -/

section
variable {s : State} {w : Work}

theorem badReads_atomic {op : BitVec 4} {cas wide : Bool} (hk : w.kind = .atomic op cas wide)
    (h : ∀ a ∈ w.accs, poisoned s a.loc a.size = false) : badReads s w = [] := by
  have hf : w.accs.filter (fun a => poisoned s a.loc a.size) = [] := by simpa using h
  simp only [badReads, hk, hf]

/-- One lane of an atomic: its operation on the old value, or nothing where a comparand differs (07 R152, R154). -/
theorem atomicLanes_cons (op : BitVec 4) (cas : Bool) (a : Acc) (rest : List Acc) (s : State) (out : List (Nat × DWord)) :
    let old := valueAt s a.loc a.size
    let b := BitVec.ofNat 64 (bytesNat a.data)
    atomicLanes op cas (a :: rest) s out = atomicLanes op cas rest (if cas = true ∧ old ≠ a.cmp then s
      else writeLocs s a.loc (natBytes a.size (if cas = true then b else atomicValue op old b).toNat)) (out ++ [(a.lane, old)]) := by
  intro old b
  cases cas with
  | false => simp only [atomicLanes, Bool.false_and, Bool.false_eq_true, if_false, false_and]; rfl
  | true =>
    by_cases h : old = a.cmp
    · have hb : (old == a.cmp) = true := beq_iff_eq.mpr h
      simp only [atomicLanes, old, h, bne_self_eq_false, Bool.and_false, Bool.false_eq_true, if_false, if_true, ne_eq, not_true, and_false,
        beq_self_eq_true]
      rfl
    · have hb : (old != a.cmp) = true := bne_iff_ne.mpr h
      rw [if_pos ⟨rfl, h⟩, atomicLanes]
      simp only [Bool.true_and, show (valueAt s a.loc a.size != a.cmp) = true from hb, if_true]
      rfl

/-- The lanes of an atomic depend on the bytes alone. -/
theorem atomicLanes_same (op : BitVec 4) (cas : Bool) (accs : List Acc) {s t : State} (h : SameBytes s t) (out : List (Nat × DWord)) :
    (atomicLanes op cas accs t out).2 = (atomicLanes op cas accs s out).2 ∧
    SameBytes (atomicLanes op cas accs s out).1 (atomicLanes op cas accs t out).1 := by
  induction accs generalizing s t out with
  | nil => exact ⟨rfl, h⟩
  | cons a accs ih =>
    simp only [atomicLanes_cons, h.valueAt]
    refine ih ?_ _
    split
    · exact h
    · exact h.writeLocs _ _

@[simp] theorem atomicLanes_works (op : BitVec 4) (cas : Bool) (accs : List Acc) (s : State) (out : List (Nat × DWord)) :
    (atomicLanes op cas accs s out).1.works = s.works := by
  induction accs generalizing s out with
  | nil => rfl
  | cons a accs ih =>
    rw [atomicLanes_cons, ih]
    split <;> simp

/-- Work that is outstanding once is found by its number. -/
theorem State.work?_of_mem (h : w ∈ s.works) (hu : ∀ v ∈ s.works, v.id = w.id → v = w) : s.work? w.id = some w := by
  obtain ⟨v, hv⟩ := Option.isSome_iff_exists.mp (List.find?_isSome (p := fun x : Work => x.id == w.id).mpr ⟨w, h, by simp⟩)
  have hid : v.id = w.id := by simpa using List.find?_some hv
  rw [← hu v (List.mem_of_find?_eq_some hv) hid, hid]
  exact hv

theorem State.work?_modWork (s : State) (i : Nat) (f : Work → Work) (hf : ∀ x, (f x).id = x.id) (j : Nat) :
    (s.modWork i f).work? j = if i = j then (s.work? j).map f else s.work? j := by
  refine (find_map_at Work.id f hf i j s.works).trans ?_
  show (s.work? j).map _ = _
  cases h : s.work? j with
  | none => simp
  | some v =>
    have hv : v.id = j := find_key (key := Work.id) h
    by_cases hij : i = j
    · simp [hv, hij]
    · simp [hv, hij, Ne.symm hij]

theorem State.work?_modWork_same {s : State} {i : Nat} {v : Work} {f : Work → Work} (h : s.work? i = some v) (hf : ∀ x, (f x).id = x.id) :
    (s.modWork i f).work? i = some (f v) := by
  rw [State.work?_modWork s i f hf, if_pos rfl, h, Option.map_some]

/-- A performed atomic is its reply, and has written what its lanes write. -/
theorem atomic_performs {op : BitVec 4} {cas wide : Bool} (hw : w ∈ s.works) (hu : ∀ v ∈ s.works, v.id = w.id → v = w)
    (hk : w.kind = .atomic op cas wide) (hp : ∀ a ∈ w.accs, poisoned s a.loc a.size = false) :
    ∃ x, (performWork s w).work? w.id = some x ∧ x.kind = .reply (atomicLanes op cas w.accs s []).2 wide ∧
      SameBytes (atomicLanes op cas w.accs s []).1 (performWork s w) := by
  obtain ⟨hreply, hbytes⟩ := atomicLanes_same op cas w.accs (notePatches_same s w.accs) []
  rw [performWork_good (by simp [Work.isCpl, hk]) (badReads_atomic hk hp), hk]
  dsimp only
  refine ⟨{ w with kind := .reply (atomicLanes op cas w.accs s []).2 wide, accs := [] }, ?_, rfl,
    (hbytes.trans (noteLines_same _ _ _)).trans (modWork_same _ _ _)⟩
  rw [← hreply]
  refine State.work?_modWork_same ?_ (by intro _; rfl)
  have hfound := State.work?_of_mem hw hu
  simp only [State.work?] at hfound ⊢
  rw [noteLines_works, atomicLanes_works, notePatches_works, hfound]

/-! ## Replies -/

theorem reply_lands {vals : List (Nat × DWord)} {wide : Bool} {sp : Span} (hk : w.kind = .reply vals wide) (hs : s.span? w.span = some sp)
    (hl : w.lanes ≠ 0#64) (hn : w.dsts.Nodup) (hlt : ∀ d ∈ w.dsts, d < sp.regs.length) :
    let val (l : Nat) : DWord := ((vals.find? (fun x => x.1 == l)).map (·.2)).getD 0#64
    ∃ x, (performWork s w).span? w.span = some x ∧
      (∀ i d, w.dsts[i]? = some d → ∀ l < sp.width, x.reg d l =
        if hasLane w.lanes l then (if i = 0 then loWord (val l) else hiWord (val l)) else sp.reg d l) ∧
      (∀ r, r ∉ w.dsts → x.vreg r = sp.vreg r) ∧ (∀ v ∈ (performWork s w).works, v.id ≠ w.id) ∧
      Elsewhere s { performWork s w with works := s.works } w.span := by
  intro val
  rw [performWork_good (by simp [Work.isCpl, hk]) (by simp [badReads, hk]), hk]
  obtain ⟨x, hx, h1, h2, h3⟩ := landRegs_spec (fun i l => if i == 0 then loWord (val l) else hiWord (val l)) hs hl hn hlt
  simp only [beq_iff_eq] at h1
  exact ⟨x, hx, h1, h2, fun v hv => (mem_dropWork.mp hv).2, h3.dropped w.id⟩

/-! ## Reductions (07 R155, R156) -/

/-- Reductions have written what plain writes of their values write; the poison they keep is no byte. -/
theorem applyRed_same (f : DWord → DWord → DWord) {s t : State} (h : SameBytes s t) (accs : List Acc) :
    SameBytes ((combine f accs []).foldl (fun s x => writeLocs s x.1 (natBytes x.2.1 (f (valueAt s x.1 x.2.1) x.2.2).toNat)) s)
      (applyRed f t accs) := by
  refine SameBytes.foldl (fun s t x k => ?_) _ h
  rw [k.valueAt]
  exact (k.writeLocs _ _).trans (writeKeeping_same t _ _)

@[simp] theorem writeKeeping_works (s : State) (l : Loc) (bs : List Byte) : (writeKeeping s l bs).works = s.works := by
  simp only [writeKeeping]
  split <;> exact writeLocs_works ..

@[simp] theorem applyRed_works (f : DWord → DWord → DWord) (s : State) (accs : List Acc) : (applyRed f s accs).works = s.works :=
  foldl_keeps (p := State.works) (f := fun s (x : Loc × Nat × DWord) => writeKeeping s x.1 (natBytes x.2.1 (f (valueAt s x.1 x.2.1) x.2.2).toNat))
    (fun _ _ => writeKeeping_works ..) _ s

/-- The operation of a reduction: its own, or the sum of a redx. -/
theorem performWork_red {f : DWord → DWord → DWord} (hk : (∃ op, w.kind = .red op ∧ f = atomicValue op) ∨ (∃ k, w.kind = .redx k ∧ f = fun p q => p + q)) :
    performWork s w = (noteLines (applyRed f (notePatches s w.accs) w.accs) w.span w.accs).dropWork w.id := by
  rcases hk with ⟨op, hk, rfl⟩ | ⟨k, hk, rfl⟩ <;>
    rw [performWork_good (by simp [Work.isCpl, hk]) (by simp [badReads, hk]), hk]

theorem red_performs {f : DWord → DWord → DWord} (hk : (∃ op, w.kind = .red op ∧ f = atomicValue op) ∨ (∃ k, w.kind = .redx k ∧ f = fun p q => p + q)) :
    (∀ l, readLoc (performWork s w) l = readLoc ((combine f w.accs []).foldl (fun s x =>
      writeLocs s x.1 (natBytes x.2.1 (f (valueAt s x.1 x.2.1) x.2.2).toNat)) s) l) ∧
    (∀ v, v ∈ (performWork s w).works ↔ v ∈ s.works ∧ v.id ≠ w.id) ∧ (performWork s w).spans = s.spans := by
  rw [performWork_red hk]
  refine ⟨fun l => ?_, fun v => ?_, ?_⟩
  · exact (((applyRed_same f (notePatches_same s w.accs) w.accs).trans (noteLines_same _ _ _)).trans (dropWork_same _ _)).readLoc l
  · rw [mem_dropWork, noteLines_works, applyRed_works, notePatches_works]
  · rw [State.dropWork_spans, noteLines_spans, applyRed_spans, notePatches_spans]

end

/-- What an access gives the combiner. -/
def Acc.operand (a : Acc) : DWord := BitVec.ofNat 64 (bytesNat a.data)

/-- Accesses at one location merge into the entry that it has, or make one (07 R155, R156). -/
theorem find?_combine (f : DWord → DWord → DWord) (l : Loc) : ∀ (accs : List Acc) (out : List (Loc × Nat × DWord)),
    (combine f accs out).find? (fun x => x.1 == l) = match out.find? (fun x => x.1 == l) with
      | some x => some (l, x.2.1, (accs.filter (fun a => a.loc == l)).foldl (fun v b => f v b.operand) x.2.2)
      | none => match accs.filter (fun a => a.loc == l) with
        | [] => none
        | a :: rest => some (l, a.size, rest.foldl (fun v b => f v b.operand) a.operand)
  | [], out => by
    rw [combine, List.filter_nil]
    cases h : out.find? (fun x => x.1 == l) with
    | none => rfl
    | some x =>
      obtain ⟨k, n, v⟩ := x
      obtain rfl : k = l := by simpa using List.find?_some h
      rfl
  | a :: accs, out => by
    rw [combine, find?_combine f l accs]
    have hfind : (if out.any (fun x => x.1 == a.loc) then out.map (fun x => if x.1 == a.loc then (x.1, x.2.1, f x.2.2 a.operand) else x)
        else out ++ [(a.loc, a.size, a.operand)]).find? (fun x => x.1 == l) =
        if a.loc = l then some (match out.find? (fun x => x.1 == l) with
          | some x => (x.1, x.2.1, f x.2.2 a.operand)
          | none => (a.loc, a.size, a.operand)) else out.find? (fun x => x.1 == l) := by
      have hmap : (out.map (fun x => if x.1 == a.loc then (x.1, x.2.1, f x.2.2 a.operand) else x)).find? (fun x => x.1 == l) =
          (out.find? (fun x => x.1 == l)).map (fun x => if x.1 == a.loc then (x.1, x.2.1, f x.2.2 a.operand) else x) := by
        rw [List.find?_map]
        congr 2
        funext x
        simp only [Function.comp_apply]
        split <;> rfl
      have hself : ∀ x, out.find? (fun x => x.1 == l) = some x → x.1 = l := fun x hx => by simpa using List.find?_some hx
      by_cases hal : a.loc = l
      · rw [if_pos hal]
        cases h : out.find? (fun x => x.1 == l) with
        | none =>
          have hany : out.any (fun x => x.1 == a.loc) = false := by
            rw [hal]
            simpa using h
          rw [hany, if_neg (by simp), List.find?_append, h]
          simp [hal]
        | some x =>
          have hany : out.any (fun x => x.1 == a.loc) = true := by
            rw [hal]
            exact List.any_eq_true.mpr ⟨x, List.mem_of_find?_eq_some h, beq_iff_eq.mpr (hself x h)⟩
          rw [hany, if_pos rfl, hmap, h]
          simp [hal, hself x h]
      · rw [if_neg hal]
        split
        · rw [hmap]
          cases h : out.find? (fun x => x.1 == l) with
          | none => rfl
          | some x =>
            have hx : x.1 ≠ a.loc := fun e => hal (e.symm.trans (hself x h))
            simp [hx]
        · rw [List.find?_append]
          simp [hal]
    rw [show BitVec.ofNat 64 (bytesNat a.data) = a.operand from rfl, hfind]
    by_cases hal : a.loc = l
    · have hb : (a.loc == l) = true := by simpa using hal
      rw [if_pos hal, List.filter_cons_of_pos (by simpa using hal)]
      cases h : out.find? (fun x => x.1 == l) <;> rfl
    · rw [if_neg hal, List.filter_cons_of_neg (by simpa using hal)]

/-- Settles O22: values by the operation, one lane after another; a reduction's accesses merge first, and replies land as loads do. -/
theorem atomicsUpdateMemory : Obligations.AtomicsUpdateMemory := by
  refine ⟨fun o b p q => ?_, fun s w op wide a hw hu hk ha hp => ?_, fun s w op wide a hw hu hk ha hp => ?_,
    fun s w op cas wide hw hu hk hp => ?_, fun op cas a rest s out => atomicLanes_cons op cas a rest s out,
    fun s w vals wide sp hk hs hl hn hlt => reply_lands hk hs hl hn hlt, fun s w f hk => red_performs hk, fun f accs l => find?_combine f l accs []⟩
  · simp only [atomicValue, loWord_zeroExtend, sle_iff, ule_iff]
    exact ⟨rfl, rfl, rfl, rfl, rfl, rfl, rfl, rfl, rfl, rfl, rfl, rfl, rfl, rfl, rfl, rfl⟩
  · obtain ⟨x, hx, hr, hb⟩ := atomic_performs hw hu hk (by simpa [ha] using hp)
    rw [ha, atomicLanes_cons] at hr hb
    exact ⟨x, hx, hr, hb.readLoc⟩
  · obtain ⟨x, hx, hr, hb⟩ := atomic_performs hw hu hk (by simpa [ha] using hp)
    rw [ha, atomicLanes_cons] at hr hb
    refine ⟨x, hx, hr, fun hne l => ?_, fun he l => ?_⟩
    · rw [if_pos ⟨rfl, hne⟩] at hb
      exact hb.readLoc l
    · rw [if_neg fun h => h.2 he] at hb
      exact hb.readLoc l
  · obtain ⟨x, hx, hr, hb⟩ := atomic_performs hw hu hk hp
    exact ⟨x, hx, hr, hb.readLoc⟩

end Sys2Proof.Machine
end

section
/-! Per-lane copies (O29; 07 R145, R175, R176, 15 R300). -/

namespace Sys2Proof.Machine

/-! ## Where the source of a lane lies (07 R175) -/

section
variable {l v : Nat} {a : DWord}

theorem cplSources_one (hv : v ≠ 0) (hp : firstPart a.toNat v = v) : cplSources l a v = [⟨l, a, v, .global, false⟩] := by
  simp [cplSources, hv, hp]

theorem cplSources_two (hv : v ≠ 0) (hp : firstPart a.toNat v ≠ v) : cplSources l a v =
    [⟨l, a, firstPart a.toNat v, .global, false⟩,
     ⟨l, a + BitVec.ofNat 64 (firstPart a.toNat v), v - firstPart a.toNat v, .global, false⟩] := by
  simp [cplSources, hv, hp]

/-- A source lies in one page, or its bytes are cut where its first page ends. -/
theorem cplSources_cases (l : Nat) (a : DWord) (hv : v ≠ 0) : cplSources l a v = [⟨l, a, v, .global, false⟩] ∧ a.toNat % 4096 + v ≤ 4096 ∨
    ∃ p, 0 < p ∧ p < v ∧ a.toNat % 4096 + p = 4096 ∧
      cplSources l a v = [⟨l, a, p, .global, false⟩, ⟨l, a + BitVec.ofNat 64 p, v - p, .global, false⟩] := by
  by_cases hp : firstPart a.toNat v = v
  · refine .inl ⟨cplSources_one hv hp, ?_⟩
    unfold firstPart at hp
    omega
  · refine .inr ⟨firstPart a.toNat v, ?_, ?_, ?_, cplSources_two hv hp⟩ <;> unfold firstPart at hp ⊢ <;> omega

theorem cplSources_covers : (cplSources l a v).flatMap (fun q => (List.range q.size).map (fun i => q.addr + BitVec.ofNat 64 i)) =
    (List.range v).map (fun i => a + BitVec.ofNat 64 i) := by
  by_cases h0 : v = 0
  · simp [cplSources, h0]
  rcases cplSources_cases l a h0 with ⟨e, -⟩ | ⟨p, -, hpv, -, e⟩
  · simp [e]
  · have hr : List.range v = List.range p ++ (List.range (v - p)).map (p + ·) := by
      rw [← List.range_add, Nat.add_sub_cancel' (Nat.le_of_lt hpv)]
    rw [e, hr]
    simp [Function.comp_def, BitVec.ofNat_add, BitVec.add_assoc]

theorem cplSources_spec {q : Req} (h : q ∈ cplSources l a v) :
    q.lane = l ∧ q.sp = .global ∧ q.wr = false ∧ 0 < q.size ∧ (v ≤ 32 → q.addr.toNat % 4096 + q.size ≤ 4096) := by
  have h0 : v ≠ 0 := fun e => by simp [cplSources, e] at h
  rcases cplSources_cases l a h0 with ⟨e, hs⟩ | ⟨p, hp, hpv, hs, e⟩
  · rw [e, List.mem_singleton] at h
    subst h
    exact ⟨rfl, rfl, rfl, Nat.pos_of_ne_zero h0, fun _ => hs⟩
  · rw [e, List.mem_cons, List.mem_singleton] at h
    rcases h with rfl | rfl
    · exact ⟨rfl, rfl, rfl, hp, fun _ => hs.le⟩
    · refine ⟨rfl, rfl, rfl, Nat.sub_pos_of_lt hpv, fun hv => ?_⟩
      have : (a + BitVec.ofNat 64 p).toNat % 4096 = 0 := by
        rw [BitVec.toNat_add, BitVec.toNat_ofNat, Nat.mod_mod_of_dvd _ (by norm_num), Nat.add_mod, Nat.mod_mod_of_dvd _ (by norm_num),
          ← Nat.add_mod]
        omega
      dsimp only
      omega

end

/-! ## The checks of a copy's lanes (07 R145, R175) -/

/-- A trap that the checks raise is of a check that one of the accesses fails. -/
theorem checkAllWith_trap_fails {c : Ctx} {s b : State} {align : Req → Nat} {access mx : Nat} {rd : Bool} {reqs : List Req} {t : TrapInfo}
    (h : checkAllWith (fun q => q.addr.toNat % align q == 0) c s access mx rd reqs = .error (.trap b t)) :
    ∃ q ∈ reqs, c.fails s align mx rd q t.cause := by
  by_cases h2 : ∃ q ∈ reqs, (q.addr.toNat % align q == 0) = false
  · rw [checkAllWith_misaligned h2] at h
    cases h
    exact h2.imp fun q hq => ⟨hq.1, by simpa [Ctx.fails, accessTrap] using hq.2⟩
  have ha : ∀ q ∈ reqs, (q.addr.toNat % align q == 0) = true := by simpa using h2
  by_cases h3 : ∃ q ∈ reqs, resolve c s q.sp q.lane q.addr q.size = none
  · rw [checkAllWith_unresolved ha h3] at h
    cases h
    exact h3
  have hr : ∀ q ∈ reqs, resolve c s q.sp q.lane q.addr q.size ≠ none := by simpa using h3
  by_cases ht : c.translated s reqs
  · rw [checkAllWith_translated ha hr ht] at h
    by_cases h4 : ∃ q ∈ reqs, (c.trOf s q).isProt mx = true
    · obtain ⟨mt, e⟩ := checkTranslated_protected (access := access) (rd := rd) h4
      rw [e] at h
      cases h
      exact h4.imp fun q hq => ⟨hq.1, Ctx.fails_protection.mpr hq.2⟩
    have hp : ∀ q ∈ reqs, (c.trOf s q).isProt mx = false := by simpa using h4
    by_cases h5 : ∃ q ∈ reqs, c.trOf s q = Tr.absent
    · rw [checkTranslated_absent hp h5] at h
      cases h
      exact h5.imp fun q hq => ⟨hq.1, (Ctx.fails_absent (hr q hq.1)).mpr hq.2⟩
    have hab : ∀ q ∈ reqs, c.trOf s q ≠ Tr.absent := by simpa using h5
    by_cases h6 : rd = true ∧ ∃ q ∈ reqs, ∃ l mt, c.trOf s q = Tr.ok l mt ∧ stillPoisoned s c.u q.lane l q.size = true
    · obtain ⟨rfl, h6⟩ := h6
      obtain ⟨mt, bad, e, -⟩ := checkTranslated_poisoned (access := access) hp hab h6
      rw [e] at h
      cases h
      exact h6.imp fun q hq => ⟨hq.1, Ctx.fails_poison.mpr ⟨rfl, hq.2⟩⟩
    · have hclean : ∀ x ∈ (reqs.map (fun q => (q, c.trOf s q))).filterMap hitOfTr,
          ¬ (rd && stillPoisoned s c.u x.req.lane x.loc x.req.size) = true := by
        simp only [List.mem_filterMap, List.mem_map, hitOfTr_eq_some, exists_exists_and_eq_and, Prod.mk.injEq, Bool.and_eq_true]
        rintro x ⟨q, hq, rfl, he⟩ ⟨h1, h2⟩
        exact h6 ⟨h1, x.req, hq, x.loc, x.mtype, he, h2⟩
      have e1 := tagged_eq_nil hp
      have e2 := tagged_eq_nil (f := c.trOf s) (p := (· == Tr.absent)) (reqs := reqs) (by simpa using hab)
      have e3 := List.filter_eq_nil_iff.mpr hclean
      simp only [checkTranslated, e1, e2, e3, bne_self_eq_false, Bool.false_eq_true, if_false] at h
      cases h
  · exfalso
    have e1 : reqs.filter (fun q => !(q.addr.toNat % align q == 0)) = [] := by simpa using ha
    have e2 : (reqs.map (fun q => (q, resolve c s q.sp q.lane q.addr q.size))).filter (fun x => x.2.isNone) = [] :=
      tagged_eq_nil (f := fun q : Req => resolve c s q.sp q.lane q.addr q.size) (p := Option.isNone) fun q hq => by
        simpa [Option.isSome_iff_ne_none] using hr q hq
    have e3 : (reqs.map (fun q => (q, resolve c s q.sp q.lane q.addr q.size))).map (fun x =>
        (x.1, x.2.elim Tr.absent (translateTarget c s x.1.wr))) = reqs.map (fun q => (q, c.trOf s q)) := by
      rw [List.map_map]; rfl
    have hwait : (∃ q ∈ reqs, c.trOf s q = Tr.noMem) ∨ ∃ q ∈ reqs, ∃ p, c.trOf s q = Tr.ask p := by
      by_contra hn
      push Not at hn
      refine ht fun q hq g hg => ?_
      rw [← Ctx.trOf_some hg]
      exact ⟨hn.2 q hq, hn.1 q hq⟩
    simp only [checkAllWith, e1, e2, e3, bne_self_eq_false, Bool.false_eq_true, if_false] at h
    split at h
    · cases h
    · rename_i hno
      split at h
      · cases h
      · rename_i hask
        rcases hwait with ⟨q, hq, e⟩ | ⟨q, hq, p, e⟩
        · exact hno (List.any_eq_true.mpr ⟨_, List.mem_map_of_mem hq, by simp [e]⟩)
        · have := List.findSome?_eq_none_iff.mp hask _ (List.mem_map_of_mem hq)
          simp [e] at this

/-- A source has no alignment; a destination is aligned to 32 bytes. -/
def cplAlign (q : Req) : Nat := if q.wr then 32 else 1

theorem cplAlign_eq : (fun r : Req => !r.wr || r.addr.toNat % 32 == 0) = fun q => q.addr.toNat % cplAlign q == 0 := by
  funext q
  cases h : q.wr <;> simp [cplAlign, h, Nat.mod_one]

section
variable {c : Ctx} {dst : Nat → Word} {src : Nat → DWord} {v : Nat → Nat}

/-- The accesses of a copy's lanes: the sources of each, then its destination. -/
def cplReqs (c : Ctx) (dst : Nat → Word) (src : Nat → DWord) (v : Nat → Nat) : List Req :=
  c.lanes.flatMap (fun l => cplSources l (src l) (v l) ++ [⟨l, (dst l).zeroExtend 64, 32, .deck, true⟩])

theorem mem_cplReqs {q : Req} : q ∈ cplReqs c dst src v ↔
    q.lane ∈ c.lanes ∧ (q ∈ cplSources q.lane (src q.lane) (v q.lane) ∨ q = ⟨q.lane, (dst q.lane).zeroExtend 64, 32, .deck, true⟩) := by
  simp only [cplReqs, List.mem_flatMap, List.mem_append, List.mem_singleton]
  constructor
  · rintro ⟨l, hl, hq | rfl⟩
    · obtain rfl := (cplSources_spec hq).1
      exact ⟨hl, .inl hq⟩
    · exact ⟨hl, .inr rfl⟩
  · rintro ⟨hl, hq⟩
    exact ⟨q.lane, hl, hq⟩

/-- The first check that a source or a destination of any lane fails decides the cause; of the lowest failing lane ADDR names the source
where a source fails (07 R175). -/
theorem cplCheck_denied (before : List Nat) (k : Nat) (after : List Nat) (hs : [0x0008, 0x0005, 0x0006, 0x0007, 0x000C] = before ++ k :: after)
    (hb : ∀ j ∈ before, ∀ q ∈ cplReqs c dst src v, ¬ c.fails c.s cplAlign 1 false q j)
    (hk : ∃ q ∈ cplReqs c dst src v, c.fails c.s cplAlign 1 false q k) (ht : 2 ≤ before.length → c.translated c.s (cplReqs c dst src v)) :
    ∃ t : TrapInfo, cplCheck c dst src v = .error (.trap c.s t) ∧ t.cause = k ∧ t.access = 7 ∧
      (∀ l, hasLane t.lanes l = true ↔ ∃ q ∈ cplReqs c dst src v, q.lane = l ∧ c.fails c.s cplAlign 1 false q k) ∧
      (∃ q ∈ cplReqs c dst src v, c.fails c.s cplAlign 1 false q k ∧
        ((q.wr = false ∧ t.addr = src q.lane) ∨ (q.wr = true ∧ t.addr = (dst q.lane).zeroExtend 64 ∧
          ∀ x ∈ cplSources q.lane (src q.lane) (v q.lane), ¬ c.fails c.s cplAlign 1 false x k)) ∧
        ∀ x ∈ cplReqs c dst src v, c.fails c.s cplAlign 1 false x k → q.lane ≤ x.lane) ∧
      t.complete = false ∧ t.past = false ∧ t.boundary = none := by
  obtain ⟨t, e, hn⟩ := checkAllWith_denied 7 (fun q hq => Ctx.lane_lt (mem_cplReqs.mp hq).1) before k after hs hb hk ht
  obtain ⟨q, hq, hbad, -, hmin⟩ := hn.lowest
  have hlow : lowestLane t.lanes = q.lane := lowestLane_eq ((hn.lanes q.lane).mpr ⟨q, hq, rfl, hbad⟩) fun l hl => by
    rw [← Bool.not_eq_true, hn.lanes]
    rintro ⟨x, hx, rfl, hxb⟩
    exact absurd (hmin x hx hxb) (by omega)
  have hcheck : checkAllWith (fun r => !r.wr || r.addr.toNat % 32 == 0) c c.s 7 1 false (cplReqs c dst src v) = .error (.trap c.s t) := by
    rw [cplAlign_eq]
    exact e
  have hin : ∀ x ∈ cplSources q.lane (src q.lane) (v q.lane), x ∈ cplReqs c dst src v ∧ x.lane = q.lane := fun x hx => by
    have hl := (cplSources_spec hx).1
    exact ⟨mem_cplReqs.mpr ⟨hl ▸ (mem_cplReqs.mp hq).1, .inl (by rw [hl]; exact hx)⟩, hl⟩
  by_cases hsrc : ∃ x ∈ cplSources q.lane (src q.lane) (v q.lane), c.fails c.s cplAlign 1 false x k
  · obtain ⟨u, eu, hu⟩ := checkAllWith_denied 7 (fun x hx => Ctx.lane_lt (mem_cplReqs.mp (hin x hx).1).1) before k after hs
      (fun j hj x hx => hb j hj x (hin x hx).1) hsrc fun hl x hx => ht hl x (hin x hx).1
    rw [← cplAlign_eq] at eu
    refine ⟨{ t with addr := src q.lane }, ?_, hn.cause, hn.access, hn.lanes, ?_, hn.plain⟩
    · rw [cplCheck, show c.lanes.flatMap _ = cplReqs c dst src v from rfl, hcheck]
      simp only [hlow, eu, hu.cause, hn.cause, beq_self_eq_true, if_true]
    · obtain ⟨x, hx, hxb⟩ := hsrc
      obtain ⟨hxr, hxl⟩ := hin x hx
      exact ⟨x, hxr, hxb, .inl ⟨(cplSources_spec hx).2.2.1, by rw [hxl]⟩, fun y hy hyb => hxl ▸ hmin y hy hyb⟩
  · have hno : ∀ x ∈ cplSources q.lane (src q.lane) (v q.lane), ¬ c.fails c.s cplAlign 1 false x k := by simpa using hsrc
    have hdst := (mem_cplReqs.mp hq).2.resolve_left fun h => hno q h hbad
    have hwr : q.wr = true := by rw [hdst]
    refine ⟨{ t with addr := (dst q.lane).zeroExtend 64 }, ?_, hn.cause, hn.access, hn.lanes,
      ⟨q, hq, hbad, .inr ⟨hwr, rfl, hno⟩, hmin⟩, hn.plain⟩
    rw [cplCheck, show c.lanes.flatMap _ = cplReqs c dst src v from rfl, hcheck]
    simp only [hlow]
    split
    · rename_i b u eu
      rw [cplAlign_eq] at eu
      have hne : (u.cause == t.cause) = false := beq_eq_false_iff_ne.mpr fun hc => by
        obtain ⟨x, hx, hxf⟩ := checkAllWith_trap_fails eu
        rw [hc, hn.cause] at hxf
        exact hno x hx hxf
      simp only [hne, Bool.false_eq_true, if_false]
    · rfl

end

/-! ## The 32 bytes that a lane's copy writes (07 R175) -/

/-- A string that is written is read back. -/
theorem Memory.read_writeBytes_at (bs : List Byte) : ∀ (m : Memory) (a i : Nat), m.wf = true → (h : i < bs.length) →
    (m.writeBytes a bs).read (a + i) = bs[i] := by
  induction bs with
  | nil => intro m a i _ h; simp at h
  | cons b bs ih =>
    intro m a i w h
    rw [Memory.writeBytes]
    cases i with
    | zero =>
      exact (Memory.read_writeBytes_outside bs (m.write a b) (a + 1) a (m.write_wf a b w) (.inl (Nat.lt_add_one a))).trans
        ((Memory.read_write m a a b w).trans (if_pos rfl))
    | succ i =>
      have := ih (m.write a b) (a + 1) i (m.write_wf a b w) (by simpa using h)
      rw [show a + (i + 1) = a + 1 + i by omega, this]
      rfl

theorem State.modDeck_modDeck (s : State) (u : Nat) {f : Deck → Deck} (g : Deck → Deck) (hf : ∀ d, (f d).uid = d.uid) :
    (s.modDeck u f).modDeck u g = s.modDeck u (fun d => g (f d)) := by
  simp only [State.modDeck, List.map_map]
  congr 1
  refine List.map_congr_left fun d _ => ?_
  by_cases h : d.uid = u
  · simp [h, hf]
  · simp [h]

/-- A string in deck memory is written as a whole; the poison of its bytes ends. -/
theorem writeLocs_deck (bs : List Byte) : ∀ (s : State) (u o : Nat), writeLocs s (.deck u o) bs = s.modDeck u (fun d =>
    { d with mem := d.mem.writeBytes o bs, poison := d.poison.filter (fun x => decide (x < o) || decide (o + bs.length ≤ x)) }) := by
  induction bs with
  | nil =>
    intro s u o
    have hf : ∀ d : Deck, d.poison.filter (fun x => decide (x < o) || decide (o + ([] : List Byte).length ≤ x)) = d.poison := fun d =>
      List.filter_eq_self.mpr fun x _ => by
        simp only [List.length_nil, Nat.add_zero, Bool.or_eq_true, decide_eq_true_eq]
        omega
    simp only [writeLocs, Memory.writeBytes, hf, State.modDeck, ite_self, List.map_id']
  | cons b bs ih =>
    intro s u o
    rw [writeLocs, show (Loc.deck u o).plus 1 = .deck u (o + 1) from rfl, ih, writeLoc, State.modDeck_modDeck]
    · congr 1
      funext d
      simp only [Memory.writeBytes, List.filter_filter, List.length_cons]
      congr 1
      refine List.filter_congr fun x _ => ?_
      by_cases hx : x = o
      · simp [hx]
      · have h1 : (x < o + 1) = (x < o) := propext (by omega)
        have h2 : (o + 1 + bs.length ≤ x) = (o + (bs.length + 1) ≤ x) := propext (by omega)
        simp [hx, h1, h2]
    · intro d; rfl

/-- What a lane's copy leaves of the deck: its 32 bytes, all poisoned or none. -/
def Deck.copied (dst : Nat) (bs : List Byte) (bad : Bool) (d : Deck) : Deck :=
  { d with mem := d.mem.writeBytes dst bs,
           poison := (if bad then (List.range 32).map (dst + ·) else []) ++ d.poison.filter (fun x => decide (x < dst) || decide (dst + 32 ≤ x)) }

/-- The marks of poison of 32 bytes are those of the copy, the others as they were. -/
theorem Deck.copied_poison (dst : Nat) (bs : List Byte) (bad : Bool) (d : Deck) (o : Nat) :
    (d.copied dst bs bad).poison.contains o = if dst ≤ o ∧ o < dst + 32 then bad else d.poison.contains o := by
  rw [Bool.eq_iff_iff]
  have hin : (∃ i < 32, dst + i = o) ↔ dst ≤ o ∧ o < dst + 32 := ⟨fun ⟨i, hi, e⟩ => by omega, fun h => ⟨o - dst, by omega, by omega⟩⟩
  have hout : (o < dst ∨ dst + 32 ≤ o) ↔ ¬ (dst ≤ o ∧ o < dst + 32) := by omega
  simp only [Deck.copied, List.contains_iff_mem, List.mem_append, List.mem_filter, Bool.or_eq_true, decide_eq_true_eq, hout]
  by_cases h : dst ≤ o ∧ o < dst + 32
  · cases bad <;> simp [h, hin]
  · cases bad <;> simp [h, hin]

section
variable {s : State} {u dst : Nat} {d : Deck} {bs : List Byte} {bad : Bool}

/-- The state after the 32 bytes of a copy are written, and poisoned where the source was. -/
theorem writeLocs_copied (s : State) (u dst : Nat) {bs : List Byte} (hb : bs.length = 32) :
    writeLocs s (.deck u dst) bs = s.modDeck u (Deck.copied dst bs false) ∧
    poisonLocs (writeLocs s (.deck u dst) bs) (.deck u dst) 32 = s.modDeck u (Deck.copied dst bs true) := by
  rw [writeLocs_deck, hb]
  refine ⟨rfl, ?_⟩
  rw [poisonLocs, State.modDeck_modDeck _ _ _ (by intro _; rfl)]
  congr 1
  funext d
  simp only [Deck.copied, List.filter_filter, Bool.and_self, if_true]

theorem deck?_copied (hd : s.deck? u = some d) : (s.modDeck u (Deck.copied dst bs bad)).deck? u = some (d.copied dst bs bad) :=
  State.deck?_modDeck_same hd fun _ => rfl

theorem readLoc_copied (hc : Canon s) (hd : s.deck? u = some d) (hb : bs.length = 32) {i : Nat} (hi : i < 32) :
    readLoc (s.modDeck u (Deck.copied dst bs bad)) (.deck u (dst + i)) = bs.getD i 0#8 := by
  simp only [readLoc, deck?_copied hd, Option.elim_some, Deck.copied]
  rw [Memory.read_writeBytes_at bs d.mem dst i (hc.deck? hd).1 (by omega), List.getD_eq_getElem _ _ (by omega)]

theorem poisonMark_copied (hd : s.deck? u = some d) {i : Nat} (hi : i < 32) :
    poisonMark (s.modDeck u (Deck.copied dst bs bad)) (.deck u (dst + i)) = bad := by
  simp only [poisonMark, deck?_copied hd, Option.elim_some, Deck.copied_poison, Nat.le_add_right, Nat.add_lt_add_iff_left, hi, and_self,
    if_true]

theorem poisonMark_copied_other {l : Loc} (hl : ∀ i < 32, l ≠ .deck u (dst + i)) :
    poisonMark (s.modDeck u (Deck.copied dst bs bad)) l = poisonMark s l := by
  cases l with
  | dev pa => rfl
  | host ha => rfl
  | deck v o =>
    simp only [poisonMark]
    rw [State.deck?_modDeck s u v _ (by intro _; rfl)]
    split
    · rename_i huv
      subst huv
      have hout : ¬ (dst ≤ o ∧ o < dst + 32) := fun h => hl (o - dst) (by omega) (congrArg (Loc.deck u) (by omega))
      cases s.deck? u with
      | none => rfl
      | some d => simp only [Option.map_some, Option.elim_some, Deck.copied_poison, if_neg hout]
    · rfl
  | priv v k o =>
    simp only [poisonMark]
    rw [State.deck?_modDeck s u v _ (by intro _; rfl)]
    split
    · cases s.deck? v <;> rfl
    · rfl

/-- Every other byte, and its mark, is as it was. -/
theorem readLoc_copied_other (hc : Canon s) (hb : bs.length = 32) {l : Loc} (hl : ∀ i < 32, l ≠ .deck u (dst + i)) :
    readLoc (s.modDeck u (Deck.copied dst bs bad)) l = readLoc s l := by
  cases l with
  | dev pa => rfl
  | host ha => rfl
  | deck v o =>
    simp only [readLoc]
    rw [State.deck?_modDeck s u v _ (by intro _; rfl)]
    split
    · rename_i huv
      subst huv
      cases hd : s.deck? u with
      | none => rfl
      | some d =>
        refine Memory.read_writeBytes_outside bs d.mem dst o (hc.deck? hd).1 ?_
        by_contra h
        exact hl (o - dst) (by omega) (congrArg (Loc.deck u) (by omega))
    · rfl
  | priv v k o =>
    simp only [readLoc]
    rw [State.deck?_modDeck s u v _ (by intro _; rfl)]
    split
    · cases s.deck? v <;> rfl
    · rfl

/-- Where no overtaken read reads one of the bytes, poisoning them performs none (15 R300; log 67). -/
theorem poisoning_undisturbed {f : State → State} {p : Loc → Prop} (hf : ∀ l, ¬ p l → poisonMark (f s) l = poisonMark s l)
    (h : Undisturbed s p) : poisoning s f = f s := by
  have hnone : s.works.filter (fun w => w.reads && w.overtaken s && w.marked (f s) && !w.marked s) = [] := by
    refine List.filter_eq_nil_iff.mpr fun w hw => ?_
    simp only [Bool.and_eq_true, Bool.not_eq_true', not_and, Bool.not_eq_false, and_imp]
    intro hr ho hm
    obtain ⟨a, ha, hi⟩ := List.any_eq_true.mp hm
    obtain ⟨i, hir, hmark⟩ := List.any_eq_true.mp hi
    rw [hf _ (h w hw hr ho a ha i (List.mem_range.mp hir))] at hmark
    exact List.any_eq_true.mpr ⟨a, ha, List.any_eq_true.mpr ⟨i, hir, hmark⟩⟩
  simp only [poisoning, hnone, List.foldl_nil]

end

/-- The 32 bytes: those that were read, then zeros. -/
def cplBytes (src : List Byte) : List Byte := src ++ List.replicate (32 - src.length) 0#8

section
variable {src : List Byte}

theorem cplBytes_length (h : src.length ≤ 32) : (cplBytes src).length = 32 := by
  simp only [cplBytes, List.length_append, List.length_replicate]
  omega

theorem cplBytes_getD (i : Nat) : (cplBytes src).getD i 0#8 = src.getD i 0#8 := by
  simp only [cplBytes, List.getD_eq_getElem?_getD, List.getElem?_append, List.getElem?_replicate]
  by_cases h : i < src.length
  · rw [if_pos h]
  · rw [if_neg h, List.getElem?_eq_none (Nat.le_of_not_lt h)]
    split <;> rfl

end

/-- A landed copy: its bytes in the deck, the tag counts one less, and the work is over (07 R175, R176). -/
theorem cpl_lands {s : State} {w : Work} {tag dst v : Nat} {data : Option (List Byte × Bool)} (hk : w.kind = .cpl tag dst v data) (hv : v ≤ 32) :
    let src : List Byte := data.elim (w.accs.flatMap (fun a => readLocs s a.loc a.size)) (·.1)
    let bad : Bool := data.elim (w.accs.any (fun a => poisoned s a.loc a.size)) (·.2)
    src.length = v → (bad = true → Undisturbed s (fun l => ∃ i < 32, l = .deck (workDeck s w) (dst + i))) →
    performWork s w = ((s.modDeck (workDeck s w) (Deck.copied dst (cplBytes src) bad)).dropWork w.id).modSpan w.span
      (fun x => { x with tags := x.tags.modify tag (· - 1) }) := by
  intro src bad hl hund
  have hdata : cplData s w = (src, bad) := by
    unfold cplData
    rw [hk]
    cases data <;> rfl
  have hbytes : src.take v ++ List.replicate (32 - v) 0#8 = cplBytes src := by rw [cplBytes, ← hl, List.take_length]
  obtain ⟨h1, h2⟩ := writeLocs_copied s (workDeck s w) dst (cplBytes_length (src := src) (by omega))
  have hput : performWork s w = (((if bad then poisoning s (fun t => poisonLocs (writeLocs t (.deck (workDeck s w) dst) (cplBytes src))
      (.deck (workDeck s w) dst) 32) else writeLocs s (.deck (workDeck s w) dst) (cplBytes src)).dropWork w.id).modSpan w.span
      (fun x => { x with tags := x.tags.modify tag (· - 1) })) := by
    simp only [performWork, hk, cplLand, hdata, hbytes]
  rw [hput]
  cases hb : bad with
  | false =>
    simp only [Bool.false_eq_true, if_false, h1]
  | true =>
    simp only [if_true]
    rw [poisoning_undisturbed (fun l hn => by rw [h2, poisonMark_copied_other fun i hi e => hn ⟨i, hi, e⟩]) (hund hb), h2]

/-- Settles O29: the checks of `cplCheck`, and the deck that `Deck.copied` leaves. -/
theorem perLaneCopies : Obligations.PerLaneCopies := by
  refine ⟨⟨fun a b n t s c hits h hroom => ?_, fun a b n t s c h hfull => ?_, fun a b n t s c h hroom => ?_,
    fun l a v => ⟨fun h0 => by simp [cplSources, h0], fun _ => cplSources_covers, fun q hq => cplSources_spec hq⟩⟩, ?_⟩
  · intro v hc
    refine instr_done h false _ ?_
    simp only [if_neg (Nat.not_lt.mpr hroom), v, hc, bind, Except.bind, pure, Except.pure]
  · refine instr_moved h false _ ?_
    simp only [if_pos hfull]
    rfl
  · intro sources align before k after hs bad hb hk ht
    obtain ⟨u, hu, h1, h2, h3, h4, h5⟩ := cplCheck_denied (dst := c.src a) (src := c.pair b) (v := fun l => min (c.src n l).toNat 32)
      before k after hs hb hk ht
    refine ⟨u, (instr_runs h false _).trans ?_, h1, h2, h3, h4, h5⟩
    simp only [if_neg (Nat.not_lt.mpr hroom), hu, bind, Except.bind]
    exact settle_trap (by simp [h2])
  · intro s w tag dst v d data hk hcan hd hv src bad hl hund t
    have ht : t = ((s.modDeck (workDeck s w) (Deck.copied dst (cplBytes src) bad)).dropWork w.id).modSpan w.span
      (fun x => { x with tags := x.tags.modify tag (· - 1) }) := cpl_lands hk hv hl hund
    have hlen := cplBytes_length (src := src) (by omega)
    have hread : ∀ l, readLoc t l = readLoc (s.modDeck (workDeck s w) (Deck.copied dst (cplBytes src) bad)) l := fun l => by
      rw [ht]
      exact ((dropWork_same _ _).trans (modSpan_same _ _ _)).readLoc l
    have hmark : ∀ l, poisonedAt t l = (poisonMark (s.modDeck (workDeck s w) (Deck.copied dst (cplBytes src) bad)) l && match l with
        | .dev pa => !declaredOff s pa
        | _ => true) := fun l => by
      rw [ht]
      cases l <;> rfl
    refine ⟨fun i hi => ⟨?_, ?_⟩, fun l _ hne => ⟨?_, ?_⟩, fun sp hs => ?_, fun u hu => ?_, fun x => ?_, ?_⟩
    · rw [hread, readLoc_copied hcan hd hlen hi, cplBytes_getD]
    · rw [hmark, poisonMark_copied hd hi, Bool.and_true]
    · rw [hread, readLoc_copied_other hcan hlen hne]
    · rw [hmark, poisonMark_copied_other hne]
      rfl
    · rw [ht]
      exact State.span?_modSpan_same (s := (s.modDeck (workDeck s w) (Deck.copied dst (cplBytes src) bad)).dropWork w.id) _ (fun _ => rfl) hs
    · rw [ht]
      exact State.span?_modSpan_ne ((s.modDeck (workDeck s w) (Deck.copied dst (cplBytes src) bad)).dropWork w.id) _ (fun _ => rfl) hu
    · rw [ht]
      exact mem_dropWork (s := s.modDeck (workDeck s w) (Deck.copied dst (cplBytes src) bad))
    · rw [ht]
      rfl

end Sys2Proof.Machine
end

section
/-! Outstanding work (O39): the clause on accesses that meet leaves out that a piece of work's lanes are those of its accesses. -/

namespace Sys2Proof.Machine

/-- One byte of device memory, of lane 0. -/
def oneByte : Acc := ⟨0, .dev 0, 1, 0, [], 0#64, 0#64, 0⟩

/-- An older store of that byte, whose lane set is empty. -/
def laneless : Work := { id := 0, span := 0, lanes := 0#64, dsts := [], resv := 0, accs := [oneByte], kind := .store, iss := none }

/-- A later `cpl` of lane 0 that reads the byte. -/
def cplOfByte : Work := { laneless with id := 1, lanes := oneLane 0, kind := .cpl 0 0 1 none }

/-- The store is outstanding. -/
def storeOutstanding : State := { State.reset with works := [laneless] }

/-- The two share lane 0 and the byte, so 07 R144 has the store come first. -/
theorem laneless_meets : ∃ a ∈ laneless.accs, ∃ b ∈ cplOfByte.accs, a.meets b = true :=
  ⟨oneByte, List.mem_singleton_self _, oneByte, List.mem_singleton_self _, by decide⟩

/-- Nothing is left to come before the copy: of an older access and a `cpl` the model compares the lane sets (`comesBefore`), not the lanes
of their accesses. -/
theorem cplOfByte_ready : workReady storeOutstanding cplOfByte = true := by decide

/-- Refutes O39: a store of lane 0 to a byte, but with an empty lane set, does not come before a later `cpl` of lane 0 that reads the byte;
the clause on accesses that meet asks nothing of a work's lane set. -/
theorem not_outstandingWorkIsPerformed : ¬ Obligations.OutstandingWorkIsPerformed := by
  intro h
  obtain ⟨-, -, -, -, hmeet, -⟩ := h
  have hno := hmeet storeOutstanding laneless cplOfByte (List.mem_singleton_self _) rfl (by decide) rfl rfl laneless_meets
  rw [cplOfByte_ready] at hno
  exact Bool.noConfusion hno

end Sys2Proof.Machine
end

section
/-! Pieces of engine copies (O40): the clause on an engine's writes bounds neither the bytes nor a lane's own memory. -/

namespace Sys2Proof.Machine

/-- A resident deck with one span of eight live lanes, and nothing else. -/
def oneDeck : State :=
  { State.reset with
    decks := [newDeck 0 0 0 0 0 0 0 1]
    spans := [newSpan 1 0 0 8 0#2 0 0 [] (List.replicate 8 (newLane 0 0 true)) 0 0 false] }

/-- An agent on that deck whose lanes have 2 MiB of their own memory each. -/
def wideAgent : Agent := ⟨fetchContext 0, 0, 2 ^ 21, 8, [(0, 0)]⟩

/-- The window address of lane 0's byte at offset 2^20 - 4097, the last of its page. -/
def lastOfPage : Nat := 0x01FFF00000000000 + (2 ^ 20 - 4097)

/-- One byte of the first page and 4097 of the next. -/
def longString : List Byte := List.replicate 4098 1#8

theorem longString_length : longString.length = 4098 := List.length_replicate

/-- Where the string lies: its last byte is at offset 2^20, past lane 0's 1 MiB. -/
theorem longString_locs : engineLocs oneDeck wideAgent .write lastOfPage 4098 =
    .ok [(.priv 0 0 (2 ^ 20 - 4097), 1), (.priv 0 0 (2 ^ 20 - 4096), 4097)] := by decide +kernel

theorem oneDeck_canon : Canon oneDeck := ⟨by decide, by decide, by decide⟩

/-- The locations of the string, in order. -/
theorem longString_at {i : Nat} (h : i < 4098) :
    (locsOf [(.priv 0 0 (2 ^ 20 - 4097), 1), (.priv 0 0 (2 ^ 20 - 4096), 4097)])[i]? = some (.priv 0 0 (2 ^ 20 - 4097 + i)) := by
  cases i with
  | zero => rfl
  | succ i =>
    have hi : i < 4097 := by omega
    simp [locsOf, Loc.plus, hi]
    omega

theorem longString_in {l : Loc} (h : l ∈ locsOf [(.priv 0 0 (2 ^ 20 - 4097), 1), (.priv 0 0 (2 ^ 20 - 4096), 4097)]) :
    ∃ o, l = .priv 0 0 o := by
  simp only [locsOf, List.flatMap_cons, List.flatMap_nil, List.append_nil, List.mem_append, List.mem_map] at h
  rcases h with ⟨j, -, rfl⟩ | ⟨j, -, rfl⟩ <;> exact ⟨_, rfl⟩

/-- Lane 0's byte at offset 2^20 is lane 1's first one. -/
theorem readLoc_priv_past (s : State) (u l : Nat) : readLoc s (.priv u l (2 ^ 20)) = readLoc s (.priv u (l + 1) 0) := by
  simp only [readLoc, Nat.add_mul, Nat.one_mul, Nat.add_zero]

/-- Refutes O40: a string of 4098 bytes from the end of a page of lane 0's window, for an agent with 2 MiB a lane, ends in the first
byte of lane 1, which is none of the locations the string is said to have. -/
theorem not_enginePiecesLand : ¬ Obligations.EnginePiecesLand := by
  intro h
  obtain ⟨⟨-, -, -, -, -, -, hwrite, -⟩, -⟩ := h
  obtain ⟨t, -, ⟨hat, hother⟩, -, -⟩ := hwrite oneDeck wideAgent lastOfPage longString _
    (by rw [longString_length]; exact longString_locs) oneDeck_canon
  have hlast : readLoc t (.priv 0 0 (2 ^ 20)) = 1#8 := by
    refine (hat 4097 (by rw [longString_length]; omega) _ (longString_at (by omega)) rfl fun j hj => ?_).trans
      (List.getElem_replicate _)
    intro hin
    have hlt : j < 4098 := by simpa [locsOf] using (List.getElem?_eq_some_iff.mp hin).1
    rw [longString_at hlt, Option.some.injEq, Loc.priv.injEq] at hin
    omega
  have hzero : readLoc t (.priv 0 1 0) = 0#8 :=
    hother (.priv 0 1 0) (Nat.two_pow_pos 20) fun hin => by
      obtain ⟨o, ho⟩ := longString_in hin
      exact absurd (Loc.priv.inj ho).2.1 Nat.one_ne_zero
  rw [readLoc_priv_past, hzero] at hlast
  exact absurd hlast (by decide)

end Sys2Proof.Machine
end

section
/-! Engine copies and timelines (O30; 07 R145, R173, R178-R188). -/

namespace Sys2Proof.Machine

/-! ## The issue of an engine copy (07 R180) -/

section
variable {i : Instr} {op : Nat} {a b : Reg} {s r : State} {c : Ctx} {m : Nat}

/-- A deck that owns its cleared unit goes on with it. -/
theorem Ctx.takeUnit_owned (ho : (r.pier c.deck.pier).owner = some c.deck.uid) (hc : (r.pier c.deck.pier).clearing = false) :
    c.takeUnit r = .inr r := by
  simp [Ctx.takeUnit, ho, hc]

/-- Neither end of a copy fails the bounds of its window (07 R180). -/
theorem copyEnds_resolved {d : BitVec 1024}
    (hsrc : op ≠ 4 → (resolve c r .generic c.low (BitVec.ofNat 64 (descSrc d)) 1).isSome = true)
    (hdst : (resolve c r .generic c.low (BitVec.ofNat 64 (descDst d)) 1).isSome = true) :
    ((if op = 4 then [] else [descSrc d]) ++ [descDst d]).find? (fun x => (resolve c r .generic c.low (BitVec.ofNat 64 x) 1).isNone) = none := by
  have hbound : ∀ x ∈ (if op = 4 then [] else [descSrc d]) ++ [descDst d], (resolve c r .generic c.low (BitVec.ofNat 64 x) 1).isSome = true := by
    intro x hx
    rcases List.mem_append.mp hx with hx | hx
    · by_cases h4 : op = 4
      · simp [h4] at hx
      · rw [if_neg h4, List.mem_singleton] at hx
        exact hx ▸ hsrc h4
    · exact List.mem_singleton.mp hx ▸ hdst
  exact List.find?_eq_none.mpr fun x hx => by simp [Option.isNone_eq_false_iff.mpr (hbound x hx)]

/-- An instruction that issues an engine copy does so where every check passes. -/
theorem copies_of_issueCopy (he : ∀ s, exec i s = instr i false s (fun c => issueCopy c op a b)) : Copies i op a b := by
  intro s c r m loc mt h hr hreach
  generalize hd : BitVec.ofNat 1024 (bytesNat (readLocs r loc 128)) = d
  dsimp only
  intro hunit hok hbound hkind hsrc hdst
  have hcheck : checkAll c r 11 3 true [⟨c.low, c.pair b c.low, 128, .global, false⟩] =
      .ok [⟨⟨c.low, c.pair b c.low, 128, .global, false⟩, loc, mt⟩] :=
    checkAll_ok 11 3 true [_] (fun _ => loc) (fun _ => mt) (by simpa using hreach)
  have hgrade : ¬ (op = 1 ∧ descWs d = true ∧ gradeOf c.deck.pier = .v) := fun ⟨h1, h2, h3⟩ =>
    Grade.noConfusion (h3.symm.trans (hunit h1 h2).1)
  have htake : (if op = 1 ∧ descWs d = true then c.takeUnit r else Sum.inr r) = .inr r := by
    split
    · rename_i hw
      obtain ⟨-, ho, hc⟩ := hunit hw.1 hw.2
      exact Ctx.takeUnit_owned ho hc
    · rfl
  have hfields : (!(descOk op d (r.pier c.deck.pier).unit.arr.isSome (r.pier c.deck.pier).unit.planes && c.launch.tlBound (descTl d) &&
      c.launch.tlKind (descTl d) == engineKind op)) = false := by
    simp [hok, hbound, hkind]
  refine ⟨!(decide (op = 5) && bitsOf (descAux d) 4 4 == 0), by simp, (he s).trans (instr_done h false _ ?_)⟩
  simp only [issueCopy, hr, owning_ok hcheck, bind, Except.bind, List.head?_cons, Option.elim_some, hd, if_neg hgrade]
  rw [htake]
  simp only [hfields, Bool.false_eq_true, if_false, copyEnds_resolved hsrc hdst]
  cases decide (op = 5) && bitsOf (descAux d) 4 4 == 0 <;> rfl

/-- Slots that are refused are no access (01 R25). -/
theorem cover_access {u need low : Nat} {l : LaneSet} {t : State} {x : TrapInfo} (h : cover s u need low l = .error (.trap t x)) :
    x.access = 0 := by
  simp only [cover] at h
  split at h
  · cases h
  · split_ifs at h
    all_goals (cases h; rfl)

/-- The slots of the token are refused before anything else (01 R24, 07 R180). -/
theorem reserve_access {ds : List Nat} {t : State} {x : TrapInfo} (h : c.reserve s ds = .error (.trap t x)) : x.access = 0 := by
  simp only [Ctx.reserve] at h
  split at h
  · cases h
  · rename_i sp hs
    cases hc : cover s c.u ((ds.filter (fun d => !(sp.vreg d).isVector)).length * sp.octets)
        ((ds.filter (fun d => !(sp.vreg d).isVector)).min?.getD 0) c.A with
    | ok t' => simp only [hc, bind, Except.bind] at h; cases h
    | error e =>
      simp only [hc, bind, Except.bind] at h
      cases h
      exact cover_access hc

theorem issueCopy_noRoom (he : ∀ s, exec i s = instr i false s (fun c => issueCopy c op a b)) (h : Issues s i c) {t : State} {x : TrapInfo}
    (hr : c.reserve (drain c.s c.u c.A) (one a) = .error (.trap t x)) : exec i s = takeTrapFrom c.before t c.iss x := by
  refine (he s).trans (instr_trap h false _ ?_ (by simp [reserve_access hr]))
  simp only [issueCopy, hr, bind, Except.bind]

/-- With its slots taken, a descriptor that cannot be read traps, and the slots are held (07 R180). -/
theorem issueCopy_denied (he : ∀ s, exec i s = instr i false s (fun c => issueCopy c op a b)) (h : Issues s i c)
    (hr : c.reserve (drain c.s c.u c.A) (one a) = .ok (r, m)) :
    Denied i s c r m 11 3 true [⟨c.low, c.pair b c.low, 128, .global, false⟩] := by
  refine Denied.of_check (fun q hq => List.mem_singleton.mp hq ▸ Ctx.lane_lt (lowestLane_mem h.some_lane)) fun t _ hc => ?_
  refine (he s).trans (instr_holding h false _ ?_)
  simp only [issueCopy, hr, owning_trap hc, bind, Except.bind]

end

/-! ## The numbers of a timeline (07 R173) -/

theorem State.ctx?_modCtx_same {s : State} {k : Nat} {cx : Context} {f : Context → Context} (h : s.ctx? k = some cx)
    (hf : ∀ x, (f x).num = x.num) : (s.modCtx k f).ctx? k = some (f cx) := by
  have hk : cx.num = k := find_key (key := Context.num) h
  refine (find_map_at Context.num f hf k k s.ctxs).trans ?_
  rw [show s.ctxs.find? (fun x => x.num == k) = some cx from h]
  simp [hk]

/-- The next number is given, and the timeline has issued it. -/
theorem takeNumber_next {s : State} {k n : Nat} {cx : Context} {t : Timeline} (hc : s.ctx? k = some cx) (ht : cx.tl[n]? = some t) :
    (takeNumber s k n).2 = t.issued + 1 ∧
    ∃ cy, (takeNumber s k n).1.ctx? k = some cy ∧ cy.tl[n]? = some { t with issued := t.issued + 1 } := by
  have hn : (takeNumber s k n).2 = t.issued + 1 := by simp [takeNumber, hc, ht]
  refine ⟨hn, _, State.ctx?_modCtx_same hc fun _ => rfl, ?_⟩
  simp [hc, ht]

/-- The value passes over every number that has completed early, up to the first that has not. -/
theorem advanceTl_spec (fuel : Nat) : ∀ t : Timeline, (∀ x ∈ t.early, t.value < x) → t.early.length ≤ fuel →
    let u := advanceTl fuel t
    t.value ≤ u.value ∧ (∀ x, t.value < x → x ≤ u.value → x ∈ t.early) ∧ u.value + 1 ∉ u.early ∧
    (∀ x, x ∈ u.early ↔ u.value < x ∧ x ∈ t.early) ∧ u.issued = t.issued := by
  induction fuel with
  | zero =>
    intro t _ hlen u
    have hnil : t.early = [] := List.eq_nil_of_length_eq_zero (Nat.le_zero.mp hlen)
    exact ⟨le_rfl, fun x h1 h2 => absurd h1 (Nat.not_lt.mpr h2), by simp [u, advanceTl, hnil], fun x => by simp [u, advanceTl, hnil], rfl⟩
  | succ fuel ih =>
    intro t hpos hlen
    by_cases hin : t.value + 1 ∈ t.early
    · obtain ⟨h1, h2, h3, h4, h5⟩ := ih { t with value := t.value + 1, early := t.early.filter (fun x => x != t.value + 1) }
        (fun x hx => by
          obtain ⟨hx, hne⟩ := List.mem_filter.mp hx
          have := hpos x hx
          have : x ≠ t.value + 1 := by simpa using hne
          dsimp only
          omega)
        (by
          have : (t.early.filter (fun x => x != t.value + 1)).length < t.early.length :=
            List.length_filter_lt_length_iff_exists.mpr ⟨_, hin, by simp⟩
          dsimp only
          omega)
      simp only [advanceTl, List.contains_iff_mem, if_pos hin]
      refine ⟨Nat.le_of_succ_le h1, fun x hx hle => ?_, h3, fun x => (h4 x).trans ?_, h5⟩
      · rcases Nat.eq_or_lt_of_le (Nat.succ_le_of_lt hx) with e | e
        · exact e ▸ hin
        · exact (List.mem_filter.mp (h2 x e hle)).1
      · simp only [List.mem_filter, bne_iff_ne]
        exact ⟨fun h => ⟨h.1, h.2.1⟩, fun h => ⟨h.1, h.2, fun e => absurd (e ▸ h1) (Nat.not_le.mpr h.1)⟩⟩
    · simp only [advanceTl, List.contains_iff_mem, if_neg hin]
      exact ⟨le_rfl, fun x h1 h2 => absurd h1 (Nat.not_lt.mpr h2), hin, fun x => ⟨fun h => ⟨hpos x h, h⟩, fun h => h.2⟩, trivial⟩

/-- Settles O30: the checks of `issueCopy` in their order, and the early numbers that `advanceTl` passes over. -/
theorem engineCopiesAndTimelines : Obligations.EngineCopiesAndTimelines := by
  refine ⟨⟨fun a b => copies_of_issueCopy fun _ => rfl, fun a b => copies_of_issueCopy fun _ => rfl,
    fun a b => copies_of_issueCopy fun _ => rfl, fun a b => copies_of_issueCopy fun _ => rfl, fun a b => copies_of_issueCopy fun _ => rfl,
    fun a b => copies_of_issueCopy fun _ => rfl, fun a b s i c hi h => ?_⟩, fun s k n cx t => takeNumber_next, fun t m _ hpos hm _ => ?_⟩
  · have he : ∃ op, ∀ s, exec i s = instr i false s (fun c => issueCopy c op a b) := by
      simp only [List.mem_cons, List.not_mem_nil, or_false] at hi
      rcases hi with rfl | rfl | rfl | rfl | rfl | rfl
      · exact ⟨0, fun _ => rfl⟩
      · exact ⟨1, fun _ => rfl⟩
      · exact ⟨2, fun _ => rfl⟩
      · exact ⟨3, fun _ => rfl⟩
      · exact ⟨4, fun _ => rfl⟩
      · exact ⟨5, fun _ => rfl⟩
    obtain ⟨op, he⟩ := he
    exact ⟨fun t x hr => issueCopy_noRoom he h hr, fun r m hr => issueCopy_denied he h hr⟩
  · have hadv := advanceTl_spec (t.early.length + 1) { t with early := t.early ++ [m] }
      (fun x hx => (List.mem_append.mp hx).elim (hpos x) fun e => List.mem_singleton.mp e ▸ hm) (by simp)
    simpa only [List.mem_append, List.mem_singleton] using hadv

end Sys2Proof.Machine
end


section
/-! The matrix unit: who owns it, how it is arranged, and what fills it (O31; 08 R192-R197). -/

namespace Sys2Proof.Machine

/-! ## The unit's owner (08 R192) -/

section
variable {i : Instr} {s : State} {c : Ctx}

/-- An instruction that runs under ownership of the unit waits for it where its deck does not own it, and takes it where nobody does. -/
theorem waitsForUnit_of_owned {body : Ctx → Run Eff} (he : ∀ s, exec i s = instr i false s (fun c => c.owned body)) : WaitsForUnit i := by
  intro s c h
  have hrun {t : State} (hw : c.takeUnit c.s = .inl t) : exec i s = .next t :=
    (he s).trans (instr_moved h false _ (by simp only [Ctx.owned, hw]))
  refine ⟨fun hn => hrun ?_, fun hn ho => hrun ?_⟩
  · simp [Ctx.takeUnit, hn]
  · have hf : ((c.s.pier c.deck.pier).owner == some c.deck.uid && !(c.s.pier c.deck.pier).clearing) = false := by
      rw [Bool.eq_false_iff, Ne, Bool.and_eq_true, beq_iff_eq, Bool.not_eq_true']
      exact ho
    simp [Ctx.takeUnit, hf, hn]

/-- The owner of the unit runs the body of such an instruction. -/
theorem Issues.runs_owned {body : Ctx → Run Eff} (h : Issues s i c) (ho : c.owns) (he : exec i s = instr i false s (fun c => c.owned body)) :
    exec i s = settleRun c (body c) := by
  rw [he, instr_runs h, Ctx.owned_owner ho]

end

/-! ## Arranging and filling (08 R194-R197) -/

section
variable {s : State} {c : Ctx} {a b p : Reg} {code : BitVec 3}

theorem mxarr_arranges (h : Issues s (.mxarr p code) c) (ho : c.owns) (hb : unitBusy c.s c.deck.uid = false) :
    exec (.mxarr p code) s = .next (goOn (c.s.modPier c.deck.pier (fun x => { x with mtx := x.mtx.map (fun m =>
      { m with arr := some code.toNat, planes := p.toNat,
               valid := if m.planes = p.toNat then m.valid else List.replicate 32 0#64 }) })) c.iss c.G) := by
  refine (h.runs_owned ho rfl).trans ?_
  simp only [hb, beq_iff_eq]
  rfl

theorem mxarr_waits (h : Issues s (.mxarr p code) c) (ho : c.owns) (hb : unitBusy c.s c.deck.uid = true) :
    exec (.mxarr p code) s = .next (holdAgain c.s c.iss (.matrix 1 0)) := by
  refine (h.runs_owned ho rfl).trans ?_
  simp only [hb]
  rfl

/-- With its source range and its fields in order, a weight fill is outstanding (08 R195, R197). -/
theorem mxload_fills (h : Issues s (.mxload a b) c) (ho : c.owns)
    (hf : fillCheck c (c.pair a c.low).toNat (8 * wordP (c.src b c.low) * wordRows (c.src b c.low)) = .ok ())
    (ha : c.unit.arr ≠ none) (hw : weightWordOk (c.src b c.low) (packing c.unit.planes) = true) :
    exec (.mxload a b) s = settleRun c (.ok (startFill c (c.pair a c.low).toNat (c.src b c.low) (wordRows (c.src b c.low)) 0 .load8)) := by
  refine (h.runs_owned ho rfl).trans ?_
  have ha : c.unit.arr.isNone = false := by simpa [Option.isSome_iff_ne_none] using ha
  simp only [hf, ha, hw]
  rfl

/-- The same for a row fill, whose members must own their units (08 R196). -/
theorem mxarow_fills {k : Nat} (h : Issues s (.mxarow a b) c) (ho : c.owns) (ha : c.unit.arr = some k)
    (hf : fillCheck c (c.pair a c.low).toNat (rowCount (c.src b c.low) * (arrShape k).1 * 8 * rowPa (c.src b c.low)) = .ok ())
    (hw : rowWordOk (c.src b c.low) = true) (hm : membOk c (rowMemb (c.src b c.low)) = true) :
    exec (.mxarow a b) s =
      settleRun c (.ok (startFill c (c.pair a c.low).toNat (c.src b c.low) (rowCount (c.src b c.low)) (arrShape k).1 .rows)) := by
  refine (h.runs_owned ho rfl).trans ?_
  simp only [ha, Option.elim_some, hf, hw, hm]
  rfl

end

/-- Settles O31: ownership first, then what mxarr, mxload and mxarow do with the unit. -/
theorem matrixUnitSetup : Obligations.MatrixUnitSetup :=
  ⟨⟨fun _ _ => waitsForUnit_of_owned fun _ => rfl, fun _ _ => waitsForUnit_of_owned fun _ => rfl,
    fun _ _ => waitsForUnit_of_owned fun _ => rfl, fun _ _ _ _ => waitsForUnit_of_owned fun _ => rfl,
    fun _ _ => waitsForUnit_of_owned fun _ => rfl, fun _ => waitsForUnit_of_owned fun _ => rfl,
    fun _ _ _ => waitsForUnit_of_owned fun _ => rfl⟩,
   fun _ _ _ _ h ho hb => mxarr_arranges h ho hb, fun _ _ _ _ h ho hb => mxarr_waits h ho hb,
   fun _ _ _ _ h ho hf ha hw => mxload_fills h ho hf ha hw, fun _ _ _ _ _ h ho ha hf hw hm => mxarow_fills h ho ha hf hw hm⟩

end Sys2Proof.Machine
end


section
/-! Rows of the matrix unit and wakes of entry waits (O42; 08 R192, R201, R212). -/

namespace Sys2Proof.Machine

section
variable {s : State} {pier : Nat}

/-- A unit that has an owner, and a pier without a unit, change no owner. -/
theorem ownershipChange_none (h : (s.pier pier).owner ≠ none ∨ (s.pier pier).mtx = none) : exec (.matrixOwnershipChange pier) s = .next s := by
  refine congrArg Host.Outcome.next ?_
  cases ho : (s.pier pier).owner with
  | some u => rfl
  | none =>
    cases hm : (s.pier pier).mtx with
    | none => rfl
    | some m => exact (h.elim (absurd ho) (fun e => nomatch hm.symm.trans e))

/-- The first running deck of the pier with a lane that waits for the unit takes it (08 R192). -/
theorem ownershipChange_takes {d : Deck} (ho : (s.pier pier).owner = none) (hm : (s.pier pier).mtx ≠ none)
    (hd : (s.decks.filter (fun d => d.pier == pier && d.status == .running)).find? (fun d =>
      (s.spansOf d.uid).any (fun x => (x.lanes).any (Lane.waits (fun _ v => v == .matrix 0 0)))) = some d) :
    exec (.matrixOwnershipChange pier) s =
      .next (s.modPier pier (fun p => { p with owner := some d.uid, clearing := true, mtx := some .clear })) := by
  obtain ⟨m, hm⟩ := Option.ne_none_iff_exists'.mp hm
  refine congrArg Host.Outcome.next ?_
  simp only [ho, hm, hd]

end

/-- The first slice of a running keystone that may start reads its operands as it starts (08 R201). -/
theorem sliceStart_starts {s : State} {g : Girder} {n : Nat} {k : Key} {a : Arm} (hg : s.girder? g.uid = some g) (hk : g.keys[n]? = some k)
    (hst : k.st = 2) (ha : k.armed.find? (fun a => !a.started && !fillOutstanding s a.deck a.before) = some a) :
    let u := (s.pier ((s.deck? a.deck).elim 0 (·.pier))).unit
    let done := { a with started := true, poisoned := slicePoisoned u a, results := sliceResults s u a k.signers,
                         dirty := sliceDirty s a (sliceResults s u a k.signers) }
    exec (.sliceStart g.uid n) s = .next (setKey s g.uid n { k with armed := replaceWhere (fun x => x.deck == a.deck) done k.armed }) := by
  refine congrArg Host.Outcome.next ?_
  simp only [hg, Option.elim_some, startSlice, hk, hst, ha]
  rfl

/-- A lane whose watched word differs leaves its wait, with every lane of it (08 R212). -/
theorem entwWake_wakes {s : State} {span lane va c mt : Nat} {sp : Span} {cx : Context} {expected : DWord} {loc : Loc}
    (hs : s.span? span = some sp) (hw : (sp.lane lane).pos.st = .waiting (.entw va expected)) (hc : spanCtx s sp = some c)
    (hx : s.ctx? c = some cx) (ht : translate s cx true .read va = .ok loc mt) :
    exec (.entwWake span lane) s = .next (if valueAt s loc 8 = expected then s else
      s.modSpan span (Span.leaveIf (fun pc v => pc == (sp.lane lane).pos.pc && v == .entw va expected))) := by
  show execEntwWake span lane s = _
  simp only [execEntwWake, hs, hw, hc, hx, ht, Option.orElse_some, Option.bind_some, beq_iff_eq]
  split <;> rfl

/-- Settles O42: each row by the case of its state. -/
theorem unitRowsAndEntryWakes : Obligations.UnitRowsAndEntryWakes := by
  refine ⟨fun s pier u ho => ownershipChange_none (.inl (by simp [ho])), fun s pier hm => ownershipChange_none (.inr hm),
    fun s pier d hp ho hm hd => ⟨_, ownershipChange_takes ho hm hd, ?_⟩, fun s pier hp => ⟨_, rfl, ?_⟩,
    fun s g n k a hg hk hst ha => sliceStart_starts hg hk hst ha, fun s g l n hg hl => ?_,
    fun s span lane sp cx va expected c loc mt hs hw hc hx ht => entwWake_wakes hs hw hc hx ht⟩
  · simp only [State.pier_modPier_same s _ hp, true_and]
    exact fun p hne => State.pier_modPier_ne s _ hne
  · exact ⟨State.pier_modPier_same s _ hp, fun p hne => State.pier_modPier_ne s _ hne⟩
  · refine congrArg Host.Outcome.next ?_
    simp only [hg, Option.elim_some, hl]

end Sys2Proof.Machine
end


section
/-! Per-lane system effects and migration (O35; 08 R206, R208, R213, R214, 15 R316, R317). -/

namespace Sys2Proof.Machine

/-! ## Changes of the executing span alone -/

section
variable {i : Instr} {s : State} {c : Ctx}

/-- An instruction whose meaning changes its span alone: the span has changed, and its group has gone on. -/
theorem changes_span {f : Span → Span} (h : Issues s i c) (he : exec i s = settleRun c (.ok (.done (c.s.modSpan c.u f))))
    (hf : ∀ y, (f y).uid = y.uid) : ∃ t, exec i s = .next t ∧ Becomes c.s t c.u (c.onward (f c.sp)) := by
  have hm := Becomes.modSpan h.span hf
  exact ⟨_, he, hm.trans (Becomes.goOn hm.span)⟩

/-- A check with one address for all lanes, which some lane fails, names the lanes that fail it. -/
theorem Ctx.check_rejects {m : LaneSet} {p : Nat → Bool} {l : Nat} (hm : hasLane m l = true) (hp : p l = true) (cause : Nat) (a : DWord) :
    c.check cause m p (fun _ => a) = .error (.trap c.s (TrapInfo.at cause a (laneSetOf fun k => hasLane m k && p k))) := by
  have hl : hasLane (Ctx.those m p) l = true := by simp [Ctx.those, hm, hp, hasLane_lt hm]
  have hne : Ctx.those m p ≠ 0#64 := fun e => by simp [e] at hl
  simp only [Ctx.check, beq_iff_eq, if_neg hne]
  rfl

/-- %rsn of a lane as the number that the checks compare. -/
theorem Ctx.rsn_beq (c : Ctx) (l : Nat) (n : BitVec 4) : (c.rsn l == n.toNat) = ((c.sp.lane l).rsn == n) := by
  rw [Bool.eq_iff_iff, beq_iff_eq, beq_iff_eq, Ctx.rsn, BitVec.toNat_inj]

end

section
variable {s : State} {c : Ctx} {a : Reg}

theorem plvl_records (h : Issues s (.plvl a) c) : ∃ t, exec (.plvl a) s = .next t ∧ Becomes c.s t c.u
    (c.onward (c.sp.modLanes c.A (fun l y => { y with plvl := some (BitVec.ofNat 3 (min (c.src a l).toNat 7)) }))) :=
  changes_span h (instr_runs h false _) fun _ => rfl

theorem csrw_sp (h : Issues s (.csrw a 0x008#10) c) : ∃ t, exec (.csrw a 0x008#10) s = .next t ∧ Becomes c.s t c.u
    (c.onward (c.sp.modLanes c.A (fun l y => { y with sp := c.src a l }))) :=
  changes_span h (instr_runs h false _) fun _ => rfl

/-- %splim is written in trap mode. -/
theorem csrw_splim (h : Issues s (.csrw a 0x009#10) c) (ht : c.sp.trap ≠ none) : ∃ t, exec (.csrw a 0x009#10) s = .next t ∧
    Becomes c.s t c.u (c.onward (c.sp.modLanes c.A (fun l y => { y with splim := c.src a l }))) := by
  refine changes_span (f := fun x => x.modLanes c.A (fun l y => { y with splim := c.src a l })) h
    ((instr_runs h false _).trans (congrArg (settleRun c) ?_)) fun _ => rfl
  have hn : c.sp.trap.isNone = false := by simpa [Option.isSome_iff_ne_none] using ht
  simp only [hn]
  rfl

/-- Outside trap mode a write of %splim is illegal. -/
theorem csrw_splim_illegal (h : Issues s (.csrw a 0x009#10) c) (ht : c.sp.trap = none) :
    exec (.csrw a 0x009#10) s = takeTrapFrom c.before c.s c.iss (TrapInfo.at 0x0001 0#64 c.A) := by
  refine (instr_runs h false _).trans (.trans (congrArg (settleRun c) ?_) (settle_illegal c c.A))
  simp only [ht]
  rfl

end

/-! ## Read-side sections (08 R214) -/

section
variable {s : State} {c : Ctx}

/-- What rdenter leaves before its group goes on, where no lane of A is at 15. -/
theorem rdenter_runs (h : Issues s .rdenter c) (hr : ∀ l ∈ c.lanes, (c.sp.lane l).rsn ≠ 15#4) :
    exec .rdenter s = settleRun c (.ok (.done ((if c.sp.quiet || c.sp.lanes.any (fun l => l.rsn != 0#4) then c.s
      else observeQuiet (drain c.s c.u (BitVec.allOnes 64)) c.u).modSpan c.u (fun x =>
        Span.modLanes { x with quiet := false } c.A (fun _ y => { y with rsn := y.rsn + 1#4 }))))) := by
  have hc : c.check 0x0001 c.A (fun l => c.rsn l == 15) (fun _ => 0#64) = .ok () := Ctx.check_ok fun l hl => by
    have hne := hr l ((mem_lanesOf _ _).mpr hl)
    exact (c.rsn_beq l 15#4).trans (beq_eq_false_iff_ne.mpr hne)
  refine (instr_runs h false _).trans ?_
  simp only [hc]
  rfl

theorem rdenter_full (h : Issues s .rdenter c) (hr : ∃ l ∈ c.lanes, (c.sp.lane l).rsn = 15#4) : exec .rdenter s =
    takeTrapFrom c.before c.s c.iss (TrapInfo.at 0x0001 0#64 (laneSetOf (fun l => hasLane c.A l && (c.sp.lane l).rsn == 15#4))) := by
  obtain ⟨l, hl, he⟩ := hr
  have hc := Ctx.check_rejects (c := c) (p := fun l => c.rsn l == 15) ((mem_lanesOf _ _).mp hl)
    ((c.rsn_beq l 15#4).trans (beq_iff_eq.mpr he)) 0x0001 0#64
  simp only [show ∀ k, (c.rsn k == 15) = ((c.sp.lane k).rsn == 15#4) from fun k => c.rsn_beq k 15#4] at hc
  refine (instr_runs h false _).trans (.trans (congrArg (settleRun c) ?_) (settle_trap (by simp [TrapInfo.at])))
  simp only [show ∀ k, (c.rsn k == 15) = ((c.sp.lane k).rsn == 15#4) from fun k => c.rsn_beq k 15#4, hc]
  rfl

theorem rdexit_counts (h : Issues s .rdexit c) (hr : ∀ l ∈ c.lanes, (c.sp.lane l).rsn ≠ 0#4) : ∃ t, exec .rdexit s = .next t ∧
    Becomes c.s t c.u (c.onward (c.sp.modLanes c.A (fun _ y => { y with rsn := y.rsn - 1#4, exitAt := c.s.fresh }))) := by
  have hc : c.check 0x0016 c.A (fun l => c.rsn l == 0) (fun _ => 0#64) = .ok () := Ctx.check_ok fun l hl => by
    have hne := hr l ((mem_lanesOf _ _).mpr hl)
    exact (c.rsn_beq l 0#4).trans (beq_eq_false_iff_ne.mpr hne)
  refine changes_span (f := fun x => x.modLanes c.A (fun _ y => { y with rsn := y.rsn - 1#4, exitAt := c.s.fresh })) h
    ((instr_runs h false _).trans (congrArg (settleRun c) ?_)) fun _ => rfl
  simp only [hc]
  rfl

theorem rdexit_empty (h : Issues s .rdexit c) (hr : ∃ l ∈ c.lanes, (c.sp.lane l).rsn = 0#4) : exec .rdexit s =
    takeTrapFrom c.before c.s c.iss (TrapInfo.at 0x0016 0#64 (laneSetOf (fun l => hasLane c.A l && (c.sp.lane l).rsn == 0#4))) := by
  obtain ⟨l, hl, he⟩ := hr
  have hc := Ctx.check_rejects (c := c) (p := fun l => c.rsn l == 0) ((mem_lanesOf _ _).mp hl)
    ((c.rsn_beq l 0#4).trans (beq_iff_eq.mpr he)) 0x0016 0#64
  simp only [show ∀ k, (c.rsn k == 0) = ((c.sp.lane k).rsn == 0#4) from fun k => c.rsn_beq k 0#4] at hc
  refine (instr_runs h false _).trans (.trans (congrArg (settleRun c) ?_) (settle_trap (by simp [TrapInfo.at])))
  simp only [show ∀ k, (c.rsn k == 0) = ((c.sp.lane k).rsn == 0#4) from fun k => c.rsn_beq k 0#4, hc]
  rfl

end

/-- Once a span is quiescent and the engine has not seen it yet, it does: the span counts as quiet and no period waits for it (17 R346, R347). -/
theorem observeQuiet_quiet {s : State} {u : Nat} {sp : Span} (hs : s.span? u = some sp) (hq : sp.quiet = false)
    (hz : isQuiescent s sp = true) : observeQuiet s u = { s.modSpan u (fun x => { x with quiet := true }) with
      ctxs := s.ctxs.map (fun c => { c with gp := { c.gp with holders := c.gp.holders.filter (fun h => h != u) } }) } := by
  simp only [observeQuiet, hs, hq, hz]
  rfl

theorem observeQuiet_spec {s : State} {u : Nat} {sp : Span} (hs : s.span? u = some sp) (hq : sp.quiet = false) (hz : isQuiescent s sp = true) :
    (observeQuiet s u).span? u = some { sp with quiet := true } ∧ (∀ v, v ≠ u → (observeQuiet s u).span? v = s.span? v) ∧
    { observeQuiet s u with spans := s.spans, ctxs := s.ctxs } = s ∧
    ∀ k cx, s.ctx? k = some cx →
      (observeQuiet s u).ctx? k = some { cx with gp := { cx.gp with holders := cx.gp.holders.filter (fun h => h != u) } } := by
  rw [observeQuiet_quiet hs hq hz]
  refine ⟨State.span?_modSpan_same _ (fun _ => rfl) hs, fun v hv => State.span?_modSpan_ne s _ (fun _ => rfl) hv, rfl, fun k cx hk => ?_⟩
  exact (find_map_uid Context.num (fun c : Context => { c with gp := { c.gp with holders := c.gp.holders.filter (fun h => h != u) } })
    (fun _ => rfl) k s.ctxs).trans (congrArg (Option.map _) hk)

end Sys2Proof.Machine
end


section
/-! Decks that are stopped to be saved (O35; 08 R213, 15 R316, R317). -/

namespace Sys2Proof.Machine

/-! ## Spans that stop at their issue boundaries -/

/-- t has the decks of s and spans of the same names on the same decks, and picks nothing that s has not picked. -/
structure Halts (s t : State) : Prop where
  decks : t.decks = s.decks
  names : t.spans.map (fun x => (x.uid, x.deck)) = s.spans.map (fun x => (x.uid, x.deck))
  issuing : ∀ i ∈ t.issuing, i ∈ s.issuing

namespace Halts
variable {s t w : State}

theorem refl (s : State) : Halts s s := ⟨rfl, rfl, fun _ h => h⟩

theorem trans (h : Halts s t) (k : Halts t w) : Halts s w :=
  ⟨k.decks.trans h.decks, k.names.trans h.names, fun i hi => h.issuing i (k.issuing i hi)⟩

theorem modSpan (s : State) (u : Nat) {f : Span → Span} (hf : ∀ x, (f x).uid = x.uid ∧ (f x).deck = x.deck) : Halts s (s.modSpan u f) := by
  refine ⟨rfl, ?_, fun _ h => h⟩
  rw [State.modSpan, List.map_map]
  refine List.map_congr_left fun x _ => ?_
  by_cases hx : x.uid = u <;> simp [hx, hf]

theorem filterIssuing (s : State) (p : Issue → Bool) : Halts s { s with issuing := s.issuing.filter p } :=
  ⟨rfl, rfl, fun _ h => (List.mem_filter.mp h).1⟩

theorem foldl {α : Type} {f : State → α → State} (hf : ∀ s a, Halts s (f s a)) : ∀ (l : List α) (s : State), Halts s (l.foldl f s)
  | [], s => refl s
  | a :: l, s => (hf s a).trans (foldl hf l _)

/-- A span of s on a deck has its name in t, on the same deck. -/
theorem span (h : Halts s t) {x : Span} (hx : x ∈ s.spans) : ∃ y ∈ t.spans, y.uid = x.uid ∧ y.deck = x.deck := by
  have hm : (x.uid, x.deck) ∈ t.spans.map (fun x => (x.uid, x.deck)) := h.names ▸ List.mem_map_of_mem hx
  obtain ⟨y, hy, he⟩ := List.mem_map.mp hm
  exact ⟨y, hy, (Prod.mk.inj he).1, (Prod.mk.inj he).2⟩

end Halts

theorem putBack_halts (s : State) (iss : Issue) : Halts s (putBack s iss) := by
  refine (Halts.filterIssuing s _).trans (Halts.modSpan _ _ fun x => ?_)
  split <;> exact ⟨rfl, rfl⟩

/-- Stopping a span: nothing that was picked for it is left (15 R301). -/
theorem holdSpan_halts (slots : List (BitVec 256)) (s : State) (u : Nat) :
    Halts s (holdSpan slots s u) ∧ ((s.span? u).isSome = true → ∀ i ∈ (holdSpan slots s u).issuing, i.span ≠ u) := by
  unfold holdSpan
  cases hs : s.span? u with
  | none => exact ⟨.refl s, fun h => nomatch h⟩
  | some x =>
    refine ⟨?_, fun _ i hi => ?_⟩
    · have hb := Halts.foldl putBack_halts (s.issuing.filter (fun i => i.span == u && !i.fetched)) s
      refine ⟨hb.decks, .trans ?_ hb.names, fun i hi => hb.issuing i (List.mem_filter.mp hi).1⟩
      refine (Halts.modSpan _ u ?_).names
      exact fun y => ⟨rfl, rfl⟩
    · simpa using (List.mem_filter.mp hi).2

/-- The spans of a deck stop one after another. -/
theorem holdSpans_halt (slots : State → List (BitVec 256)) : ∀ (xs : List Span) (s : State), (∀ x ∈ xs, ∃ y ∈ s.spans, y.uid = x.uid) →
    Halts s (xs.foldl (fun s x => holdSpan (slots s) s x.uid) s) ∧
    ∀ i ∈ (xs.foldl (fun s x => holdSpan (slots s) s x.uid) s).issuing, ∀ x ∈ xs, i.span ≠ x.uid
  | [], s, _ => ⟨.refl s, fun _ _ _ h => nomatch h⟩
  | x :: xs, s, hx => by
    obtain ⟨hh, hi⟩ := holdSpan_halts (slots s) s x.uid
    obtain ⟨hh', hi'⟩ := holdSpans_halt slots xs (holdSpan (slots s) s x.uid) fun y hy => by
      obtain ⟨z, hz, he⟩ := hx y (List.mem_cons_of_mem _ hy)
      obtain ⟨w, hw, hwz, -⟩ := hh.span hz
      exact ⟨w, hw, hwz.trans he⟩
    refine ⟨hh.trans hh', fun i h y hy => ?_⟩
    rcases List.mem_cons.mp hy with rfl | hy
    · obtain ⟨z, hz, he⟩ := hx y List.mem_cons_self
      exact hi (List.find?_isSome.mpr ⟨z, hz, beq_iff_eq.mpr he⟩) i (hh'.issuing i h)
    · exact hi' i h y hy

/-! ## Decks that stop -/

/-- t has stopped deck `u` of s, which takes a status: nothing is picked for its spans, and other decks are as they were. -/
structure Stops (s t : State) (u : Nat) (st : DeckStatus) : Prop where
  decks : t.decks = (s.modDeck u (fun d => { d with status := st })).decks
  names : t.spans.map (fun x => (x.uid, x.deck)) = s.spans.map (fun x => (x.uid, x.deck))
  issuing : ∀ i ∈ t.issuing, i ∈ s.issuing
  clear : ∀ i ∈ t.issuing, ∀ x ∈ s.spansOf u, i.span ≠ x.uid

theorem stopDeck_stops (s : State) (u : Nat) (st : DeckStatus) : Stops s (stopDeck s u st) u st := by
  obtain ⟨hh, hi⟩ := holdSpans_halt (fun s => slotsOf s u) (s.spansOf u) s fun x hx => ⟨x, (List.mem_filter.mp hx).1, rfl⟩
  exact ⟨congrArg (List.map _) hh.decks, hh.names, hh.issuing, hi⟩

section
variable {s t : State} {u : Nat} {st : DeckStatus}

theorem Stops.deck?_same {d : Deck} (h : Stops s t u st) (hd : s.deck? u = some d) : t.deck? u = some { d with status := st } := by
  refine (State.deck?_congr h.decks u).trans (State.deck?_modDeck_same hd ?_)
  exact fun _ => rfl

theorem Stops.deck?_ne {v : Nat} (h : Stops s t u st) (hv : v ≠ u) : t.deck? v = s.deck? v := by
  refine (State.deck?_congr h.decks v).trans ((State.deck?_modDeck s u v _ ?_).trans (if_neg hv.symm))
  exact fun _ => rfl

end

/-! ## A girder that migrates -/

/-- The states of a deck that a migration stops (15 R316, R317). -/
abbrev DeckStatus.migrates (st : DeckStatus) : Prop := st ∈ [DeckStatus.running, .clearing, .parking, .retired]

/-- What a migration does with one deck of its girder. -/
def migrateDeck (target : Grade) (s : State) (d : Deck) : State :=
  if d.status.migrates then stopDeck s d.uid (.migrating target) else s

theorem startMigration_eq (s : State) (g : Girder) (target : Grade) :
    startMigration s g target = (s.decksOf g.uid).foldl (migrateDeck target) s := by
  refine congrArg (fun f => (s.decksOf g.uid).foldl f s) (funext fun s => funext fun d => ?_)
  cases hd : d.status <;> simp [migrateDeck, DeckStatus.migrates, hd]

/-- t has what s has of the decks whose names are not in a list, spans of the same names on the same decks, and no more picked. -/
structure Spares (s t : State) (us : List Nat) : Prop where
  deck? : ∀ u ∉ us, t.deck? u = s.deck? u
  names : t.spans.map (fun x => (x.uid, x.deck)) = s.spans.map (fun x => (x.uid, x.deck))
  issuing : ∀ i ∈ t.issuing, i ∈ s.issuing

theorem migrateDeck_stops {d : Deck} (target : Grade) (s : State) (h : d.status.migrates) :
    Stops s (migrateDeck target s d) d.uid (.migrating target) := by
  rw [migrateDeck, if_pos h]
  exact stopDeck_stops s d.uid _

theorem migrateDeck_spares (target : Grade) (s : State) (d : Deck) : Spares s (migrateDeck target s d) [d.uid] := by
  by_cases h : d.status.migrates
  · have hs := migrateDeck_stops target s h
    exact ⟨fun u hu => hs.deck?_ne (by simpa using hu), hs.names, hs.issuing⟩
  · rw [migrateDeck, if_neg h]
    exact ⟨fun _ _ => rfl, rfl, fun _ hi => hi⟩

theorem migrateDecks_spare (target : Grade) : ∀ (ds : List Deck) (s : State), Spares s (ds.foldl (migrateDeck target) s) (ds.map (·.uid))
  | [], _ => ⟨fun _ _ => rfl, rfl, fun _ hi => hi⟩
  | d :: ds, s => by
    obtain ⟨hd, hn, hi⟩ := migrateDeck_spares target s d
    obtain ⟨hd', hn', hi'⟩ := migrateDecks_spare target ds (migrateDeck target s d)
    refine ⟨fun u hu => ?_, hn'.trans hn, fun i h => hi i (hi' i h)⟩
    rw [List.map_cons, List.mem_cons, not_or] at hu
    exact (hd' u hu.2).trans (hd u (by simpa using hu.1))

/-- One of the decks, whose name no other of them has, has stopped with nothing picked for its spans; or it is as it was. -/
theorem migrateDecks_deck (target : Grade) {d : Deck} : ∀ (ds : List Deck) (s : State), d ∈ ds → (ds.map (·.uid)).Nodup → s.deck? d.uid = some d →
    let t := ds.foldl (migrateDeck target) s
    (d.status.migrates → t.deck? d.uid = some { d with status := .migrating target } ∧
      ∀ i ∈ t.issuing, ∀ x ∈ s.spansOf d.uid, i.span ≠ x.uid) ∧
    (¬ d.status.migrates → t.deck? d.uid = some d)
  | [], _, h, _, _ => nomatch h
  | e :: ds, s, hm, hn, hd => by
    obtain ⟨hne, hn⟩ := List.nodup_cons.mp hn
    have hspare := migrateDecks_spare target ds (migrateDeck target s e)
    rcases List.mem_cons.mp hm with rfl | hm
    · dsimp only [List.foldl_cons]
      rw [hspare.deck? d.uid hne]
      refine ⟨fun h => ?_, fun h => ?_⟩
      · have hs := migrateDeck_stops target s h
        exact ⟨hs.deck?_same hd, fun i hi => hs.clear i (hspare.issuing i hi)⟩
      · rw [migrateDeck, if_neg h, hd]
    · have hu : d.uid ≠ e.uid := fun h => hne (List.mem_map.mpr ⟨d, hm, h⟩)
      have hfirst := migrateDeck_spares target s e
      obtain ⟨hgo, hstay⟩ := migrateDecks_deck target ds _ hm hn ((hfirst.deck? d.uid (by simpa using hu)).trans hd)
      refine ⟨fun h => ⟨(hgo h).1, fun i hi x hx => ?_⟩, hstay⟩
      obtain ⟨hx, hxd⟩ := List.mem_filter.mp hx
      have hmem : (x.uid, x.deck) ∈ (migrateDeck target s e).spans.map (fun x => (x.uid, x.deck)) :=
        hfirst.names ▸ List.mem_map_of_mem hx
      obtain ⟨y, hy, he⟩ := List.mem_map.mp hmem
      obtain ⟨hyu, hyd⟩ := Prod.mk.inj he
      exact hyu ▸ (hgo h).2 i hi y (List.mem_filter.mpr ⟨hy, hyd ▸ hxd⟩)

/-! ## The hint (08 R213) -/

section
variable {g : BitVec 2} {s : State} {c : Ctx}

/-- Where the girder moves to. -/
def migrTarget (g : BitVec 2) : Grade := if g = 1#2 then .m else .v

theorem migr_moves (h : Issues s (.migr g) c) (hg : g ≠ 0#2) (hp : gradeOf c.deck.pier ≠ migrTarget g)
    (hc : capableSet c.s c.cx c.launch c.girder (migrTarget g) false ≠ none) :
    exec (.migr g) s = .next (startMigration (goOn c.s c.iss c.G) c.girder (migrTarget g)) := by
  refine instr_moved h false _ ?_
  have ht : (if g == 1#2 then Grade.m else .v) = migrTarget g := by simp [migrTarget]
  rw [ht, if_neg]
  simpa [Option.isSome_iff_ne_none] using ⟨⟨hg, hp⟩, hc⟩

theorem migr_stays (h : Issues s (.migr g) c)
    (hc : g = 0#2 ∨ gradeOf c.deck.pier = migrTarget g ∨ capableSet c.s c.cx c.launch c.girder (migrTarget g) false = none) :
    ∃ t, exec (.migr g) s = .next t ∧ Becomes c.s t c.u c.advanced := by
  refine only_goes_on h ((instr_runs h false _).trans (congrArg (settleRun c) ?_))
  have ht : (if g == 1#2 then Grade.m else .v) = migrTarget g := by simp [migrTarget]
  rw [ht, if_pos]
  simpa [or_assoc] using hc

end

/-- Settles O35: what each instruction changes of its span or where its checks fail, and the decks of a girder that migrates one by one. -/
theorem perLaneSystemEffects : Obligations.PerLaneSystemEffects := by
  refine ⟨⟨fun a s c h => plvl_records h, fun a s c h => csrw_sp h, fun a s c h ht => csrw_splim h ht, fun a s c h ht => csrw_splim_illegal h ht⟩,
    ⟨fun s c h hr hq => ?_, fun s c h hq hz => ?_, fun s u sp hs hq hz => observeQuiet_spec hs hq hz, fun s c h hr => rdexit_counts h hr,
      fun s c h hr => rdenter_full h hr, fun s c h hr => rdexit_empty h hr⟩,
    fun g s c h => ⟨fun hg hp hc => migr_moves h hg hp hc, fun hc => migr_stays h hc⟩, fun s g target d hm hn hd => ?_⟩
  · have hseen : (c.sp.quiet || c.sp.lanes.any (fun l => l.rsn != 0#4)) = true := by simpa using hq
    refine changes_span (f := fun x => Span.modLanes { x with quiet := false } c.A (fun _ y => { y with rsn := y.rsn + 1#4 })) h
      ((rdenter_runs h hr).trans ?_) fun _ => rfl
    rw [if_pos hseen]
  · have hunseen : ¬ (c.sp.quiet || c.sp.lanes.any (fun l => l.rsn != 0#4)) = true := by simpa [hq] using hz
    have hr : ∀ l ∈ c.lanes, (c.sp.lane l).rsn ≠ 15#4 := fun l _ => by
      rw [Span.lane]
      cases hl : c.sp.lanes[l]? with
      | none => decide
      | some y => rw [Option.getD_some, hz y (List.mem_of_getElem? hl)]; decide
    rw [rdenter_runs h hr, if_neg hunseen]
    rfl
  · rw [startMigration_eq]
    exact migrateDecks_deck target _ s hm hn hd

end Sys2Proof.Machine
end


section
/-! trap, brk and tret (O37; 08 R209, R210, 15 R300-R309). -/

namespace Sys2Proof.Machine

/-! ## Traps that are delivered -/

/-- The older instructions complete without a cause of their own, and the trap is delivered from the state that they leave (15 R300-R306). -/
theorem takeTrapFrom_delivers {b s : State} {iss : Issue} {t : TrapInfo} {k : Ctx} (hp : (completeOlder s iss.span).pendingOf iss.span = false)
    (hd : Delivers (completeOlder s iss.span) iss t k) : takeTrapFrom b s iss t = .next (delivered (completeOlder s iss.span) iss t k) := by
  obtain ⟨hctx, hout, hgoes, hdev, hframe⟩ := hd
  have hserve : (!t.served && t.cause == 0x0007 && k.cx.d.tflags.getLsbD 0) = false := by
    rcases hdev with h | h | h <;> simp [-BitVec.getLsbD_eq_getElem, h]
  have hhandled : (k.cx.d.handler == 0 && !k.cx.catches t.cause) = false := by
    rcases hgoes with h | h <;> simp [h]
  simp only [takeTrapFrom, takeTrapHolding, hp, deliverTrapFrom, hctx, hserve, hout, hhandled, hframe, ite_self]
  simp [delivered]

/-- A trap that is delivered, served, or ends its span leaves a state (15 R300-R314). -/
theorem deliverTrapFrom_next (own : Nat) (b s : State) (iss : Issue) (t : TrapInfo) : ∃ r, deliverTrapFrom own b s iss t = .next r := by
  unfold deliverTrapFrom
  split
  · exact ⟨_, rfl⟩
  · dsimp only
    split
    · exact ⟨_, rfl⟩
    · repeat' split
      all_goals exact ⟨_, rfl⟩

theorem takeTrapFrom_next (b s : State) (iss : Issue) (t : TrapInfo) : ∃ r, takeTrapFrom b s iss t = .next r := by
  unfold takeTrapFrom takeTrapHolding
  dsimp only
  split
  · exact ⟨_, rfl⟩
  · exact deliverTrapFrom_next _ _ _ _ _

/-! ## The frame is read back -/

section
variable {s t : State} (hr : ∀ l, readLoc t l = readLoc s l) (ha : t.ats = s.ats)
include hr ha

/-- A walk reads memory and the answers of ATS alone. -/
theorem walk_congr (k : Kind) : ∀ level host table va, walk t k level host table va = walk s k level host table va := by
  have hpage (p : Nat) : hostPage t p = hostPage s p := by simp only [hostPage, ha]
  have hentry (host : Bool) (a : Nat) : tableEntry t host a = tableEntry s host a := by simp only [tableEntry, hpage]
  have hpte (l : Loc) : readPte t l = readPte s l := by simp only [readPte, readLocs, hr]
  have hleaf (p o : Nat) : leaf t k p o = leaf s k p o := by simp only [leaf, hpage]
  intro level
  induction level with
  | zero => intro host table va; rw [walk.eq_1 t, walk.eq_1 s]; simp only [hentry, hpte, hleaf]
  | succ n ih => intro host table va; rw [walk.eq_1 t, walk.eq_1 s]; simp only [hentry, hpte, hleaf, ih]

theorem translate_congr (cx : Context) (byLane : Bool) (k : Kind) (va : Nat) : translate t cx byLane k va = translate s cx byLane k va := by
  simp only [translate, walk_congr hr ha]

theorem frameNat_congr (hn : t.steps = s.steps) (cx : Context) (frame off n : Nat) : frameNat t cx frame off n = frameNat s cx frame off n := by
  simp only [frameNat, translate_congr hr ha, hr, hn]

theorem readQueue_congr (hn : t.steps = s.steps) (cx : Context) (frame : Nat) (q : List Issue) : readQueue t cx frame q = readQueue s cx frame q := by
  simp only [readQueue, readEntry, frameNat_congr hr ha hn]

end

theorem readQueue_getElem? {s : State} {cx : Context} {frame i : Nat} {queue : List Issue} {e : Issue} (h : queue[i]? = some e) :
    (readQueue s cx frame queue)[i]? = some (readEntry s cx frame i e) := by
  simp [readQueue, h]

/-- A register as a frame gives it back, from its state at the trap and the values that the frame holds (15 R308). -/
def VReg.givenBack (vals : List Word) : VReg → VReg
  | .vector slot _ => .vector slot vals
  | old => (checker vals).getD old

theorem VReg.givenBack_get {vals : List Word} {e : VReg} (h : e.isVector = true ∨ (checker vals).isSome = true) {l : Nat} (hl : l < vals.length) :
    (e.givenBack vals).get l = vals[l] := by
  have compact (hv : (checker vals).isSome = true) (old : VReg) : ((checker vals).getD old).get l = vals[l] := by
    obtain ⟨v, hv⟩ := Option.isSome_iff_exists.mp hv
    rw [hv, Option.getD_some, checker_get hv hl]
  cases e with
  | vector slot old => simp [VReg.givenBack, VReg.get, hl]
  | uniform b => exact compact (h.resolve_left (by simp)) _
  | affine b k => exact compact (h.resolve_left (by simp)) _

/-- One of v124 to v127 is given back. -/
def giveReg (saved : Nat → Nat → Word) (x : Span) (r : VReg × Nat) : Span :=
  x.setReg (124 + r.2) (r.1.givenBack ((List.range x.width).map (saved r.2)))

/-- The registers of a list are given back from number 124 + n on, and nothing else changes. -/
theorem giveRegs_spec (saved : Nat → Nat → Word) : ∀ (entry : List VReg) (n : Nat) (x : Span), 124 + n + entry.length ≤ x.regs.length →
    let y := (entry.zipIdx n).foldl (giveReg saved) x
    { y with regs := x.regs } = x ∧ (∀ r < 124 + n, y.vreg r = x.vreg r) ∧
      ∀ i e, entry[i]? = some e → y.vreg (124 + n + i) = e.givenBack ((List.range x.width).map (saved (n + i)))
  | [], _, _, _ => ⟨rfl, fun _ _ => rfl, fun _ _ h => nomatch h⟩
  | e :: entry, n, x, hlen => by
    rw [List.length_cons] at hlen
    obtain ⟨hrest, hlow, hat⟩ := giveRegs_spec saved entry (n + 1) (giveReg saved x (e, n)) (by simp [giveReg, Span.setReg]; omega)
    have hfirst (r : Nat) : (giveReg saved x (e, n)).vreg r = if 124 + n = r then e.givenBack ((List.range x.width).map (saved n)) else x.vreg r :=
      Span.vreg_setReg x _ r _ (by omega)
    refine ⟨?_, fun r hr => ?_, fun i e' he => ?_⟩
    · exact (congrArg (fun y : Span => { y with regs := x.regs }) hrest)
    · rw [List.zipIdx_cons, List.foldl_cons, hlow r (by omega), hfirst, if_neg (by omega)]
    · rw [List.zipIdx_cons, List.foldl_cons]
      cases i with
      | zero =>
        cases he
        exact (hlow _ (by omega)).trans ((hfirst _).trans (if_pos rfl))
      | succ i =>
        have := hat i e' he
        rwa [show 124 + (n + 1) + i = 124 + n + (i + 1) from by omega, show n + 1 + i = n + (i + 1) from by omega] at this

/-! ## Trap mode ends (08 R210, 15 R308) -/

/-- A span whose trap mode ends: the trap's lanes take their own positions again. -/
def Span.trapOver (now : Nat) (m : TrapMode) (sp : Span) : Span :=
  Span.modLanes { sp with trap := none, lastIssue := now, serial := sp.ownSerial, steps := sp.steps.or m.outer } m.lanes
    (fun _ l => { l with pos := l.held.getD l.pos, held := none })

/-- The masks are given back, and the slots that the handler's own values of v124 to v127 took become spare. -/
def Span.maskedBack (masks : List LaneSet) (x : Span) : Span :=
  let y := { x with masks := masks.map (fun m => m &&& x.maskable) }
  { y with used := y.used - heldOf y + y.heldSlots, heldSlots := 0 }

/-- v124 to v127 are given back, and the queue issues again. -/
def Span.framed (masks : List LaneSet) (saved : Nat → Nat → Word) (entry : List VReg) (queue : List Issue) (x : Span) : Span :=
  let y := entry.zipIdx.foldl (giveReg saved) (x.maskedBack masks)
  { y with reinj := queue, poison := y.poison.filter (fun q => decide (q.1 < 124)) }

section
variable {masks : List LaneSet} {saved : Nat → Nat → Word} {entry : List VReg} {queue : List Issue} {x : Span}

theorem Span.framed_uid (masks : List LaneSet) (saved : Nat → Nat → Word) (entry : List VReg) (queue : List Issue) (x : Span) :
    (x.framed masks saved entry queue).uid = x.uid :=
  List.foldlRecOn (motive := fun y : Span => y.uid = x.uid) entry.zipIdx (giveReg saved) (b := x.maskedBack masks) rfl
    fun (_ : Span) h _ _ => h

theorem Span.framed_spec (hr : x.regs.length = 128) (he : entry.length = 4) :
    { x.framed masks saved entry queue with regs := x.regs } =
      { x.maskedBack masks with reinj := queue, poison := x.poison.filter (fun q => decide (q.1 < 124)) } ∧
    (∀ r < 124, (x.framed masks saved entry queue).vreg r = x.vreg r) ∧
    ∀ i e, entry[i]? = some e → (x.framed masks saved entry queue).vreg (124 + i) = e.givenBack ((List.range x.width).map (saved i)) := by
  obtain ⟨hrest, hlow, hat⟩ := giveRegs_spec saved entry 0 (x.maskedBack masks) (by simp [maskedBack, hr, he])
  refine ⟨?_, hlow, fun i e h => ?_⟩
  · exact congrArg (fun y : Span => { y with reinj := queue, poison := y.poison.filter (fun q => decide (q.1 < 124)) }) hrest
  · have hi := hat i e h
    rwa [Nat.add_zero, Nat.zero_add] at hi

end

/-- A lane that waits in no membership set is not moved by a test of them. -/
theorem settleSets_lane {x : Span} {l : Nat} (hl : l < x.lanes.length) (hp : ∀ k, (x.lane l).pos.st ≠ .waiting (.setOpen k))
    (hh : (x.lane l).held = none) : (settleSets x).lane l = x.lane l := by
  rw [settleSets, Span.leaveIf, Span.lane_map x _ hl]
  have hpos := settleSets_pos x hl
  rw [settleSets, Span.leaveIf, Span.lane_map x _ hl] at hpos
  have hstay : ((settleSets x).lane l).pos = (x.lane l).pos := (((settleSets_spec x).2.2 l hl).2 hp)
  rw [settleSets, Span.leaveIf, Span.lane_map x _ hl] at hstay
  simp only [Lane.mapPos] at hstay ⊢
  rw [hstay, hh, Option.map_none, ← hh]

theorem resumeCopies_resumed {s : State} {u : Nat} {w : Work} (hw : w ∈ (resumeCopies s u).works) (hu : w.span = u) : w.suspended = false := by
  obtain ⟨v, -, rfl⟩ := List.mem_map.mp hw
  by_cases hv : v.span = u
  · cases hk : v.kind <;> simp [hv, hk, Work.suspended]
  · simp [hv] at hu

/-- The masks that a frame holds. -/
def frameMasks (s : State) (cx : Context) (frame : Nat) : List LaneSet :=
  (List.range 12).map (fun k => BitVec.ofNat 64 (frameNat s cx frame (0x100 + 8 * k) 8))
/-- The values of v124 to v127 that a frame holds. -/
def frameSaved (s : State) (cx : Context) (frame i l : Nat) : Word := BitVec.ofNat 32 (frameNat s cx frame (0x400 + 256 * i + 4 * l) 4)

theorem restoreFrame_eq {s : State} {u : Nat} {x : Span} (hs : s.span? u = some x) (cx : Context) (frame : Nat) (queue : List Issue)
    (entry : List VReg) : restoreFrame s cx u frame queue entry true = (dropLatch s x (fun r => decide (124 ≤ r))).modSpan u
      (fun y => settleSets (y.framed (frameMasks s cx frame) (frameSaved s cx frame) entry (readQueue s cx frame queue))) := by
  simp only [restoreFrame, hs]
  rfl

/-- What `tret` leaves but for the barriers that lanes which end once more complete. -/
def trapReturned (s : State) (u : Nat) (cx : Context) (m : TrapMode) : State :=
  resumeCopies (restoreFrame (s.modSpan u (Span.trapOver s.time m)) cx u m.frame m.queue m.entry true) u

/-- The span's own state after `tret`, before its waits are tested. -/
def Span.trapFrame (s : State) (cx : Context) (m : TrapMode) (sp : Span) : Span :=
  (sp.trapOver s.time m).framed (frameMasks s cx m.frame) (frameSaved s cx m.frame) m.entry (readQueue s cx m.frame m.queue)

section
variable {s : State} {u : Nat} {sp : Span} {m : TrapMode} {cx : Context}

/-- Piers, works and the span itself are all that `tret` changes. -/
theorem trapReturned_eq (hs : s.span? u = some sp) : trapReturned s u cx m =
    resumeCopies ((dropLatch (s.modSpan u (Span.trapOver s.time m)) (sp.trapOver s.time m) (fun r => decide (124 ≤ r))).modSpan u
      (fun y => settleSets (y.framed (frameMasks s cx m.frame) (frameSaved s cx m.frame) m.entry (readQueue s cx m.frame m.queue)))) u := by
  have h1 : (s.modSpan u (Span.trapOver s.time m)).span? u = some (sp.trapOver s.time m) := State.span?_modSpan_same _ (fun _ => rfl) hs
  have hf := frameNat_congr (s := s) (t := s.modSpan u (Span.trapOver s.time m)) (fun _ => rfl) rfl rfl cx m.frame
  have hq := readQueue_congr (s := s) (t := s.modSpan u (Span.trapOver s.time m)) (fun _ => rfl) rfl rfl cx m.frame m.queue
  have hsaved : frameSaved (s.modSpan u (Span.trapOver s.time m)) cx m.frame = frameSaved s cx m.frame := by
    funext i l
    rw [frameSaved, frameSaved, hf]
  have hmasks : frameMasks (s.modSpan u (Span.trapOver s.time m)) cx m.frame = frameMasks s cx m.frame := by
    exact List.map_congr_left fun k _ => congrArg (BitVec.ofNat 64) (hf _ _)
  rw [trapReturned, restoreFrame_eq h1, hsaved, hmasks, hq]

theorem trapReturned_span (hs : s.span? u = some sp) : (trapReturned s u cx m).span? u = some (settleSets (sp.trapFrame s cx m)) := by
  rw [trapReturned_eq hs]
  refine State.span?_modSpan_same (s := dropLatch (s.modSpan u (Span.trapOver s.time m)) _ _) _ ?_ ?_
  · exact fun y => Span.framed_uid _ _ _ (readQueue s cx m.frame m.queue) y
  · exact State.span?_modSpan_same (Span.trapOver s.time m) (fun _ => rfl) hs

theorem trapReturned_span_ne (hs : s.span? u = some sp) {v : Nat} (hv : v ≠ u) : (trapReturned s u cx m).span? v = s.span? v := by
  rw [trapReturned_eq hs]
  refine (State.span?_modSpan_ne (dropLatch (s.modSpan u (Span.trapOver s.time m)) _ _) _ ?_ hv).trans ?_
  · exact fun y => Span.framed_uid _ _ _ (readQueue s cx m.frame m.queue) y
  · exact State.span?_modSpan_ne s (Span.trapOver s.time m) (fun _ => rfl) hv

theorem trapReturned_readLoc (hs : s.span? u = some sp) (l : Loc) : readLoc (trapReturned s u cx m) l = readLoc s l := by
  rw [trapReturned_eq hs]
  exact readLoc_congr rfl rfl rfl rfl rfl rfl rfl l

theorem returnFromTrap_eq (hs : s.span? u = some sp) (hm : sp.trap = some m) (hc : spanContext s sp = some cx) :
    returnFromTrap s u = (if m.lanes &&& sp.ended = 0#64 then trapReturned s u cx m
      else barCheckAll (trapReturned s u cx m) sp.deck ((s.deck? sp.deck).elim 0 (·.girder))) := by
  have hd : (trapReturned s u cx m).deck? sp.deck = s.deck? sp.deck := by
    rw [trapReturned_eq hs]
    rfl
  rw [← hd]
  simp only [returnFromTrap, hs, hm, hc, beq_iff_eq]
  rfl

/-- All but v124 to v127 of the span that `tret` leaves, before its waits are tested. -/
theorem trapFrame_rest (hsh : sp.Shaped) (he : m.entry.length = 4) : { sp.trapFrame s cx m with regs := sp.regs } =
    { (sp.trapOver s.time m).maskedBack (frameMasks s cx m.frame) with
      reinj := readQueue s cx m.frame m.queue, poison := sp.poison.filter (fun q => decide (q.1 < 124)) } :=
  (Span.framed_spec (x := sp.trapOver s.time m) hsh.regs he).1

/-- What does not look at the registers finds the rest of that span. -/
theorem trapFrame_same (hsh : sp.Shaped) (he : m.entry.length = 4) {α : Type} (p : Span → α) (hp : ∀ (v : Span) rs, p { v with regs := rs } = p v) :
    p (sp.trapFrame s cx m) = p { (sp.trapOver s.time m).maskedBack (frameMasks s cx m.frame) with
      reinj := readQueue s cx m.frame m.queue, poison := sp.poison.filter (fun q => decide (q.1 < 124)) } :=
  (hp _ sp.regs).symm.trans (congrArg p (trapFrame_rest hsh he))

theorem trapFrame_lane (hsh : sp.Shaped) (he : m.entry.length = 4) {l : Nat} (hl : l < sp.width) : (sp.trapFrame s cx m).lane l =
    if hasLane m.lanes l then { sp.lane l with pos := (sp.lane l).held.getD (sp.lane l).pos, held := none } else sp.lane l := by
  have hlanes : (sp.trapFrame s cx m).lanes = (sp.trapOver s.time m).lanes :=
    trapFrame_same hsh he Span.lanes fun _ _ => rfl
  rw [Span.lane, hlanes]
  exact Span.lane_modLanes { sp with trap := none, lastIssue := s.time, serial := sp.ownSerial, steps := sp.steps.or m.outer } m.lanes _ l
    (hsh.lanes ▸ hl)

/-- The masks of the frame, in the lanes that have not exited. -/
theorem trapFrame_mask (hsh : sp.Shaped) (he : m.entry.length = 4) {k : Nat} (hk : k < 12) :
    (sp.trapFrame s cx m).mask k = BitVec.ofNat 64 (frameNat s cx m.frame (0x100 + 8 * k) 8) &&& (sp.trapFrame s cx m).maskable := by
  have hmasks : (sp.trapFrame s cx m).masks = (frameMasks s cx m.frame).map (fun w => w &&& (sp.trapOver s.time m).maskable) :=
    trapFrame_same hsh he Span.masks fun _ _ => rfl
  have hmaskable : (sp.trapFrame s cx m).maskable = (sp.trapOver s.time m).maskable :=
    trapFrame_same hsh he Span.maskable fun _ _ => rfl
  rw [Span.mask, hmasks, hmaskable]
  simp [frameMasks, hk]

/-- v124 to v127 of the frame, in the layout that they had or that their values have. -/
theorem trapFrame_vreg (hsh : sp.Shaped) (he : m.entry.length = 4) :
    (∀ r < 124, (sp.trapFrame s cx m).vreg r = sp.vreg r) ∧
    ∀ i e, m.entry[i]? = some e → (sp.trapFrame s cx m).vreg (124 + i) = e.givenBack ((List.range sp.width).map (frameSaved s cx m.frame i)) :=
  (Span.framed_spec (x := sp.trapOver s.time m) hsh.regs he).2

/-- All but the lanes is what it is before the waits are tested, and what the masks may hold is too. -/
theorem settleSets_maskable (x : Span) : (settleSets x).maskable = x.maskable :=
  congrArg (fun v => v &&& ~~~x.ended) (Span.Moved.leaveIf x _).live

/-- A returned lane that waits in no membership set stands where the trap found it. -/
theorem trapFrame_settled (hsh : sp.Shaped) (he : m.entry.length = 4) {l : Nat} (hl : l < sp.width) {y : Lane}
    (hy : (sp.trapFrame s cx m).lane l = y) (hp : ∀ k, y.pos.st ≠ .waiting (.setOpen k)) (hh : y.held = none) :
    (settleSets (sp.trapFrame s cx m)).lane l = y := by
  have hlanes : (sp.trapFrame s cx m).lanes.length = (sp.trapOver s.time m).lanes.length :=
    trapFrame_same hsh he (fun x => x.lanes.length) fun _ _ => rfl
  have hlen : l < (sp.trapFrame s cx m).lanes.length := by
    rw [hlanes, Span.trapOver, Span.modLanes]
    simpa [hsh.lanes] using hl
  subst hy
  exact settleSets_lane hlen hp hh

end

theorem mem_trapReturned_works {s : State} {u : Nat} {cx : Context} {m : TrapMode} {w : Work} (hw : w ∈ (trapReturned s u cx m).works)
    (hu : w.span = u) : w.suspended = false := resumeCopies_resumed hw hu

theorem frameBit (n : Nat) : bitOf n 0 = decide (n % 2 = 1) := by
  simp [bitOf, Nat.testBit_zero]

/-! ## trap, brk and tret issue (08 R209, R210) -/

/-- A trap that is complete when it is taken leaves from what the older instructions leave. -/
theorem raiseDone_taken {s : State} {i : Instr} {c : Ctx} {cause : Nat} {code : BitVec 16} (h : Issues s i c)
    (he : exec i s = instr i false s (fun c => c.raiseDone cause code)) :
    let t : TrapInfo := { TrapInfo.at cause (code.zeroExtend 64) c.A with complete := true, past := true }
    exec i s = takeTrapFrom c.before c.s c.iss t ∧
    ∀ k, (completeOlder c.s c.u).pendingOf c.u = false → Delivers (completeOlder c.s c.u) c.iss t k →
      exec i s = .next (delivered (completeOlder c.s c.u) c.iss t k) := by
  have hrun := he.trans (instr_trap h false _ rfl (by simp [TrapInfo.at]))
  exact ⟨hrun, fun k hp hd => hrun.trans (takeTrapFrom_delivers hp hd)⟩

theorem tret_returns {s : State} {c : Ctx} {m : TrapMode} (h : Issues s .tret c ∨ PassesBy s .tret c) (hm : c.sp.trap = some m) :
    let t := completeOlder c.s c.u
    let b := completeOlder c.before c.u
    (t.pendingOf c.u = false → frameReadAsks t c.cx m.frame = none → exec .tret s = .next (returnFromTrap t c.u)) ∧
    (t.pendingOf c.u = true → exec .tret s = .next (putBack b c.iss)) ∧
    (∀ page, t.pendingOf c.u = false → frameReadAsks t c.cx m.frame = some page → exec .tret s = .next (askFor (putBack b c.iss) c.iss page)) := by
  refine ⟨fun hp ha => ?_, fun hp => ?_, fun page hp ha => ?_⟩
  all_goals
    refine (runs_always h _).trans ?_
    simp only [hm, hp]
  · simp [ha, settleRun]
  · simp [settleRun]
  · simp [ha, settleRun]

/-- Settles O37: trap and brk leave from their own causes, tret gives the frame back. -/
theorem trapInstructions : Obligations.TrapInstructions := by
  unfold Obligations.TrapInstructions
  refine ⟨⟨fun code s c h => raiseDone_taken h rfl, fun code s c h => raiseDone_taken h rfl, fun s c m => tret_returns, fun s c h ht => ?_,
    takeTrapFrom_next⟩, fun s u sp m cx hs hsh hm hc he => ?_, fun s cx frame queue i e h => ?_⟩
  · refine (runs_always h _).trans ?_
    simp only [ht]
    exact settle_illegal c c.G
  · obtain ⟨hlow, hat⟩ := trapFrame_vreg (s := s) (cx := cx) hsh he
    refine ⟨_, _, returnFromTrap_eq hs hm hc, trapReturned_span hs, ?_, fun k hk => ?_, fun i e hi hv l hl => ?_, hlow, ?_, ?_, ?_,
      fun l hl hn hh hp => ?_, fun l hl hn q hq hp => ?_, ?_, ?_, fun w hw hu => mem_trapReturned_works hw hu,
      fun v hv => trapReturned_span_ne hs hv, trapReturned_readLoc hs⟩
    · exact trapFrame_same hsh he Span.trap fun _ _ => rfl
    · rw [settleSets_maskable]
      exact trapFrame_mask hsh he hk
    · have hreg : (settleSets (sp.trapFrame s cx m)).vreg (124 + i) = _ := hat i e hi
      rw [Span.reg, hreg]
      refine (VReg.givenBack_get hv (by simpa using hl)).trans ?_
      simp
    · exact trapFrame_same hsh he Span.tags fun _ _ => rfl
    · exact trapFrame_same hsh he Span.grant fun _ _ => rfl
    · exact trapFrame_same hsh he Span.heldSlots fun _ _ => rfl
    · refine trapFrame_settled hsh he hl ?_ hp hh
      rw [trapFrame_lane hsh he hl, hn]
      rfl
    · refine trapFrame_settled hsh he hl ?_ (by exact hp) rfl
      rw [trapFrame_lane hsh he hl, if_pos hn, hq]
      rfl
    · exact trapFrame_same hsh he Span.reinj fun _ _ => rfl
    · exact trapFrame_same hsh he Span.replay fun _ _ => rfl
  · rw [readQueue_getElem? h, readEntry, frameBit]

end Sys2Proof.Machine
end


section
/-! Grace periods and deferred frees (O36; 08 R215, R217, 17 R345-R354). -/

namespace Sys2Proof.Machine

/-! ## Blocks are deferred (08 R217) -/

section
variable {c : Ctx} {a b : Reg} {g l : Nat} {t : List Nat} {q : List (DWord × Word × Nat)}

/-- The lanes with a length, which take an entry each. -/
def Ctx.longLanes (c : Ctx) (b : Reg) (ls : List Nat) : List Nat := ls.filter (fun l => c.src b l != 0#32)

theorem Ctx.defer_short (h : c.src b l = 0#32) : c.defer a b g (l :: t) q = c.defer a b g t q := by
  simp [Ctx.defer, h]

theorem Ctx.defer_room (h : c.src b l ≠ 0#32) (hq : q.length < 1024) :
    c.defer a b g (l :: t) q = c.defer a b g t (q ++ [(c.pair a l, c.src b l, g)]) := by
  simp [Ctx.defer, h, hq]

theorem Ctx.defer_full (h : c.src b l ≠ 0#32) (hq : ¬ q.length < 1024) : c.defer a b g (l :: t) q = (q, l :: t) := by
  simp [Ctx.defer, h, hq]

/-- Entries go behind the queue while there is room; the lanes from the first that finds none on are left. -/
theorem Ctx.defer_spec (c : Ctx) (a b : Reg) (g : Nat) : ∀ lanes q, q.length ≤ 1024 →
    (c.defer a b g lanes q).1 = q ++ ((c.longLanes b lanes).take (1024 - q.length)).map (fun l => (c.pair a l, c.src b l, g)) ∧
    ∃ n ≤ lanes.length, (c.defer a b g lanes q).2 = lanes.drop n ∧ (c.longLanes b (lanes.take n)).length ≤ 1024 - q.length ∧
      ∀ h : n < lanes.length, c.src b lanes[n] ≠ 0#32 ∧ (c.longLanes b (lanes.take n)).length = 1024 - q.length := by
  intro lanes
  induction lanes with
  | nil => intro q _; simp [Ctx.defer, Ctx.longLanes]
  | cons l t ih =>
    intro q hq
    by_cases hl : c.src b l = 0#32
    · obtain ⟨hput, n, hn, hleft, hle, hstop⟩ := ih q hq
      have hlong (ls : List Nat) : c.longLanes b (l :: ls) = c.longLanes b ls := by simp [Ctx.longLanes, hl]
      rw [Ctx.defer_short hl, hlong]
      refine ⟨hput, n + 1, Nat.succ_le_succ hn, hleft, ?_, fun h => ?_⟩
      · rwa [List.take_succ_cons, hlong]
      · rw [List.take_succ_cons, hlong]
        exact hstop (Nat.lt_of_succ_lt_succ h)
    · have hlong (ls : List Nat) : c.longLanes b (l :: ls) = l :: c.longLanes b ls := by simp [Ctx.longLanes, hl]
      by_cases hroom : q.length < 1024
      · obtain ⟨hput, n, hn, hleft, hle, hstop⟩ := ih (q ++ [(c.pair a l, c.src b l, g)]) (by simpa using hroom)
        have hr : 1024 - q.length = (1024 - (q ++ [(c.pair a l, c.src b l, g)]).length) + 1 := by
          rw [List.length_append, List.length_singleton]
          omega
        rw [Ctx.defer_room hl hroom, hr, hlong, List.take_succ_cons]
        refine ⟨by simpa using hput, n + 1, Nat.succ_le_succ hn, hleft, ?_, fun h => ?_⟩
        · rw [List.take_succ_cons, hlong]
          exact Nat.succ_le_succ hle
        · rw [List.take_succ_cons, hlong]
          obtain ⟨hsrc, hlen⟩ := hstop (Nat.lt_of_succ_lt_succ h)
          exact ⟨hsrc, congrArg (· + 1) hlen⟩
      · have hr : 1024 - q.length = 0 := by omega
        rw [Ctx.defer_full hl hroom, hr]
        exact ⟨by simp, 0, Nat.zero_le _, rfl, by simp [Ctx.longLanes], fun _ => ⟨hl, by simp [Ctx.longLanes]⟩⟩

end

/-! ## Requests (08 R215, 17 R347) -/

theorem gpstart_asks {d : Reg} {s t : State} {c : Ctx} (h : Issues s (.gpstart d) c)
    (hw : c.write (drain c.s c.u c.A) (pairDst d (fun _ => BitVec.ofNat 64 (c.cx.gp.started + 1))) = .ok t) :
    exec (.gpstart d) s = .next (goOn (gpRequest t c.cx.num) c.iss c.G) := by
  refine instr_done h false _ ?_
  have hw : c.write (drain c.s c.u c.A) (pairDst d (fun _ => BitVec.ofNat 64 c.cx.gp.requested)) = .ok t := hw
  rw [hw]
  rfl

theorem dfree_defers {k : BitVec 4} {a b : Reg} {s : State} {c : Ctx} (h : Issues s (.dfree k a b) c)
    (hc : ∀ l ∈ c.lanes, (c.pair a l).toNat < 2 ^ 57 ∧ deckWindow (c.pair a l).toNat = false ∧ privWindow (c.pair a l).toNat = false) :
    let r := c.defer a b (c.cx.gp.started + 1) c.lanes c.cx.deferred
    exec (.dfree k a b) s = .next (goOn (c.setBits ((gpRequest (drain c.s c.u c.A) c.cx.num).modCtx c.cx.num (fun x =>
      { x with deferred := r.1 })) k.toNat (fun l => r.2.contains l)) c.iss c.G) := by
  refine instr_done h false _ ?_
  have hchk : c.check 0x0005 c.A (fun l => decide (2 ^ 57 ≤ (c.pair a l).toNat) || deckWindow (c.pair a l).toNat ||
      privWindow (c.pair a l).toNat) (c.pair a) = .ok () := Ctx.check_ok fun l hl => by
    obtain ⟨hlow, hdeck, hpriv⟩ := hc l ((mem_lanesOf _ _).mpr hl)
    simp only [hdeck, hpriv, Bool.or_false, decide_eq_false_iff_not, Nat.not_le]
    exact hlow
  simp only [hchk]
  rfl

theorem gpRequest_ctx {s : State} {k : Nat} {cx : Context} (h : s.ctx? k = some cx) : ∃ cy, (gpRequest s k).ctx? k = some cy ∧
    (cx.gp.started = cx.gp.completed → cy.gp.started = cx.gp.started + 1 ∧ cy.gp.holders = readers s k) ∧
    (cx.gp.started ≠ cx.gp.completed → cy.gp.started = cx.gp.started ∧ cy.gp.pend = true) := by
  refine ⟨_, State.ctx?_modCtx_same h fun x => ?_, fun he => ?_, fun hn => ?_⟩
  · split <;> rfl
  · simp [he]
  · simp [hn]

/-! ## Periods complete (17 R347) -/

/-- A test of a span's waits moves its lanes at most. -/
theorem settleSpan_moves (s : State) (u : Nat) : { settleSpan s u with spans := s.spans } = s ∧ ∀ v, LanesMove v s (settleSpan s u) := by
  unfold settleSpan
  split
  · exact ⟨rfl, fun _ => .of_spans rfl⟩
  · split
    · exact ⟨rfl, fun _ => .of_spans rfl⟩
    · split
      · exact ⟨rfl, fun v => .modSpan s u fun x => .leaveIf x _⟩
      · exact ⟨rfl, fun _ => .of_spans rfl⟩

/-- A test of all waits moves lanes at most. -/
theorem settleAll_moves (s : State) : { settleAll s with spans := s.spans } = s ∧ ∀ v, LanesMove v s (settleAll s) := by
  refine List.foldlRecOn (motive := fun t : State => { t with spans := s.spans } = s ∧ ∀ v, LanesMove v s t) s.spans _
    ⟨rfl, fun _ => .of_spans rfl⟩ fun t ⟨hrest, hmove⟩ x _ => ?_
  obtain ⟨hrest', hmove'⟩ := settleSpan_moves t x.uid
  exact ⟨(congrArg (fun w : State => { w with spans := s.spans }) hrest').trans hrest, fun v => (hmove v).trans (hmove' v)⟩

theorem settleAll_ctxs (s : State) : (settleAll s).ctxs = s.ctxs := by
  have h := congrArg State.ctxs (settleAll_moves s).1
  exact h

theorem ctx?_congr {s t : State} (h : t.ctxs = s.ctxs) (n : Nat) : t.ctx? n = s.ctx? n := by
  simp only [State.ctx?, h]

/-- A context whose period completes now; the pending one starts with its holders. -/
def Context.periodOver (holders : List Nat) (now : Nat) (c : Context) : Context :=
  if c.gp.pend then
    { c with gp := { started := c.gp.completed + 2, completed := c.gp.completed + 1, pend := false, holders := holders, since := now,
                     stalled := false } }
  else { c with gp := { c.gp with completed := c.gp.completed + 1, holders := [] } }

section
variable {s : State} {n : Nat} {c : Context}

theorem gpComplete_completes (h : s.ctx? n = some c) (hopen : c.gp.completed < c.gp.started) (hleft : holdersLeft s c.gp = []) :
    ∃ t cy, exec (.gpComplete n) s = .next t ∧ t.ctx? n = some cy ∧ cy.gp.completed = c.gp.completed + 1 ∧
      (c.gp.pend = true → cy.gp.started = c.gp.completed + 2 ∧ cy.gp.pend = false ∧ cy.gp.holders = readers s n) ∧
      (c.gp.pend = false → cy.gp.started = c.gp.started) := by
  have hgo : (decide (c.gp.started ≤ c.gp.completed) || holdersLeft s c.gp != []) = false := by simp [hopen, hleft]
  have hrun : exec (.gpComplete n) s = .next (settleAll (countDev (s.modCtx n (Context.periodOver (readers s n) s.time)) 0x42 1)) := by
    show execGpComplete n s = _
    simp only [execGpComplete, h, hgo]
    rfl
  have hnum (x : Context) : (x.periodOver (readers s n) s.time).num = x.num := by
    unfold Context.periodOver
    split <;> rfl
  refine ⟨_, _, hrun, (ctx?_congr (settleAll_ctxs _) n).trans (State.ctx?_modCtx_same h hnum), ?_, fun hp => ?_, fun hp => ?_⟩
  · unfold Context.periodOver
    split <;> rfl
  · simp [Context.periodOver, hp]
  · simp [Context.periodOver, hp]

theorem gpComplete_held (h : s.ctx? n = some c) (hheld : c.gp.started ≤ c.gp.completed ∨ holdersLeft s c.gp ≠ []) :
    exec (.gpComplete n) s = .next s := by
  have hstop : (decide (c.gp.started ≤ c.gp.completed) || holdersLeft s c.gp != []) = true := by simpa using hheld
  show execGpComplete n s = _
  simp only [execGpComplete, h, hstop]
  rfl

end

/-! ## Stalls (17 R354) -/

/-- An event is recorded in its ring, or counted as lost. -/
theorem postEvent_rest (s : State) (type ctx : Nat) (payload : List Byte) : (postEvent s type ctx payload).ctxs = s.ctxs ∧
    { postEvent s type ctx payload with events := s.events, hostMem := s.hostMem, msix := s.msix, mgmt := s.mgmt } = s := by
  unfold postEvent
  dsimp only
  split <;> exact ⟨rfl, rfl⟩

theorem gpStall_reports {s : State} {n : Nat} {c : Context} (h : s.ctx? n = some c) (hopen : c.gp.completed < c.gp.started)
    (hnew : c.gp.stalled = false) (hlim : c.d.gpLimit ≠ 0) (hlate : c.gp.since + 1000 * c.d.gpLimit ≤ s.time) :
    ∃ t cy, exec (.gpStall n) s = .next t ∧ t.ctx? n = some cy ∧ cy.gp.stalled = true ∧
      t = (postEvent s 3 n (natBytes 8 (c.gp.completed + 1) ++ stallBytes s ((holdersLeft s c.gp).filterMap s.span?))).modCtx n
        (fun x => { x with gp := { x.gp with stalled := true } }) ∧
      { t with events := s.events, hostMem := s.hostMem, msix := s.msix, ctxs := s.ctxs, mgmt := s.mgmt } = s := by
  have hgo : (decide (c.gp.started ≤ c.gp.completed) || c.gp.stalled || decide (c.d.gpLimit = 0) ||
      decide (s.time < c.gp.since + 1000 * c.d.gpLimit)) = false := by simp [hopen, hnew, hlim, hlate]
  obtain ⟨hctxs, hrest⟩ := postEvent_rest s 3 n (natBytes 8 (c.gp.completed + 1) ++ stallBytes s ((holdersLeft s c.gp).filterMap s.span?))
  refine ⟨_, _, ?_, State.ctx?_modCtx_same (f := fun x => { x with gp := { x.gp with stalled := true } })
    ((ctx?_congr hctxs n).trans h) fun _ => rfl, rfl, rfl, ?_⟩
  · show execGpStall n s = _
    simp only [execGpStall, h, hgo]
    rfl
  · exact (congrArg (fun t : State => { t with ctxs := s.ctxs }) hrest)

theorem gpStall_silent {s : State} {n : Nat} {c : Context} (h : s.ctx? n = some c)
    (hno : c.gp.stalled = true ∨ c.d.gpLimit = 0 ∨ s.time < c.gp.since + 1000 * c.d.gpLimit) : exec (.gpStall n) s = .next s := by
  have hstop : (decide (c.gp.started ≤ c.gp.completed) || c.gp.stalled || decide (c.d.gpLimit = 0) ||
      decide (s.time < c.gp.since + 1000 * c.d.gpLimit)) = true := by
    rcases hno with h | h | h <;> simp [h]
  show execGpStall n s = _
  simp only [execGpStall, h, hstop]
  rfl

/-- The fold of a least element finds one, and it is least. -/
theorem foldl_least {α : Type} (key : α → Nat) : ∀ (rest : List α) (a : α),
    let x := rest.foldl (fun b y => if key y < key b then y else b) a
    x ∈ a :: rest ∧ ∀ y ∈ a :: rest, key x ≤ key y
  | [], a => by simp
  | b :: rest, a => by
    rw [List.foldl_cons]
    have hm : ∃ m, (if key b < key a then b else a) = m ∧ (m = a ∨ m = b) ∧ key m ≤ key a ∧ key m ≤ key b := by
      refine ⟨_, rfl, ?_⟩
      split
      · exact ⟨.inr rfl, by omega, le_rfl⟩
      · exact ⟨.inl rfl, le_rfl, by omega⟩
    obtain ⟨m, hm, heq, ha, hb⟩ := hm
    obtain ⟨hin, hle⟩ := foldl_least key rest m
    have hfirst := hle m List.mem_cons_self
    rw [hm]
    refine ⟨?_, fun y hy => ?_⟩
    · rcases List.mem_cons.mp hin with e | hin
      · rw [e]
        rcases heq with rfl | rfl <;> simp
      · exact List.mem_cons_of_mem _ (List.mem_cons_of_mem _ hin)
    · rcases List.mem_cons.mp hy with rfl | hy
      · exact hfirst.trans ha
      · rcases List.mem_cons.mp hy with rfl | hy
        · exact hfirst.trans hb
        · exact hle y (List.mem_cons_of_mem _ hy)

theorem DeckStatus.away_iff (x : DeckStatus) : x.away = true ↔
    x = .parked ∨ (∃ g, x = .migrating g) ∨ (∃ g, x = .saving (some g)) ∨ ∃ g, x = .moving g := by
  cases x with
  | saving g => cases g <;> simp [DeckStatus.away]
  | _ => simp [DeckStatus.away]

theorem stallBytes_first {s : State} {left : List Span} (hl : left ≠ []) (hd : ∀ x ∈ left, (s.deck? x.deck).isSome = true) :
    ∃ x ∈ left, ∃ d, s.deck? x.deck = some d ∧ (∀ y ∈ left, stallKey s x ≤ stallKey s y) ∧
      stallBytes s left =
        natBytes 4 left.length ++ natBytes 2 d.pier ++ natBytes 1 d.slot ++ natBytes 1 x.idx ++ natBytes 1 d.status.away.toNat := by
  cases left with
  | nil => exact absurd rfl hl
  | cons a rest =>
    obtain ⟨hin, hle⟩ := foldl_least (stallKey s) rest a
    obtain ⟨d, hdx⟩ := Option.isSome_iff_exists.mp (hd _ hin)
    refine ⟨_, hin, d, hdx, hle, ?_⟩
    simp only [stallBytes, hdx, Option.elim_some]
    cases d.status.away <;> rfl

/-! ## The release ring (17 R350, R351) -/

/-- A due entry moves when the ring has room and its place can be written. -/
theorem moveDue_moves {s : State} {n : Nat} {c : Context} {a : DWord} {len : Word} {g : Nat} {rest : List (DWord × Word × Nat)} {loc : Loc}
    (h : s.ctx? n = some c) (hd : c.deferred = (a, len, g) :: rest) (hdue : g ≤ c.gp.completed) (hroom : ringFull s c = false)
    (hat : translate s c false .write (relAddr s c) = .ok loc 0) (k : Nat) :
    moveDue (k + 1) s n = moveDue k ((writeLocs (writeLocs s loc
      (natBytes 8 a.toNat ++ natBytes 4 len.toNat ++ natBytes 4 g)) (.dev (c.desc + 0x070)) (natBytes 4 ((relWr s c + 1) % 2 ^ 32))).modCtx n
      (fun c => { c with deferred := rest, relFault := false })) n := by
  have hgo : (decide (c.gp.completed < g) || ringFull s c) = false := by simp [hdue, hroom]
  rw [moveDue]
  simp only [h, hd, hgo, hat]
  rfl

/-- Settles O36: what a request leaves, what deferring takes, and what the engine does with a period. -/
theorem gracePeriods : Obligations.GracePeriods := by
  unfold Obligations.GracePeriods
  refine ⟨⟨fun d s c t h => gpstart_asks h, fun k a b s c h => dfree_defers h, fun c a b g lanes q => c.defer_spec a b g lanes q,
    fun s k cx h => gpRequest_ctx h⟩, fun s u sp hs hq => ⟨fun hz => ?_, fun hz => ?_⟩, fun s n c h => gpComplete_completes h,
    fun s n c h => gpComplete_held h, fun s n c h => gpStall_reports h, fun s left hl hd => ?_, fun s n c h => gpStall_silent h,
    fun s n c h hf => ?_, fun s n => rfl, fun s n c a len g rest loc h => moveDue_moves h⟩
  · obtain ⟨hspan, -⟩ := observeQuiet_spec hs hq hz
    refine ⟨_, _, rfl, hspan, rfl, fun c hc => ?_⟩
    rw [observeQuiet_quiet hs hq hz] at hc
    obtain ⟨c', -, rfl⟩ := List.mem_map.mp hc
    simp
  · show execGpQuiescenceChange u s = _
    simp [execGpQuiescenceChange, observeQuiet, hs, hq, hz]
  · obtain ⟨x, hx, d, hdx, hle, hb⟩ := stallBytes_first hl hd
    exact ⟨x, hx, d, hdx, hle, d.status.away, d.status.away_iff, hb⟩
  · show execDfreeRelease n s = _
    simp [execDfreeRelease, h, hf]

end Sys2Proof.Machine
end


section
/-! The spawn unit (O46; 08 R207, 14 R286-R288): the statement bounds an empty overflow ring by its own counts, and the row by the number of
its context. -/

namespace Sys2Proof.Machine

/-- One of two contexts numbered 1: its overflow ring holds one entry's origin, and the counts say whether the entry counts. -/
def twin (tail : Nat) : Context :=
  { fetchContext 1 with
    ovfTail := tail
    ovfIssue := [⟨7, 3, 3, 1, 0⟩]
    d := { (fetchContext 1).d with ovfBase := 2 ^ 30 + 4096, ovfCount := 1, ptroot := 0 } }

/-- The first has an empty ring, the second an entry of queue 0 that can be read: the second GiB of addresses is the device's first. -/
def twins : State :=
  { State.reset with
    mem := ⟨[(0, 0x01#8), (8, 0x11#8)]⟩
    ctxs := [twin 0, twin 1]
    launches := [fetchLaunch 1 1 0] }

/-- The row finds the first holder, whose ring is empty, and moves an item all the same. -/
theorem twins_drained : ∃ t, exec (.overflowDrain 0 1) twins = .next t ∧ (t.seg 0).spawnQ.length = 1 := ⟨_, rfl, by decide⟩

/-- Refutes O46: where two contexts carry one number, the row of the first drains its empty ring on the second's entry. -/
theorem not_spawnUnitRows : ¬ Obligations.SpawnUnitRows := by
  unfold Obligations.SpawnUnitRows
  rintro ⟨-, -, -, -, -, hempty, -⟩
  have hsame : exec (.overflowDrain 0 1) twins = .next twins := hempty twins 0 1 (twin 0) rfl (.inl rfl)
  obtain ⟨t, hrun, hlen⟩ := twins_drained
  have ht : twins = t := Host.Outcome.next.inj (hsame.symm.trans hrun)
  rw [← ht] at hlen
  exact absurd hlen (by decide)

end Sys2Proof.Machine
end


section
/-! Spawns (O34; 08 R207, 14 R286). -/

namespace Sys2Proof.Machine

/-! ## An item is offered (14 R286) -/

/-- Counts leave the queues as they are. -/
theorem countSeg_spawnQ (s : State) (k src n j : Nat) : ((countSeg s k src n).seg j).spawnQ = (s.seg j).spawnQ :=
  State.seg_modSeg_keeps Seg.spawnQ s k (fun g => let r := countList src n g.cnt g.sel; { g with cnt := r.1, sel := r.2 }) (fun _ => rfl) j

theorem countSeg_segs (s : State) (k src n : Nat) : (countSeg s k src n).segs.length = s.segs.length := List.length_modify ..

theorem spawnQ_modSeg {s : State} {k : Nat} (hk : k < s.segs.length) (f : List Item → List Item) :
    ((s.modSeg k (fun g => { g with spawnQ := f g.spawnQ })).seg k).spawnQ = f (s.seg k).spawnQ := by
  simp [State.seg, State.modSeg, hk]

section
variable {s : State} {k ctx : Nat} {it : Item}

/-- While the segment's queue has room the item goes to its end. -/
theorem offerItem_queued (hk : k < s.segs.length) (hroom : (s.seg k).spawnQ.length < 4096) :
    ∃ t, offerItem s k ctx it = some t ∧ (t.seg k).spawnQ = (s.seg k).spawnQ ++ [it] ∧ t.segs.length = s.segs.length :=
  ⟨_, if_pos hroom, (countSeg_spawnQ ..).trans (spawnQ_modSeg hk (· ++ [it])), (countSeg_segs ..).trans (List.length_modify ..)⟩

/-- The bytes of an overflow entry (14 R286). -/
def ringEntry (it : Item) (l : Launch) : List Byte :=
  natBytes 8 it.entry ++ it.payload.flatMap (fun w => natBytes 4 w.toNat) ++ natBytes 2 l.queue ++ natBytes 4 l.rdidx ++ natBytes 2 0

/-- What the ring holds once the entry's bytes are written. -/
def ringed (b : State) (k ctx : Nat) (it : Item) : State :=
  (countSeg b k 0x26 1).modCtx ctx (fun c =>
    { c with ovfTail := c.ovfTail + 1, ovfIssue := c.ovfIssue ++ [⟨it.issue, it.lane, it.deck, it.launch, k⟩] })

/-- With a full queue it is the overflow ring that takes the item, while that has room and can be written. -/
theorem offerItem_full {cx : Context} {l : Launch} (hfull : 4096 ≤ (s.seg k).spawnQ.length) (hc : s.ctx? ctx = some cx)
    (hl : s.launch? it.launch = some l) : offerItem s k ctx it = if cx.d.ovfCount ≤ cx.ovfTail - cx.ovfHead then none else
      (ctxWrite s cx (cx.d.ovfBase + 32 * (cx.ovfTail % cx.d.ovfCount)) (ringEntry it l)).map (ringed · k ctx it) := by
  rw [offerItem, if_neg (Nat.not_lt.mpr hfull)]
  simp only [hc, hl, Option.bind_eq_bind, Option.bind_some]
  split
  · rfl
  · rw [Option.map_eq_bind]
    rfl

/-- An entry's write leaves all but bytes. -/
theorem ctxWrite_memless {cx : Context} {va : Nat} {bs : List Byte} {b : State} (h : ctxWrite s cx va bs = some b) : b.memless = s.memless := by
  unfold ctxWrite at h
  split at h
  · cases h
    exact writeLocs_memless _ bs
  · cases h

theorem ringed_spec {cx : Context} {b : State} (hm : b.memless = s.memless) (hc : s.ctx? ctx = some cx) :
    (∀ o, readLoc (ringed b k ctx it) o = readLoc b o) ∧ (∀ j, ((ringed b k ctx it).seg j).spawnQ = (s.seg j).spawnQ) ∧
    (ringed b k ctx it).ctx? ctx =
      some { cx with ovfTail := cx.ovfTail + 1, ovfIssue := cx.ovfIssue ++ [⟨it.issue, it.lane, it.deck, it.launch, k⟩] } := by
  have hctxs : b.ctxs = s.ctxs := by
    have h := congrArg State.ctxs hm
    exact h
  have hsegs : b.segs = s.segs := by
    have h := congrArg State.segs hm
    exact h
  refine ⟨fun o => readLoc_congr rfl rfl rfl rfl rfl rfl rfl o, fun j => ?_, ?_⟩
  · exact (countSeg_spawnQ b k 0x26 1 j).trans (by rw [State.seg, State.seg, hsegs])
  · exact State.ctx?_modCtx_same (s := countSeg b k 0x26 1) ((ctx?_congr hctxs ctx).trans hc) fun _ => rfl

end

/-! ## The items of a spawn are offered in order (08 R207) -/

section
variable {c : Ctx} {e p : Reg} {issue l : Nat} {t : List Nat} {s u : State}

theorem Ctx.offerAll_taken (h : offerItem s (segOf c.deck.pier) c.cx.num (c.item e p issue l) = some u) :
    c.offerAll e p issue (l :: t) s = c.offerAll e p issue t u := by
  simp [Ctx.offerAll, h]

theorem Ctx.offerAll_failed (h : offerItem s (segOf c.deck.pier) c.cx.num (c.item e p issue l) = none) :
    c.offerAll e p issue (l :: t) s = (s, l :: t) := by
  simp [Ctx.offerAll, h]

/-- The lanes before the first that fails are accepted, in order; it and all higher ones are left. -/
theorem Ctx.offerAll_spec (c : Ctx) (e p : Reg) (issue : Nat) : ∀ (lanes : List Nat) (s : State),
    let r := c.offerAll e p issue lanes s
    ∃ n ≤ lanes.length, r.2 = lanes.drop n ∧
      (∀ h : n < lanes.length, offerItem r.1 (segOf c.deck.pier) c.cx.num (c.item e p issue lanes[n]) = none) ∧
      (lanes.take n).foldlM (fun s l => offerItem s (segOf c.deck.pier) c.cx.num (c.item e p issue l)) s = some r.1 := by
  intro lanes
  induction lanes with
  | nil => exact fun s => ⟨0, le_rfl, rfl, fun h => absurd h (Nat.lt_irrefl 0), rfl⟩
  | cons l t ih =>
    intro s
    cases h : offerItem s (segOf c.deck.pier) c.cx.num (c.item e p issue l) with
    | some u =>
      obtain ⟨n, hn, hleft, hfail, hdone⟩ := ih u
      rw [Ctx.offerAll_taken h]
      refine ⟨n + 1, Nat.succ_le_succ hn, hleft, fun hlt => hfail (Nat.lt_of_succ_lt_succ hlt), ?_⟩
      rw [List.take_succ_cons, List.foldlM_cons, h]
      exact hdone
    | none =>
      rw [Ctx.offerAll_failed h]
      exact ⟨0, Nat.zero_le _, rfl, fun _ => h, rfl⟩

/-- With room in the queue for all, all are accepted. -/
theorem Ctx.offerAll_room (c : Ctx) (e p : Reg) (issue : Nat) : ∀ (lanes : List Nat) (s : State), segOf c.deck.pier < s.segs.length →
    (s.seg (segOf c.deck.pier)).spawnQ.length + lanes.length ≤ 4096 →
    let r := c.offerAll e p issue lanes s
    r.2 = [] ∧ (r.1.seg (segOf c.deck.pier)).spawnQ = (s.seg (segOf c.deck.pier)).spawnQ ++ lanes.map (c.item e p issue) := by
  intro lanes
  induction lanes with
  | nil => exact fun s _ _ => ⟨rfl, (List.append_nil _).symm⟩
  | cons l t ih =>
    intro s hk hroom
    rw [List.length_cons] at hroom
    obtain ⟨u, hu, hq, hsegs⟩ := offerItem_queued (ctx := c.cx.num) (it := c.item e p issue l) hk (by omega)
    obtain ⟨hall, hput⟩ := ih u (hsegs ▸ hk) (by rw [hq, List.length_append, List.length_singleton]; omega)
    rw [Ctx.offerAll_taken hu]
    exact ⟨hall, by rw [hput, hq, List.append_assoc, List.map_cons, List.singleton_append]⟩

/-- Entries that are good targets pass, where no page of the ring has to be asked for. -/
theorem Ctx.entries_ok (hg : ∀ l ∈ c.lanes, goodTarget (c.pair e l)) (hr : ringAsks c.s (segOf c.deck.pier) c.cx c.lanes.length = none) :
    c.entries e = .ok () := by
  have htargets : c.targets c.A (c.pair e) = .ok () := targets_ok hg
  refine (bind_assoc _ _ _).symm.trans ?_
  show (c.targets c.A (c.pair e) >>= fun _ => _) = _
  rw [htargets, hr]
  rfl

theorem spawn_offers (h : Issues s (.spawn e p) c) (hg : ∀ l ∈ c.lanes, goodTarget (c.pair e l))
    (hr : ringAsks c.s (segOf c.deck.pier) c.cx c.lanes.length = none) :
    let r := c.offerAll e p c.s.fresh c.lanes { drain c.s c.u c.A with fresh := c.s.fresh + 1 }
    exec (.spawn e p) s = .next (if r.2 = [] then goOn r.1 c.iss c.G else hold r.1 c.iss c.G (fun l =>
      .spawn (c.pair e l).toNat ((four p).map (fun q => c.regVal q l)) c.s.fresh (!r.2.contains l))) := by
  refine (instr_runs h false _).trans ?_
  simp only [Ctx.entries_ok hg hr, beq_iff_eq]
  show settleRun c (if _ then _ else _) = _
  split
  · rfl
  · rfl

theorem spawnTry_offers {k : BitVec 4} (h : Issues s (.spawnTry e p k) c) (hg : ∀ l ∈ c.lanes, goodTarget (c.pair e l))
    (hr : ringAsks c.s (segOf c.deck.pier) c.cx c.lanes.length = none) :
    let r := c.offerAll e p c.s.fresh c.lanes { drain c.s c.u c.A with fresh := c.s.fresh + 1 }
    exec (.spawnTry e p k) s = .next (goOn (c.setBits r.1 k.toNat (fun l => r.2.contains l)) c.iss c.G) := by
  refine instr_done h false _ ?_
  simp only [Ctx.entries_ok hg hr]
  rfl

end

/-- Settles O34: what a spawn offers, what is accepted of it, and where an item goes. -/
theorem spawnsOfferItems : Obligations.SpawnsOfferItems := by
  unfold Obligations.SpawnsOfferItems
  refine ⟨fun e p s c h => spawn_offers h, fun e p k s c h => spawnTry_offers h, fun c e p issue lanes s =>
    ⟨c.offerAll_spec e p issue lanes s, c.offerAll_room e p issue lanes s⟩, fun s k ctx it hk hroom => ?_,
    fun s k ctx it cx l hfull hc hl => ⟨fun hring => ?_, fun hring => ⟨fun hw => ?_, fun b hw => ?_⟩⟩⟩
  · obtain ⟨t, ht, hq, -⟩ := offerItem_queued (ctx := ctx) (it := it) hk hroom
    exact ⟨t, ht, hq⟩
  · rw [offerItem_full hfull hc hl, if_pos hring]
  · rw [offerItem_full hfull hc hl, if_neg (Nat.not_le.mpr hring)]
    exact congrArg (Option.map (ringed · k ctx it)) hw
  · refine ⟨_, ?_, ringed_spec (ctxWrite_memless hw) hc⟩
    rw [offerItem_full hfull hc hl, if_neg (Nat.not_le.mpr hring)]
    exact congrArg (Option.map (ringed · k ctx it)) hw

end Sys2Proof.Machine
end


section
/-! Saving and restoring the matrix unit (O33; 08 R205, 21 R382). -/

namespace Sys2Proof.Machine

/-! ## Lists of cells -/

theorem readCells_append_of_right {a : Nat} {r : List Host.Cell} (h : ∀ x ∈ r, x.1 ≠ a) : ∀ l, readCells (l ++ r) a = readCells l a
  | [] => by
    induction r with
    | nil => rfl
    | cons x r ih => simpa [readCells, h x List.mem_cons_self] using ih fun y hy => h y (List.mem_cons_of_mem _ hy)
  | x :: l => by simp [readCells, readCells_append_of_right h l]

theorem readCells_append_of_left {a : Nat} {r : List Host.Cell} : ∀ {l : List Host.Cell}, (∀ x ∈ l, x.1 ≠ a) →
    readCells (l ++ r) a = readCells r a
  | [], _ => rfl
  | x :: l, h => by
    simpa [readCells, h x List.mem_cons_self] using readCells_append_of_left (r := r) fun y hy => h y (List.mem_cons_of_mem _ hy)

/-- The cells of a range of addresses read as the whole list does there. -/
theorem readCells_filter {p : Nat → Bool} {a : Nat} (hp : p a = true) : ∀ l : List Host.Cell, readCells (l.filter (fun x => p x.1)) a = readCells l a
  | [] => rfl
  | (k, v) :: l => by
    by_cases hk : k = a
    · simp [readCells, hk, hp]
    · cases hpk : p k <;> simp [readCells, hk, hpk, readCells_filter hp l]

/-- The cells that lie on page i of an array. -/
def onPage (l : List Host.Cell) (i : Nat) : List Host.Cell := l.filter (fun x => decide (4096 * i ≤ x.1) && decide (x.1 < 4096 * i + 4096))

theorem onPage_keys {l : List Host.Cell} {i : Nat} {x : Host.Cell} (h : x ∈ onPage l i) : x.1 / 4096 = i := by
  have hx := (List.mem_filter.mp h).2
  rw [Bool.and_eq_true, decide_eq_true_eq, decide_eq_true_eq] at hx
  omega

/-- An array's pages, put together, read as the array. -/
theorem readCells_pages (l : List Host.Cell) (o : Nat) : ∀ n, o < 4096 * n → readCells ((List.range n).flatMap (onPage l)) o = readCells l o
  | 0, h => absurd h (Nat.not_lt_zero o)
  | n + 1, h => by
    rw [List.range_succ, List.flatMap_append, List.flatMap_singleton]
    by_cases hn : o < 4096 * n
    · rw [readCells_append_of_right fun x hx e => ?_, readCells_pages l o n hn]
      have := onPage_keys hx
      omega
    · rw [readCells_append_of_left fun x hx e => ?_]
      · exact readCells_filter (p := fun k => decide (4096 * n ≤ k) && decide (k < 4096 * n + 4096)) (by simp; omega) l
      · obtain ⟨i, hi, hx⟩ := List.mem_flatMap.mp hx
        have := onPage_keys hx
        have := List.mem_range.mp hi
        omega

/-- Cells that list a byte string's nonzero bytes from address n on. -/
def listed (bytes : List Byte) (n : Nat) : List Host.Cell := ((bytes.zipIdx n).map (fun x => (x.2, x.1))).filter (fun x => x.2 != 0#8)

theorem readCells_listed (o : Nat) : ∀ (bytes : List Byte) (n : Nat), readCells (listed bytes n) o = if n ≤ o then bytes.getD (o - n) 0#8 else 0#8
  | [], n => by simp [listed, readCells]
  | b :: bytes, n => by
    have ih := readCells_listed o bytes (n + 1)
    have hcons : listed (b :: bytes) n = if b = 0#8 then listed bytes (n + 1) else (n, b) :: listed bytes (n + 1) := by
      by_cases hb : b = 0#8 <;> simp [listed, hb]
    have hread : readCells (listed (b :: bytes) n) o = if n = o then b else readCells (listed bytes (n + 1)) o := by
      rw [hcons]
      by_cases hb : b = 0#8
      · by_cases hn : n = o
        · rw [if_pos hb, ih, if_neg (by omega), if_pos hn, hb]
        · rw [if_pos hb, if_neg hn]
      · rw [if_neg hb]
        rfl
    rw [hread, ih]
    rcases Nat.lt_trichotomy o n with h | h | h
    · rw [if_neg (by omega), if_neg (by omega), if_neg (by omega)]
    · subst h
      simp
    · rw [if_neg (by omega), if_pos (by omega), if_pos (by omega), show o - n = o - (n + 1) + 1 by omega, List.getD_cons_succ]

theorem mem_listed {bytes : List Byte} {x : Host.Cell} (h : x ∈ listed bytes 0) : bytes[x.1]? = some x.2 ∧ x.2 ≠ 0#8 := by
  obtain ⟨hx, hne⟩ := List.mem_filter.mp h
  obtain ⟨y, hy, rfl⟩ := List.mem_map.mp hx
  exact ⟨List.mem_zipIdx_iff_getElem?.mp hy, bne_iff_ne.mp hne⟩

/-! ## Bits of a mask -/

/-- The number whose bits below n are given. -/
theorem testBit_sum (p : Nat → Bool) : ∀ n, ((List.range n).map (fun m => if p m then 2 ^ m else 0)).sum < 2 ^ n ∧
    ∀ m, ((List.range n).map (fun m => if p m then 2 ^ m else 0)).sum.testBit m = (decide (m < n) && p m)
  | 0 => by simp
  | n + 1 => by
    obtain ⟨hlt, hbit⟩ := testBit_sum p n
    have hsum : ((List.range (n + 1)).map (fun m => if p m then 2 ^ m else 0)).sum =
        2 ^ n * (p n).toNat + ((List.range n).map (fun m => if p m then 2 ^ m else 0)).sum := by
      rw [List.range_succ, List.map_append, List.sum_append]
      cases hp : p n <;> simp [hp, Nat.add_comm]
    rw [hsum]
    refine ⟨?_, fun m => ?_⟩
    · have := (p n).toNat_le
      have := Nat.mul_le_mul_left (2 ^ n) this
      omega
    · rw [Nat.testBit_two_pow_mul_add _ hlt, hbit]
      by_cases hm : m < n
      · simp [hm, Nat.lt_succ_of_lt hm]
      · rw [if_neg hm]
        by_cases he : m = n
        · subst he
          cases p m <;> simp
        · have hz : Nat.testBit 1 (m - n) = false := Nat.testBit_lt_two_pow (Nat.one_lt_two_pow (by omega))
          cases p n <;> simp [show ¬ m < n + 1 by omega, hz]

theorem validMask_lt (u : Matrix) (k : Nat) : u.validMask k < 2 ^ 16 :=
  (testBit_sum (fun m => u.valid.getD (16 * k + m) 0#64 == BitVec.allOnes 64) 16).1

theorem validMask_testBit (u : Matrix) (k m : Nat) (hm : m < 16) :
    (u.validMask k).testBit m = (u.valid.getD (16 * k + m) 0#64 == BitVec.allOnes 64) := by
  have h := (testBit_sum (fun m => u.valid.getD (16 * k + m) 0#64 == BitVec.allOnes 64) 16).2 m
  rwa [decide_eq_true hm, Bool.true_and] at h

/-! ## Images (08 R205) -/

/-- A byte of an image's header. -/
def headNat (pages : Nat → List Host.Cell) (o : Nat) : Nat := (readCells (pages 0) o).toNat
/-- Row i's plane count of an image: half a byte of its header. -/
def headRow (pages : Nat → List Host.Cell) (i : Nat) : Nat :=
  if i % 2 = 0 then headNat pages (16 + i / 2) % 16 else headNat pages (16 + i / 2) / 16
/-- A page of an image, at its place in an array. -/
def shifted (pages : Nat → List Host.Cell) (lo i : Nat) : List Host.Cell := (pages i).map (fun x => (x.1 + lo, x.2))

/-- An image whose header is not well formed. -/
def badHeader (pages : Nat → List Host.Cell) : Bool :=
  headNat pages 4 == 6 || decide (7 < headNat pages 4) || headNat pages 5 == 1 || decide (8 < headNat pages 5) ||
    ((List.range 96).map (headRow pages)).any (fun p => p == 1 || decide (8 < p)) ||
    (pages 0).any (fun x => (decide (6 ≤ x.1) && decide (x.1 < 16)) || decide (64 ≤ x.1))

/-- The unit that an image holds. -/
def unitFrom (pages : Nat → List Host.Cell) : Matrix :=
  { weights := ⟨(List.range 32).flatMap (fun i => shifted pages (4096 * i) (i + 1))⟩
    valid := (List.range 32).map (fun i =>
      if (headNat pages (2 * (i / 16)) + 256 * headNat pages (2 * (i / 16) + 1)).testBit (i % 16) then BitVec.allOnes 64 else 0#64)
    arr := if headNat pages 4 = 7 then none else some (headNat pages 4)
    planes := headNat pages 5
    rows := ⟨(List.range 24).flatMap (fun i => shifted pages (4096 * i) (i + 33))⟩
    pa := (List.range 96).map (headRow pages)
    poisonW := []
    poisonR := [] }

theorem unitOfImage_eq (pages : Nat → List Host.Cell) : unitOfImage pages = if badHeader pages then none else some (unitFrom pages) := rfl

theorem unitFrom_header (pages : Nat → List Host.Cell) :
    (unitFrom pages).arr = (if headNat pages 4 = 7 then none else some (headNat pages 4)) ∧ (unitFrom pages).planes = headNat pages 5 ∧
    (unitFrom pages).pa = (List.range 96).map (headRow pages) ∧ (unitFrom pages).poisonW = [] ∧ (unitFrom pages).poisonR = [] :=
  ⟨rfl, rfl, rfl, rfl, rfl⟩

/-- The pages of a unit's image. -/
def imagePages (u : Matrix) (i : Nat) : List Host.Cell := if i < 57 then imagePage u i else []

/-- The bytes of the header that a unit's image opens with. -/
def headBytes (u : Matrix) : List Byte :=
  natBytes 2 (u.validMask 0) ++ natBytes 2 (u.validMask 1) ++ natBytes 1 (u.arr.getD 7) ++ natBytes 1 u.planes ++
    List.replicate 10 0#8 ++ (List.range 48).map (fun k => BitVec.ofNat 8 (u.pa.getD (2 * k) 0 + 16 * u.pa.getD (2 * k + 1) 0))

theorem imagePages_head (u : Matrix) : imagePages u 0 = listed (headBytes u) 0 := if_pos (by decide)

theorem headNat_eq (u : Matrix) (o : Nat) : headNat (imagePages u) o = ((headBytes u).getD o 0#8).toNat := by
  rw [headNat, imagePages_head, readCells_listed, if_pos (Nat.zero_le o), Nat.sub_zero]

theorem headBytes_length (u : Matrix) : (headBytes u).length = 64 := by simp [headBytes, natBytes]

theorem headNat_valid (u : Matrix) {k : Nat} (hk : k < 2) :
    headNat (imagePages u) (2 * k) + 256 * headNat (imagePages u) (2 * k + 1) = u.validMask k := by
  have hsum (v : Nat) (hv : v < 2 ^ 16) : v % 256 + 256 * (v / 256 % 256) = v := by omega
  obtain rfl | rfl : k = 0 ∨ k = 1 := by omega
  · simpa [headNat_eq, headBytes, natBytes] using hsum _ (validMask_lt u 0)
  · simpa [headNat_eq, headBytes, natBytes] using hsum _ (validMask_lt u 1)

theorem headNat_code (u : Matrix) : headNat (imagePages u) 4 = u.arr.getD 7 % 256 := by simp [headNat_eq, headBytes, natBytes]
theorem headNat_planes (u : Matrix) : headNat (imagePages u) 5 = u.planes % 256 := by simp [headNat_eq, headBytes, natBytes]

theorem headNat_rows (u : Matrix) {k : Nat} (hk : k < 48) :
    headNat (imagePages u) (16 + k) = (u.pa.getD (2 * k) 0 + 16 * u.pa.getD (2 * k + 1) 0) % 256 := by
  rw [headNat_eq, headBytes, List.getD_append_right _ _ _ _ (by simp [natBytes])]
  simp [natBytes, hk]

/-- Bytes 6 to 15 of the header are zero, and nothing lies past byte 63. -/
theorem imagePages_head_keys {u : Matrix} {x : Host.Cell} (h : x ∈ imagePages u 0) : ¬ (6 ≤ x.1 ∧ x.1 < 16) ∧ x.1 < 64 := by
  obtain ⟨hx, hne⟩ := mem_listed (imagePages_head u ▸ h)
  obtain ⟨hlt, hat⟩ := List.getElem?_eq_some_iff.mp hx
  refine ⟨fun ⟨hlo, hhi⟩ => hne ?_, headBytes_length u ▸ hlt⟩
  have hz : (headBytes u)[x.1]? = some 0#8 := by
    rw [headBytes, List.getElem?_append_left (by simp [natBytes]; omega), List.getElem?_append_right (by simp [natBytes]; omega),
      List.getElem?_replicate]
    simp [natBytes]
    omega
  exact Option.some.inj (hx.symm.trans hz)

/-! ## A unit comes back from its image (08 R205) -/

/-- The planes of a row, or of the unit: none, or 2 to 8. -/
def planesOk (p : Nat) : Prop := p = 0 ∨ (2 ≤ p ∧ p ≤ 8)

section
variable {u : Matrix}

theorem headRow_eq (hpa : ∀ i, planesOk (u.pa.getD i 0)) {i : Nat} (hi : i < 96) : headRow (imagePages u) i = u.pa.getD i 0 := by
  have hle (j : Nat) : u.pa.getD j 0 ≤ 8 := by rcases hpa j with h | h <;> omega
  have h0 := hle (2 * (i / 2))
  have h1 := hle (2 * (i / 2) + 1)
  rw [headRow, headNat_rows u (k := i / 2) (by omega)]
  by_cases he : i % 2 = 0
  · have hi : 2 * (i / 2) = i := by omega
    rw [hi] at h0 h1 ⊢
    rw [if_pos he]
    omega
  · have hi : 2 * (i / 2) + 1 = i := by omega
    rw [hi] at h1 ⊢
    rw [if_neg he]
    omega

theorem headRows_eq (hpa : ∀ i, planesOk (u.pa.getD i 0)) (hlen : u.pa.length = 96) : (List.range 96).map (headRow (imagePages u)) = u.pa := by
  refine List.ext_getElem (by simp [hlen]) fun i hi hi' => ?_
  rw [List.getElem_map, List.getElem_range, headRow_eq hpa (hlen ▸ hi'), List.getD_eq_getElem _ _ hi']

theorem headPlanes_eq (hp : planesOk u.planes) : headNat (imagePages u) 5 = u.planes := by
  rw [headNat_planes]
  rcases hp with h | h <;> omega

/-- The header of a unit's image is well formed. -/
theorem badHeader_image (ha : ∀ k, u.arr = some k → k < 6) (hp : planesOk u.planes) (hpa : ∀ i, planesOk (u.pa.getD i 0))
    (hlen : u.pa.length = 96) : badHeader (imagePages u) = false := by
  have hcode : headNat (imagePages u) 4 < 6 ∨ headNat (imagePages u) 4 = 7 := by
    rw [headNat_code]
    cases harr : u.arr with
    | none => exact .inr rfl
    | some k => exact .inl (Nat.lt_of_le_of_lt (Nat.mod_le ..) (ha k harr))
  have hrows : u.pa.any (fun p => p == 1 || decide (8 < p)) = false := by
    rw [List.any_eq_false]
    intro p hm
    obtain ⟨i, hi, rfl⟩ := List.mem_iff_getElem.mp hm
    rcases List.getD_eq_getElem _ 0 hi ▸ hpa i with h | h <;> simp <;> omega
  have hkeys : (imagePages u 0).any (fun x => (decide (6 ≤ x.1) && decide (x.1 < 16)) || decide (64 ≤ x.1)) = false := by
    rw [List.any_eq_false]
    intro x hx
    obtain ⟨hgap, hlt⟩ := imagePages_head_keys hx
    simp
    omega
  rw [badHeader, headRows_eq hpa hlen, hrows, hkeys, headPlanes_eq hp]
  have h6 : headNat (imagePages u) 4 ≠ 6 := by omega
  have h7 : headNat (imagePages u) 4 ≤ 7 := by omega
  rcases hp with h | h <;> simp [h6, h7] <;> omega

theorem shifted_back (l : List Host.Cell) (i : Nat) :
    ((onPage l i).map (fun x => (x.1 - 4096 * i, x.2))).map (fun x => (x.1 + 4096 * i, x.2)) = onPage l i := by
  rw [List.map_map]
  refine (List.map_congr_left fun x hx => ?_).trans (List.map_id _)
  have := onPage_keys hx
  exact Prod.ext (by dsimp only [Function.comp, id]; omega) rfl

theorem unitFrom_weights {o : Nat} (h : o < 131072) : (unitFrom (imagePages u)).weights.read o = u.weights.read o := by
  have hpage : ∀ i ∈ List.range 32, shifted (imagePages u) (4096 * i) (i + 1) = onPage u.weights.cells i := fun i hi => by
    have hi := List.mem_range.mp hi
    rw [shifted, imagePages, if_pos (by omega), imagePage, if_neg (by omega), if_pos (by omega), Nat.add_sub_cancel]
    exact shifted_back u.weights.cells i
  rw [Memory.read, unitFrom, List.flatMap_congr hpage]
  exact readCells_pages u.weights.cells o 32 h

theorem unitFrom_rows {o : Nat} (h : o < 98304) : (unitFrom (imagePages u)).rows.read o = u.rows.read o := by
  have hpage : ∀ i ∈ List.range 24, shifted (imagePages u) (4096 * i) (i + 33) = onPage u.rows.cells i := fun i hi => by
    have hi := List.mem_range.mp hi
    rw [shifted, imagePages, if_pos (by omega), imagePage, if_neg (by omega), if_neg (by omega), Nat.add_sub_cancel]
    exact shifted_back u.rows.cells i
  rw [Memory.read, unitFrom, List.flatMap_congr hpage]
  exact readCells_pages u.rows.cells o 24 h

theorem unitFrom_valid {i : Nat} (h : i < 32) : (unitFrom (imagePages u)).valid.getD i 0#64 =
    if u.valid.getD i 0#64 = BitVec.allOnes 64 then BitVec.allOnes 64 else 0#64 := by
  have hbank : 16 * (i / 16) + i % 16 = i := Nat.div_add_mod i 16
  rw [unitFrom, List.getD_eq_getElem _ _ (by simpa using h), List.getElem_map, List.getElem_range, headNat_valid u (by omega),
    validMask_testBit u _ _ (by omega), hbank]
  simp only [beq_iff_eq]

theorem unitFrom_arr (ha : ∀ k, u.arr = some k → k < 6) : (unitFrom (imagePages u)).arr = u.arr := by
  rw [(unitFrom_header (imagePages u)).1, headNat_code]
  cases harr : u.arr with
  | none => rfl
  | some k =>
    have := ha k harr
    rw [Option.getD_some, if_neg (by omega), Nat.mod_eq_of_lt (by omega)]

/-- The image of a unit restores it (08 R205). -/
theorem image_restores (ha : ∀ k, u.arr = some k → k < 6) (hp : planesOk u.planes) (hlen : u.pa.length = 96) (hpa : ∀ p ∈ u.pa, planesOk p) :
    ∃ m, unitOfImage (imagePages u) = some m ∧ m.arr = u.arr ∧ m.planes = u.planes ∧ m.pa = u.pa ∧
      (∀ o < 131072, m.weights.read o = u.weights.read o) ∧ (∀ o < 98304, m.rows.read o = u.rows.read o) ∧
      (∀ i < 32, m.valid.getD i 0#64 = if u.valid.getD i 0#64 = BitVec.allOnes 64 then BitVec.allOnes 64 else 0#64) ∧
      m.poisonW = [] ∧ m.poisonR = [] := by
  have hpa (i : Nat) : planesOk (u.pa.getD i 0) := by
    by_cases hi : i < u.pa.length
    · exact List.getD_eq_getElem _ 0 hi ▸ hpa _ (List.getElem_mem hi)
    · exact .inl (List.getD_eq_default _ 0 (Nat.not_lt.mp hi))
  obtain ⟨-, hplanes, hrows, hpoison⟩ := unitFrom_header (imagePages u)
  refine ⟨unitFrom (imagePages u), ?_, unitFrom_arr ha, hplanes.trans (headPlanes_eq hp), hrows.trans (headRows_eq hpa hlen),
    fun o => unitFrom_weights, fun o => unitFrom_rows, fun i => unitFrom_valid, hpoison⟩
  rw [unitOfImage_eq, badHeader_image ha hp hpa hlen]
  rfl

end

/-! ## mxsave issues (08 R205) -/

/-- Checks of a list of accesses that a place in the list tells apart. -/
theorem checkAll_indexed {c : Ctx} {s : State} {access mx : Nat} {rd : Bool} {n : Nat} {req : Nat → Req} {loc : Nat → Loc} {mt : Nat → Nat}
    (hinj : ∀ i < n, ∀ j < n, req i = req j → i = j) (h : ∀ i < n, Reaches c s mx rd (req i) (loc i) (mt i)) :
    checkAll c s access mx rd ((List.range n).map req) = .ok ((List.range n).map (fun i => ⟨req i, loc i, mt i⟩)) := by
  have hback : ∀ i < n, Function.invFunOn req {i | i < n} (req i) = i := fun i hi =>
    Set.InjOn.leftInvOn_invFunOn (s := {i | i < n}) (fun i hi j hj => hinj i hi j hj) hi
  have hall : ∀ r ∈ (List.range n).map req, Reaches c s mx rd r (loc (Function.invFunOn req {i | i < n} r))
      (mt (Function.invFunOn req {i | i < n} r)) := fun r hr => by
    obtain ⟨i, hi, rfl⟩ := List.mem_map.mp hr
    have hi := List.mem_range.mp hi
    rw [hback i hi]
    exact h i hi
  rw [checkAll_ok access mx rd _ _ _ hall, List.map_map]
  refine congrArg Except.ok (List.map_congr_left fun i hi => ?_)
  rw [Function.comp_apply, hback i (List.mem_range.mp hi)]

/-- The accesses of an image's pages. -/
def imageReq (c : Ctx) (a : Reg) (wr : Bool) (i : Nat) : Req :=
  ⟨c.low, BitVec.ofNat 64 ((c.pair a c.low).toNat + 4096 * i), 4096, .global, wr⟩

theorem imageReq_inj (c : Ctx) (a : Reg) (wr : Bool) : ∀ i < 57, ∀ j < 57, imageReq c a wr i = imageReq c a wr j → i = j := fun i hi j hj h => by
  have haddr := congrArg (fun r : Req => r.addr.toNat) h
  simp only [imageReq, BitVec.toNat_ofNat] at haddr
  omega

/-- The pages that the accesses of an image reach. -/
def imageHits (c : Ctx) (a : Reg) (wr : Bool) (loc : Nat → Loc) (mt : Nat → Nat) : List Hit :=
  (List.range 57).map (fun i => ⟨imageReq c a wr i, loc i, mt i⟩)

/-- What mxsave does once its accesses are found. -/
def imageRest (c : Ctx) (rel restore : Bool) (hits : List Hit) : Run Eff :=
  if !restore && c.unit.poisoned then .error (.trap c.s (TrapInfo.at 0x000C 0#64 (oneLane c.low))) else
  let s := drain c.s c.u (oneLane c.low)
  if restore then
    match unitOfImage (fun i => (hits[i]?).elim [] (fun h => pageCells s h.loc)) with
    | none => c.illegal c.A
    | some m => .ok (.done (s.modPier c.deck.pier (fun p => { p with mtx := some m })))
  else
    let s := hits.zipIdx.foldl (fun s h => (imagePage c.unit h.2).foldl (fun s x => writeLoc s (h.1.loc.plus x.1) x.2)
      (notePage (zeroPage s h.1.loc) c.cx.num h.1.loc)) s
    .ok (.done (if rel then s.modPier c.deck.pier (fun p => { p with owner := none }) else s))

/-- What mxsave does for the owner of an idle unit. -/
theorem mxsave_runs {a : Reg} {rel restore : Bool} {s : State} {c : Ctx} {loc : Nat → Loc} {mt : Nat → Nat}
    (h : Issues s (.mxsave a rel restore) c) (ho : c.owns) (hb : unitBusy c.s c.deck.uid = false)
    (hr : ∀ i < 57, Reaches c c.s 1 restore (imageReq c a (!restore) i) (loc i) (mt i)) :
    exec (.mxsave a rel restore) s = settleRun c (imageRest c rel restore (imageHits c a (!restore) loc mt)) := by
  have hchk : checkAll c c.s (if restore then 1 else 2) 1 restore ((List.range 57).map (fun i =>
      Req.mk c.low (BitVec.ofNat 64 ((c.pair a c.low).toNat + 4096 * i)) 4096 .global (!restore))) =
      .ok (imageHits c a (!restore) loc mt) := checkAll_indexed (imageReq_inj c a (!restore)) hr
  refine (h.runs_owned ho rfl).trans ?_
  simp only [hb, hchk]
  rfl

/-- Hits in the order of their pages, each with its page. -/
theorem imageHits_zipIdx (c : Ctx) (a : Reg) (wr : Bool) (loc : Nat → Loc) (mt : Nat → Nat) :
    (imageHits c a wr loc mt).zipIdx = (List.range 57).map (fun i => (⟨imageReq c a wr i, loc i, mt i⟩, i)) := by
  refine List.ext_getElem (by simp [imageHits]) fun i hi hi' => ?_
  simp [imageHits]

section
variable {a : Reg} {rel : Bool} {s : State} {c : Ctx} {loc : Nat → Loc} {mt : Nat → Nat}

theorem mxsave_poisoned (h : Issues s (.mxsave a rel false) c) (ho : c.owns) (hb : unitBusy c.s c.deck.uid = false)
    (hr : ∀ i < 57, Reaches c c.s 1 false (imageReq c a true i) (loc i) (mt i)) (hp : c.unit.poisonW ≠ [] ∨ c.unit.poisonR ≠ []) :
    exec (.mxsave a rel false) s = takeTrapFrom c.before c.s c.iss (TrapInfo.at 0x000C 0#64 (oneLane c.low)) := by
  have hpois : c.unit.poisoned = true := by simpa [Matrix.poisoned] using hp
  refine (mxsave_runs h ho hb hr).trans (.trans (congrArg (settleRun c) ?_) (settle_trap (by simp [TrapInfo.at])))
  rw [imageRest, hpois]
  rfl

theorem mxsave_saves (h : Issues s (.mxsave a rel false) c) (ho : c.owns) (hb : unitBusy c.s c.deck.uid = false)
    (hr : ∀ i < 57, Reaches c c.s 1 false (imageReq c a true i) (loc i) (mt i)) (hw : c.unit.poisonW = []) (hp : c.unit.poisonR = []) :
    let b := (List.range 57).foldl (fun s i => (imagePage c.unit i).foldl (fun s x => writeLoc s ((loc i).plus x.1) x.2)
      (notePage (zeroPage s (loc i)) c.cx.num (loc i))) (drain c.s c.u (oneLane c.low))
    exec (.mxsave a rel false) s = .next (goOn (if rel then b.modPier c.deck.pier (fun p => { p with owner := none }) else b) c.iss c.G) := by
  have hclean : c.unit.poisoned = false := by simp [Matrix.poisoned, hw, hp]
  refine (mxsave_runs h ho hb hr).trans ?_
  simp only [imageRest, hclean, imageHits_zipIdx, List.foldl_map]
  rfl

theorem mxsave_restores {m : Matrix} (h : Issues s (.mxsave a rel true) c) (ho : c.owns) (hb : unitBusy c.s c.deck.uid = false)
    (hr : ∀ i < 57, Reaches c c.s 1 true (imageReq c a false i) (loc i) (mt i))
    (hm : unitOfImage (fun i => if i < 57 then pageCells (drain c.s c.u (oneLane c.low)) (loc i) else []) = some m) :
    exec (.mxsave a rel true) s =
      .next (goOn ((drain c.s c.u (oneLane c.low)).modPier c.deck.pier (fun p => { p with mtx := some m })) c.iss c.G) := by
  have hpages : (fun i => ((imageHits c a false loc mt)[i]?).elim [] (fun h => pageCells (drain c.s c.u (oneLane c.low)) h.loc)) =
      fun i => if i < 57 then pageCells (drain c.s c.u (oneLane c.low)) (loc i) else [] := by
    funext i
    by_cases hi : i < 57 <;> simp [imageHits, hi]
  refine (mxsave_runs h ho hb hr).trans ?_
  simp only [imageRest, Bool.not_true, Bool.false_and, hpages, hm]
  rfl

end

/-- Settles O33: the image of 57 pages that is written, the unit that is taken from one, and what an image restores. -/
theorem matrixSaveAndRestore : Obligations.MatrixSaveAndRestore := by
  unfold Obligations.MatrixSaveAndRestore
  exact ⟨fun a rel s c loc mt h ho hb hr => ⟨mxsave_poisoned h ho hb hr, mxsave_saves h ho hb hr⟩,
    fun a rel s c m loc mt h ho hb hr => mxsave_restores h ho hb hr, fun u _ _ ha hp hlen hpa => image_restores ha hp hlen hpa⟩

end Sys2Proof.Machine
end


section
/-! Keystones: signing, arming, and what starts one (08 R198-R201). -/

namespace Sys2Proof.Machine

/-! ## A keystone is put back (08 R198, R200) -/

/-- What has been declared has been signed and armed. -/
def Key.Full (k : Key) : Prop := 0 < k.decl ∧ k.signers.length = k.decl ∧ k.armed.length = k.arms + 1
/-- Signers and arms agree: every signer's deck is armed, and every signer has the accumulators that its deck's slice needs. -/
def Key.Agree (k : Key) : Prop := (∀ x ∈ k.signers, ∃ a ∈ k.armed, a.deck = x.deck) ∧
  ∀ a ∈ k.armed, ∀ x ∈ k.signers, x.deck = a.deck →
    x.np = opM a.desc * ((opN a.desc + (k.signers.filter (fun y => y.deck == a.deck)).length - 1) / (k.signers.filter (fun y => y.deck == a.deck)).length)

theorem Key.full_iff (k : Key) : k.full = true ↔ k.Full := by
  simp [Key.full, Key.Full, and_assoc]

theorem Key.completes_iff (k : Key) : k.completes = true ↔ k.Agree := by
  simp only [Key.completes, Key.Agree, pairsFor, Bool.and_eq_true, List.all_eq_true, List.any_eq_true, beq_iff_eq, List.mem_filter, and_imp]

section
variable {c : Ctx} {n : Nat} {k : Key} {lanes : LaneSet}

theorem keyStep_waits (h : ¬ k.Full) : keyStep c n k lanes = .ok (setKey c.s c.girder.uid n k) := by
  rw [keyStep, if_neg (mt k.full_iff.mp h)]

theorem keyStep_disagrees (h : k.Full) (ha : ¬ k.Agree) : keyStep c n k lanes = .error (.trap c.s (TrapInfo.at 0x0001 0#64 lanes)) := by
  rw [keyStep, if_pos (k.full_iff.mpr h), if_neg (mt k.completes_iff.mp ha)]
  rfl

/-- One more number of a list of timelines. -/
def takeOne (ctx : Nat) (x : State × List (Nat × Nat)) (t : Nat) : State × List (Nat × Nat) :=
  ((takeNumber x.1 ctx t).1, x.2 ++ [(t, (takeNumber x.1 ctx t).2)])

theorem keyStep_starts (h : k.Full) (ha : k.Agree) : keyStep c n k lanes =
    .ok (setKey (k.timelines.foldl (takeOne c.cx.num) (c.s, [])).1 c.girder.uid n
      { k.withoutSlices with st := 2, numbers := (k.timelines.foldl (takeOne c.cx.num) (c.s, [])).2 }) := by
  rw [keyStep, if_pos (k.full_iff.mpr h), if_pos (k.completes_iff.mpr ha)]
  rfl

/-- A keystone that cannot be put back is illegal. -/
theorem keyStep_access {t : State} {i : TrapInfo} (h : keyStep c n k lanes = .error (.trap t i)) : i.access ≠ 10 := by
  by_cases hf : k.Full
  · by_cases ha : k.Agree
    · rw [keyStep_starts hf ha] at h
      cases h
    · rw [keyStep_disagrees hf ha] at h
      cases h
      exact Nat.zero_ne_add_one 9
  · rw [keyStep_waits hf] at h
    cases h

end

/-! ## Numbers of the timelines named (08 R201, 07 R173) -/

/-- A context after a timeline of it has given a number. -/
def Context.numbered (q n : Nat) (cx : Context) : Context := { cx with tl := cx.tl.modify q (fun t => { t with issued := n }) }

theorem takeNumber_eq {s : State} {k q : Nat} {cx : Context} {t : Timeline} (hc : s.ctx? k = some cx) (ht : cx.tl[q]? = some t) :
    takeNumber s k q = (s.modCtx k (Context.numbered q (t.issued + 1)), t.issued + 1) := by
  simp only [takeNumber, hc, Option.bind_some, ht, Option.elim_some]
  rfl

theorem numbered_getElem? (cx : Context) (q n p : Nat) :
    (cx.numbered q n).tl[p]? = if q = p then cx.tl[p]?.map (fun t => { t with issued := n }) else cx.tl[p]? := by
  rw [Context.numbered, List.getElem?_modify]
  split <;> simp

/-- Each timeline of a list without repetition gives its next number. -/
theorem takeOne_fold (k : Nat) : ∀ (qs : List Nat) (s : State) (acc : List (Nat × Nat)) (cx : Context), s.ctx? k = some cx → qs.Nodup →
    (∀ q ∈ qs, q < cx.tl.length) →
    let r := qs.foldl (takeOne k) (s, acc)
    r.2 = acc ++ qs.map (fun q => (q, (cx.tl.getD q ⟨0, 0, []⟩).issued + 1)) ∧ { r.1 with ctxs := s.ctxs } = s ∧
    ∃ cy, r.1.ctx? k = some cy ∧ cy.tl.length = cx.tl.length ∧
      ∀ q x, cx.tl[q]? = some x → cy.tl[q]? = some (if q ∈ qs then { x with issued := x.issued + 1 } else x)
  | [], s, acc, cx, hc, _, _ => ⟨(List.append_nil acc).symm, rfl, cx, hc, rfl, fun q x hx => by simpa using hx⟩
  | q :: qs, s, acc, cx, hc, hn, hlt => by
    obtain ⟨hq, hn⟩ := List.nodup_cons.mp hn
    have hqlt := hlt q List.mem_cons_self
    have htake := takeNumber_eq (q := q) hc (List.getElem?_eq_getElem hqlt)
    obtain ⟨hnums, hrest, cy, hcy, hlen, htl⟩ := takeOne_fold k qs (s.modCtx k (Context.numbered q (cx.tl[q].issued + 1)))
      (acc ++ [(q, cx.tl[q].issued + 1)]) (cx.numbered q (cx.tl[q].issued + 1)) (State.ctx?_modCtx_same hc fun _ => rfl) hn
      (fun p hp => by simpa [Context.numbered] using hlt p (List.mem_cons_of_mem _ hp))
    have hstep : (q :: qs).foldl (takeOne k) (s, acc) =
        qs.foldl (takeOne k) (s.modCtx k (Context.numbered q (cx.tl[q].issued + 1)), acc ++ [(q, cx.tl[q].issued + 1)]) := by
      rw [List.foldl_cons, takeOne, htake]
    have hother (p : Nat) (hp : p ∈ qs) : (cx.numbered q (cx.tl[q].issued + 1)).tl.getD p ⟨0, 0, []⟩ = cx.tl.getD p ⟨0, 0, []⟩ := by
      have hne : q ≠ p := fun e => hq (e ▸ hp)
      rw [List.getD_eq_getElem?_getD, numbered_getElem?, if_neg hne, ← List.getD_eq_getElem?_getD]
    rw [hstep]
    refine ⟨?_, (congrArg (fun t : State => { t with ctxs := s.ctxs }) hrest), cy, hcy, ?_, fun p x hx => ?_⟩
    · rw [hnums, List.map_cons, List.getD_eq_getElem _ _ hqlt, List.append_assoc, List.singleton_append,
        List.map_congr_left fun p hp => by rw [hother p hp]]
    · rw [hlen, Context.numbered, List.length_modify]
    · by_cases hqp : q = p
      · subst hqp
        have hx' : cx.tl[q] = x := Option.some.inj ((List.getElem?_eq_getElem hqlt).symm.trans hx)
        rw [htl q { x with issued := x.issued + 1 } (by rw [numbered_getElem?, if_pos rfl, hx, hx']; rfl), if_neg hq,
          if_pos List.mem_cons_self]
      · rw [htl p x (by rw [numbered_getElem?, if_neg hqp, hx])]
        simp [Ne.symm hqp]

/-- A keystone that is full and agrees runs, with the numbers of the timelines it names; decks without signers have no slice. -/
theorem keyStep_runs {c : Ctx} {n : Nat} {k : Key} {lanes : LaneSet} {g : Girder} (hf : k.Full) (ha : k.Agree)
    (hg : c.s.girder? c.girder.uid = some g) (hc : c.s.ctx? c.cx.num = some c.cx) (hlen : c.cx.tl.length = 16) :
    let named := (List.range 16).filter (fun q => k.armed.any (fun a => opTlen a.desc && opTl a.desc == q))
    ∃ t h y, keyStep c n k lanes = .ok t ∧ t.girder? c.girder.uid = some h ∧ t.ctx? c.cx.num = some y ∧
      h = { g with keys := g.keys.set n { k with
        st := 2, numbers := named.map (fun q => (q, (c.cx.tl.getD q ⟨0, 0, []⟩).issued + 1)),
        armed := k.armed.map (fun a => if k.signers.any (fun x => x.deck == a.deck) then a else { a with started := true, landed := true }) } } ∧
      y.tl.length = 16 ∧
      (∀ q (x : Timeline), c.cx.tl[q]? = some x → y.tl[q]? = some (if q ∈ named then { x with issued := x.issued + 1 } else x)) ∧
      { t with girders := c.s.girders, ctxs := c.s.ctxs } = c.s := by
  obtain ⟨hnums, hrest, y, hy, hylen, hytl⟩ := takeOne_fold c.cx.num k.timelines c.s [] c.cx hc (List.nodup_range.filter _)
    fun q hq => hlen ▸ List.mem_range.mp (List.mem_filter.mp hq).1
  have hgirders : (k.timelines.foldl (takeOne c.cx.num) (c.s, [])).1.girders = c.s.girders := by
    have h := congrArg State.girders hrest
    exact h
  have hg : (k.timelines.foldl (takeOne c.cx.num) (c.s, [])).1.girder? c.girder.uid = some g := by rwa [State.girder?, hgirders]
  refine ⟨_, _, y, keyStep_starts hf ha, State.girder?_modGirder_same hg fun _ => rfl, hy, ?_, hylen.trans hlen, hytl, ?_⟩
  · rw [hnums, List.nil_append]
    rfl
  · exact congrArg (fun t : State => { t with girders := c.s.girders }) hrest

/-! ## Signing and arming (08 R199, R200) -/

section
variable {a b : Reg} {np : BitVec 7} {n : BitVec 3} {s : State} {c : Ctx}

/-- What a keystone's step leaves, its instruction leaves. -/
theorem settle_keyStep {x : Run State} (hx : ∀ t i, x = .error (.trap t i) → i.access ≠ 10) :
    (∀ t, x = .ok t → settleRun c (x.map .done) = .next (goOn t c.iss c.G)) ∧
    (∀ t i, x = .error (.trap t i) → settleRun c (x.map .done) = takeTrapFrom c.before t c.iss i) := by
  refine ⟨fun t h => ?_, fun t i h => ?_⟩
  · rw [h]
    rfl
  · rw [h]
    exact settle_trap (hx t i h)

theorem mxsign_signs (h : Issues s (.mxsign a b np n) c) (ho : c.owns) :
    let k := c.key n.toNat
    let count := (c.src a c.low).toNat
    let decl := if k.signers = [] then count else k.decl
    1 ≤ count → count ≤ 2048 → k.st ≠ 2 → (∀ r ∈ regRange b.toNat (2 * np.toNat), (c.sp.vreg r).isVector = true) →
    count = decl → k.signers.length + laneCount c.A ≤ decl →
    let new := c.lanes.map (fun l => Signer.mk c.deck.uid c.u l b.toNat np.toNat)
    let step := keyStep c n.toNat { k with st := 1, decl := decl, signers := k.signers ++ new } c.A
    (∀ t, step = .ok t → exec (.mxsign a b np n) s = .next (goOn t c.iss c.G)) ∧
    (∀ t i, step = .error (.trap t i) → exec (.mxsign a b np n) s = takeTrapFrom c.before t c.iss i) := by
  intro k count decl hlo hhi hst hvec hdecl hroom new step
  have hrange : (decide (1 ≤ (c.src a c.low).toNat) && decide ((c.src a c.low).toNat ≤ 2048)) = true := by
    rw [decide_eq_true hlo, decide_eq_true hhi, Bool.and_self]
  have hidle : ((c.key n.toNat).st == 2) = false := beq_eq_false_iff_ne.mpr hst
  have hfind : (regRange b.toNat (2 * np.toNat)).find? (fun r => !(c.sp.vreg r).isVector) = none :=
    List.find?_eq_none.mpr fun r hr => by simp [hvec r hr]
  have hd : (if (c.key n.toNat).signers.length == 0 then (c.src a c.low).toNat else (c.key n.toNat).decl) = decl := by
    simp only [beq_iff_eq, List.length_eq_zero_iff, decl, count, k]
  have hok : ((c.src a c.low).toNat != decl || decide (decl < (c.key n.toNat).signers.length + laneCount c.A)) = false := by
    rw [Bool.or_eq_false_iff]
    exact ⟨bne_eq_false_iff_eq.mpr hdecl, decide_eq_false (Nat.not_lt.mpr hroom)⟩
  have hrun : exec (.mxsign a b np n) s = settleRun c (step.map .done) := by
    refine (h.runs_owned ho rfl).trans ?_
    simp only [hrange, hidle, hfind, hd, hok]
    rfl
  rw [hrun]
  exact settle_keyStep fun t i => keyStep_access

theorem mxsign_waits (h : Issues s (.mxsign a b np n) c) (ho : c.owns) (hlo : 1 ≤ (c.src a c.low).toNat) (hhi : (c.src a c.low).toNat ≤ 2048)
    (hst : (c.key n.toNat).st = 2) : exec (.mxsign a b np n) s = .next (holdAgain c.s c.iss (.matrix 2 n.toNat)) := by
  have hrange : (decide (1 ≤ (c.src a c.low).toNat) && decide ((c.src a c.low).toNat ≤ 2048)) = true := by simp [hlo, hhi]
  refine (h.runs_owned ho rfl).trans ?_
  simp only [hrange, hst]
  rfl

theorem mxmma_arms {code : Nat} (h : Issues s (.mxmma a n) c) (ho : c.owns) (harr : c.unit.arr = some code) :
    let k := c.key n.toNat
    let v := c.pair a c.low
    k.st ≠ 2 → opOk v code c.unit.planes = true → c.rowsOk v = true → c.bankOk v code = true →
    (k.armed ≠ [] → opArms v = k.arms ∧ k.armed.length ≠ k.arms + 1 ∧ ∀ x ∈ k.armed, x.deck ≠ c.deck.uid) →
    (opTlen v = true → c.launch.tlBound (opTl v) = true ∧ c.launch.tlKind (opTl v) = 3) →
    let arms := if k.armed = [] then opArms v else k.arms
    let step := keyStep { c with s := { c.s with fresh := c.s.fresh + 1 } } n.toNat
      { k with st := 1, arms := arms, armed := k.armed ++ [⟨c.deck.uid, v, c.s.fresh, false, false, false, [], []⟩] } c.A
    (∀ t, step = .ok t → exec (.mxmma a n) s = .next (goOn t c.iss c.G)) ∧
    (∀ t i, step = .error (.trap t i) → exec (.mxmma a n) s = takeTrapFrom c.before t c.iss i) := by
  intro k v hst hop hrows hbank hmore htl arms step
  have hidle : ((c.key n.toNat).st == 2) = false := beq_eq_false_iff_ne.mpr hst
  have hfields : (!opOk (c.pair a c.low) code c.unit.planes || !c.rowsOk (c.pair a c.low)) = false := by
    rw [show opOk (c.pair a c.low) code c.unit.planes = true from hop, show c.rowsOk (c.pair a c.low) = true from hrows]
    rfl
  have hbank : c.bankOk (c.pair a c.low) code = true := hbank
  have hover : ((c.key n.toNat).armed.length != 0 && (opArms (c.pair a c.low) != (c.key n.toNat).arms ||
      (c.key n.toNat).armed.length == (c.key n.toNat).arms + 1 || (c.key n.toNat).armed.any (fun x => x.deck == c.deck.uid))) = false := by
    show (k.armed.length != 0 && (opArms v != k.arms || k.armed.length == k.arms + 1 || k.armed.any (fun x => x.deck == c.deck.uid))) = false
    by_cases hnil : k.armed = []
    · simp [hnil]
    · obtain ⟨h1, h2, h3⟩ := hmore hnil
      have hany : k.armed.any (fun x => x.deck == c.deck.uid) = false := List.any_eq_false.mpr fun x hx => by simpa using h3 x hx
      simp [h1, h2, hany]
  have hbound : (opTlen (c.pair a c.low) &&
      !(c.launch.tlBound (opTl (c.pair a c.low)) && c.launch.tlKind (opTl (c.pair a c.low)) == 3)) = false := by
    show (opTlen v && !(c.launch.tlBound (opTl v) && c.launch.tlKind (opTl v) == 3)) = false
    cases hv : opTlen v with
    | false => rfl
    | true => simp [htl hv]
  have harms : (if (c.key n.toNat).armed.length == 0 then opArms (c.pair a c.low) else (c.key n.toNat).arms) = arms := by
    simp only [beq_iff_eq, List.length_eq_zero_iff, arms, v, k]
  have hrun : exec (.mxmma a n) s = settleRun c (step.map .done) := by
    refine (h.runs_owned ho rfl).trans ?_
    simp only [hidle, harr, hfields, hbank, hover, hbound, harms]
    rfl
  rw [hrun]
  exact settle_keyStep fun t i => keyStep_access

end

end Sys2Proof.Machine
end


section
/-! Slices: what they compute and how they land (08 R193, R201, 21 R382). -/

namespace Sys2Proof.Machine

/-! ## What a slice computes (08 R201) -/

/-- An element of a slice: the signer that column j falls to gets the sum of row i and column j on what its accumulator holds. -/
theorem mem_sliceResults {s : State} {u : Matrix} {a : Arm} {signers : List Signer} {code : Nat} (harr : u.arr = some code) :
    let v := a.desc
    let mine := (signers.filter (fun x => x.deck == a.deck)).insertionSort (fun x y => signerLe s x y = true)
    mine ≠ [] →
    ∀ sp lane reg val, (sp, lane, reg, val) ∈ sliceResults s u a signers ↔
      ∃ i < opMV v, ∃ j < opNV v, ∃ x, mine[j % mine.length]? = some x ∧ sp = x.span ∧ lane = x.lane ∧
        reg = x.base + 2 * (i + opM v * (j / mine.length)) ∧
        val = (if opZero v then 0#64 else
            (s.span? x.span).elim 0#64 (fun p => pairOf (p.reg reg x.lane) (p.reg (reg + 1) x.lane))) +
          BitVec.ofInt 64 (((List.range (64 * (arrShape code).1)).map (fun k =>
            rowElem u (opRowB v + i) k (u.pa.getD (opRowB v) 0) * columnElem u code (opBank v) (opCol v + j) k)).sum) := by
  intro v mine hmine sp lane reg val
  have hlen : mine.length ≠ 0 := fun h => hmine (List.eq_nil_of_length_eq_zero h)
  simp only [sliceResults, harr]
  rw [if_neg hlen]
  simp only [List.mem_flatMap, List.mem_range, List.mem_filterMap, Option.map_eq_some_iff, Prod.mk.injEq]
  constructor
  · rintro ⟨i, hi, j, hj, x, hx, rfl, rfl, rfl, rfl⟩
    exact ⟨i, hi, j, hj, x, hx, rfl, rfl, rfl, rfl⟩
  · rintro ⟨i, hi, j, hj, x, hx, rfl, rfl, rfl, rfl⟩
    exact ⟨i, hi, j, hj, x, hx, rfl, rfl, rfl, rfl⟩

/-! ## What a landing leaves alone -/

/-- All of t but spans, piers, segments, counters and the choice of slots is that of s. -/
structure Beside (s t : State) : Prop where
  state : { t with spans := s.spans, piers := s.piers, segs := s.segs, mgmt := s.mgmt, free := s.free } = s
  mgmt : { t.mgmt with cnt := s.mgmt.cnt, sel := s.mgmt.sel } = s.mgmt

namespace Beside
variable {s t w : State}

theorem refl (s : State) : Beside s s := ⟨rfl, rfl⟩

theorem trans (h : Beside s t) (k : Beside t w) : Beside s w :=
  ⟨(congrArg (fun x : State => { x with spans := s.spans, piers := s.piers, segs := s.segs, mgmt := s.mgmt, free := s.free }) k.state).trans h.state,
   (congrArg (fun x : Mgmt => { x with cnt := s.mgmt.cnt, sel := s.mgmt.sel }) k.mgmt).trans h.mgmt⟩

/-- What looks at nothing that may change finds what it found. -/
theorem same (h : Beside s t) {α : Type} (p : State → α)
    (hp : ∀ (x : State) spans piers segs mgmt free, p { x with spans := spans, piers := piers, segs := segs, mgmt := mgmt, free := free } = p x) :
    p t = p s := (hp t _ _ _ _ _).symm.trans (congrArg p h.state)

theorem readLoc (h : Beside s t) (l : Loc) : readLoc t l = readLoc s l := by
  have hsync : t.mgmt.refsync = s.mgmt.refsync := by
    have := congrArg Mgmt.refsync h.mgmt
    exact this
  have hnext : t.mgmt.nextOff = s.mgmt.nextOff := by
    have := congrArg Mgmt.nextOff h.mgmt
    exact this
  exact readLoc_congr (h.same State.mem fun _ _ _ _ _ _ => rfl) (h.same State.hostMem fun _ _ _ _ _ _ => rfl)
    (h.same State.decks fun _ _ _ _ _ _ => rfl) (h.same State.refreshOff fun _ _ _ _ _ _ => rfl) hsync hnext
    (h.same State.steps fun _ _ _ _ _ _ => rfl) l

theorem landReg (s : State) (u d : Nat) (new : Nat → Word) (a : LaneSet) (resv : Bool) : Beside s (landReg s u d new a resv) := by
  unfold Machine.landReg
  split
  · exact refl s
  · split
    · exact refl s
    · exact ⟨rfl, rfl⟩

theorem landPair (s : State) (a : Arm) (u p : Nat) : Beside s (landPair s a u p) := by
  unfold Machine.landPair
  extract_lets rs lanes val t bad
  have ht : Beside s t := (landReg s u p _ lanes false).trans (landReg _ u (p + 1) _ lanes false)
  split
  · exact ht
  · exact ht.trans ⟨rfl, rfl⟩

theorem landPairs (a : Arm) (pairs : List (Nat × Nat)) (s : State) : Beside s (pairs.foldl (fun s q => Machine.landPair s a q.1 q.2) s) :=
  List.foldlRecOn (motive := fun t => Beside s t) pairs _ (refl s) fun t h q _ => h.trans (landPair t a q.1 q.2)

end Beside

theorem landReg_span?_ne {s : State} {u v : Nat} (hv : v ≠ u) (d : Nat) (new : Nat → Word) (a : LaneSet) (resv : Bool) :
    (landReg s u d new a resv).span? v = s.span? v := by
  unfold landReg
  split
  · rfl
  · split
    · rfl
    · exact State.span?_modSpan_ne (dropLatch { s with free := _ } _ _) _ (fun _ => rfl) hv

theorem landReg_none {s : State} (u d : Nat) (new : Nat → Word) (resv : Bool) : landReg s u d new 0#64 resv = s := by
  unfold landReg
  split <;> rfl

/-! ## The results of one register pair (08 R201) -/

/-- The results of an arm for an accumulator of a span. -/
def Arm.rows (a : Arm) (u p : Nat) : List (Nat × Nat × Nat × DWord) := a.results.filter (fun r => r.1 == u && r.2.2.1 == p)
/-- The result of a lane. -/
def Arm.value (a : Arm) (u p l : Nat) : DWord := ((a.rows u p).find? (fun r => r.2.1 == l)).elim 0#64 (fun r => r.2.2.2)
/-- The lanes that get a result: those that have not exited. -/
def Arm.hit (a : Arm) (u p : Nat) (live : LaneSet) : LaneSet := laneSetOf (fun l => (a.rows u p).any (fun r => r.2.1 == l)) &&& live
/-- The lanes whose accumulator was read poisoned. -/
def Arm.spoilt (a : Arm) (u p : Nat) : LaneSet := laneSetOf (fun l => a.dirty.contains (u, l, p))

/-- A span whose accumulator is poisoned in some lanes. -/
def Span.spoil (p : Nat) (bad : LaneSet) (x : Span) : Span :=
  { x with poison := if bad = 0#64 then x.poison else x.poison ++ [(p, bad), (p + 1, bad)] }

section
variable {a : Arm} {u p l : Nat} {v : DWord}

theorem Arm.value_eq (hn : (a.results.map (fun r => (r.1, r.2.1, r.2.2.1))).Nodup) (h : (u, l, p, v) ∈ a.results) : a.value u p l = v := by
  have hrow : (u, l, p, v) ∈ a.rows u p := List.mem_filter.mpr ⟨h, by simp⟩
  obtain ⟨e, he⟩ := Option.isSome_iff_exists.mp (List.find?_isSome.mpr ⟨_, hrow, beq_self_eq_true l⟩ :
    ((a.rows u p).find? (fun r => r.2.1 == l)).isSome = true)
  obtain ⟨hmem, hkey⟩ := List.mem_filter.mp (List.mem_of_find?_eq_some he)
  have hlane : e.2.1 = l := by simpa using List.find?_some he
  rw [Bool.and_eq_true, beq_iff_eq, beq_iff_eq] at hkey
  have hsame : e = (u, l, p, v) := List.inj_on_of_nodup_map hn hmem h (by rw [hkey.1, hlane, hkey.2])
  rw [Arm.value, he, hsame]
  rfl

theorem Arm.hasLane_hit (live : LaneSet) : hasLane (a.hit u p live) l = true ↔ (∃ v, (u, l, p, v) ∈ a.results) ∧ hasLane live l = true := by
  rw [Arm.hit, hasLane_and, hasLane_laneSetOf, Bool.and_eq_true, Bool.and_eq_true, decide_eq_true_eq, List.any_eq_true]
  constructor
  · rintro ⟨⟨-, e, he, hl⟩, hlive⟩
    obtain ⟨hmem, hkey⟩ := List.mem_filter.mp he
    rw [Bool.and_eq_true, beq_iff_eq, beq_iff_eq] at hkey
    refine ⟨⟨e.2.2.2, ?_⟩, hlive⟩
    rwa [← hkey.1, ← hkey.2, ← beq_iff_eq.mp hl]
  · rintro ⟨⟨v, hv⟩, hlive⟩
    exact ⟨⟨hasLane_lt hlive, _, List.mem_filter.mpr ⟨hv, by simp⟩, beq_self_eq_true l⟩, hlive⟩

theorem Span.spoil_poisoned (bad : LaneSet) (x : Span) (r : Nat) :
    (x.spoil p bad).poisonedReg r l = (x.poisonedReg r l || ((r == p || r == p + 1) && hasLane bad l)) := by
  rw [Span.poisonedReg, Span.spoil]
  dsimp only
  split
  · next h => simp [h, hasLane, Span.poisonedReg]
  · simp only [Span.poisonedReg, List.any_append, List.any_cons, List.any_nil, Bool.or_false, Bool.beq_comm (a := r)]
    cases hasLane bad l <;> simp

end

/-- Span x is span sp after the results of an arm for the accumulators of a list have landed. -/
structure SliceLanded (a : Arm) (u : Nat) (done : List (Nat × Nat)) (sp x : Span) : Prop where
  rest : sp.regsOf x = x
  length : x.regs.length = sp.regs.length
  vals : ∀ l p v, (u, l, p, v) ∈ a.results → (u, p) ∈ done → hasLane sp.live l = true →
    (x.reg p l = loWord v ∧ x.reg (p + 1) l = hiWord v) ∧
    x.poisonedReg p l = a.dirty.contains (u, l, p) ∧ x.poisonedReg (p + 1) l = a.dirty.contains (u, l, p)
  others : ∀ l r, l < sp.width → (hasLane sp.live l = false ∨ (u, r - r % 2) ∉ done ∨ ∀ v, (u, l, r - r % 2, v) ∉ a.results) →
    x.reg r l = sp.reg r l ∧ x.poisonedReg r l = sp.poisonedReg r l

namespace SliceLanded
variable {a : Arm} {u : Nat} {sp x y : Span} {d e : List (Nat × Nat)}

/-- What the registers do not decide is as it was. -/
theorem same (h : SliceLanded a u d sp x) {α : Type} (p : Span → α)
    (hp : ∀ (v : Span) regs used grant poison, p { v with regs := regs, used := used, grant := grant, poison := poison } = p v) : p x = p sp :=
  (congrArg p h.rest).symm.trans (hp sp _ _ _ _)

theorem nil (a : Arm) (u : Nat) (sp : Span) : SliceLanded a u [] sp sp :=
  ⟨rfl, rfl, fun _ _ _ _ h => absurd h List.not_mem_nil, fun _ _ _ _ => ⟨rfl, rfl⟩⟩

theorem append (heven : ∀ r ∈ a.results, r.2.2.1 % 2 = 0) (h : SliceLanded a u d sp x) (k : SliceLanded a u e x y) :
    SliceLanded a u (d ++ e) sp y := by
  have hlive : x.live = sp.live := h.same Span.live fun _ _ _ _ _ => rfl
  have hwidth : x.width = sp.width := h.same Span.width fun _ _ _ _ _ => rfl
  refine ⟨?_, k.length.trans h.length, fun l p v hv hp hl => ?_, fun l r hl hr => ?_⟩
  · exact (congrArg (fun v : Span => v.regsOf y) h.rest).trans k.rest
  · by_cases hpe : (u, p) ∈ e
    · exact k.vals l p v hv hpe (hlive ▸ hl)
    · have hp2 : p % 2 = 0 := heven _ hv
      have hlw : l < x.width := by
        rw [hwidth]
        rw [Span.live, hasLane_laneSetOf] at hl
        simp only [Bool.and_eq_true, decide_eq_true_eq] at hl
        exact hl.2.1
      obtain ⟨⟨hlo, hhi⟩, hplo, hphi⟩ := h.vals l p v hv ((List.mem_append.mp hp).resolve_right hpe) hl
      obtain ⟨hr0, hq0⟩ := k.others l p hlw (.inr (.inl (by rwa [hp2])))
      obtain ⟨hr1, hq1⟩ := k.others l (p + 1) hlw (.inr (.inl (by rwa [show (p + 1) % 2 = 1 by omega])))
      exact ⟨⟨hr0.trans hlo, hr1.trans hhi⟩, hq0.trans hplo, hq1.trans hphi⟩
  · have hd : hasLane sp.live l = false ∨ (u, r - r % 2) ∉ d ∨ ∀ v, (u, l, r - r % 2, v) ∉ a.results :=
      hr.imp_right (Or.imp_left fun h hm => h (List.mem_append_left _ hm))
    have he : hasLane x.live l = false ∨ (u, r - r % 2) ∉ e ∨ ∀ v, (u, l, r - r % 2, v) ∉ a.results :=
      hlive ▸ hr.imp_right (Or.imp_left fun h hm => h (List.mem_append_right _ hm))
    obtain ⟨hr1, hp1⟩ := h.others l r hl hd
    obtain ⟨hr2, hp2⟩ := k.others l r (hwidth ▸ hl) he
    exact ⟨hr2.trans hr1, hp2.trans hp1⟩

end SliceLanded

/-! ## The pairs of a slice land one after the other (08 R201) -/

section
variable {s : State} {a : Arm} {u p : Nat} {sp : Span}

theorem modSpan_spoil_none (t : State) (u p : Nat) : t.modSpan u (Span.spoil p 0#64) = t := by
  have hid : (fun x : Span => if x.uid == u then x.spoil p 0#64 else x) = id := funext fun x => ite_self x
  rw [State.modSpan, hid, List.map_id]

theorem landPair_eq (hs : s.span? u = some sp) (hp : a.poisoned = false) : landPair s a u p =
    (landReg (landReg s u p (fun l => loWord (a.value u p l)) (a.hit u p sp.live) false) u (p + 1) (fun l => hiWord (a.value u p l))
      (a.hit u p sp.live) false).modSpan u (Span.spoil p (a.hit u p sp.live &&& a.spoilt u p)) := by
  by_cases hz : a.hit u p sp.live &&& a.spoilt u p = 0#64
  · rw [hz, modSpan_spoil_none, landPair]
    simp only [hs, hp, beq_iff_eq]
    exact if_pos hz
  · have hspoil : (fun x : Span => { x with poison := x.poison ++ [(p, a.hit u p sp.live &&& a.spoilt u p),
        (p + 1, a.hit u p sp.live &&& a.spoilt u p)] }) = Span.spoil p (a.hit u p sp.live &&& a.spoilt u p) := by
      funext x
      rw [Span.spoil, if_neg hz]
    rw [← hspoil, landPair]
    simp only [hs, hp, beq_iff_eq]
    exact if_neg hz

theorem landPair_span?_ne {v : Nat} (hv : v ≠ u) : (landPair s a u p).span? v = s.span? v := by
  unfold landPair
  extract_lets rs lanes val t bad
  have ht : t.span? v = s.span? v := (landReg_span?_ne hv _ _ _ _).trans (landReg_span?_ne hv _ _ _ _)
  split
  · exact ht
  · exact (State.span?_modSpan_ne t (fun x => { x with poison := x.poison ++ [(p, bad), (p + 1, bad)] }) (fun _ => rfl) hv).trans ht

/-- Both halves of a pair land, and the sums of poison are marked. -/
theorem landPair_span (hs : s.span? u = some sp) (hp : a.poisoned = false) (hlen : p + 1 < sp.regs.length) :
    ∃ x, (landPair s a u p).span? u = some x ∧ sp.regsOf x = x ∧ x.regs.length = sp.regs.length ∧
      (∀ l < sp.width, ∀ r, x.reg r l = if hasLane (a.hit u p sp.live) l = true ∧ r = p then loWord (a.value u p l)
        else if hasLane (a.hit u p sp.live) l = true ∧ r = p + 1 then hiWord (a.value u p l) else sp.reg r l) ∧
      ∀ l r, x.poisonedReg r l = if hasLane (a.hit u p sp.live) l = true ∧ (r = p ∨ r = p + 1) then hasLane (a.spoilt u p) l
        else sp.poisonedReg r l := by
  by_cases hz : a.hit u p sp.live = 0#64
  · have hno (l : Nat) : hasLane (a.hit u p sp.live) l = false := by simp [hz, hasLane]
    refine ⟨sp, ?_, rfl, rfl, fun l _ r => by simp [hno], fun l r => by simp [hno]⟩
    rw [landPair_eq hs hp, hz, BitVec.zero_and, modSpan_spoil_none, landReg_none, landReg_none]
    exact hs
  · obtain ⟨x, hx, hland, -, -⟩ := landReg_spec (fun l => loWord (a.value u p l)) _ false hs hz (Nat.lt_of_succ_lt hlen)
    obtain ⟨y, hy, hland', -, -⟩ := landReg_spec (fun l => hiWord (a.value u p l)) _ false hx hz (hland.length ▸ hlen)
    have hwidth : x.width = sp.width := (congrArg Span.width hland.rest).symm
    have hlow (r : Nat) (hr : r ≠ p) : x.vreg r = sp.vreg r := hland.others r (by simpa using hr)
    have hhigh (r : Nat) (hr : r ≠ p + 1) : y.vreg r = x.vreg r := hland'.others r (by simpa using hr)
    refine ⟨y.spoil p (a.hit u p sp.live &&& a.spoilt u p), ?_, ?_, hland'.length.trans hland.length, fun l hl r => ?_, fun l r => ?_⟩
    · rw [landPair_eq hs hp]
      exact State.span?_modSpan_same _ (fun _ => rfl) hy
    · have hrest := (congrArg (fun v : Span => v.regsOf y) hland.rest).trans hland'.rest
      exact congrArg (Span.spoil p (a.hit u p sp.live &&& a.spoilt u p)) hrest
    · show y.reg r l = _
      by_cases h1 : r = p + 1
      · subst h1
        have hv : y.reg (p + 1) l = if hasLane (a.hit u p sp.live) l then hiWord (a.value u p l) else x.reg (p + 1) l :=
          hland'.vals _ List.mem_cons_self l (hwidth ▸ hl)
        rw [hv, Span.reg, hlow (p + 1) (by omega)]
        simp [Span.reg]
      · rw [Span.reg, hhigh r h1]
        by_cases h0 : r = p
        · subst h0
          have hv : x.reg r l = if hasLane (a.hit u r sp.live) l then loWord (a.value u r l) else sp.reg r l :=
            hland.vals _ List.mem_cons_self l hl
          rw [← Span.reg, hv]
          simp
        · rw [hlow r h0]
          simp [h0, h1, Span.reg]
    · rw [Span.spoil_poisoned, hland'.poison, hland.poison, hasLane_and]
      simp only [List.map_cons, List.map_nil, List.contains_cons, List.contains_nil, Bool.or_false]
      cases hasLane (a.hit u p sp.live) l with
      | false => simp
      | true =>
        by_cases h0 : r = p
        · simp [h0]
        · by_cases h1 : r = p + 1
          · simp [h1]
          · simp [h0, h1, beq_eq_false_iff_ne.mpr h0, beq_eq_false_iff_ne.mpr h1]

/-- The results of a pair have landed on its span. -/
theorem landPair_landed (hs : s.span? u = some sp) (hp : a.poisoned = false) (hlen : p + 1 < sp.regs.length) (heven : p % 2 = 0)
    (hn : (a.results.map (fun r => (r.1, r.2.1, r.2.2.1))).Nodup) :
    ∃ x, (landPair s a u p).span? u = some x ∧ SliceLanded a u [(u, p)] sp x := by
  obtain ⟨x, hx, hrest, hxlen, hregs, hpois⟩ := landPair_span hs hp hlen
  refine ⟨x, hx, hrest, hxlen, fun l q v hv hq hl => ?_, fun l r hl hr => ?_⟩
  · obtain rfl : q = p := by simpa using hq
    have hhit : hasLane (a.hit u q sp.live) l = true := (Arm.hasLane_hit sp.live).mpr ⟨⟨v, hv⟩, hl⟩
    have hlw : l < sp.width := by
      rw [Span.live, hasLane_laneSetOf] at hl
      simp only [Bool.and_eq_true, decide_eq_true_eq] at hl
      exact hl.2.1
    have hdirty : hasLane (a.spoilt u q) l = a.dirty.contains (u, l, q) := by simp [Arm.spoilt, hasLane_lt hl]
    rw [hregs l hlw, hregs l hlw, hpois, hpois, Arm.value_eq hn hv, hdirty]
    simp [hhit]
  · have hno : ¬ (hasLane (a.hit u p sp.live) l = true ∧ (r = p ∨ r = p + 1)) := by
      rintro ⟨hhit, hrp⟩
      have hbase : r - r % 2 = p := by omega
      obtain ⟨⟨v, hv⟩, hlive⟩ := (Arm.hasLane_hit sp.live).mp hhit
      rw [hbase] at hr
      rcases hr with h | h | h
      · exact Bool.false_ne_true (h.symm.trans hlive)
      · exact h List.mem_cons_self
      · exact h v hv
    rw [hregs l hl, hpois, if_neg hno, if_neg fun h => hno ⟨h.1, .inl h.2⟩, if_neg fun h => hno ⟨h.1, .inr h.2⟩]
    exact ⟨rfl, rfl⟩

end

/-- The pairs of a list land on a span. -/
theorem landPairs_landed {a : Arm} {u : Nat} (hp : a.poisoned = false) (heven : ∀ r ∈ a.results, r.2.2.1 % 2 = 0)
    (hn : (a.results.map (fun r => (r.1, r.2.1, r.2.2.1))).Nodup) : ∀ (pairs : List (Nat × Nat)) (s : State) (sp : Span), s.span? u = some sp →
    (∀ p, (u, p) ∈ pairs → p + 1 < sp.regs.length ∧ p % 2 = 0) →
    ∃ x, (pairs.foldl (fun s q => landPair s a q.1 q.2) s).span? u = some x ∧ SliceLanded a u pairs sp x
  | [], _, sp, hs, _ => ⟨sp, hs, .nil a u sp⟩
  | (v, p) :: pairs, s, sp, hs, hin => by
    by_cases hv : v = u
    · subst hv
      obtain ⟨hlen, h2⟩ := hin p List.mem_cons_self
      obtain ⟨x, hx, hland⟩ := landPair_landed hs hp hlen h2 hn
      obtain ⟨y, hy, hland'⟩ := landPairs_landed hp heven hn pairs _ x hx fun q hq => hland.length ▸ hin q (List.mem_cons_of_mem _ hq)
      exact ⟨y, hy, hland.append heven hland'⟩
    · obtain ⟨y, hy, hland⟩ := landPairs_landed hp heven hn pairs _ sp ((landPair_span?_ne (Ne.symm hv)).trans hs)
        fun q hq => hin q (List.mem_cons_of_mem _ hq)
      refine ⟨y, hy, hland.rest, hland.length, fun l q w hw hq => ?_, fun l r hl hr => ?_⟩
      · exact hland.vals l q w hw ((List.mem_cons.mp hq).resolve_left fun e => hv (congrArg Prod.fst e).symm)
      · exact hland.others l r hl (hr.imp_right (Or.imp_left fun h hm => h (List.mem_cons_of_mem _ hm)))

end Sys2Proof.Machine
end


section
/-! The end of a slice and of a keystone (O32; 08 R198, R201). -/

namespace Sys2Proof.Machine

/-! ## Numbers complete (07 R173) -/

theorem completeNumber_ctxs (s : State) (ctx k n : Nat) : (completeNumber s ctx k n).ctxs = (s.modCtx ctx (fun c =>
    { c with tl := c.tl.modify k (fun t => advanceTl (t.early.length + 1) { t with early := t.early ++ [n] }) })).ctxs :=
  settleAll_ctxs _

/-- What the numbers of a list leave of the contexts depends on the contexts alone. -/
theorem completeNumbers_ctxs (ctx : Nat) : ∀ (qs : List (Nat × Nat)) {s t : State}, t.ctxs = s.ctxs →
    (qs.foldl (fun s q => completeNumber s ctx q.1 q.2) t).ctxs = (qs.foldl (fun s q => completeNumber s ctx q.1 q.2) s).ctxs
  | [], _, _, h => h
  | q :: qs, s, t, h => by
    refine completeNumbers_ctxs ctx qs ?_
    rw [completeNumber_ctxs, completeNumber_ctxs, State.modCtx, State.modCtx, h]

/-- Spans may move lanes, contexts may change, and nothing else does. -/
def LanesAndCtxs (s t : State) : Prop := { t with spans := s.spans, ctxs := s.ctxs } = s ∧ ∀ v, LanesMove v s t

theorem LanesAndCtxs.trans {s t w : State} (h : LanesAndCtxs s t) (k : LanesAndCtxs t w) : LanesAndCtxs s w :=
  ⟨(congrArg (fun x : State => { x with spans := s.spans, ctxs := s.ctxs }) k.1).trans h.1, fun v => (h.2 v).trans (k.2 v)⟩

theorem settleAll_lanesAndCtxs (s : State) : LanesAndCtxs s (settleAll s) :=
  ⟨congrArg (fun x : State => { x with ctxs := s.ctxs }) (settleAll_moves s).1, (settleAll_moves s).2⟩

theorem completeNumbers_lanesAndCtxs (ctx : Nat) (qs : List (Nat × Nat)) (s : State) :
    LanesAndCtxs s (qs.foldl (fun s q => completeNumber s ctx q.1 q.2) s) :=
  List.foldlRecOn (motive := LanesAndCtxs s) qs _ ⟨rfl, fun _ => .of_spans rfl⟩ fun t h q _ =>
    h.trans (.trans (t := t.modCtx ctx (fun c =>
      { c with tl := c.tl.modify q.1 (fun t => advanceTl (t.early.length + 1) { t with early := t.early ++ [q.2] }) }))
      ⟨rfl, fun _ => .of_spans rfl⟩ (settleAll_lanesAndCtxs _))

theorem LanesAndCtxs.readLoc {s t : State} (h : LanesAndCtxs s t) (l : Loc) : readLoc t l = readLoc s l := by
  have hmem : t.mem = s.mem := by
    have := congrArg State.mem h.1
    exact this
  have hhost : t.hostMem = s.hostMem := by
    have := congrArg State.hostMem h.1
    exact this
  have hdecks : t.decks = s.decks := by
    have := congrArg State.decks h.1
    exact this
  have hoff : t.refreshOff = s.refreshOff := by
    have := congrArg State.refreshOff h.1
    exact this
  have hmgmt : t.mgmt = s.mgmt := by
    have := congrArg State.mgmt h.1
    exact this
  have hsteps : t.steps = s.steps := by
    have := congrArg State.steps h.1
    exact this
  exact readLoc_congr hmem hhost hdecks hoff (by rw [hmgmt]) (by rw [hmgmt]) hsteps l

/-! ## A slice lands (08 R201) -/

/-- The register pairs that an arm's results go to. -/
def Arm.pairs (a : Arm) : List (Nat × Nat) := (a.results.map (fun r => (r.1, r.2.2.1))).dedup

/-- The arms of a keystone after the slice of a has landed. -/
def Key.landed (k : Key) (a : Arm) : List Arm :=
  replaceWhere (fun x => x.deck == a.deck) { a with landed := true, results := [], dirty := [] } k.armed

/-- The results of a slice land, and its operations are counted. -/
def landResults (s : State) (a : Arm) : State :=
  let pier := (s.deck? a.deck).elim 0 (·.pier)
  a.pairs.foldl (fun s q => landPair s a q.1 q.2)
    (countMacs s pier (a.results.length * 64 * (((s.pier pier).unit.arr).elim 0 (fun c => (arrShape c).1))))

/-- The keystone becomes idle, and the numbers of its operations complete. -/
def keyDone (t : State) (girder ctx n : Nat) (k : Key) : State :=
  settleAll (k.numbers.foldl (fun s q => completeNumber s ctx q.1 q.2) (setKey t girder n ⟨0, 0, 0, (k.gen + 1) % 2 ^ 31, [], [], []⟩))

section
variable {s : State} {g : Girder} {ctx n : Nat} {k : Key} {a : Arm}

theorem landSlice_eq (hk : g.keys[n]? = some k) (ha : k.armed.find? (fun x => x.started && !x.landed) = some a) : landSlice s g ctx n =
    if (k.landed a).all (fun x => x.landed) then keyDone (landResults s a) g.uid ctx n k
    else setKey (landResults s a) g.uid n { k with armed := k.landed a } := by
  simp only [landSlice, hk, ha]
  rfl

theorem Key.landed_all : (k.landed a).all (fun x => x.landed) = true ↔ ∀ x ∈ k.armed, x.deck = a.deck ∨ x.landed = true := by
  simp only [Key.landed, replaceWhere, List.all_map, List.all_eq_true, Function.comp_apply, beq_iff_eq]
  refine forall₂_congr fun x _ => ?_
  split <;> simp_all

theorem countMacs_beside (s : State) (pier macs : Nat) : Beside s (countMacs s pier macs) :=
  have hmod : Beside s (s.modPier pier (fun p => { p with macs := ((s.pier pier).macs + macs) % 4096 })) := ⟨rfl, rfl⟩
  have hcount := Elsewhere.countPier (s.modPier pier (fun p => { p with macs := ((s.pier pier).macs + macs) % 4096 })) 0 pier 0x0B
    (((s.pier pier).macs + macs) / 4096)
  hmod.trans ⟨hcount.state, hcount.mgmt⟩

theorem landResults_beside (s : State) (a : Arm) : Beside s (landResults s a) :=
  (countMacs_beside s _ _).trans (.landPairs a a.pairs _)

/-- The results of a slice are in the registers of a span. -/
theorem landResults_span {u : Nat} {sp : Span} (hs : s.span? u = some sp) (hp : a.poisoned = false)
    (hn : (a.results.map (fun r => (r.1, r.2.1, r.2.2.1))).Nodup)
    (hr : ∀ u l p v, (u, l, p, v) ∈ a.results → p % 2 = 0 ∧ p < 127 ∧ ∀ sp, s.span? u = some sp → sp.Shaped ∧ l < sp.width) :
    ∃ x, (landResults s a).span? u = some x ∧ SliceLanded a u a.pairs sp x := by
  refine landPairs_landed hp (fun r hm => (hr r.1 r.2.1 r.2.2.1 r.2.2.2 hm).1) hn a.pairs _ sp hs fun p hq => ?_
  obtain ⟨r, hm, hkey⟩ := List.mem_map.mp (List.mem_dedup.mp hq)
  obtain ⟨hru, hrp⟩ := Prod.mk.inj hkey
  obtain ⟨heven, hlt, hshape⟩ := hr r.1 r.2.1 r.2.2.1 r.2.2.2 hm
  rw [hrp] at heven hlt
  exact ⟨by rw [(hshape sp (by rw [hru]; exact hs)).1.regs]; omega, heven⟩

/-- What landSlice does once the results have landed: lanes may move, nothing of memory changes, and the keystone is put back. -/
theorem landSlice_after (hk : g.keys[n]? = some k) (hg : s.girder? g.uid = some g)
    (ha : k.armed.find? (fun x => x.started && !x.landed) = some a) :
    let t := landSlice s g ctx n
    (∀ v, LanesMove v (landResults s a) t) ∧ (∀ l, readLoc t l = readLoc s l) ∧
    ∃ h, t.girder? g.uid = some h ∧
      ((∀ x ∈ k.armed, x.deck = a.deck ∨ x.landed = true) →
        h = { g with keys := g.keys.set n ⟨0, 0, 0, (k.gen + 1) % 2 ^ 31, [], [], []⟩ } ∧
        t.ctx? ctx = (k.numbers.foldl (fun s q => completeNumber s ctx q.1 q.2) s).ctx? ctx) ∧
      ((∃ x ∈ k.armed, x.deck ≠ a.deck ∧ x.landed = false) → h = { g with keys := g.keys.set n { k with armed := k.landed a } } ∧
        t.ctxs = s.ctxs) := by
  have hbeside := landResults_beside s a
  have hctxs : (landResults s a).ctxs = s.ctxs := hbeside.same State.ctxs fun _ _ _ _ _ _ => rfl
  have hgirders : (landResults s a).girders = s.girders := hbeside.same State.girders fun _ _ _ _ _ _ => rfl
  have hput (key : Key) : (setKey (landResults s a) g.uid n key).girder? g.uid = some { g with keys := g.keys.set n key } :=
    State.girder?_modGirder_same (by rwa [State.girder?, hgirders]) fun _ => rfl
  have hbytes (key : Key) (l : Loc) : readLoc (setKey (landResults s a) g.uid n key) l = readLoc s l :=
    (readLoc_congr rfl rfl rfl rfl rfl rfl rfl l).trans (hbeside.readLoc l)
  rw [landSlice_eq hk ha]
  by_cases hall : ∀ x ∈ k.armed, x.deck = a.deck ∨ x.landed = true
  · have hdone := (completeNumbers_lanesAndCtxs ctx k.numbers (setKey (landResults s a) g.uid n ⟨0, 0, 0, (k.gen + 1) % 2 ^ 31, [], [], []⟩)).trans
      (settleAll_lanesAndCtxs _)
    rw [if_pos (Key.landed_all.mpr hall)]
    refine ⟨fun v => LanesMove.trans (.of_spans rfl) (hdone.2 v), fun l => (hdone.readLoc l).trans (hbytes _ l), _, ?_, fun _ => ⟨rfl, ?_⟩, ?_⟩
    · have hgird : (keyDone (landResults s a) g.uid ctx n k).girders =
          (setKey (landResults s a) g.uid n ⟨0, 0, 0, (k.gen + 1) % 2 ^ 31, [], [], []⟩).girders := by
        have h := congrArg State.girders hdone.1
        exact h
      rw [State.girder?, hgird]
      exact hput _
    · exact ctx?_congr ((settleAll_ctxs _).trans (completeNumbers_ctxs ctx k.numbers
        (t := setKey (landResults s a) g.uid n ⟨0, 0, 0, (k.gen + 1) % 2 ^ 31, [], [], []⟩) hctxs)) ctx
    · rintro ⟨x, hx, hne, hno⟩
      exact absurd (hall x hx) (by simp [hne, hno])
  · rw [if_neg (mt Key.landed_all.mp hall)]
    exact ⟨fun v => .of_spans rfl, hbytes _, _, hput _, fun h => absurd h hall, fun _ => ⟨rfl, hctxs⟩⟩

/-- A span's lanes and registers once a slice of results for it has landed. -/
theorem landSlice_span (hk : g.keys[n]? = some k) (hg : s.girder? g.uid = some g)
    (ha : k.armed.find? (fun x => x.started && !x.landed) = some a) (hp : a.poisoned = false)
    (hn : (a.results.map (fun r => (r.1, r.2.1, r.2.2.1))).Nodup)
    (hr : ∀ u l p v, (u, l, p, v) ∈ a.results → p % 2 = 0 ∧ p < 127 ∧ ∀ sp, s.span? u = some sp → sp.Shaped ∧ l < sp.width)
    {u : Nat} {sp : Span} (hs : s.span? u = some sp) : ∃ x, (landSlice s g ctx n).span? u = some x ∧ x.masks = sp.masks ∧ x.tags = sp.tags ∧
      (∀ l p v, (u, l, p, v) ∈ a.results → hasLane sp.live l = true → x.reg p l = loWord v ∧ x.reg (p + 1) l = hiWord v) ∧
      (∀ l r, (hasLane sp.live l = false ∨ ∀ v, (u, l, r - r % 2, v) ∉ a.results) → l < sp.width → x.reg r l = sp.reg r l) ∧
      (∀ l p v, (u, l, p, v) ∈ a.results → hasLane sp.live l = true → l < 64 →
        x.poisonedReg p l = a.dirty.contains (u, l, p) ∧ x.poisonedReg (p + 1) l = a.dirty.contains (u, l, p)) := by
  obtain ⟨y, hy, hland⟩ := landResults_span hs hp hn hr
  obtain ⟨hmove, -, -⟩ := landSlice_after (ctx := ctx) hk hg ha
  obtain ⟨x, hx, hxy⟩ := hmove u y hy
  have hreg (r l : Nat) : x.reg r l = y.reg r l := hxy.same (fun z => z.reg r l) fun _ _ => rfl
  have hpois (r l : Nat) : x.poisonedReg r l = y.poisonedReg r l := hxy.same (fun z => z.poisonedReg r l) fun _ _ => rfl
  have hpair {l p : Nat} {v : DWord} (hv : (u, l, p, v) ∈ a.results) : (u, p) ∈ a.pairs :=
    List.mem_dedup.mpr (List.mem_map.mpr ⟨_, hv, rfl⟩)
  refine ⟨x, hx, ?_, ?_, fun l p v hv hl => ?_, fun l r ho hl => ?_, fun l p v hv hl _ => ?_⟩
  · exact (hxy.same Span.masks fun _ _ => rfl).trans (hland.same Span.masks fun _ _ _ _ _ => rfl)
  · exact (hxy.same Span.tags fun _ _ => rfl).trans (hland.same Span.tags fun _ _ _ _ _ => rfl)
  · rw [hreg, hreg]
    exact (hland.vals l p v hv (hpair hv) hl).1
  · rw [hreg]
    exact (hland.others l r hl (ho.imp_right .inr)).1
  · rw [hpois, hpois]
    exact (hland.vals l p v hv (hpair hv) hl).2

end

/-- Settles O32: signatures and arms, what starts a keystone, what its slices compute, and how they land. -/
theorem keystonesAndSlices : Obligations.KeystonesAndSlices := by
  unfold Obligations.KeystonesAndSlices
  refine ⟨⟨fun a b np n s c h ho => mxsign_signs h ho, fun a n s c code h ho harr => mxmma_arms h ho harr, fun c n k lanes =>
    ⟨fun hf => keyStep_waits hf, fun hf ha => keyStep_disagrees hf ha, fun hf ha g hg _ hc hlen => keyStep_runs hf ha hg hc hlen⟩,
    fun a b np n s c h ho hlo hhi hst => mxsign_waits h ho hlo hhi hst⟩, fun s u a signers code harr => mem_sliceResults harr,
    fun s g ctx n k a hk hg ha _ hp hn hr => ?_⟩
  obtain ⟨-, hbytes, hkey⟩ := landSlice_after (s := s) (ctx := ctx) hk hg ha
  exact ⟨fun u sp hs => landSlice_span hk hg ha hp hn hr hs, hbytes, hkey⟩

end Sys2Proof.Machine
end
